-- ==== Sys2Proof/Word.lean ====
section
/-! DEFINITION. The word types of the model and the plain record a flash target reports at discovery. -/

namespace Sys2Proof

/-- One byte, as it travels on a link or lies in a memory. -/
abbrev Byte := BitVec 8

/-- A byte string, byte 0 first. -/
abbrev Bytes := List Byte

/-- An endpoint identifier (R53). -/
abbrev Eid := BitVec 24

/-- What one ONFI target shows at discovery (R348): where it is, whether a copy of its parameter page passes the
integrity check, its geometry, and the first of 3,600, 3,200, 2,400 and 1,600 MT/s at which it trains (R497), if any. -/
structure FlashTarget where
  channel : Nat
  ce : Nat
  paramOk : Bool
  pageBytes : Nat
  spareBytes : Nat
  pagesPerBlock : Nat
  blocksPerLun : Nat
  lunsPerTarget : Nat
  rate : Option Nat
  /-- The blocks that carry a factory bad-block mark (R355), each as LUN + 4 * block. -/
  marked : List Nat := []
deriving DecidableEq, Repr

end Sys2Proof
end

