-- ==== Sys2Proof/Syntax.lean ====
section
/-! DEFINITION. The commands of the block: one constructor per row of spec/opcode_table.json (R13). -/

namespace Sys2Proof

/-- An error that the accesses of a command meet in one codeword of a GDDR7 device (R331, R334): how many transmissions in a row fail
their EDC CRC, and how many symbols of the codeword as received are wrong. A command written without its errors meets none. -/
structure MemErr where
  dev : Nat
  /-- Codeword `32 g + i` of the device. -/
  cw : Nat
  edc : Nat
  symbols : Nat
deriving DecidableEq, Repr

/-- What the reads of one codeword of a flash page come to in a command (R353): the page of the block (of the page read, where the
command reads one page only), the codeword's index in it, and in turn the bits corrected by the hard decode at the default level and by
the decode after each reread at a table level, none where the decode fails. A codeword not listed decodes with no bit corrected. -/
structure NandErr where
  page : Nat
  cw : Nat
  tries : List (Option Nat)
deriving DecidableEq, Repr

/-- A command. Each constructor is a row of the table of operations and events; the docstring names the row and the rule
that governs it. Operands are what the outside gives the step: a sub-port as its hop byte `4p + s` (R93), an SQ number and
its 64-byte descriptor (R374), a Forge, a stream and the arithmetic cycle (R5), a register value, received bytes. -/
inductive Instr where
  /-- RAIL_SEQUENCING (R488). -/
  | railSequencing (carrier : Bool)
  /-- THERMAL_TRIP (R448). -/
  | thermalTrip (temps : List Int)
  /-- THERMAL_WARN (R448). -/
  | thermalWarn (temps : List Int)
  /-- MODULE_RESET (R415). -/
  | moduleReset (kind : Nat)
  /-- GDDR7_BOOT_TRAINING (R341). -/
  | gddr7BootTraining (pass : BitVec 16)
  /-- CXL_LINK_UP (R426). -/
  | cxlLinkUp (width : Nat) (speed : Nat) (proto : Bool)
  /-- FALLOW_DISCOVERY (R348). -/
  | fallowDiscovery (targets : List FlashTarget)
  /-- SWATH_CFG_WRITE (R26). -/
  | swathCfgWrite (v : BitVec 32)
  /-- SWATH_REALIGN (R500). -/
  | swathRealign (v : BitVec 32)
  /-- RETRAIN_WINDOW_END (R342). -/
  | retrainWindowEnd (pass : Bool)
  /-- BANK_REFRESH (R328). -/
  | bankRefresh (d : Nat) (bank : Nat)
  /-- MARKER_RECEIVE (R112). -/
  | markerReceive (lp : Nat) (arr : Int) (u : Bytes)
  /-- SWATH_ALIGN_LOST (R32). -/
  | swathAlignLost (lp : Nat)
  /-- NEIGHBOUR_UNREACHABLE (R113). -/
  | neighbourUnreachable (lp : Nat)
  /-- HOLD_EXPIRY (R131). -/
  | holdExpiry (lp : Nat)
  /-- PORT_ENABLE (R130). -/
  | portEnable (p : Nat) (v : BitVec 32)
  /-- PORT_DISABLE (R130). -/
  | portDisable (p : Nat) (v : BitVec 32)
  /-- PORT_TRAINED (R130). -/
  | portTrained (lp : Nat)
  /-- LINK_SIGNAL_LOSS (R130). -/
  | linkSignalLoss (lp : Nat)
  /-- FEC_UNCORRECTABLE (R99). -/
  | fecUncorrectable (lp : Nat) (lane : Option Nat)
  /-- CELL_UNIT_RECEIVE (R108). -/
  | cellUnitReceive (lp : Nat) (u : Bytes)
  /-- IDLE_ADAPT_UNIT_RECEIVE (R108). -/
  | idleAdaptUnitReceive (lp : Nat) (u : Bytes)
  /-- REPLAY_RECEIVE (R109). -/
  | replayReceive (lp : Nat) (u : Bytes)
  /-- REPLAY_REPEAT (R108). -/
  | replayRepeat (lp : Nat)
  /-- UNIT_OPPORTUNITY (R104). -/
  | unitOpportunity (lp : Nat)
  /-- CREDIT_LEND (R149). -/
  | creditLend (lp : Nat) (vc : Nat)
  /-- BUFFER_LEND_RETRY (R150). -/
  | bufferLendRetry (x : Nat) (vc : Nat)
  /-- BPM_MODE_WRITE (R154). -/
  | bpmModeWrite (v : BitVec 32)
  /-- EDGE_FRAME_RECEIVE (R123). -/
  | edgeFrameReceive (lp : Nat) (u : Bytes)
  /-- PFC_REPEAT (R125). -/
  | pfcRepeat (lp : Nat) (tc : Nat)
  /-- PFC_FRAME_RECEIVE (R127). -/
  | pfcFrameReceive (lp : Nat) (u : Bytes)
  /-- PFC_PAUSE_EXPIRY (R127). -/
  | pfcPauseExpiry (lp : Nat) (tc : Nat)
  /-- ALLOWANCE_RELEASE (R43). -/
  | allowanceRelease (b : Nat)
  /-- BUDGET_LOWER_COMPLETE (R46). -/
  | budgetLowerComplete (b : Nat)
  /-- EPOCH_FENCE_CLOSE (R83). -/
  | epochFenceClose (eid : BitVec 24)
  /-- EPT_SET_FENCE_APPLY (R84). -/
  | eptSetFenceApply (q : Nat)
  /-- REASSEMBLY_DEADLINE (R167). -/
  | reassemblyDeadline (n : Nat)
  /-- ACK_TIMEOUT (R395). -/
  | ackTimeout (id : Nat)
  /-- HOSTQ_RECV_DELIVER (R388). -/
  | hostqRecvDeliver (q : Nat)
  /-- READ_TIMEOUT (R387). -/
  | readTimeout (id : Nat)
  /-- SQ_TAIL_DOORBELL (R381). -/
  | sqTailDoorbell (q : Nat) (v : BitVec 32) (img : List (Nat × Byte))
  /-- CQ_HEAD_DOORBELL (R380). -/
  | cqHeadDoorbell (c : Nat) (v : BitVec 32)
  /-- EQ_HEAD_DOORBELL (R381). -/
  | eqHeadDoorbell (v : BitVec 32)
  /-- WATCHED_TAIL_SNOOP (R382). -/
  | watchedTailSnoop (q : Nat) (v : BitVec 32) (img : List (Nat × Byte))
  /-- WATCHED_TAIL_POLL (R382). -/
  | watchedTailPoll (q : Nat)
  /-- SQ_ENTRY_ACCEPT (R375). -/
  | sqEntryAccept (q : Nat)
  /-- RING_ENABLE (R397). -/
  | ringEnable (r : Nat) (v : BitVec 64)
  /-- SQ_DISABLE (R397). -/
  | sqDisable (q : Nat) (v : BitVec 64)
  /-- SEND (R387). -/
  | send (q : Nat) (e : Bytes)
  /-- RECV_POST (R388). -/
  | recvPost (q : Nat) (e : Bytes)
  /-- READ (R387). -/
  | read (q : Nat) (e : Bytes)
  /-- WRITE (R387). -/
  | write (q : Nat) (e : Bytes)
  /-- READ_REQ_RESERVE (R152). -/
  | readReqReserve (id : Nat)
  /-- COLL_CREATE (R200). -/
  | collCreate (q : Nat) (e : Bytes)
  /-- COLL_JOIN (R203). -/
  | collJoin (q : Nat) (e : Bytes)
  /-- COLL_ABORT (R219). -/
  | collAbort (q : Nat) (e : Bytes)
  /-- SELECT_OPEN (R230). -/
  | selectOpen (q : Nat) (e : Bytes)
  /-- SELECT_CLOSE (R230). -/
  | selectClose (q : Nat) (e : Bytes)
  /-- SELECT_OPEN_RETRY (R229). -/
  | selectOpenRetry (q : Nat)
  /-- TASK (R257). -/
  | task (q : Nat) (e : Bytes)
  /-- TASK_QUEUE_RETRY (R258). -/
  | taskQueueRetry (q : Nat)
  /-- MICRO_BATCH_OPEN_RETRY (R313). -/
  | microBatchOpenRetry (q : Nat)
  /-- IMEM_LOAD (R303). -/
  | imemLoad (q : Nat) (e : Bytes)
  /-- IMEM_LOAD_DONE (R303). -/
  | imemLoadDone (id : Nat)
  /-- IMEM_SWAP (R304). -/
  | imemSwap (q : Nat) (e : Bytes)
  /-- IMEM_SWAP_APPLY (R304). -/
  | imemSwapApply (f : Nat)
  /-- ADAPTER_DEFINE (R311). -/
  | adapterDefine (q : Nat) (e : Bytes) (errs : List MemErr := [])
  /-- ADAPTER_STEP (R319). -/
  | adapterStep (q : Nat) (e : Bytes)
  /-- ADAPTER_CLEAR (R311). -/
  | adapterClear (q : Nat) (e : Bytes)
  /-- STEP_ACCEPT_RETRY (R319). -/
  | stepAcceptRetry (q : Nat)
  /-- UPDATE_APPLY_START (R320). -/
  | updateApplyStart (slot : Nat) (errs : List MemErr := [])
  /-- UPDATE_APPLY_DONE (R320). -/
  | updateApplyDone (slot : Nat)
  /-- BIAS_FLIP_DEVICE (R344). -/
  | biasFlipDevice (q : Nat) (e : Bytes)
  /-- BIAS_FLIP_HOST (R344). -/
  | biasFlipHost (q : Nat) (e : Bytes)
  /-- BIAS_FLIP_DRAINED (R344). -/
  | biasFlipDrained (id : Nat)
  /-- EPT_SET (R64). -/
  | eptSet (q : Nat) (e : Bytes)
  /-- EPT_CLEAR (R84). -/
  | eptClear (q : Nat) (e : Bytes)
  /-- PATH_SET_WRITE (R68). -/
  | pathSetWrite (q : Nat) (e : Bytes)
  /-- PATH_SET_MARK_DOWN (R70). -/
  | pathSetMarkDown (q : Nat) (e : Bytes)
  /-- PATH_SET_MARK_UP (R70). -/
  | pathSetMarkUp (q : Nat) (e : Bytes)
  /-- PATH_SET_CLEAR (R68). -/
  | pathSetClear (q : Nat) (e : Bytes)
  /-- MCAST_SET_WRITE (R79). -/
  | mcastSetWrite (q : Nat) (e : Bytes)
  /-- MCAST_SET_CLEAR (R80). -/
  | mcastSetClear (q : Nat) (e : Bytes)
  /-- FURROW_SET_PREPARE (R88). -/
  | furrowSetPrepare (q : Nat) (e : Bytes)
  /-- FURROW_SET_COMMIT (R88). -/
  | furrowSetCommit (q : Nat) (e : Bytes)
  /-- FURROW_CLEAR (R92). -/
  | furrowClear (q : Nat) (e : Bytes)
  /-- BUDGET_SET_WRITE (R46). -/
  | budgetSetWrite (q : Nat) (e : Bytes)
  /-- BUDGET_SET_CLEAR (R76). -/
  | budgetSetClear (q : Nat) (e : Bytes)
  /-- IMG_READ (R360). -/
  | imgRead (q : Nat) (e : Bytes)
  /-- IMG_READ_DONE (R360). -/
  | imgReadDone (id : Nat)
  /-- IMG_READ_AGEING (R361). -/
  | imgReadAgeing (id : Nat)
  /-- IMG_WRITE (R358). -/
  | imgWrite (q : Nat) (e : Bytes) (errs : List MemErr := [])
  /-- IMG_WRITE_DONE (R358). -/
  | imgWriteDone (id : Nat)
  /-- IMG_WRITE_OPEN_RETRY (R358). -/
  | imgWriteOpenRetry (q : Nat)
  /-- IMG_COMMIT (R359). -/
  | imgCommit (q : Nat) (e : Bytes)
  /-- IMG_DELETE (R359). -/
  | imgDelete (q : Nat) (e : Bytes)
  /-- CHECKPOINT (R365). -/
  | checkpoint (q : Nat) (e : Bytes) (errs : List MemErr := [])
  /-- LUN_OPERATION_START (R361). -/
  | lunOperationStart (lun : Nat) (errs : List MemErr := []) (nand : List NandErr := [])
  /-- FLASH_PROGRAM_DONE (R358). -/
  | flashProgramDone (lun : Nat)
  /-- FLASH_PROGRAM_FAIL (R355). -/
  | flashProgramFail (lun : Nat)
  /-- FLASH_ERASE_DONE (R357). -/
  | flashEraseDone (lun : Nat)
  /-- RETENTION_PATROL (R353). -/
  | retentionPatrol (blk : Nat) (page : Nat) (nand : List NandErr)
  /-- RELOCATION (R354). -/
  | relocation (blk : Nat) (nand : List NandErr := [])
  /-- REPLICA_TIMEOUT (R366). -/
  | replicaTimeout (id : Nat)
  /-- FAL_FORMAT (R368). -/
  | falFormat (v : BitVec 32)
  /-- FAL_PERS_LOAD (R349). -/
  | falPersLoad (v : BitVec 64)
  /-- FENCE (R392). -/
  | fence (q : Nat) (e : Bytes)
  /-- FENCE_COMPLETE (R392). -/
  | fenceComplete (q : Nat)
  /-- NOP (R392). -/
  | nop (q : Nat) (e : Bytes)
  /-- MEMBER_SET_FENCE (R420). -/
  | memberSetFence (q : Nat) (e : Bytes)
  /-- MEMBER_SET_UNFENCE (R420). -/
  | memberSetUnfence (q : Nat) (e : Bytes)
  /-- MEMBER_SET_FORGET (R396). -/
  | memberSetForget (q : Nat) (e : Bytes)
  /-- MEMBER_SET_READY (R417). -/
  | memberSetReady (q : Nat) (e : Bytes)
  /-- SELFTEST (R404). -/
  | selftest (q : Nat) (e : Bytes)
  /-- RECOVER_PORT (R408). -/
  | recoverPort (q : Nat) (e : Bytes)
  /-- RECOVER_FORGE (R408). -/
  | recoverForge (q : Nat) (e : Bytes)
  /-- RECOVER_BANK (R408). -/
  | recoverBank (q : Nat) (e : Bytes)
  /-- RECOVER_UNIT (R408). -/
  | recoverUnit (q : Nat) (e : Bytes)
  /-- RECOVER_RESTORE (R409). -/
  | recoverRestore (q : Nat) (e : Bytes)
  /-- RECOVER_COPY (R411). -/
  | recoverCopy (q : Nat) (e : Bytes)
  /-- RECOVER_REJOIN (R418). -/
  | recoverRejoin (q : Nat) (e : Bytes)
  /-- RECOVER_START_RETRY (R406). -/
  | recoverStartRetry (q : Nat)
  /-- RECOVERY_WAIT_SATISFIED (R408). -/
  | recoveryWaitSatisfied (rid : Nat)
  /-- COPY_SILENCE_TIMEOUT (R412). -/
  | copySilenceTimeout (rid : Nat)
  /-- CAL_WRITE_CALIBRATION (R434). -/
  | calWriteCalibration (q : Nat) (e : Bytes)
  /-- CAL_WRITE_FIRMWARE (R439). -/
  | calWriteFirmware (q : Nat) (e : Bytes)
  /-- CAL_WRITE_FUSE_ACTION (R443). -/
  | calWriteFuseAction (q : Nat) (e : Bytes)
  /-- CAL_WRITE_DEBUG_UNLOCK (R444). -/
  | calWriteDebugUnlock (q : Nat) (e : Bytes)
  /-- CREATE_REPLY_TIMEOUT (R200). -/
  | createReplyTimeout (id : Nat)
  /-- PREPARED_TIMEOUT (R202). -/
  | preparedTimeout (n : Nat)
  /-- CHUNK_FOLD (R210); `bad` says that a residue check fails in it (R221). -/
  | chunkFold (n : Nat) (bad : Bool)
  /-- MEMBER_CHUNK_SEND (R206). -/
  | memberChunkSend (n : Nat)
  /-- COLL_IDLE_TIMEOUT (R218). -/
  | collIdleTimeout (n : Nat)
  /-- SELECT_WORK_ITEM (R233). -/
  | selectWorkItem (x : Nat)
  /-- COMB_WAIT_TIMEOUT (R242). -/
  | combWaitTimeout (x : Nat)
  /-- DISPATCH_INBOX_RESERVE (R267). -/
  | dispatchInboxReserve (f : Nat)
  /-- DISPATCH_ENQUEUE_RETRY (R266). -/
  | dispatchEnqueueRetry (f : Nat)
  /-- FORGE_COMMAND_START (R260). -/
  | forgeCommandStart (f : Nat) (st : Nat) (t : Nat)
  /-- FORGE_COMMAND_END (R262). -/
  | forgeCommandEnd (f : Nat) (st : Nat) (t : Nat)
  /-- COMMAND_OVERRUN (R262). -/
  | commandOverrun (f : Nat) (st : Nat) (t : Nat)
  /-- MOVER_COMPLETE (R284). -/
  | moverComplete (f : Nat) (st : Nat) (t : Nat) (errs : List MemErr := [])
  /-- FORGE_READ_REQ (R265). -/
  | forgeReadReq (errs : List MemErr := [])
  /-- FORGE_WRITE_FRAME (R265). -/
  | forgeWriteFrame (errs : List MemErr := [])
  /-- FORGE_READ_RSP (R265). -/
  | forgeReadRsp (errs : List MemErr := [])
  /-- COLL_RESULT_MEMBER_ARRIVE (R205). -/
  | collResultMemberArrive (errs : List MemErr := [])
  /-- FRAME_SENDER_POST (R268). -/
  | frameSenderPost (f : Nat) (t : Nat)
  /-- SEMAPHORE_WAIT_SATISFIED (R254). -/
  | semaphoreWaitSatisfied (f : Nat) (st : Nat) (t : Nat)
  /-- FORGE_QSEM_WRITE (R255). -/
  | forgeQsemWrite (f : Nat) (n : Nat) (v : BitVec 32)
  /-- FORGE_GSEM_WRITE (R255). -/
  | forgeGsemWrite (n : Nat) (v : BitVec 32)
  /-- FORGE_BIND_WRITE (R273). -/
  | forgeBindWrite (f : Nat) (i : Nat) (w : Nat) (v : BitVec 64)
  /-- FORGE_DBG_RESUME (R302). -/
  | forgeDbgResume (f : Nat) (v : BitVec 64)
  /-- NOP_INSTRUCTION (R286). -/
  | nopInstruction (f : Nat) (st : Nat) (t : Nat)
  /-- END (R286). -/
  | endInstr (f : Nat) (st : Nat) (t : Nat)
  /-- REP (R282). -/
  | rep (f : Nat) (st : Nat) (t : Nat)
  /-- BR (R286). -/
  | br (f : Nat) (st : Nat) (t : Nat)
  /-- MOVI (R286). -/
  | movi (f : Nat) (st : Nat) (t : Nat)
  /-- ADD (R278). -/
  | add (f : Nat) (st : Nat) (t : Nat)
  /-- SUB (R278). -/
  | sub (f : Nat) (st : Nat) (t : Nat)
  /-- AND (R286). -/
  | andS (f : Nat) (st : Nat) (t : Nat)
  /-- OR (R286). -/
  | orS (f : Nat) (st : Nat) (t : Nat)
  /-- XOR (R286). -/
  | xorS (f : Nat) (st : Nat) (t : Nat)
  /-- SHL (R286). -/
  | shl (f : Nat) (st : Nat) (t : Nat)
  /-- SHR (R286). -/
  | shr (f : Nat) (st : Nat) (t : Nat)
  /-- SRA (R286). -/
  | sra (f : Nat) (st : Nat) (t : Nat)
  /-- SETC (R286). -/
  | setc (f : Nat) (st : Nat) (t : Nat)
  /-- ASET (R286). -/
  | aset (f : Nat) (st : Nat) (t : Nat)
  /-- AADD (R286). -/
  | aadd (f : Nat) (st : Nat) (t : Nat)
  /-- ASTR (R286). -/
  | astr (f : Nat) (st : Nat) (t : Nat)
  /-- AGET (R286). -/
  | aget (f : Nat) (st : Nat) (t : Nat)
  /-- LDS (R286). -/
  | lds (f : Nat) (st : Nat) (t : Nat)
  /-- STS (R286). -/
  | sts (f : Nat) (st : Nat) (t : Nat)
  /-- POST (R254). -/
  | post (f : Nat) (st : Nat) (t : Nat)
  /-- WAIT (R253). -/
  | wait (f : Nat) (st : Nat) (t : Nat)
  /-- ENQ (R257). -/
  | enq (f : Nat) (st : Nat) (t : Nat)
  /-- QD (R259). -/
  | qd (f : Nat) (st : Nat) (t : Nat)
  /-- ID (R286). -/
  | id (f : Nat) (st : Nat) (t : Nat)
  /-- FLG (R286). -/
  | flg (f : Nat) (st : Nat) (t : Nat)
  /-- VLD (R287). -/
  | vld (f : Nat) (st : Nat) (t : Nat)
  /-- VST (R287). -/
  | vst (f : Nat) (st : Nat) (t : Nat)
  /-- VBC (R287). -/
  | vbc (f : Nat) (st : Nat) (t : Nat)
  /-- VADD (R287). -/
  | vadd (f : Nat) (st : Nat) (t : Nat)
  /-- VSUB (R287). -/
  | vsub (f : Nat) (st : Nat) (t : Nat)
  /-- VMUL (R287). -/
  | vmul (f : Nat) (st : Nat) (t : Nat)
  /-- VFMA (R287). -/
  | vfma (f : Nat) (st : Nat) (t : Nat)
  /-- VIADD (R287). -/
  | viadd (f : Nat) (st : Nat) (t : Nat)
  /-- VISUB (R287). -/
  | visub (f : Nat) (st : Nat) (t : Nat)
  /-- VIMIN (R287). -/
  | vimin (f : Nat) (st : Nat) (t : Nat)
  /-- VIMAX (R287). -/
  | vimax (f : Nat) (st : Nat) (t : Nat)
  /-- VICMP (R287). -/
  | vicmp (f : Nat) (st : Nat) (t : Nat)
  /-- VCVT (R288). -/
  | vcvt (f : Nat) (st : Nat) (t : Nat)
  /-- VAND (R287). -/
  | vand (f : Nat) (st : Nat) (t : Nat)
  /-- VOR (R287). -/
  | vor (f : Nat) (st : Nat) (t : Nat)
  /-- VXOR (R287). -/
  | vxor (f : Nat) (st : Nat) (t : Nat)
  /-- VSEL (R287). -/
  | vsel (f : Nat) (st : Nat) (t : Nat)
  /-- MOV (R290). -/
  | mov (f : Nat) (st : Nat) (t : Nat)
  /-- WLD (R291). -/
  | wld (f : Nat) (st : Nat) (t : Nat)
  /-- RDR (R292). -/
  | rdr (f : Nat) (st : Nat) (t : Nat)
  /-- SEND_INSTRUCTION (R294). -/
  | sendInstruction (f : Nat) (st : Nat) (t : Nat)
  /-- TLD (R295). -/
  | tld (f : Nat) (st : Nat) (t : Nat)
  /-- MMA (R296). -/
  | mma (f : Nat) (st : Nat) (t : Nat)
  /-- TNORM (R324). -/
  | tnorm (f : Nat) (st : Nat) (t : Nat)
  /-- TSMAX (R324). -/
  | tsmax (f : Nat) (st : Nat) (t : Nat)
  /-- TNORMB (R325). -/
  | tnormb (f : Nat) (st : Nat) (t : Nat)
  /-- TSMAXB (R325). -/
  | tsmaxb (f : Nat) (st : Nat) (t : Nat)
  /-- PATROL_SCRUB_READ (R336). -/
  | patrolScrubRead (d : Nat) (errs : List MemErr)
  /-- REMAP_COPY_DONE (R340). -/
  | remapCopyDone (d : Nat) (i : Nat) (errs : List MemErr := [])
  /-- CXL_MEM_READ (R345). -/
  | cxlMemRead (dpa : Nat) (errs : List MemErr := [])
  /-- CXL_MEM_WRITE (R345). -/
  | cxlMemWrite (dpa : Nat) (data : Bytes) (errs : List MemErr := [])
  /-- HDM_DECODER_COMMIT (R474). -/
  | hdmDecoderCommit (base : Nat) (size : Nat) (ways : Nat)
  /-- SUSPECT_HOURLY_TEST (R400). -/
  | suspectHourlyTest (kind : Nat) (idx : Nat)
  /-- SELFTEST_RUN (R401). -/
  | selftestRun (kind : Nat) (idx : Nat)
  /-- SELFTEST_DONE (R402). -/
  | selftestDone (kind : Nat) (idx : Nat) (pass : Bool) (failed : List Nat)
  /-- COUNTER_WRAP (R456). -/
  | counterWrap (b : Nat) (n : Nat)
  /-- PMON_EN_WRITE (R452). -/
  | pmonEnWrite (b : Nat) (v : BitVec 32)
  /-- PMON_CNT_WRITE (R452). -/
  | pmonCntWrite (b : Nat) (n : Nat) (v : BitVec 64)
  /-- PMON_BWWIN_WRITE (R459). -/
  | pmonBwwinWrite (v : BitVec 32)
  /-- SMP_HRING_HEAD_WRITE (R461). -/
  | smpHringHeadWrite (v : BitVec 32)
  /-- SMP_HRING_ENABLE (R461). -/
  | smpHringEnable (v : BitVec 32)
  /-- DBG_WIN_ACCESS (R466). -/
  | dbgWinAccess (w : Option (BitVec 64))
  /-- EPT_WIN_READ (R85). -/
  | eptWinRead (v : BitVec 64)
  /-- GLB_RESET_MODULE (R471). -/
  | glbResetModule (v : BitVec 32)
  /-- GLB_RESET_MGMT (R471). -/
  | glbResetMgmt (v : BitVec 32)
  /-- GLB_NODE_WRITE (R471). -/
  | glbNodeWrite (v : BitVec 32)
  /-- REGISTER_WRITE (R6). -/
  | registerWrite (off : Nat) (b : Bytes) (cyc : Nat)
  /-- SPDM_REQUEST (R445). -/
  | spdmRequest (req : Bytes)
  /-- INPUT_POWER_RISE (R487). -/
  | inputPowerRise
  /-- INPUT_POWER_LOSS (R487). -/
  | inputPowerLoss
  /-- TRIP_EXIT (R487). -/
  | tripExit
  /-- PERST_ASSERT (R489). -/
  | perstAssert
  /-- FIRMWARE_VERIFY (R437). -/
  | firmwareVerify
  /-- CAL_RECORD_LOAD (R432). -/
  | calRecordLoad
  /-- HOSTLESS_TIMEOUT (R472). -/
  | hostlessTimeout
  /-- CONFIG_REQUEST (R426). -/
  | configRequest
  /-- SVN_ADVANCED (R441). -/
  | svnAdvanced
  /-- MGMT_WATCHDOG_EXPIRY (R405). -/
  | mgmtWatchdogExpiry
  /-- MGMT_CORE_RESET (R405). -/
  | mgmtCoreReset
  /-- HOST_LINK_RESET (R416). -/
  | hostLinkReset
  /-- SWATH_BOUNDARY (R28). -/
  | swathBoundary
  /-- RETRAIN_WINDOW_START (R40). -/
  | retrainWindowStart
  /-- CROSSBAR_SLOT (R141). -/
  | crossbarSlot
  /-- BPM_SPILL_DRAINED (R154). -/
  | bpmSpillDrained
  /-- SEQUENCED_FRAME_ACCEPT (R394). -/
  | sequencedFrameAccept
  /-- ACK_RECEIVE (R395). -/
  | ackReceive
  /-- NOTICE_RECEIVE (R379). -/
  | noticeReceive
  /-- READ_RSP_RECEIVE (R387). -/
  | readRspReceive
  /-- COMMIT_RECORD_PROGRAMMED (R363). -/
  | commitRecordProgrammed
  /-- BLOCK_TABLE_WRITE (R356). -/
  | blockTableWrite
  /-- REPLICA_FRAME_RECEIVE (R366). -/
  | replicaFrameReceive
  /-- REPLICA_ANSWER_RECEIVE (R366). -/
  | replicaAnswerReceive
  /-- COPY_REQ_RECEIVE (R411). -/
  | copyReqReceive
  /-- COPY_FRAME_RECEIVE (R411). -/
  | copyFrameReceive
  /-- CAL_WRITE_RETRY (R433). -/
  | calWriteRetry
  /-- RESERVE_FRAME (R201). -/
  | reserveFrame
  /-- REPLY_FRAME (R200). -/
  | replyFrame
  /-- COMMIT_FRAME (R200). -/
  | commitFrame
  /-- RELEASE_FRAME (R202). -/
  | releaseFrame
  /-- ABORT_FRAME (R218). -/
  | abortFrame
  /-- COLL_CHUNK_ARRIVE (R209). -/
  | collChunkArrive
  /-- COLL_RESULT_FORWARD (R213). -/
  | collResultForward
  /-- SELECT_FRAME_ARRIVE (R232). -/
  | selectFrameArrive
  /-- COMBINE_ARRIVE (R241). -/
  | combineArrive
  /-- DISPATCH_ARRIVE (R266). -/
  | dispatchArrive
  /-- FORGE_NOTICE_RECEIVE (R265). -/
  | forgeNoticeReceive
  /-- HOURLY_SCORE_DECAY (R399). -/
  | hourlyScoreDecay
  /-- BW_WINDOW_END (R458). -/
  | bwWindowEnd
  /-- SAMPLER_READ (R166). -/
  | samplerRead
  /-- REG_READ (R464). -/
  | regRead
  /-- REG_WRITE (R464). -/
  | regWrite
  /-- CMD (R465). -/
  | cmd
  /-- SAMPLE_READ (R463). -/
  | sampleRead
  /-- EPT_WIN_READ_DONE (R85). -/
  | eptWinReadDone
  /-- PERST_RELEASE (R489). -/
  | perstRelease
  /-- CRUCIBLE_NOTICE_RECEIVE (R218). -/
  | crucibleNoticeReceive
  /-- MGMT_NOTICE_RECEIVE (R412). -/
  | mgmtNoticeReceive
deriving DecidableEq, Repr

end Sys2Proof
end

