-- ==== Sys2Proof/Decode.lean ====
section
/-! DEFINITION. Table words: no row of the table of commands gives bits, so no word spells a command (log 2). -/

namespace Sys2Proof

/-- The command that a word of `nbits` bits spells by the table. Every row of the table has an empty list of fields. -/
def decodeTableWord (_nbits _w : Nat) : Option Instr := none

end Sys2Proof
end

