-- ==== Sys2Proof/Machine/Num.lean ====
section
/-! DEFINITION. Number formats and arithmetic (R169 to R190): exact values, one rounding per operation, sticky flags. -/

namespace Sys2Proof.Num

/-- The sticky flag word of Table 6.7: bit 0 OVF, 1 UNF, 2 INV, 3 IOV (R190). -/
abbrev Flags := BitVec 4

def fOVF : Flags := 1
def fUNF : Flags := 2
def fINV : Flags := 4
def fIOV : Flags := 8

/-- Format codes of Table 6.1 (R169); every 3-bit code is defined. -/
inductive Fmt where
  | fp32 | fp16 | bf16 | int32 | int16 | int8 | uint8 | e8s
deriving DecidableEq, Repr

def Fmt.ofCode : Nat → Fmt
  | 0 => .fp32 | 1 => .fp16 | 2 => .bf16 | 3 => .int32
  | 4 => .int16 | 5 => .int8 | 6 => .uint8 | _ => .e8s

def Fmt.isFloat : Fmt → Bool
  | .fp32 | .fp16 | .bf16 => true
  | _ => false

def Fmt.isInt : Fmt → Bool
  | .int32 | .int16 | .int8 | .uint8 => true
  | _ => false

/-- Element width in bits (Table 6.1). -/
def Fmt.bits : Fmt → Nat
  | .fp32 | .int32 => 32
  | .fp16 | .bf16 | .int16 => 16
  | .int8 | .uint8 | .e8s => 8

def Fmt.bytes (f : Fmt) : Nat := f.bits / 8

/-- Significant bits p of Table 6.2; 0 for a format that is no float. -/
def Fmt.prec : Fmt → Nat
  | .fp32 => 24 | .fp16 => 11 | .bf16 => 8 | _ => 0

/-- Exponent bits of Table 6.2. -/
def Fmt.ebits : Fmt → Nat
  | .fp32 | .bf16 => 8 | .fp16 => 5 | _ => 0

def Fmt.bias (f : Fmt) : Int := 2 ^ (f.ebits - 1) - 1

/-- Exponent of the smallest normal value (R178). -/
def Fmt.emin (f : Fmt) : Int := 1 - f.bias

/-- Exponent of the largest finite value. -/
def Fmt.emax (f : Fmt) : Int := f.bias

/-- Rounding (R173, R175): RNE, RTZ, or SR with the 32-bit word `u` of R178. -/
inductive Rnd where
  | rne
  | rtz
  | sr (u : Nat)
deriving DecidableEq, Repr

/-- What a float stands for: the finite value `± num / den * 2 ^ e`, exact. -/
inductive Val where
  | nan
  | inf (neg : Bool)
  | fin (neg : Bool) (num den : Nat) (e : Int)
deriving DecidableEq, Repr

def Val.zero (neg : Bool) : Val := .fin neg 0 1 0

def Val.isZero : Val → Bool
  | .fin _ 0 _ _ => true
  | _ => false

def Val.isNan : Val → Bool
  | .nan => true
  | _ => false

def Val.negate : Val → Val
  | .nan => .nan
  | .inf n => .inf (!n)
  | .fin n a b e => .fin (!n) a b e

/-- The float a bit pattern encodes (R170). -/
def decode (f : Fmt) (bits : Nat) : Val :=
  let fw := f.prec - 1
  let frac := bits % 2 ^ fw
  let ex := bits / 2 ^ fw % 2 ^ f.ebits
  let neg := bits / 2 ^ (fw + f.ebits) % 2 == 1
  if ex == 2 ^ f.ebits - 1 then (if frac == 0 then .inf neg else .nan)
  else if ex == 0 then .fin neg frac 1 (f.emin - fw)
  else .fin neg (2 ^ fw + frac) 1 ((ex : Int) - f.bias - fw)

def signBit (f : Fmt) (neg : Bool) : Nat := if neg then 2 ^ (f.prec - 1 + f.ebits) else 0

/-- The canonical quiet NaN (R179). -/
def qnan (f : Fmt) : Nat := (2 ^ f.ebits - 1) * 2 ^ (f.prec - 1) + 2 ^ (f.prec - 2)

def infBits (f : Fmt) (neg : Bool) : Nat := signBit f neg + (2 ^ f.ebits - 1) * 2 ^ (f.prec - 1)

/-- The largest finite value of a sign (Table 6.2). -/
def maxBits (f : Fmt) (neg : Bool) : Nat :=
  signBit f neg + (2 ^ f.ebits - 2) * 2 ^ (f.prec - 1) + (2 ^ (f.prec - 1) - 1)

/-- `a * 2 ^ s / b` as a pair (numerator, denominator) of naturals. -/
def scale (a b : Nat) (s : Int) : Nat × Nat :=
  if 0 ≤ s then (a * 2 ^ s.toNat, b) else (a, b * 2 ^ (-s).toNat)

/-- `⌊log2 (num / den * 2 ^ e)⌋` of a non-zero magnitude. -/
def log2 (num den : Nat) (e : Int) : Int :=
  let k : Int := (Nat.log2 num : Int) - Nat.log2 den
  let nd := scale num den (-k)
  if nd.1 < nd.2 then k - 1 + e else k + e

/-- Round a finite magnitude to the nearest multiple the mode selects: `t` is the truncated quotient, `r / d` the rest. -/
def pick (rnd : Rnd) (t r d : Nat) : Nat :=
  match rnd with
  | .rne => if 2 * r > d ∨ (2 * r = d ∧ t % 2 = 1) then t + 1 else t
  | .rtz => t
  | .sr u => if u < r * 2 ^ 32 / d then t + 1 else t

/-- Enter a float format (R175, R177, R179, R181): the bits and the flags. `orm` is 0 or 1 (Table 6.3). -/
def encode (f : Fmt) (rnd : Rnd) (orm : Nat) (v : Val) : Nat × Flags :=
  match v with
  | .nan => (qnan f, 0)
  | .inf n => (infBits f n, 0)
  | .fin n 0 _ _ => (signBit f n, 0)
  | .fin n num den e =>
    let k := log2 num den e
    let qe := max k f.emin - (f.prec : Int) + 1
    let nd := scale num den (e - qe)
    let t := nd.1 / nd.2
    let r := nd.1 % nd.2
    let m := pick rnd t r nd.2
    let m' := if m = 2 ^ f.prec then 2 ^ (f.prec - 1) else m
    let qe' := if m = 2 ^ f.prec then qe + 1 else qe
    if qe' > f.emax - (f.prec : Int) + 1 then
      (if orm = 0 then maxBits f n else infBits f n, fOVF)
    else
      let fl : Flags := if k < f.emin ∧ r ≠ 0 then fUNF else 0
      if m' < 2 ^ (f.prec - 1) then (signBit f n + m', fl)
      else
        let ex := (qe' + (f.prec : Int) - 1 + f.bias).toNat
        (signBit f n + ex * 2 ^ (f.prec - 1) + (m' - 2 ^ (f.prec - 1)), fl)

/-- Exact sum, with INV for ∞ − ∞ (R179) and +0 for an exact zero of opposite signs (R175). -/
def add (a b : Val) : Val × Flags :=
  match a, b with
  | .nan, _ => (.nan, 0)
  | _, .nan => (.nan, 0)
  | .inf x, .inf y => if x = y then (.inf x, 0) else (.nan, fINV)
  | .inf x, _ => (.inf x, 0)
  | _, .inf y => (.inf y, 0)
  | .fin x xa xb xe, .fin y ya yb ye =>
    let e := min xe ye
    let p : Int := (xa * yb * 2 ^ (xe - e).toNat : Nat)
    let q : Int := (ya * xb * 2 ^ (ye - e).toNat : Nat)
    let s := (if x then -p else p) + (if y then -q else q)
    if s = 0 then
      (if xa = 0 ∧ ya = 0 ∧ x = true ∧ y = true then .zero true else .zero false, 0)
    else (.fin (s < 0) s.natAbs (xb * yb) e, 0)

/-- Exact product, with INV for 0 × ∞ (R179). -/
def mul (a b : Val) : Val × Flags :=
  match a, b with
  | .nan, _ => (.nan, 0)
  | _, .nan => (.nan, 0)
  | .inf x, .inf y => (.inf (x != y), 0)
  | .inf x, .fin y n _ _ => if n = 0 then (.nan, fINV) else (.inf (x != y), 0)
  | .fin x n _ _, .inf y => if n = 0 then (.nan, fINV) else (.inf (x != y), 0)
  | .fin x xa xb xe, .fin y ya yb ye => (.fin (x != y) (xa * ya) (xb * yb) (xe + ye), 0)

/-- Exact quotient under the division rules of R179. -/
def div (a b : Val) : Val × Flags :=
  match a, b with
  | .nan, _ => (.nan, 0)
  | _, .nan => (.nan, 0)
  | .inf _, .inf _ => (.nan, fINV)
  | .inf x, .fin y _ _ _ => (.inf (x != y), 0)
  | .fin x _ _ _, .inf y => (.zero (x != y), 0)
  | .fin x xa xb xe, .fin y ya yb ye =>
    if ya = 0 then (if xa = 0 then (.nan, fINV) else (.inf (x != y), 0))
    else (.fin (x != y) (xa * yb) (xb * ya) (xe - ye), 0)

/-- `a * b + c`, exact. -/
def fma (a b c : Val) : Val × Flags :=
  let p := mul a b
  let s := add p.1 c
  (s.1, if c.isNan then 0 else p.2 ||| s.2)

/-- A value strictly between `s` and `s + 1` units of `2 ^ e`, standing for an irrational one there. -/
def between (neg : Bool) (s : Nat) (e : Int) : Val := .fin neg (2 * s + 1) 1 (e - 1)

/-- The exact square root (R323); a negative operand gives a NaN with INV. An irrational root is held to 80 more bits than
any format, as a value between two neighbours at that precision. -/
def sqrt (a : Val) : Val × Flags :=
  match a with
  | .nan => (.nan, 0)
  | .inf n => if n then (.nan, fINV) else (.inf false, 0)
  | .fin n num den e =>
    if num = 0 then (.zero n, 0)
    else if n then (.nan, fINV)
    else
      let e' := e - e % 2
      let n' := num * 2 ^ (e % 2).toNat
      let sh := 128 + 2 * Nat.log2 den
      let w := n' * den * 2 ^ (2 * sh)
      let r := Nat.sqrt w
      let v : Val := if r * r = w then .fin false r den (e' / 2 - sh)
                     else .fin false (2 * r + 1) (2 * den) (e' / 2 - sh)
      (v, 0)

/-- Fixed-point Taylor sum of `exp` at `x / 2 ^ w`, terms `k` to `k + n - 1`, `t` the term before. -/
def expTaylor (w : Nat) (x : Int) : Nat → Nat → Int → Int → Int
  | 0, _, _, acc => acc
  | n + 1, k, t, acc =>
    let t' := t * x / ((2 : Int) ^ w * k)
    expTaylor w x n (k + 1) t' (acc + t')

def squareN (w : Nat) : Nat → Int → Int
  | 0, y => y
  | n + 1, y => squareN w n (y * y / 2 ^ w)

/-- The exact exponential (R237, R323), held to more than 200 significant bits between two neighbours at that precision. -/
def exp (a : Val) : Val :=
  match a with
  | .nan => .nan
  | .inf n => if n then .zero false else .inf false
  | .fin n num den e =>
    if num = 0 then .fin false 1 1 0
    else
      let k := log2 num den e
      if k ≥ 8 then (if n then .fin false 1 1 (-400) else .fin false 1 1 400)
      else
        let w : Nat := 512
        -- x scaled by 2 ^ -20, in units of 2 ^ -w
        let nd := scale num den (e + w - 20)
        let xi : Int := (nd.1 / nd.2 : Nat)
        let x := if n then -xi else xi
        let y := expTaylor w x 40 1 (2 ^ w) (2 ^ w)
        let z := squareN w 20 y
        between false z.toNat (-w)

/-- The bits of `op` on two operands, rounded once (R175). -/
def bin (op : Val → Val → Val × Flags) (f : Fmt) (rnd : Rnd) (orm : Nat) (a b : Nat) : Nat × Flags :=
  let r := op (decode f a) (decode f b)
  let q := encode f rnd orm r.1
  (q.1, r.2 ||| q.2)

def addF (f : Fmt) (rnd : Rnd) (orm a b : Nat) : Nat × Flags := bin add f rnd orm a b

def negBits (f : Fmt) (a : Nat) : Nat :=
  let s := 2 ^ (f.prec - 1 + f.ebits)
  if a / s % 2 = 1 then a - s else a + s

def subF (f : Fmt) (rnd : Rnd) (orm a b : Nat) : Nat × Flags := bin (fun x y => add x y.negate) f rnd orm a b

def mulF (f : Fmt) (rnd : Rnd) (orm a b : Nat) : Nat × Flags := bin mul f rnd orm a b

def divF (f : Fmt) (rnd : Rnd) (orm a b : Nat) : Nat × Flags := bin div f rnd orm a b

def fmaF (f : Fmt) (rnd : Rnd) (orm a b c : Nat) : Nat × Flags :=
  let r := fma (decode f a) (decode f b) (decode f c)
  let q := encode f rnd orm r.1
  (q.1, r.2 ||| q.2)

def sqrtF (f : Fmt) (orm a : Nat) : Nat × Flags :=
  let r := sqrt (decode f a)
  let q := encode f .rne orm r.1
  (q.1, r.2 ||| q.2)

def expF (orm a : Nat) : Nat × Flags := encode .fp32 .rne orm (exp (decode .fp32 a))

/-- The integer a pattern encodes (R171). -/
def toInt (f : Fmt) (bits : Nat) : Int :=
  let w := f.bits
  let b := bits % 2 ^ w
  if f = .uint8 then b else if b ≥ 2 ^ (w - 1) then (b : Int) - 2 ^ w else b

def minInt (f : Fmt) : Int := if f = .uint8 then 0 else -(2 ^ (f.bits - 1))
def maxInt (f : Fmt) : Int := if f = .uint8 then 255 else 2 ^ (f.bits - 1) - 1

/-- Two's-complement bits of an integer, low `f.bits` of it. -/
def ofInt (f : Fmt) (i : Int) : Nat := (i % 2 ^ f.bits).toNat

/-- Enter an integer format under SAT (R184, R188). -/
def sat (f : Fmt) (sat1 : Bool) (i : Int) : Nat × Flags :=
  if sat1 then
    if i < minInt f then (ofInt f (minInt f), fIOV)
    else if i > maxInt f then (ofInt f (maxInt f), fIOV)
    else (ofInt f i, 0)
  else (ofInt f i, 0)

def addI (f : Fmt) (s : Bool) (a b : Nat) : Nat × Flags := sat f s (toInt f a + toInt f b)
def subI (f : Fmt) (s : Bool) (a b : Nat) : Nat × Flags := sat f s (toInt f a - toInt f b)

/-- Float to integer (R183). -/
def toIntFmt (f : Fmt) (rnd : Rnd) (v : Val) : Nat × Flags :=
  match v with
  | .nan => (0, fINV)
  | .inf n => (ofInt f (if n then minInt f else maxInt f), fIOV)
  | .fin n num den e =>
    let nd := scale num den e
    let m := pick rnd (nd.1 / nd.2) (nd.1 % nd.2) nd.2
    let i : Int := if n then -(m : Int) else m
    if i < minInt f then (ofInt f (minInt f), fIOV)
    else if i > maxInt f then (ofInt f (maxInt f), fIOV)
    else (ofInt f i, 0)

def ofIntVal (i : Int) : Val := .fin (i < 0) i.natAbs 1 0

/-- The conversion of Table 6.4 (R182); a NaN leaves as the canonical one (R179); none for a pair that involves E8S. -/
def convert (src dst : Fmt) (rnd : Rnd) (orm : Nat) (s : Bool) (a : Nat) : Option (Nat × Flags) :=
  if src = .e8s ∨ dst = .e8s then none
  else if src.isFloat then
    if dst.isFloat then (if src = dst then some (if (decode src a).isNan then qnan dst else a, 0) else some (encode dst rnd orm (decode src a)))
    else some (toIntFmt dst rnd (decode src a))
  else if dst.isFloat then some (encode dst rnd orm (ofIntVal (toInt src a)))
  else some (sat dst s (toInt src a))

/-- `mix` of R178. -/
def mix (k c : BitVec 64) : BitVec 64 :=
  let z := k ^^^ (c * 0x9E3779B97F4A7C15#64)
  let z := (z ^^^ (z >>> 30)) * 0xBF58476D1CE4E5B9#64
  let z := (z ^^^ (z >>> 27)) * 0x94D049BB133111EB#64
  z ^^^ (z >>> 31)

/-- Stochastic rounding with key and counter (R178). -/
def sr (k c : BitVec 64) : Rnd := .sr ((mix k c) >>> 32).toNat

/-- The place of a float pattern in the ranking of R189: NaN lowest, −0 below +0. -/
def rankF (f : Fmt) (a : Nat) : Int :=
  let s := 2 ^ (f.prec - 1 + f.ebits)
  let mag := a % s
  if (decode f a).isNan then -(2 ^ 40)
  else if a / s % 2 = 1 then -(mag : Int) - 1 else mag

/-- The place of a key in the ranking, for floats and integers (R189). -/
def rank (f : Fmt) (a : Nat) : Int := if f.isFloat then rankF f a else toInt f a

/-- MIN and MAX of R189. -/
def minmaxF (f : Fmt) (wantMax : Bool) (a b : Nat) : Nat :=
  if (decode f a).isNan ∨ (decode f b).isNan then qnan f
  else if wantMax then (if rankF f a < rankF f b then b else a)
  else (if rankF f b < rankF f a then b else a)

def minmax (f : Fmt) (wantMax : Bool) (a b : Nat) : Nat :=
  if f.isFloat then minmaxF f wantMax a b
  else if wantMax then (if toInt f a < toInt f b then b else a)
  else (if toInt f b < toInt f a then b else a)

/-- `a < b` and `a = b` of the value comparison of R189 on FP32 values; none when an operand is a NaN. -/
def vcmp32 (a b : Nat) : Option Ordering :=
  let x := decode .fp32 a
  let y := decode .fp32 b
  if x.isNan ∨ y.isNan then none
  else if x.isZero ∧ y.isZero then some .eq
  else some (compare (rankF .fp32 a) (rankF .fp32 b))

/-- Predicate codes of R227 over a comparison: a NaN makes every predicate false but NE, TRUE always holds. -/
def pred (code : Nat) (o : Option Ordering) : Bool :=
  match code with
  | 0 => true
  | 1 => o == some .lt
  | 2 => o == some .lt || o == some .eq
  | 3 => o == some .gt
  | 4 => o == some .gt || o == some .eq
  | 5 => o == some .eq
  | _ => o != some .eq

/-- `v * 2 ^ e` exactly, for scales (R187) and gradient exponents (R321). -/
def scaleVal (v : Val) (s : Int) : Val :=
  match v with
  | .fin n a b e => .fin n a b (e + s)
  | v => v

end Sys2Proof.Num
end

