-- ==== Sys2Proof/Config.lean ====
section
/-! DEFINITION. What an implementation fixes and the spec leaves open: opaque constants without a body, so that no proof
can see a value. Each is named in the assumption log. -/

namespace Sys2Proof.Config

/-- The n-th value the spec leaves open (log 6): nothing constrains it. -/
opaque freeValue : Nat → BitVec 64

/-- What an unlisted byte of memory `space` reads as after the `epoch`-th module reset (R414: undefined; log 5). -/
opaque undefByte : (space epoch addr : Nat) → Byte

/-- The module serial number the fuses hold (R440). -/
opaque serial : BitVec 64

/-- SHA-384 of a byte string (R435). The algorithm is the standard's, not the manual's. -/
opaque sha384 : Bytes → Bytes

/-- RSA-PSS verification of a signature under the key whose hash the fuses hold (R435). -/
opaque rsaVerify : (key msg sig : Bytes) → Bool

/-- SLH-DSA verification (R435). -/
opaque slhVerify : (key msg sig : Bytes) → Bool

/-- The attestation signature of a measurement transcript (R445), by algorithm number. -/
opaque sign : (alg : Nat) → (msg : Bytes) → Bytes

/-- The random source of SEC_NONCE (R444), by draw. -/
opaque random : Nat → BitVec 256

/-- The body of an SPDM response, whose format the DMTF standard fixes (R445). -/
opaque spdmReply : (req measurements : Bytes) → Bytes

/-- The rate of a two-lane sub-port at 100 Gb/s per lane, which Table 4.1 calls not supported (log 101). -/
opaque pairRate : Nat

/-- The opcodes of TLD and MMA, which the manual does not print (R295, R296; log 27). -/
opaque opTld : BitVec 8
opaque opMma : BitVec 8

/-- The Read ID bytes of the used flash targets (R349). -/
opaque readId : Bytes

/-- What the factory leaves in the module: the four key hashes of the fuses, debug_disable, the firmware images of slots A and B,
the calibration record and the two identity chains (R430, R440; log 37). -/
opaque keyHash : Nat → Bytes
opaque debugDisable : Bool
opaque factoryImage : Nat → Bytes
opaque factoryCal : Bytes
opaque identityChain : Nat → Bytes

/-- Version and pointer of each entry of the CXL capability header array (R473), as its bits 31 to 16 hold them. -/
opaque cxlCap : Nat → BitVec 16

/-- The boot ROM, as measurement 1 hashes it (R446). -/
opaque bootRom : Bytes

end Sys2Proof.Config
end

