-- ==== Sys2Proof/Machine/Bits.lean ====
section
/-! DEFINITION. Byte strings, byte orders and bit fields (R2, R4). -/

namespace Sys2Proof.Machine

/-- Bits `[lo + w - 1 .. lo]` of a number (R2). -/
def bits (v lo w : Nat) : Nat := v / 2 ^ lo % 2 ^ w

/-- Bit `i` of a number. -/
def bit (v i : Nat) : Bool := v.testBit i

/-- The number `v` with bits `[lo + w - 1 .. lo]` replaced by `x`. -/
def setBits (v lo w x : Nat) : Nat :=
  v - bits v lo w * 2 ^ lo + x % 2 ^ w * 2 ^ lo

/-- Big-endian value of a byte string (R4). -/
def beNat (b : Bytes) : Nat := b.foldl (fun a x => a * 256 + x.toNat) 0

/-- Little-endian value of a byte string (R4). -/
def leNat (b : Bytes) : Nat := b.foldr (fun x a => a * 256 + x.toNat) 0

/-- `n` bytes, least significant first. -/
def toLE : Nat → Nat → Bytes
  | 0, _ => []
  | n + 1, v => BitVec.ofNat 8 v :: toLE n (v / 256)

/-- `n` bytes, most significant first. -/
def toBE (n v : Nat) : Bytes := (toLE n v).reverse

/-- `n` zero bytes. -/
def zeros (n : Nat) : Bytes := List.replicate n 0

/-- `n` bytes from `off`, zero-filled past the end. -/
def slice (b : Bytes) (off n : Nat) : Bytes :=
  let s := (b.drop off).take n
  s ++ zeros (n - s.length)

/-- Byte `i` as a number, 0 past the end. -/
def byteAt (b : Bytes) (i : Nat) : Nat := (b.getD i 0).toNat

/-- Little-endian field of `n` bytes at `off` (host memory and registers). -/
def leAt (b : Bytes) (off n : Nat) : Nat := leNat (slice b off n)

/-- Big-endian field of `n` bytes at `off` (bytes that travel on a link). -/
def beAt (b : Bytes) (off n : Nat) : Nat := beNat (slice b off n)

/-- The bytes `x` laid over `b` from `off`. -/
def overlay (b : Bytes) (off : Nat) (x : Bytes) : Bytes :=
  slice b 0 off ++ x ++ b.drop (off + x.length)

/-- A byte string cut or zero-filled to `n` bytes. -/
def fit (b : Bytes) (n : Nat) : Bytes := slice b 0 n

/-- All bytes are zero. -/
def allZero (b : Bytes) : Bool := b.all (· == 0)

/-- `⌈a / b⌉` (R12). -/
def ceilDiv (a b : Nat) : Nat := (a + b - 1) / b

/-- Two's-complement reading of a `w`-bit value. -/
def signed (w v : Nat) : Int := if v % 2 ^ w < 2 ^ (w - 1) then (v % 2 ^ w : Nat) else (v % 2 ^ w : Nat) - (2 : Int) ^ w

/-- The `w` low bits of an integer. -/
def wrap (w : Nat) (i : Int) : Nat := (i % (2 : Int) ^ w).toNat

/-- `(a - b) mod 2 ^ w` (R12). -/
def subMod (w a b : Nat) : Nat := (a % 2 ^ w + 2 ^ w - b % 2 ^ w) % 2 ^ w

/-- The number of ones of the low `w` bits. -/
def popCount (w v : Nat) : Nat := ((List.range w).filter (fun i => v.testBit i)).length

def boolNat (b : Bool) : Nat := if b then 1 else 0

/-- Cut a byte string into pieces of `n` bytes, the last one shorter. -/
def chunksAux (n : Nat) : Nat → Bytes → List Bytes
  | 0, _ => []
  | f + 1, b => if b.isEmpty then [] else b.take n :: chunksAux n f (b.drop n)

def chunks (n : Nat) (b : Bytes) : List Bytes := chunksAux n (b.length + 1) b

end Sys2Proof.Machine
end

