-- ==== Sys2Proof/Machine/Tab.lean ====
section
/-! DEFINITION. Tables keyed by a number, and memories: both sorted lists in one form. -/

namespace Sys2Proof.Machine

/-- A sparse table: pairs of key and value, keys rising. -/
abbrev Tab (α : Type) := List (Nat × α)

/-- The value at key `k`. -/
def tget {α : Type} : Tab α → Nat → Option α
  | [], _ => none
  | (j, a) :: t, k => if j = k then some a else tget t k

/-- The value at key `k`, or `d`. -/
def tgetD {α : Type} (t : Tab α) (k : Nat) (d : α) : α := (tget t k).getD d

/-- The table with `a` at key `k`. -/
def tput {α : Type} : Tab α → Nat → α → Tab α
  | [], k, a => [(k, a)]
  | (j, b) :: t, k, a => if k < j then (k, a) :: (j, b) :: t else if k = j then (k, a) :: t else (j, b) :: tput t k a

/-- The table without key `k`. -/
def tdel {α : Type} : Tab α → Nat → Tab α
  | [], _ => []
  | (j, b) :: t, k => if j = k then tdel t k else (j, b) :: tdel t k

/-- The table with the value at `k`, if there is one, changed by `f`. -/
def tmod {α : Type} (t : Tab α) (k : Nat) (f : α → α) : Tab α :=
  match tget t k with
  | some a => tput t k (f a)
  | none => t

/-- The table with every value changed by `f`. -/
def tmap {α β : Type} (f : α → β) (t : Tab α) : Tab β := t.map (fun p => (p.1, f p.2))

/-- A memory: what it is (`space`), how many module resets have left its contents undefined (`epoch`, R414), and the listed
bytes, addresses strictly rising, none of them equal to what an unlisted byte reads as. -/
structure Memory where
  space : Nat
  epoch : Nat
  cells : List Host.Cell
deriving DecidableEq, Repr

/-- A fresh memory, nothing listed. -/
def memNew (space : Nat) : Memory := { space := space, epoch := 0, cells := [] }

/-- What an unlisted byte reads as: 0 before the first module reset (log 4), undefined after one (R414, log 5). -/
def bgByte (space epoch a : Nat) : Byte := if epoch = 0 then 0 else Config.undefByte space epoch a

/-- The listed byte at `a`. -/
def cellGet : List Host.Cell → Nat → Option Byte
  | [], _ => none
  | (j, b) :: t, k => if j = k then some b else cellGet t k

/-- Read one byte. -/
def memRead (m : Memory) (a : Nat) : Byte := (cellGet m.cells a).getD (bgByte m.space m.epoch a)

/-- The cell list with address `a` unlisted. -/
def cellDel : List Host.Cell → Nat → List Host.Cell
  | [], _ => []
  | (j, b) :: t, k => if j = k then cellDel t k else (j, b) :: cellDel t k

/-- The cell list with byte `b` at address `a`. -/
def cellPut : List Host.Cell → Nat → Byte → List Host.Cell
  | [], k, b => [(k, b)]
  | (j, x) :: t, k, b =>
    if k < j then (k, b) :: (j, x) :: t
    else if k = j then (k, b) :: t
    else (j, x) :: cellPut t k b

/-- Write one byte, keeping the form: a byte equal to the background is not listed. -/
def memWrite (m : Memory) (a : Nat) (b : Byte) : Memory :=
  if b = bgByte m.space m.epoch a then { m with cells := cellDel m.cells a }
  else { m with cells := cellPut m.cells a b }

/-- Read `n` bytes from `a`. -/
def memReadN (m : Memory) (a n : Nat) : Bytes := (List.range n).map (fun i => memRead m (a + i))

/-- Write bytes from `a` upwards. -/
def memWriteN (m : Memory) (a : Nat) : Bytes → Memory
  | [] => m
  | b :: t => memWriteN (memWrite m a b) (a + 1) t

/-- Write listed bytes, as the host's own stores arrive. -/
def memImage (m : Memory) : List (Nat × Byte) → Memory
  | [] => m
  | p :: t => memImage (memWrite m p.1 p.2) t

/-- The contents become undefined (R414): nothing is listed. -/
def memUndef (m : Memory) : Memory := { m with epoch := m.epoch + 1, cells := [] }

/-- Addresses of a cell list rise strictly and start at `lo` or above. -/
def cellsRise (lo : Nat) : List Host.Cell → Bool
  | [] => true
  | (a, _) :: t => decide (lo ≤ a) && cellsRise (a + 1) t

/-- The canonical form: addresses strictly rising, no entry equal to the background. -/
def Memory.wf (m : Memory) : Bool :=
  cellsRise 0 m.cells && m.cells.all (fun p => decide (p.2 ≠ bgByte m.space m.epoch p.1))

/-- Insert into a list kept in an order; `le` says that its first argument may stand before its second. -/
def insertBy {α : Type} (le : α → α → Bool) (a : α) : List α → List α
  | [] => [a]
  | b :: t => if le a b then a :: b :: t else b :: insertBy le a t

def sortBy {α : Type} (le : α → α → Bool) (l : List α) : List α := l.foldr (insertBy le) []

end Sys2Proof.Machine
end

