-- ==== Sys2Proof/Machine/State.lean ====
section
/-! DEFINITION. The state of the block as plain data: every register, table, queue, buffer, counter, mode and pin the spec
gives it, and the queue of waiting commands. The registers of BAR0 whose fields software writes live in `Dev.regs`, keyed by
their offset (Machine/Regs.lean gives each its layout and reset value); everything the device keeps itself has a field. -/

namespace Sys2Proof.Machine

/-- The device's time and the SWATH block (02_swath.md). -/
structure Clock where
  /-- Swath counter SWC, 48 bits (R28); reset 0. -/
  swc : BitVec 48
  /-- Slot of the Swath in progress (R141, R30); reset 0. -/
  slot : Nat
  /-- N_s with which the Swath in progress began, 16 bits (R26); reset 1,024. -/
  nsNow : Nat
  /-- Slots of the Swath in progress: N_s - 1, N_s or N_s + 1 (R30, R31); reset 1,024. -/
  lenNow : Nat
  /-- The slot removed from the Swath in progress (R30); reset none. -/
  removed : Option Nat
  /-- Arithmetic cycles since the module reset (R5, R451); reset 0. -/
  now : Nat
  /-- Arithmetic cycle at which the Swath in progress began; reset 0. -/
  swStart : Nat
  /-- SWATH_STAT.max_offset, 8 bits (R29); reset 0. -/
  maxOffset : Nat
  /-- adapt_log2 in force (R42); reset 8. -/
  adaptNow : Nat
  /-- retrain_log2 in force (R42); reset 11. -/
  retrainNow : Nat
  /-- A realign was written and no link has loaded SWC since (R500); reset false. -/
  realigned : Bool
  /-- Bandwidth window W in force, in Swaths, 16 bits (R459); reset 512. -/
  bwWin : Nat
deriving DecidableEq, Repr

/-- States of PORT_STAT.state (R97). -/
inductive PortState where
  | disabled | training | aligning | service | hold | down
deriving DecidableEq, Repr

/-- Why a sub-port is in HOLD (Table 4.17). -/
inductive HoldCause where
  | signal | align | retry | liveness | lane
deriving DecidableEq, Repr

/-- What the last valid marker of a neighbour said (R111). -/
structure Neighbour where
  node : Nat
  serial : Nat
  swc : Nat
  ns : Nat
  inFabric : Bool
  fresh : Bool
deriving DecidableEq, Repr

/-- The Ollet Link state of a fabric sub-port (04_ports_and_links.md). -/
structure Link where
  /-- Next CELL sequence to send, 18 bits (R100); reset 0. -/
  seqNext : Nat
  /-- S_v of VC0 to VC4, 16 bits each (R107); reset 0. -/
  sent : Tab Nat
  /-- Last known G_v of the neighbour's grants, 16 bits each (R107); reset 0. -/
  known : Tab Nat
  /-- Replay buffer: the last 2 C CELL units sent, oldest first (R109); reset empty. -/
  replay : List (Nat × Bytes)
  /-- Next sequence to replay, when a replay runs (R109); reset none. -/
  replayAt : Option Nat
  /-- Sequence the last REPLAY received named, and how many named it (R109); reset none. -/
  replaySeen : Option (Nat × Nat)
  /-- A REPLAY unit is due to be sent (R108); reset false. -/
  replayDue : Bool
  /-- Expected CELL sequence, 18 bits (R108); reset 0. -/
  expect : Nat
  /-- A loss is outstanding (R108); reset false. -/
  loss : Bool
  /-- G_v granted to the neighbour, 16 bits each (R107); reset 0. -/
  granted : Tab Nat
  /-- VCs whose G_v changed since it was last sent (R107); reset empty. -/
  changed : List Nat
  /-- Buffers lent as credits and not yet filled, per VC (R149); reset 0. -/
  lent : Tab Nat
  /-- ADAPT units sent in this Swath (R36); reset 0. -/
  adaptSent : Nat
  /-- Markers and VC4 cells sent in this Swath, against M (R36, R111); reset 0. -/
  vc4Sent : Nat
  /-- The marker of this Swath has been sent (R111); reset false. -/
  markerSent : Bool
  /-- Weighted round robin: the VC whose turn it is and the cells it has sent in the round (R105); reset (0, 0). -/
  wrr : Nat × Nat
  /-- After a return from HOLD, the first ack received starts the replay (R132); reset false. -/
  resume : Bool
  /-- Of `lent`, the buffers lent from P1, per VC (R147); reset 0. -/
  lentSpill : Tab Nat
  /-- Last ack received, 18 bits (R100); reset 2^18 - 1. -/
  acked : Nat
deriving DecidableEq, Repr

/-- One frame gathered at an edge egress (R126). -/
structure EdgeFrame where
  /-- Key of the frame's cells (R118). -/
  key : List Nat
  peer : Nat
  tc : Nat
  hash : Nat
  dl : Nat
  /-- Cells received: index, last flag, payload, buffer. -/
  cells : List (Nat × Bool × Bytes × Nat)
deriving DecidableEq, Repr

/-- The Ethernet side of an edge sub-port (04_ports_and_links.md). -/
structure Edge where
  /-- Pause sent for a priority, with the slot count of the next repeat (R125); reset empty. -/
  xoff : Tab Nat
  /-- Priority paused by the peer until this arithmetic cycle (R127); reset empty. -/
  paused : Tab Nat
  /-- Frames gathered and waiting to leave (R126, R127); reset empty. -/
  out : List EdgeFrame
deriving DecidableEq, Repr

/-- A logical sub-port (R93), keyed by its hop byte 4p + s. -/
structure SubPort where
  /-- PORT_STAT.state, 4 bits (R97, R130); reset DISABLED. -/
  state : PortState
  /-- SERVICE entered since enable was last written 1 (R96); reset false. -/
  served : Bool
  /-- Signal present and FEC lock on every lane (R130); reset false. -/
  lock : Bool
  /-- Lanes it runs at, 0 before the first SERVICE (R96, R134); reset 0. -/
  lanes : Nat
  /-- PORT_STAT.unreach (R113); reset false. -/
  unreach : Bool
  /-- Swath boundaries since HOLD was entered (R131); reset 0. -/
  holdCount : Nat
  /-- Cause of HOLD (Table 4.17); reset signal. -/
  cause : HoldCause
  /-- Flushed since last in SERVICE: the fresh flag (R111); reset false. -/
  fresh : Bool
  /-- The neighbour's last valid marker (R112); reset none. -/
  nbr : Option Neighbour
  /-- o_rx of the last marker, if it came in the last Swath (R112); reset none. -/
  oRx : Option Int
  /-- θ of the marker of this Swath (R30); reset none. -/
  theta : Option Int
  /-- Last θ (R32); reset 0. -/
  lastTheta : Int
  /-- Consecutive Swaths with |θ| above 8 (R32); reset 0. -/
  overs : Nat
  /-- A valid marker came in this Swath (R113); reset false. -/
  marked : Bool
  /-- Consecutive Swaths without a valid marker (R113); reset 0. -/
  missing : Nat
  /-- The flow control, replay and credit state of the link (R36, R100 to R111, R149). -/
  link : Link
  /-- The edge adapter's state (R125 to R127). -/
  edge : Edge
  /-- The unit or Ethernet frame last transmitted (R104, R126); reset empty. -/
  lastTx : Bytes
  /-- Shaper tokens per TC, bytes, signed (R159, R160); reset 0. -/
  shaper : Tab Int
  /-- Policer tokens per TC (R161); reset 0. -/
  police : Tab Nat
  /-- Cells policed in this Swath per TC (R161); reset 0. -/
  policed : Tab Nat
  /-- Bytes received and sent in the current window (R458); reset 0. -/
  bytes : Nat × Nat
  /-- PMON_BW_RX and PMON_BW_TX as published: 40-bit bytes and 24-bit index (R458); reset 0. -/
  published : Nat × Nat × Nat
  /-- Frames counted for sampling, receive and transmit (R165); reset 0. -/
  smpCount : Nat × Nat
  /-- Sample sequences, receive and transmit, 32 bits (R166); reset 0. -/
  smpSeq : Nat × Nat
  /-- Events of R27 and R33 posted since it last trained; reset empty. -/
  told : List Nat := []
  /-- Node number of the neighbour as the sub-port last entered SERVICE (R72, R471); none at reset. -/
  met : Option Nat := none
  /-- Boundaries up to which the neighbour's offset may be that of a marker sent before a load of SWC (R33); reset 0. -/
  blind : Nat := 0
deriving DecidableEq, Repr

/-- An Endpoint Table entry (R62, R83). -/
structure EptEntry where
  kind : Nat
  isLocal : Bool
  mcast : Bool
  /-- Path version, 8 bits (R83). -/
  epoch : Nat
  tcMask : Nat
  /-- local_index, 16 bits. -/
  idx : Nat
  /-- Path slots in use, none of a multicast entry: Path Store index and budget base. -/
  slots : List (Nat × Nat)
  /-- last_d and ld_valid (R83). -/
  lastD : Option Nat
  /-- fence_open and the old path indices (R83). -/
  fence : Option (List Nat)
  /-- npaths_m1 as written. -/
  np : Nat := 0
  /-- Path slots 0 to 7 as written, in use or not. -/
  all : List (Nat × Nat) := []
deriving DecidableEq, Repr

/-- A Path Store entry (R66); refs is computed from the tables that name it. -/
structure PathEntry where
  hops : Bytes
  nhop : Nat
  down : Bool
  delay : Nat
  /-- Node number of the second device record, for the check of R72. -/
  node2 : Option Nat
deriving DecidableEq, Repr

/-- Who sent a command and where its answer goes. -/
inductive Chan where
  /-- Submission ring q (R375). -/
  | sq (q : Nat)
  /-- In-band source EID (R465). -/
  | inband (eid : Nat)
  /-- The device's own health manager or management core. -/
  | own
deriving DecidableEq, Repr

/-- A command: its channel, tag, and for an in-band one the request number, the return path followed by the EID it was sent
to, and the data it carries. -/
structure Cmd where
  chan : Chan
  tag : Nat
  reqNo : Nat
  ret : Bytes
  att : Bytes
deriving DecidableEq, Repr

/-- A change of a budget that waits for a boundary (R46, R76). -/
inductive BudgetChange where
  | write (rate burst tc xport sub mask : Nat) (c : Cmd)
  | clear (c : Cmd)
deriving DecidableEq, Repr

/-- A lowering of a budget whose completion waits (R46): the rate before it, the frames it waits for, the command. -/
structure Lowering where
  rate : Nat
  frames : List Nat
  cmd : Cmd
deriving DecidableEq, Repr

/-- A Budget Table entry (R76, R43, R46). -/
structure Budget where
  rate : Nat
  burst : Nat
  tc : Nat
  xport : Nat
  sub : Nat
  vcMask : Nat
  /-- Allowance left in this Swath (R43). -/
  allow : Nat
  /-- Cells drawn in this Swath, by the rate of the frames that drew them (R46). -/
  drawn : Tab Nat
  /-- Lowerings not yet completed, oldest first (R46). -/
  old : List Lowering
deriving DecidableEq, Repr

/-- A target of a multicast group (R77). -/
structure Target where
  hop : Nat
  fabric : Bool
  idx : Nat
deriving DecidableEq, Repr

/-- A multicast group entry (R77). -/
structure Group where
  tc : Nat
  budget : Nat
  h : Nat
  delay : Nat
  targets : List Target
deriving DecidableEq, Repr

/-- States of a Furrow entry (R86). -/
inductive FurrowState where
  | prepared | active | broken
deriving DecidableEq, Repr

/-- Where a reference goes (R57, R58, R78). -/
inductive Tgt where
  /-- A fabric sub-port. -/
  | fabric (lp : Nat)
  /-- An edge sub-port and a peer record. -/
  | edge (lp peer : Nat)
  /-- An internal endpoint: hop code and local_index. -/
  | inner (code idx : Nat)
deriving DecidableEq, Repr

/-- A reference to a cell buffer (R135, R156). -/
structure Ref where
  rid : Nat
  buf : Nat
  tgt : Tgt
  /-- Named in a matching in flight (R141). -/
  committed : Bool
deriving DecidableEq, Repr

/-- A Furrow Table entry (R86), with its own queue (R136). -/
structure Furrow where
  gen : Nat
  state : FurrowState
  inX : Nat
  last : Bool
  outHop : Nat
  idx : Nat
  inSub : Nat
  first : Nat
  count : Nat
  stride : Nat
  src : Nat
  dst : Nat
  path : Nat
  queue : List Ref
  /-- Cells released at the source in this Swath (R90). -/
  released : Nat
deriving DecidableEq, Repr

/-- The tables of 03_endpoints_paths_furrows.md. -/
structure Tables where
  /-- Endpoint Table, at most 524,288 valid entries, keyed by EID (R62); reset empty. -/
  ept : Tab EptEntry
  /-- Path Store, 65,536 entries (R66); reset none valid. -/
  paths : Tab PathEntry
  /-- Budget Table, 65,536 entries (R76); reset none valid. A key i + 65536·n, n ≥ 1, is entry i as it stood when a CLEAR took it
  away, kept for the frames that draw on it (R80). -/
  budgets : Tab Budget
  /-- Changes of budgets that wait for the next boundary, per index, in order of acceptance (R46, R76); reset none. -/
  budgetWait : Tab (List BudgetChange)
  /-- Multicast Table, 65,536 groups (R77); reset none valid. -/
  groups : Tab Group
  /-- Furrow Table, 16,384 entries, keyed by Furrow ID (R86); reset empty. -/
  furrows : Tab Furrow
  /-- Edge peer records, 4,096 of 32 bytes (R128); reset all zero. -/
  peers : Tab Bytes
  /-- EPT_WIN_DATA0 to DATA17, 64 bits each (R85); reset 0. -/
  winData : Tab Nat
  /-- EPT_WIN_CTL.busy (R85); reset false. -/
  winBusy : Bool
  /-- EPT_WIN_CTL.miss (R85); reset false. -/
  winMiss : Bool
deriving DecidableEq, Repr

/-- A cell buffer in use (R145, R146). -/
structure Buf where
  /-- The 32-byte cell header (R115). -/
  hdr : Bytes
  pay : Bytes
  /-- Owner it is charged to (R146), by number; none for a Furrow's own buffer. -/
  owner : Option Nat
  /-- Lent from P1 (R147), and the cell of P1 that holds the payload (R145). -/
  spill : Bool
  cell : Option Nat
  /-- SWC at the write into the buffer (R140). -/
  swc : Nat
  /-- Reference count (R156). -/
  refs : Nat
  /-- Answer reservation it is charged to (R152). -/
  resv : Option Nat
deriving DecidableEq, Repr

/-- Buffers an owner holds: in P0 and in P1 (R146). -/
structure Use where
  p0 : Nat
  p1 : Nat
deriving DecidableEq, Repr

/-- A reservation for an answer (R152). -/
structure Resv where
  /-- Crossbar port of the requester. -/
  xport : Nat
  /-- Endpoint that waits for it, and the endpoint that answers. -/
  dst : Nat
  src : Nat
  /-- Cells not yet delivered. -/
  left : Nat
  /-- Deadline Swath of the answer, low 16 bits. -/
  dl : Nat
  /-- The Select step whose DISPATCH it answers: context, generation, step (R242). -/
  step : Option (Nat × Nat × Nat)
  /-- VC1 owner it is charged to (R146). -/
  own : Nat := 0
deriving DecidableEq, Repr

/-- The Buffer Pool Manager (05_switch_core.md). -/
structure Bpm where
  /-- BPM_MODE.mode, 2 bits: 0 START, 1 TEST, 2 RECOVERY, 3 SERVICE (R154); reset 0. -/
  mode : BitVec 2
  /-- BPM_MODE.pending (R154); reset false. -/
  pending : Bool
  /-- Cell buffers in use (R145); reset none. -/
  bufs : Tab Buf
  /-- Number of the next buffer lent; the model's own; reset 0. -/
  nextBuf : Nat
  /-- Buffers in use per owner (R146), credits not yet filled included; reset none. -/
  use : Tab Use
  /-- Sub-ports whose owners exist (R146); reset empty. -/
  ext : List Nat
  /-- Level of the shared part, 2 bits (R148); reset 0. -/
  level : Nat
  /-- Levels whose event was posted in this Swath (R148); reset empty. -/
  posted : List Nat
  /-- Answer reservations (R152); reset none. -/
  resv : Tab Resv
  /-- Requester slot served last in a tie (R151), 0 to 23; reset 23, so that slot 0 comes first. -/
  tie : Nat
  /-- Port served last in each requester slot (R151); reset none. -/
  turn : Tab Nat := []
deriving DecidableEq, Repr

/-- What asked for a frame to be sent, and what follows from its release or failure. -/
inductive Origin where
  /-- SEND, WRITE or READ of a ring: the command, whether it waits for an ACK, its opcode, its SQ entry accepted. -/
  | host (c : Cmd) (ack : Bool) (opcode : Nat) (accepted : Bool)
  /-- A Forge send: Forge, stream, command tag, semaphore to post (file 0 none, 1 Q, 2 G). -/
  | forge (f st tag semFile sem : Nat)
  /-- An edge datagram: sub-port, priority and the virtual channel its buffers were lent for (R102, R124). -/
  | edge (lp prio vc : Nat)
  /-- A chunk or result frame of a Crucible node entry: entry and chunk. -/
  | crucible (node chunk : Nat)
  /-- A control frame of a creation's coordinator: creation and node index. -/
  | create (id node : Nat)
  /-- A member chunk of a join: join and chunk. -/
  | member (join chunk : Nat)
  /-- A frame of a Select step: context, generation, step. -/
  | select (ctx gen step : Nat)
  /-- A frame of the management core (copies, replicas). -/
  | mgmt (id : Nat)
  /-- NOTICE, ACK, an in-band answer: nothing follows. -/
  | plain
deriving DecidableEq, Repr

/-- A frame to be sent, before its admission (R56). -/
structure Frame where
  op : Nat
  src : Nat
  dst : Nat
  tc : Nat
  label : Nat
  /-- The 32-byte frame header, its length field and sequence filled in at admission (R117). -/
  hdr : Bytes
  data : Bytes
  /-- Crossbar port of the source endpoint (R54). -/
  xport : Nat
  /-- Furrow it is sent on (R90). -/
  furrow : Option Nat
  /-- Hop bytes, hop count and delay of an in-band answer (R462). -/
  direct : Option (Bytes × Nat × Nat)
  /-- Reply cells to reserve before release (R152). -/
  reply : Nat
  /-- Sequence taken (R393): none to take one at admission for DATA and WRITE. -/
  seq : Option Nat
  org : Origin
deriving DecidableEq, Repr

/-- What an admission read and fixed for every cell of a frame (R80). -/
structure Adm where
  hops : Bytes
  nhop : Nat
  mcast : Bool
  vc : Nat
  /-- Deadline Swath, low 16 bits (R49). -/
  dl : Nat
  /-- Budget drawn on (R63), none on VC4 and VC5. -/
  budget : Option Nat
  hash : Nat
  /-- Rate of its budget as its admission, or the last lowering it began before, read it (R46, R80); 0 without a budget. -/
  rate : Nat
  hdr : Bytes
deriving DecidableEq, Repr

/-- A frame waiting to be admitted, or part-way through its release (R43 to R46). -/
structure Tx where
  fr : Frame
  /-- Budget it waits on (R45); none when it uses none. -/
  budget : Option Nat
  adm : Option Adm
  /-- Cells released. -/
  sent : Nat
  /-- Reservation drawn for its answer (R152). -/
  resv : Option Nat
  /-- Pools of the buffers an edge datagram was lent on arrival, one per cell not yet released (R124, R150). -/
  held : List Bool
  /-- Arithmetic cycle at which it came to be sent (R45). -/
  at_ : Nat := 0
  /-- What its last try lacked: 1 a buffer or a reservation (R150 to R152), 2 something that is neither those nor allowance
  (R83, R378), 0 anything else. -/
  why : Nat := 0
deriving DecidableEq, Repr

/-- What a DISPATCH frame has at its Forge (R266, R267): not matched yet; refused, and told so; or rows of a binding's inbox. -/
inductive Claim where
  | none
  | refused
  /-- Binding, the rows' holder, first ring position and count, the ring's base, row bytes and size as matched, and the cells written. -/
  | rows (bind holder start n base rb top wrote : Nat)
deriving DecidableEq, Repr

/-- A frame being reassembled at an internal endpoint (R118, R167). -/
structure Reasm where
  key : List Nat
  /-- When its first cell came, among the frames of the device (R267); the model's own. -/
  ord : Nat
  /-- At a Forge, a DISPATCH frame: whether it has been matched (R266). -/
  claim : Claim
  code : Nat
  idx : Nat
  dl : Nat
  late : Bool
  /-- Cells: index, last flag, payload. -/
  cells : List (Nat × Bool × Bytes)
deriving DecidableEq, Repr

/-- A whole frame handed to an internal endpoint (R58, R118). -/
structure RxFrame where
  /-- Hop code and local_index of the endpoint. -/
  code : Nat
  idx : Nat
  src : Nat
  dst : Nat
  tc : Nat
  vc : Nat
  dl : Nat
  k : Nat
  late : Bool
  hdr : Bytes
  data : Bytes
  /-- Accepted in sequence by R394. -/
  accepted : Bool
  /-- SWC of the Swath in which its last cell arrived (R213). -/
  arrived : Nat := 0
  /-- When its first cell came, and what a DISPATCH frame has at its Forge, as in `Reasm`. -/
  ord : Nat := 0
  claim : Claim := .none
deriving DecidableEq, Repr

/-- NOTICEs gathered in the Swath, one per addressee, status, detail and bytes 12 to 25 (R51, R57, R131, R161). -/
structure NoticeAcc where
  dst : Nat
  /-- Endpoint it is sent from. -/
  src : Nat
  status : Nat
  detail : Nat
  /-- Frame header bytes 12 to 25 where the rule fixes them. -/
  body : Bytes
  count : Nat
  /-- Once per Swath: sent already, later ones of the same kind are absorbed. -/
  sent : Bool
deriving DecidableEq, Repr

/-- A sample taken and not yet read (R165, R166). -/
structure Sample where
  buf : Nat
  swc : Nat
  lp : Nat
  tx : Bool
  slot : Nat
  seq : Nat
deriving DecidableEq, Repr

/-- Queues, matching, reassembly and sending (05_switch_core.md). -/
structure Switch where
  /-- VOQs, keyed (88 i + o) 5 + v (R135); reset empty. -/
  voq : Tab (List Ref)
  /-- Staging areas, keyed 8 lp + v, v = 5 for a VC5 cell (R138); reset empty. -/
  stage : Tab (List Ref)
  /-- The four matchings in flight, the next to cross first: input, output, VC, reference (R141); reset four empty ones. -/
  flight : List (List (Nat × Nat × Nat × Nat))
  /-- Grant pointers g_o (R142); reset 0. -/
  grant : Tab Nat
  /-- Accept pointers a_i (R142); reset 0. -/
  accept : Tab Nat
  /-- Number of the next reference; the model's own; reset 0. -/
  nextRid : Nat
  /-- Frames waiting for admission or in release, oldest first (R45); reset empty. -/
  tx : Tab Tx
  /-- Number of the next frame; the model's own; reset 0. -/
  nextTx : Nat
  /-- Number of the next frame that begins to arrive (R267); the model's own; reset 0. -/
  nextOrd : Nat := 0
  /-- Frames in reassembly (R167); reset empty. -/
  reasm : List Reasm
  /-- Whole frames that wait to be taken by their endpoints (R152); reset empty. -/
  rx : List RxFrame
  /-- NOTICEs of this Swath; reset empty. -/
  notices : List NoticeAcc
  /-- The sample queue of crossbar port 87, 1,024 references (R166); reset empty. -/
  samples : List Sample
  /-- Counts of discards and drops, keyed 256 kind + unit (R52, R116, R123); reset 0. -/
  tally : Tab Nat
  /-- Frames that failed R118 or R121 and whose later cells are discarded with them (R167): key and deadline; reset none. -/
  failed : List (List Nat × Nat) := []
deriving DecidableEq, Repr

/-- A submission ring (R375, R383); its base, depth and enables are registers of Table 14.15. -/
structure Sq where
  /-- Head index, 16 bits (R375); reset 0. -/
  head : Nat
  /-- Tail as last taken, 16 bits (R381); reset 0. -/
  tail : Nat
  /-- The entry read and waiting at the head, not yet accepted (R375); reset none. -/
  waiting : Option Bytes
  /-- The waiting entry is tried again at Swath boundaries only (R229, R313); reset false. -/
  slow : Bool
  /-- Tags of the commands in progress (R383); reset empty. -/
  busy : List Nat
  /-- The duplicate-tag window, newest first, at most 4,096: tag, status, detail, result (R383); reset empty. -/
  window : List (Nat × Nat × Nat × Nat)
  /-- Posted receive buffers in order: command, address, length (R388); reset empty. -/
  bufs : List (Cmd × Nat × Nat)
  /-- The watched tail line is held in Shared state (R382); reset false. -/
  held : Bool
deriving DecidableEq, Repr

/-- A completion ring, the event ring or the host sample ring (R377, R379, R461). -/
structure Ring where
  /-- Entries written since the enable: slot and phase of the next one follow (R377); reset 0. -/
  wr : Nat
  /-- Entries the driver has returned since the enable; the head index follows (R377); reset 0. -/
  rd : Nat
  /-- Entries reserved at acceptance (R378); reset 0. -/
  reserved : Nat
  /-- Armed to interrupt (R380); reset false. -/
  armed : Bool
  /-- RING_CQ_STAT.chunk_lost or RING_EQ_STAT.lost, 32 bits (R378, R379); reset 0. -/
  lost : Nat
  /-- Events lost since the previous entry (R379); reset 0. -/
  lostSince : Nat
deriving DecidableEq, Repr

/-- A destination-side pair record (R394). -/
structure DstPair where
  /-- H, 32 bits. -/
  h : Nat
  /-- Sequences above H accepted. -/
  win : List Nat
  /-- An ACK is due at the end of this Swath (R395). -/
  ackDue : Bool
deriving DecidableEq, Repr

/-- A SEND or WRITE with ack = 1 that waits for its ACK (R395). -/
structure PendAck where
  src : Nat
  dst : Nat
  seq : Nat
  dl : Nat
  cmd : Cmd
deriving DecidableEq, Repr

/-- A READ that waits for its READ_RSP (R387). -/
structure PendRead where
  src : Nat
  dst : Nat
  addr : Nat
  len : Nat
  /-- Deadline of the READ_REQ; none until its first cell is released. -/
  dl : Option Nat
  cmd : Cmd
deriving DecidableEq, Repr

/-- An event before it has an EQ to go to (R429). -/
structure Event where
  code : Nat
  swc : Nat
  data : Bytes
deriving DecidableEq, Repr

/-- The host port and ring engine (14_host_and_rings.md). -/
structure Rings where
  /-- Submission rings 0 to 63; reset as `sqZero`. -/
  sqs : Tab Sq
  /-- Completion rings 0 to 63; reset as `ringZero`. -/
  cqs : Tab Ring
  /-- The event ring (R379). -/
  eq : Ring
  /-- The EQ has been enabled since the reset (R429); reset false. -/
  eqSeen : Bool
  /-- Events held before the first enable of the EQ, at most 32, and the count of those beyond (R429); reset empty. -/
  held : List Event
  heldLost : Nat
  /-- MSI-X table of 128 vectors: address, data, mask (R369, Table 14.2); reset 0 with mask set (PRESUMED). -/
  msix : Tab (Nat × Nat × Bool)
  /-- Pending bits of the PBA; reset empty. -/
  pba : List Nat
  /-- Messages sent per vector; the model's own; reset 0. -/
  msgs : Tab Nat
  /-- Source-side pair records: next sequence, keyed 2^24 src + dst (R393, R396); reset none. -/
  srcPairs : Tab Nat
  /-- Destination-side pair records (R394, R396); reset none. -/
  dstPairs : Tab DstPair
  /-- SENDs and WRITEs waiting for an ACK (R395); reset none. -/
  acks : Tab PendAck
  /-- READs waiting for a READ_RSP (R387); reset none. -/
  reads : Tab PendRead
  /-- Number of the next record; the model's own; reset 0. -/
  nextId : Nat
  /-- FENCE commands (R392) and others are served from the head; the SQ served last in the rotation (R375); reset 63. -/
  turn : Nat
  /-- Host memory as the host and the device have written it; the host's, kept over every reset. -/
  mem : Memory
deriving DecidableEq, Repr

/-- An in-band command waiting or in progress (R465). -/
structure InbCmd where
  cmd : Cmd
  desc : Bytes
  /-- It has been tried, and is tried again at Swath boundaries only (R229, R313). -/
  slow : Bool
deriving DecidableEq, Repr

/-- Counters, sampling, in-band management (17_counters_and_debug.md). -/
structure Telem where
  /-- Counters that passed from 2^48 - 1 to 0 and whose wrap is not yet recorded: block, counter, stream, pc (R456); reset none. -/
  wraps : List (Nat × Nat × Option (Nat × Nat × Nat))
  /-- Management sample ring, at most 1,024 records of 144 bytes, oldest first (R460); reset empty. -/
  ring : List Bytes
  /-- Records of it already read in band (R463); reset 0. -/
  read : Nat
  /-- SMP_STAT.mgmt_over and host_lost, 32 bits each (R460, R461); reset 0. -/
  mgmtOver : Nat
  hostLost : Nat
  /-- The host sample ring (R461). -/
  hring : Ring
  /-- In-band command queues per source EID, at most 16 (R465); reset empty. -/
  queues : Tab (List InbCmd)
  /-- In-band commands in progress: EID and tag (R465); reset empty. -/
  busy : List (Nat × Nat)
  /-- The last 4,096 completed pairs with their 16-byte answers, newest first (R465); reset empty. -/
  done : List (Nat × Nat × Bytes)
  /-- Occurrences counted once per Swath and counted already in this one (Table 17.3): kind and unit; reset empty. -/
  once : List (Nat × Nat)
  /-- Management core memory, as a debug target (R466). -/
  mgmt : Memory

deriving DecidableEq, Repr

/-- A chunk stored at a node (R208): its data, the flags it carried, its rank. -/
structure ChunkIn where
  data : Bytes
  flags : Nat
  rank : Nat
  /-- Check value it came with (R222). -/
  check : Nat := 0
deriving DecidableEq, Repr

/-- A chunk group of a node (R194, R209). -/
structure CruGroup where
  /-- Chunk now held. -/
  occ : Option Nat
  /-- Highest chunk freed from it. -/
  last : Option Nat
  /-- Inputs present, by position; on RING and TORUS 2 s + 0 the predecessor's and 2 s + 1 the own one of stage s. -/
  ins : Tab ChunkIn
  /-- SWC when the last input it waited for came (R210). -/
  ready : Option Nat
  /-- Axis stage of TORUS in progress (R215). -/
  stage : Nat
  /-- The frames of its last fold have been given to be sent (R209). -/
  sent : Bool
  /-- SWC of the last input or output (R218). -/
  since : Nat
deriving DecidableEq, Repr

/-- A node entry (R194, R201). -/
structure CruNode where
  cid : Nat
  gen : Nat
  idx : Nat
  eidBase : Nat
  s : Nat
  /-- Banks of its EIDs, in EID order (R194). -/
  banks : List Nat
  /-- ACTIVE; otherwise PREPARED. -/
  active : Bool
  token : Nat
  /-- Record header and the entries of Table 7.5, as RESERVE carried them (R199). -/
  record : Bytes
  nbrs : List Bytes
  /-- SWC when PREPARED (R202). -/
  since : Nat
  /-- It has received a chunk (R202). -/
  got : Bool
  /-- Ranks whose first contribution matched, and those that mismatched (R217). -/
  matched : List Nat
  bad : List Nat
  groups : Tab CruGroup
  /-- Results passed on, as 2^24 stage + chunk. -/
  fwd : List Nat
  /-- Chunks finished (R219). -/
  fin : Nat
  /-- Sticky flag word of the collective here, 4 bits (R190); 0 when the entry is made. -/
  flags : Nat := 0
deriving DecidableEq, Repr

/-- A tombstone (R218, R219). -/
structure Tomb where
  cid : Nat
  gen : Nat
  eidBase : Nat
  s : Nat
  status : Nat
  rank : Nat
deriving DecidableEq, Repr

/-- A COLL_CREATE in progress at its coordinator (R200). -/
structure Create where
  cmd : Cmd
  cid : Nat
  gen : Nat
  token : Nat
  coord : Nat
  /-- eid_base of every node. -/
  nodes : List Nat
  /-- Control code that waits for its REPLYs: 1 RESERVE, 2 COMMIT. -/
  phase : Nat
  replies : Tab Nat
  /-- Nodes a frame to which was refused at admission, and whether a NOTICE came. -/
  lost : List Nat
  noticed : Bool
  /-- SWC when the phase began. -/
  since : Nat
deriving DecidableEq, Repr

/-- An open join (R203, R205). -/
structure Join where
  cmd : Cmd
  cid : Nat
  gen : Nat
  rank : Nat
  op : Nat
  fmt : Nat
  cc : Nat
  alg : Nat
  p : Nat
  count : Nat
  d : Nat
  attach : Nat
  s : Nat
  /-- EID of the member, and its Forge when it is one. -/
  eid : Nat
  forge : Option Nat
  src : Nat
  res : Nat
  perChunk : Bool
  /-- Semaphore: file 0 none, 1 Q, 2 G; Forge of a Q one; number. -/
  sem : Nat × Nat × Nat
  tc : Nat
  /-- Next chunk to send, result chunks that have come, flag word (R206, R220). -/
  next : Nat
  got : List Nat
  flags : Nat
deriving DecidableEq, Repr

/-- The Crucible (07_crucible.md). -/
structure Crucible where
  /-- Node entries PREPARED or ACTIVE; reset none. -/
  nodes : Tab CruNode
  /-- The most recent tombstones, newest first, at most 1,024 (R219); reset none. -/
  tombs : List Tomb
  /-- Creations in progress; reset none. -/
  creates : Tab Create
  /-- Open joins; reset none. -/
  joins : Tab Join
  /-- Number of the next entry; the model's own; reset 0. -/
  nextId : Nat
deriving DecidableEq, Repr

/-- What a step of a Select context waits for (R232, R233, R241). -/
inductive SelPhase where
  /-- Its inputs. -/
  | input
  /-- Its processing, done in this Swath or later (R233). -/
  | work (due : Nat)
  /-- COMBINE rows of a MOE step. -/
  | rows
  /-- Its combine. -/
  | combine (due : Nat)
  /-- The release of its output. -/
  | out
deriving DecidableEq, Repr

/-- A step of a Select context (R232, R241). -/
structure SelStep where
  phase : SelPhase
  /-- Elements or token rows held, keyed 2^21 input + position. -/
  els : Tab Bytes
  /-- Elements an input has in all, once its last frame has come. -/
  ends : Tab Nat
  /-- MOE: tokens, each with the experts it kept and their weights, FP32, in ascending expert index. -/
  kept : Tab (List (Nat × Nat))
  /-- MOE: COMBINE rows held, keyed 256 token + expert. -/
  rows : Tab Bytes
  /-- Flags of the step (R243). -/
  flags : Nat
  /-- Frames given to be sent and not yet released. -/
  left : Nat
  /-- SWC of its last DISPATCH release (R242). -/
  disp : Nat
deriving DecidableEq, Repr

/-- A Select context, OPEN or CLOSING (R227, R230). -/
structure SelCtx where
  gen : Nat
  /-- The record as OPEN read it: header and expert entries. -/
  record : Bytes
  closing : Bool
  /-- CLOSE commands that wait. -/
  closers : List Cmd
  /-- Lowest unfinished step, 32 bits (R232). -/
  cur : Nat
  /-- Later steps already finished. -/
  done : List Nat
  steps : Tab SelStep
  /-- Steps with a work item, in the order the items became ready (R233). -/
  queue : List Nat
  /-- Swath in which the last work item is done, and the elements of that Swath's allotment it and the ones before use. -/
  last : Option (Nat × Nat)
  /-- Step and cost of the work items that became ready in one Swath, in ascending step; that Swath; `last` before them (R233). -/
  block : List (Nat × Nat)
  blockAt : Nat
  base : Option (Nat × Nat)
deriving DecidableEq, Repr

/-- A remap entry of a GDDR7 device (R338, R340). -/
structure Remap where
  row : Nat
  /-- In use; false while the copy runs (R340). -/
  valid : Bool
  spareFailed : Bool
deriving DecidableEq, Repr

/-- A GDDR7 device (12_gddr7.md). -/
structure Gddr where
  /-- Usable bytes, by usable offset (R329). -/
  mem : Memory
  /-- Codewords that decode as uncorrectable, 32 g + i (R331, R332); reset none. -/
  bad : List Nat
  /-- Remap table of 1,024 entries (R338); reset as the retirement log says. -/
  remap : Tab Remap
  /-- Fenced rows, at most 64 (R339); reset as the retirement log says. -/
  fenced : List Nat
  /-- MEM_STAT.trained and failed (R341); reset false. -/
  trained : Bool
  failed : Bool
  /-- Group the patrol scrub reads next (R336); reset 0. -/
  scrub : Nat
  /-- Cycle at which that group falls due, times the number of groups (R336); reset 0. -/
  scrubAt : Nat
  /-- The pass has fallen behind its schedule (R336); reset false. -/
  behind : Bool
  /-- SWC of the last refresh of each bank (R327, R328); reset none. -/
  refreshed : Tab Nat
  /-- Banks whose refresh fell due in the retraining window (R342); reset none. -/
  owed : List Nat
deriving DecidableEq, Repr

/-- A BIAS_FLIP in progress (R344). -/
structure Flip where
  cmd : Cmd
  first : Nat
  count : Nat
  toHost : Bool
deriving DecidableEq, Repr

/-- The GDDR7 controllers. -/
structure Mems where
  /-- Devices 0 to 15. -/
  devs : Tab Gddr
  /-- Device in its retraining window, and the cycle the window began (R40); reset none. -/
  window : Option (Nat × Nat)
  /-- Blocks of the CXL.mem window in device bias (R343); reset none. -/
  bias : List Nat
  /-- BIAS_FLIPs in progress; reset none. -/
  flips : Tab Flip
  /-- Number of the next flip; the model's own; reset 0. -/
  nextId : Nat
  /-- Boot training has completed since the module reset (R328); reset false. -/
  booted : Bool
  /-- Pin rate in force, Gb/s; reset 36. -/
  rate : Nat
  /-- The answers to the CXL.mem reads last served: data and poison (R345); reset none. -/
  answer : List (Bytes × Bool)
  /-- CXL.mem requests that wait for the end of a retraining window (R342): address, and the bytes of a write; reset none. -/
  cxlWait : List (Nat × Option Bytes)
  /-- The errors the accesses of the running command meet (R331, R334); the model's own; reset none. -/
  errs : List MemErr
deriving DecidableEq, Repr

/-- Where a command of a Forge stream came from (R257). -/
inductive CmdFrom where
  /-- A TASK. -/
  | task (c : Cmd)
  /-- A DISPATCH binding: the frame's handle. -/
  | binding (handle : Nat)
  /-- ENQ of a Forge stream: Forge and stream. -/
  | enq (f st : Nat)
deriving DecidableEq, Repr

/-- A command in a stream's queue (R256). -/
structure FCmd where
  /-- Its 32 bytes (Table 9.3). -/
  b : Bytes
  /-- Serial number; the model's own. -/
  ser : Nat
  org : CmdFrom
  /-- Arithmetic cycle in which it reached the queue (R257). -/
  at_ : Nat
  /-- Micro-batch it belongs to: slot and ID (R312). -/
  mb : Option (Nat × Nat)
  close : Bool
deriving DecidableEq, Repr

/-- Where a running command's budget ends (R260). -/
inductive Limit where
  /-- At this cycle of the Forge, frozen cycles not counted. -/
  | cycle (e : Nat)
  /-- At the end of the Swath with this SWC. -/
  | swath (w : Nat)
deriving DecidableEq, Repr

/-- A mover operation (R284, R290 to R292). -/
inductive MoveOp where
  | mov (dst src len : Nat)
  | wld (src pitch slot anvil fmt : Nat) (scale : Option Nat) (trans : Bool)
  /-- The rows of a result slot as read at issue, with the address and pitch of their rows. -/
  | rdr (dst pitch : Nat) (rows : List Bytes)
deriving DecidableEq, Repr

/-- An operation in a mover queue, with its semaphore: file 0 none, 1 Q, 2 G. -/
structure Mover where
  op : MoveOp
  ser : Nat
  sem : Nat × Nat
deriving DecidableEq, Repr

/-- A stream of a Forge (R245, R276). -/
structure Stream where
  /-- Program counter, 12 bits (R245); reset 0. -/
  pc : Nat
  /-- Commands queued, the running one first, at most 64 (R258); reset empty. -/
  queue : List FCmd
  /-- The first command runs (R260); reset false. -/
  on : Bool
  /-- Run index (R256); reset 0. -/
  run : Nat
  limit : Limit
  /-- Cycle of the next issue, frozen cycles not counted (R280); reset 0. -/
  next : Nat
  /-- A repeat in progress: count, mask, index (R282); reset none. -/
  rep : Option (Nat × Nat × Nat)
  /-- A WAIT held: G, number, count, cycle it began (R280); reset none. -/
  wait : Option (Bool × Nat × Nat × Nat)
  /-- Debug halt (R300, R301); reset false. -/
  halted : Bool
  /-- Its last run has executed END (R285); reset false. -/
  ended : Bool
  /-- Commands started since bp_mode was written (R301); reset 0. -/
  started : Nat
  /-- Mover queue, at most 16 (R284); reset empty. -/
  movers : List Mover
  /-- S0 to S31, 32 bits; A0 to A15, 48 bits, and their strides, 32 bits; V0 to V31, 512 bits; T0 to T7, 16 bytes (R276);
  reset 0 (R277). -/
  s : Tab Nat
  a : Tab Nat
  stride : Tab Nat
  v : Tab Nat
  t : Tab Bytes
  /-- Flag word, 4 bits (R190); reset 0. -/
  flags : Nat
deriving DecidableEq, Repr

/-- The content of an operand slot: 8 KiB and a scale row of 64 bytes (R291). -/
structure OpSlot where
  data : Bytes
  scale : Bytes
deriving DecidableEq, Repr

/-- The content of a result slot: 64 x 64 FP32 accumulators, row and column scales (R292). -/
structure ResSlot where
  c : List Nat
  sa : Bytes
  sb : Bytes
deriving DecidableEq, Repr

/-- What a write in flight writes when it lands (R279). -/
inductive What where
  | s (r v : Nat)
  | a (r v : Nat)
  | stride (r v : Nat)
  /-- The bits of `mask` of a vector register. -/
  | v (r mask val : Nat)
  | t (r : Nat) (b : Bytes)
  /-- Bytes of FLM, or of Temper side memory. -/
  | mem (side : Bool) (addr : Nat) (b : Bytes)
  | flags (m : Nat)
  /-- Bits FLG clears: flag word, and send-fail as bit 4. -/
  | clear (m : Nat)
  /-- A post to a Q semaphore of the own Forge. -/
  | post (q n : Nat)
  | result (anvil slot : Nat) (r : ResSlot)
deriving DecidableEq, Repr

/-- A write in flight: landing cycle, stream, issue order, command. -/
structure Pend where
  land : Nat
  st : Nat
  ord : Nat
  ser : Nat
  what : What
deriving DecidableEq, Repr

/-- A send in the frame sender (R268). -/
structure FSend where
  /-- FLM address of its data, data length, cells. -/
  addr : Nat
  len : Nat
  cells : Nat
  op : Nat
  dst : Nat
  tc : Nat
  label : Nat
  /-- Frame header bytes 12 to 31. -/
  body : Bytes
  /-- READ_REQ: landing address. -/
  land : Nat
  /-- Chunk of a join: join and chunk index. -/
  chunk : Option (Nat × Nat)
  sem : Nat × Nat
  ser : Nat
  tag : Nat
  /-- Given to be sent. -/
  started : Bool
deriving DecidableEq, Repr

/-- A READ_REQ of a Forge that waits for its READ_RSP (R294). -/
structure FRead where
  dst : Nat
  addr : Nat
  /-- Semaphore: file 0 none, 1 Q, 2 G, and number. -/
  sem : Nat × Nat
deriving DecidableEq, Repr

/-- A DISPATCH frame whose commands have not all ended (R266, R270). -/
structure Handle where
  /-- The number S3 holds. -/
  num : Nat
  bind : Nat
  src : Nat
  step : Nat
  gen : Nat
  expert : Nat
  ctx : Nat
  /-- Reply cells declared and not yet sent. -/
  cells : Nat
  /-- Inbox rows it holds; Forge address of its first row. -/
  rows : Nat
  first : Nat
  /-- Its source has been told that a template was refused (R266). -/
  told : Bool
  /-- Serial numbers of its commands that have not ended; none before its template is enqueued. -/
  cmds : Option (List Nat)
deriving DecidableEq, Repr

/-- The inbox ring of a binding (R267): write position, and rows reserved in order with the handle that holds them. -/
structure Inbox where
  wr : Nat
  ring : List (Nat × Option Nat)
deriving DecidableEq, Repr

/-- A Forge (09_forge.md, 10_forge_isa.md). -/
structure Forge where
  /-- Streams 0 to 5; reset idle, every register 0. -/
  streams : Tab Stream
  /-- FLM, 12 MiB, and Temper side memory, 256 KiB (R247). -/
  flm : Memory
  side : Memory
  /-- Instruction memory banks, 4,096 words of 64 bits (R274, R304); reset 0. -/
  imem0 : Tab Nat
  imem1 : Tab Nat
  /-- Active bank (R304); reset 0. -/
  bank : Nat
  /-- IMEM_SWAP that waits (R304); reset none. -/
  swap : Option Cmd
  /-- Q0 to Q31, 16 bits (R253); reset 0. -/
  q : Tab Nat
  /-- FORGE_STAT.sem_ovf; reset false. -/
  semOvf : Bool
  /-- Operand slots, 16 anvil + slot; result slots, 8 anvil + slot; the stationary tile each array holds: data and scale row
  (R291, R292, R295); reset 0. -/
  ops : Tab OpSlot
  res : Tab ResSlot
  stat : Tab OpSlot
  /-- Writes in flight (R279); reset none. -/
  pend : List Pend
  /-- Frame sender, at most 16 sends (R268); reset empty. -/
  sends : List FSend
  /-- STORE's send-fail bit (R269); reset false. -/
  sendFail : Bool
  reads : List FRead
  /-- Inbox rings, by binding (R267); reset empty. -/
  inbox : Tab Inbox
  /-- Frames behind reply handles, by number of the model's own (R270); reset none. -/
  handles : Tab Handle
  nextHandle : Nat
  /-- Cycles frozen so far, and the cycle a freeze in progress began (R252); reset 0, none. -/
  frozen : Nat
  freeze : Option Nat
  /-- A flow-3 MMA has issued in this cycle and this stream is its partner (R307); reset none. -/
  pair : Option (Nat × Nat)
  /-- Instructions issued; reset 0. -/
  ord : Nat
deriving DecidableEq, Repr

/-- What becomes visible a fixed number of arithmetic cycles after its issue, frozen or not (R254). -/
inductive Late where
  /-- A post by a Forge to a Q semaphore of a Forge, or to a G semaphore (none). -/
  | post (poster : Nat) (forge : Option Nat) (num n : Nat)
  /-- The answer of a QD about another Forge: Forge, stream, register, value, issue order. -/
  | depth (f st r v ord : Nat)
deriving DecidableEq, Repr

/-- An IMEM_LOAD in progress (R303). -/
structure ImemLoad where
  cmd : Cmd
  forge : Nat
  bank : Nat
  first : Nat
  words : List Nat
deriving DecidableEq, Repr

/-- The Forge array. -/
structure Forges where
  /-- Forges 0 to 15. -/
  f : Tab Forge
  /-- G0 to G63, 16 bits (R253); reset 0. -/
  g : Tab Nat
  /-- Cycle at which each becomes visible, and what; reset none. -/
  late : List (Nat × Late)
  /-- Next serial number of a command; the model's own; reset 0. -/
  ser : Nat
  loads : Tab ImemLoad
  nextId : Nat
deriving DecidableEq, Repr

/-- An update of a slot, pending or applying (R319, R320). -/
structure Update where
  cmd : Cmd
  grad : Nat
  gs : Nat
  lr : Nat
  applying : Bool
  /-- SWC of the Swath in which it began to apply. -/
  began : Nat
deriving DecidableEq, Repr

/-- An adapter slot (R309, R319, R321). -/
structure Slot where
  record : Bytes
  /-- Current version, 32 bits. -/
  version : Nat
  /-- Updates applied, and the powers p1 and p2, FP32 (R321). -/
  t : Nat
  p1 : Nat
  p2 : Nat
  flags : Nat
  upd : Option Update
deriving DecidableEq, Repr

/-- A stash extent: in the overflow region, first byte, units of 64 KiB (R316). -/
structure Extent where
  ovf : Bool
  base : Nat
  units : Nat
deriving DecidableEq, Repr

/-- An open micro-batch (R312 to R318). -/
structure MicroBatch where
  slot : Nat
  id : Nat
  forge : Nat
  version : Nat
  units : Nat
  ext : Option Extent
  /-- Extents of dropped stashes, each kept until these commands have ended (R317). -/
  old : List (Extent × List Nat)
  backward : Bool
  recompute : Bool
  /-- A new extent has been reserved for the backward pass (R318). -/
  again : Bool
  failed : Bool
  dropped : Bool
  /-- Serial numbers of its commands not yet ended, and those of ended commands that carried the close bit. -/
  live : List Nat
  closed : List Nat
  /-- Those of its ended commands: a write of one may still be in flight (R317). -/
  past : List Nat
deriving DecidableEq, Repr

/-- The adapter unit (11_backward_and_adapters.md). -/
structure Adapters where
  /-- Slots 0 to 4,095; reset none defined. -/
  slots : Tab Slot
  /-- Open micro-batches, at most 4,096; reset none. -/
  mbs : List MicroBatch
deriving DecidableEq, Repr

/-- States of FAL_STAT.state (Table 13.9). -/
inductive FalMode where
  | absent | discovering | blank | ready | mismatch | formatting
deriving DecidableEq, Repr

/-- The store geometry (R348): page data bytes, pages per block, blocks per LUN, LUNs per target. -/
structure FGeom where
  page : Nat
  ppb : Nat
  blocks : Nat
  luns : Nat
deriving DecidableEq, Repr

/-- A manifest: one committed version of an image (13_fallow_store.md, Images). -/
structure Manifest where
  id : Nat
  ver : Nat
  rev : Nat
  ckpt : Bool
  len : Nat
  p : Nat
  ppb : Nat
  w : Nat
  crc : Nat
  stripes : List (List Nat)
  /-- Sequence of the commit that made it current (R411). -/
  seq : Nat
deriving DecidableEq, Repr

/-- States of a block (R355, R356). -/
inductive BlkState where
  | free | used | root | bad
deriving DecidableEq, Repr

/-- A catalogue: the current version of each ID with the page of its manifest, and the block table when it is carried (R356). -/
structure Catalogue where
  ids : Tab (Manifest × Nat)
  table : Option (Tab (BlkState × Nat))
  /-- Page addresses of the manifests and of the catalogue itself: block and page. -/
  pages : List (Nat × Nat)
deriving DecidableEq, Repr

/-- A commit record (R363). -/
structure CommitRec where
  s : Nat
  geom : FGeom
  w : Nat
  chans : List Nat
  cat : Catalogue
deriving DecidableEq, Repr

/-- What a programmed page holds, decoded (Table 13.3). -/
inductive FPage where
  /-- Image data: ID, version, page index, data. -/
  | image (id ver idx : Nat) (data : Bytes)
  | manifest (m : Manifest)
  | catalogue (c : Catalogue)
  | record (r : CommitRec)
  /-- An erase note, and its done note (R357). -/
  | note (blks : List Nat)
  | finished (blks : List Nat)
deriving DecidableEq, Repr

/-- A block (R350, R356). -/
structure FBlk where
  st : BlkState
  erases : Nat
  pages : Tab FPage
  /-- Codewords that do not decode, `8 page + index`: true for one programmed so by a relocation (R354), false for one that the last read
  of it found uncorrectable (R353, log 32). -/
  bad : Tab Bool
  /-- Page reads since its last erase (R354); not persisted. -/
  reads : Nat
deriving DecidableEq, Repr

/-- For what a page is programmed. -/
inductive FOwner where
  /-- An IMG_WRITE, by number. -/
  | write (n : Nat)
  /-- A commit, by number. -/
  | commit (n : Nat)
  /-- An erase note of a batch, and its done note. -/
  | note (batch : Nat)
  | done
  /-- The rewrite of pages after a failure. -/
  | rewrite
deriving DecidableEq, Repr

/-- An operation of a LUN (R361). -/
inductive FJob where
  | prog (blk page : Nat) (p : FPage) (own : FOwner)
  /-- Part of an IMG_READ: page, first byte in it, length, place in the destination. -/
  | read (n blk page off len dst : Nat)
  | erase (blk batch : Nat)
deriving DecidableEq, Repr

/-- A waiting operation: class of Table 13.6 (an IMG_READ's follows its priority) and order of acceptance. -/
structure LunOp where
  cls : Nat
  ord : Nat
  job : FJob
deriving DecidableEq, Repr

/-- A LUN: waiting operations, the one it runs, and operations begun since the last of class 8 (R361). -/
structure Lun where
  wait : List LunOp
  run : Option LunOp
  since8 : Nat
deriving DecidableEq, Repr

/-- An open version (R358). -/
structure OpenVer where
  id : Nat
  ver : Nat
  written : Nat
  /-- Bytes of the part page held, and pages given to be programmed. -/
  held : Bytes
  pages : Nat
  stripes : List (List Nat)
  /-- The image's bytes so far, for its CRC-32C. -/
  all : Bytes
deriving DecidableEq, Repr

/-- An IMG_WRITE in progress (R358). -/
structure ImgWrite where
  cmd : Cmd
  id : Nat
  ver : Nat
  /-- Programs of it not yet done. -/
  left : Nat
deriving DecidableEq, Repr

/-- An IMG_READ in progress (R360). -/
structure ImgRead where
  cmd : Cmd
  man : Manifest
  forge : Bool
  /-- Where the bytes go, and how many (R22, R360). -/
  dst : Nat
  len : Nat
  prio : Nat
  /-- SWC since which it waits at its priority (R361). -/
  since : Nat
  left : Nat
  /-- Status so far: 0, 0x0C or 0x10 (R345, R360). -/
  status : Nat
deriving DecidableEq, Repr

/-- What a commit does (R359, R363, R365, R354, R356, R368). -/
inductive FKind where
  | write
  | delete
  /-- CHECKPOINT: slots not yet read, bytes gathered, Furrows of its replicas. -/
  | ckpt (slots : List Nat) (img : Bytes) (reps : List Nat)
  /-- A relocation: old block and new. -/
  | reloc (old new : Nat)
  | table
  | format
deriving DecidableEq, Repr

/-- A commit, waiting or in progress; the first of the list runs (R363). -/
structure FCommit where
  /-- Its number; the model's own. -/
  no : Nat
  cmd : Cmd
  kind : FKind
  id : Nat
  ver : Nat
  len : Nat
  /-- Step of R363, 0 before it begins, and programs of the step not yet done. -/
  step : Nat
  left : Nat
  /-- The manifests it programs, and the catalogue it makes current. -/
  mans : List Manifest
  cat : Option Catalogue
  seq : Nat
deriving DecidableEq, Repr

/-- A batch of erases (R357): blocks not yet erased, and all of them. -/
structure EraseBatch where
  left : List Nat
  blks : List Nat
  noted : Bool
deriving DecidableEq, Repr

/-- A replication in progress at its source (R366): Furrow, EID and status of each replica. -/
structure Repl where
  cmd : Cmd
  id : Nat
  ver : Nat
  reps : List (Nat × Nat × Option Nat)
  since : Nat
  src : Nat
deriving DecidableEq, Repr

/-- A replication at a replica (R366): source and destination, image, version and status so far. -/
structure ReplIn where
  src : Nat
  dst : Nat
  id : Nat
  ver : Nat
  status : Nat
deriving DecidableEq, Repr

/-- The Fallow store controller and its media (13_fallow_store.md). -/
structure Fallow where
  /-- FAL_STAT.state; reset ABSENT. -/
  mode : FalMode
  geom : Option FGeom
  /-- Used targets: channel and chip enable; reset none. -/
  targets : List (Nat × Nat)
  /-- Block addresses that carry a factory bad-block mark (R355). -/
  marks : List Nat
  /-- MT/s of each channel in use (R497); reset none. -/
  rate : Tab Nat
  /-- Channels in use at format, ascending, and w (R348); reset none. -/
  chans : List Nat
  /-- The media: blocks that are not free and never erased, by block address (R350); no reset clears it. -/
  blks : Tab FBlk
  /-- Erase count of the blocks not listed: formats made (R368); no reset clears it. -/
  base : Nat
  /-- The current catalogue, its sequence, the highest sequence seen since boot (R363); reset none, 0. -/
  cat : Catalogue
  seq : Nat
  top : Nat
  /-- Blocks of each channel held back from image data (R355); reset none. -/
  reserve : Tab Nat
  luns : Tab Lun
  opens : List OpenVer
  writes : Tab ImgWrite
  reads : Tab ImgRead
  commits : List FCommit
  batches : Tab EraseBatch
  repls : Tab Repl
  replIn : List ReplIn
  /-- Blocks to be relocated (R353 to R355). -/
  reloc : List Nat
  /-- A block was retired, or an hour has passed, since the block table was last written (R356), and the cycle of that write. -/
  retiredSince : Bool
  tableAt : Nat
  /-- The personality table in use (R349); reset none. -/
  pers : Option Bytes
  /-- FAL_PERS.reject. -/
  reject : Bool
  /-- Number of the next record, and order of acceptance; the model's own; reset 0. -/
  nextId : Nat
deriving DecidableEq, Repr

/-- A self-test ordered or running (R401). -/
structure SelfTest where
  kind : Nat
  idx : Nat
  /-- 0 SELFTEST, 1 event, 2 hourly SUSPECT test (Table 15.13). -/
  cause : Nat
  running : Bool
  /-- SELFTEST commands that wait for its verdict (R404). -/
  waiters : List Cmd
deriving DecidableEq, Repr

/-- A recovery sequence in progress (R406 to R412, R418). -/
structure RecSeq where
  id : Nat
  kind : Nat
  arg : Nat
  /-- Step it waits in. -/
  step : Nat
  restarts : Nat
  cmd : Cmd
  /-- SWC when the step began to wait. -/
  since : Nat
  /-- Mode REJOIN recorded on its first run (R418). -/
  mode : Option (BitVec 2)
  /-- COPY: the slots listed, the bytes received, and the copy header (R411). -/
  slots : List Nat
  got : Bytes
  /-- COPY: sole bit, silence limit, source EID, Furrow key (R410). -/
  sole : Bool
  silence : Nat
  srcEid : Nat
  furrow : Nat × Nat
deriving DecidableEq, Repr

/-- The health and recovery manager (15_faults_and_recovery.md). -/
structure Health where
  /-- Scores, 16 bits, and the levels posted, keyed 2^32 kind + index (R399, R400); reset empty. -/
  scores : Tab (Nat × Nat)
  /-- Pending and running self-tests (R401); reset empty. -/
  tests : List SelfTest
  /-- Parts fenced by a recovery sequence: kind and index (R403); reset empty. -/
  fenced : List (Nat × Nat)
  /-- Recovery sequences in progress, at most 16 (R406); reset empty. -/
  seqs : List RecSeq
  /-- Outcomes of the last 1,024 recovery IDs, newest first: ID, kind, argument, status, result (R406); reset empty. -/
  outcomes : List (Nat × Nat × Nat × Nat × Nat)
  /-- HLT_STAT.ready (R417); reset false. -/
  ready : Bool
  /-- Fence list of EIDs, at most 4,096 (R420); reset empty. -/
  eids : List Nat
  /-- Swaths counted and unproductive Swaths per function, 48 bits each (R421); reset 0. -/
  share : Tab (Nat × Nat)
  /-- Functions with a cause in the Swath in progress (R421); reset empty. -/
  causes : List Nat
  /-- HLT_STAT.mgmt_resets, 8 bits (R424); reset 0. -/
  mgmtResets : Nat
  /-- Events of the hour, keyed 2^40 row + part, and those posted (R422); reset 0. -/
  rates : Tab (Nat × Bool)
  /-- Hour of module time last ended (R399); reset 0. -/
  hour : Nat
deriving DecidableEq, Repr

/-- Module power states (R487). -/
inductive Power where
  | off | sequencing | on | tripped
deriving DecidableEq, Repr

/-- The fuses of Table 16.7 (R440) that rules read; a blown fuse is never cleared. -/
structure Fuses where
  /-- Module serial number, 64 bits. -/
  serial : BitVec 64
  /-- RSA key hash slots 0 and 1, and SLH-DSA key hash slots 0 and 1, 48 bytes each. -/
  keyHash : List Bytes
  /-- Revoked key slots, 4 bits. -/
  revoked : BitVec 4
  /-- Anti-rollback fuses blown, 0 to 128. -/
  svn : Nat
  /-- debug_disable. -/
  debugOff : Bool
deriving DecidableEq, Repr

/-- What no reset clears: SPI NOR and fuses (R430, R440, R414). -/
structure NonVol where
  fuse : Fuses
  /-- Firmware image slots A and B (Table 16.3). -/
  slotA : Bytes
  slotB : Bytes
  /-- Calibration record region (Table 16.3). -/
  cal : Bytes
  /-- Retirement log, oldest first: kind, index (R403). -/
  log : List (Nat × Nat)
  /-- Identity certificate chains, RSA and SLH-DSA (Table 16.3). -/
  chainRsa : Bytes
  chainSlh : Bytes
deriving DecidableEq, Repr

/-- Start-up, security, thermal and module power (16, 19). -/
structure Boot where
  power : Power
  /-- Rail groups in regulation, 0 to 6 (R488). -/
  groups : Nat
  /-- Flash carrier present, as read in SEQUENCING (R497). -/
  carrier : Bool
  /-- PERST# is high (R489). -/
  perst : Bool
  /-- SEC_BOOT.stage, 4 bits (R425); reset 0. -/
  stage : Nat
  /-- SEC_BOOT.fw_slot (R438); reset 0. -/
  fwSlot : Nat
  /-- SEC_BOOT.recovery (R428); reset false. -/
  recovery : Bool
  /-- SEC_BOOT.cal_defaults (R432); reset false. -/
  calDefaults : Bool
  /-- SEC_BOOT.fw_generation, 32 bits, and fw_svn, 8 bits (R438); reset 0. -/
  fwGen : Nat
  fwSvn : Nat
  /-- commit_svn of the booted image (R441); reset false. -/
  commitSvn : Bool
  /-- Bytes 0 to 831 of the booted image, and the calibration record as loaded (R446); reset empty. -/
  bootMsg : Bytes
  calRec : Bytes
  /-- SEC_NONCE0 to 3, 256 bits, and the draws made (R442). -/
  nonce : BitVec 256
  draws : Nat
  /-- SEC_DBG.scope, 3 bits (R444); reset 0. -/
  scope : BitVec 3
  /-- SEC_THERM.tj and diode (R448); reset 0. -/
  tj : Int
  diode : Nat
  /-- THERMAL_WARN may be posted again (R448); reset true. -/
  warnArmed : Bool
  /-- GLB_STAT.last_reset, 4 bits (R470). -/
  lastReset : Nat
  /-- Kind of the last module reset, which the first RESET_SEEN names (R413); reset 1. -/
  modReset : Nat
  /-- The CXL link is down by a reset of the host (R421); the model's own; reset false. -/
  hostDown : Bool
  /-- GLB_STAT.hostless (R472); reset false. -/
  hostless : Bool
  /-- The CXL link is in L0, its width, speed code and protocols (R470, R371); reset down. -/
  cxlUp : Bool
  cxlWidth : Nat
  cxlSpeed : Nat
  cxlProto : Bool
  /-- Steps 6 and 7 have completed or failed, and STARTUP_DONE was posted (R449); reset false. -/
  step6 : Bool
  step7 : Bool
  doneSent : Bool
  /-- Configuration requests answered with retry status (R426); the model's own count; reset 0. -/
  cfgRetry : Nat
  /-- A CAL_WRITE in progress: command, mode, image and target region (R433); reset none. -/
  calBusy : Option (Cmd × Nat × Bytes × Nat)
  /-- HDM decoder 0: committed, error, base and size (R474); reset 0. -/
  hdmCommit : Bool
  hdmError : Bool
  hdmBase : Nat
  hdmSize : Nat
  /-- Its control bits as written, the capability's global control, and the DPA skip (R473, log 43); reset 0. -/
  hdmCtl : Nat
  hdmGlob : Nat
  hdmSkip : Nat
  /-- SPDM: message the most recent signed response signed, the second signature still available, sessions and the last
  response (R445, R447); reset empty. -/
  spdmMsg : Option Bytes
  spdmOpen : Bool
  sessions : Tab Bytes
  spdmOut : Bytes
deriving DecidableEq, Repr

/-- What a command still has to bring about in other blocks before it ends; the list is empty between commands. -/
inductive Todo where
  /-- A part is retired: kind, index, by score (R403). -/
  | retire (kind idx : Nat) (byScore : Bool)
  /-- A fault on a part, for the sequences that use it (R407). -/
  | fault (kind idx : Nat)
  /-- A frame was refused at admission: status and detail. -/
  | refused (fr : Frame) (status detail : Nat)
  /-- A frame has released its last cell, with its deadline. -/
  | released (fr : Frame) (dl : Nat)
  /-- An in-band command has completed: command, status, detail, result. -/
  | answer (c : Cmd) (status detail result : Nat)
  /-- A NOTICE to send at once: addressee, sender, status, detail, header bytes 12 to 25. -/
  | notice (dst src status detail : Nat) (body : Bytes)
  /-- A self-test has ended: kind, index, passed (R408). -/
  | tested (kind idx : Nat) (pass : Bool)
  /-- A cell of a DISPATCH frame has come to a Forge (R266). -/
  | dispatch (f : Nat)
  /-- A DISPATCH frame with rows was discarded in reassembly: Forge, binding, holder (R266). -/
  | rowsLost (f bind holder : Nat)
deriving DecidableEq, Repr

/-- The device: everything but the queue of commands. -/
structure Dev where
  clk : Clock
  /-- Registers of BAR0 as software and the device last wrote them, keyed by offset; an unlisted one holds its reset value
  (R6, R468, Table 18.2). -/
  regs : Tab Nat
  /-- Copies in force of registers whose change waits for a Swath boundary, keyed by offset. -/
  force : Tab Nat
  /-- Sub-ports, keyed by hop byte (R93); an unlisted one is as after reset. -/
  subs : Tab SubPort
  tab : Tables
  bpm : Bpm
  sw : Switch
  ring : Rings
  cru : Crucible
  /-- Select contexts, 0 to 1,023 (R225); reset none. -/
  sel : Tab SelCtx
  /-- Sticky flag words of the Select contexts, open or not (R243); reset empty, which is 0 for each. -/
  selFlags : Tab Nat
  mem : Mems
  forge : Forges
  adp : Adapters
  fal : Fallow
  tel : Telem
  hlt : Health
  boot : Boot
  nv : NonVol
  /-- Free values drawn so far (log 6): the model's own, and no value of it is the spec's; reset 0. -/
  free : Nat
  /-- Work a command still has to bring about; empty between commands; reset empty. -/
  todo : List Todo
  /-- Arithmetic cycle at which the device last set a W1C bit (R8) or a PMON_CNT was last written (R452), keyed 64 offset + bit, and,
  keyed by the bits of the byte after, those of an in-band write and of a device change of an RW field (R469); reset empty. -/
  evt : Tab Nat := []
deriving DecidableEq, Repr

/-- The state of the block: the device and the commands that wait, first in, first out. -/
structure State where
  dev : Dev
  pending : List Instr
deriving DecidableEq, Repr

/-- Reasons the block stops with a fault. -/
inductive Fault where
  /-- Raised by no command: one whose operands name no unit of the machine (a Forge above 15) changes nothing (log 99). Safe. -/
  | noSuchUnit
deriving DecidableEq, Repr

/-- Reasons the model has no meaning for a command. -/
inductive Refusal where
  /-- The command's arm of `exec` has no meaning yet: raised by that arm alone. Safe: nothing is claimed of it. -/
  | notModelled (mnemonic : String)
deriving DecidableEq, Repr

def linkZero : Link :=
  { seqNext := 0, sent := [], known := [], replay := [], replayAt := none, replaySeen := none, replayDue := false,
    expect := 0, loss := false, granted := [], changed := [], lent := [], adaptSent := 0, vc4Sent := 0,
    markerSent := false, wrr := (0, 0), resume := false, lentSpill := [], acked := 262143 }

def subZero : SubPort :=
  { state := .disabled, served := false, lock := false, lanes := 0, unreach := false, holdCount := 0, cause := .signal,
    fresh := false, nbr := none, oRx := none, theta := none, lastTheta := 0, overs := 0, marked := false, missing := 0,
    link := linkZero, edge := { xoff := [], paused := [], out := [] }, lastTx := [], shaper := [], police := [],
    policed := [], bytes := (0, 0), published := (0, 0, 0), smpCount := (0, 0), smpSeq := (0, 0) }

def sqZero : Sq := { head := 0, tail := 0, waiting := none, slow := false, busy := [], window := [], bufs := [], held := false }

def ringZero : Ring := { wr := 0, rd := 0, reserved := 0, armed := false, lost := 0, lostSince := 0 }

def clockZero : Clock :=
  { swc := 0, slot := 0, nsNow := 1024, lenNow := 1024, removed := none, now := 0, maxOffset := 0, adaptNow := 8,
    retrainNow := 11, swStart := 0, realigned := false, bwWin := 512 }

/-- The tables of chapter 3, empty. -/
def tablesZero : Tables :=
  { ept := [], paths := [], budgets := [], budgetWait := [], groups := [], furrows := [], peers := [], winData := [],
    winBusy := false, winMiss := false }

def bpmZero : Bpm :=
  { mode := 0, pending := false, bufs := [], nextBuf := 0, use := [], ext := [], level := 0, posted := [], resv := [], tie := 23 }

def switchZero : Switch :=
  { voq := [], stage := [], flight := [[], [], [], []], grant := [], accept := [], nextRid := 0, tx := [], nextTx := 0,
    reasm := [], rx := [], notices := [], samples := [], tally := [] }

def ringsZero : Rings :=
  { sqs := [], cqs := [], eq := ringZero, eqSeen := false, held := [], heldLost := 0, msix := [], pba := [], msgs := [],
    srcPairs := [], dstPairs := [], acks := [], reads := [], nextId := 0, turn := 63, mem := { space := 0, epoch := 0, cells := [] } }

def crucibleZero : Crucible := { nodes := [], tombs := [], creates := [], joins := [], nextId := 0 }

def memsZero : Mems :=
  { devs := [], window := none, bias := [], flips := [], nextId := 0, booted := false, rate := 36, answer := [], cxlWait := [],
    errs := [] }

def forgesZero : Forges := { f := [], g := [], late := [], ser := 0, loads := [], nextId := 0 }

def fallowZero : Fallow :=
  { mode := .absent, geom := none, targets := [], marks := [], rate := [], chans := [], blks := [], base := 0,
    cat := { ids := [], table := none, pages := [] }, seq := 0, top := 0, reserve := [], luns := [], opens := [], writes := [],
    reads := [], commits := [], batches := [], repls := [], replIn := [], reloc := [], retiredSince := false, tableAt := 0,
    pers := none, reject := false, nextId := 0 }

def telemZero : Telem :=
  { wraps := [], ring := [], read := 0, mgmtOver := 0, hostLost := 0, hring := ringZero, queues := [], busy := [], done := [],
    once := [], mgmt := { space := 1, epoch := 0, cells := [] } }

def healthZero : Health :=
  { scores := [], tests := [], fenced := [], seqs := [], outcomes := [], ready := false, eids := [], share := [], causes := [],
    mgmtResets := 0, rates := [], hour := 0 }

/-- Start-up before its first step: the module is ON and PERST# is low (R425, R489). -/
def bootZero : Boot :=
  { power := .on, groups := 6, carrier := true, perst := false, stage := 0, fwSlot := 0, recovery := false, calDefaults := false,
    fwGen := 0, fwSvn := 0, commitSvn := false, bootMsg := [], calRec := [], nonce := Config.random 0, draws := 1, scope := 0,
    tj := 0, diode := 0, warnArmed := true, lastReset := 1, modReset := 1, hostDown := false, hostless := false, cxlUp := false, cxlWidth := 0, cxlSpeed := 0,
    cxlProto := false, step6 := false, step7 := false, doneSent := false, cfgRetry := 0, calBusy := none, hdmCommit := false,
    hdmError := false, hdmBase := 0, hdmSize := 0, hdmCtl := 0, hdmGlob := 0, hdmSkip := 0,
    spdmMsg := none, spdmOpen := false, sessions := [], spdmOut := [] }

/-- SPI NOR and fuses as the factory leaves them (log 37). -/
def nonVolFactory : NonVol :=
  { fuse := { serial := Config.serial, keyHash := (List.range 4).map Config.keyHash, revoked := 0, svn := 0,
              debugOff := Config.debugDisable },
    slotA := Config.factoryImage 0, slotB := Config.factoryImage 1, cal := Config.factoryCal, log := [],
    chainRsa := Config.identityChain 0, chainSlh := Config.identityChain 1 }

/-- GLB_NODE after reset: the low 16 bits of the serial number (R471). -/
def nodeReset (serial : BitVec 64) : Tab Nat := [(8, serial.toNat % 65536)]

/-- The device after its first power-on reset. -/
def devReset : Dev :=
  { clk := clockZero, regs := nodeReset Config.serial, force := nodeReset Config.serial, subs := [], tab := tablesZero,
    bpm := bpmZero, sw := switchZero, ring := ringsZero, cru := crucibleZero, sel := [], selFlags := [], mem := memsZero, forge := forgesZero,
    adp := { slots := [], mbs := [] }, fal := fallowZero, tel := telemZero, hlt := healthZero, boot := bootZero,
    nv := nonVolFactory, free := 0, todo := [] }

/-- The machine right after reset. -/
def State.reset : State := { dev := devReset, pending := [] }

end Sys2Proof.Machine
end

