-- ==== Sys2Proof/Machine/Regs.lean ====
section
/-! DEFINITION. The layouts of the BAR0 registers (Table 18.2 and the tables it names): widths, fields, access codes, reset
values and reserved encodings; and reading the fields software has written. -/

namespace Sys2Proof.Machine

/-- Access codes of R7; a field that is not listed is RSV. `dv` is an RO field whose value the device stores in the register
itself; the value of any other RO field is computed from the state. -/
inductive Acc where
  | rw | ro | dv | w1c | wo
deriving DecidableEq, Repr

/-- A field: its lowest bit, width, access, reset value, and whether an encoding is allowed (R10). -/
structure Fld where
  lo : Nat
  w : Nat
  acc : Acc
  reset : Nat
  ok : Nat → Bool

/-- A register: 4 or 8 bytes (R6), and its fields. -/
structure Reg where
  bytes : Nat
  flds : List Fld

def rw (lo w reset : Nat) : Fld := { lo := lo, w := w, acc := .rw, reset := reset, ok := fun _ => true }
def rwIf (lo w reset : Nat) (ok : Nat → Bool) : Fld := { lo := lo, w := w, acc := .rw, reset := reset, ok := ok }
def ro (lo w : Nat) : Fld := { lo := lo, w := w, acc := .ro, reset := 0, ok := fun _ => true }
def dv (lo w : Nat) : Fld := { lo := lo, w := w, acc := .dv, reset := 0, ok := fun _ => true }
def w1c (lo : Nat) : Fld := { lo := lo, w := 1, acc := .w1c, reset := 0, ok := fun _ => true }
def wo (lo w : Nat) : Fld := { lo := lo, w := w, acc := .wo, reset := 0, ok := fun _ => true }
def within (a b : Nat) (v : Nat) : Bool := decide (a ≤ v) && decide (v ≤ b)
def r32 (f : List Fld) : Option Reg := some { bytes := 4, flds := f }
def r64 (f : List Fld) : Option Reg := some { bytes := 8, flds := f }

/-- GLB (Table 18.3). -/
def regGlb (o : Nat) : Option Reg :=
  match o with
  | 0x00 => r64 [ro 0 16, ro 16 4, ro 20 4]
  | 0x08 => r32 [rw 0 16 0]
  | 0x10 => r32 [wo 0 1, wo 1 1, wo 8 8]
  | 0x18 => r64 [ro 0 4, ro 4 1, ro 5 5, ro 10 3, ro 13 1]
  | 0x20 => r64 [ro 0 64]
  | 0x28 => r64 [rw 0 64 0]
  | 0x30 => r32 [w1c 0]
  | _ => none

/-- RING (Tables 14.15 to 14.17), offsets from 0x0002_0000. -/
def regRing (o : Nat) : Option Reg :=
  if o < 0x800 then
    match o % 0x20 with
    | 0x00 => r64 [rw 6 58 0]
    | 0x08 => r64 [rw 6 58 0]
    | 0x10 => r64 [rw 6 58 0]
    | 0x18 => r64 [rwIf 0 5 4 (within 4 16), rw 5 6 0, rw 11 1 0, rw 12 1 0, ro 13 1, ro 16 16, ro 32 16]
    | _ => none
  else if o < 0x1020 then
    match o % 0x20 with
    | 0x00 => r64 [rw 6 58 0]
    | 0x08 => r64 [rwIf 0 5 4 (within 4 16), rw 5 7 0, rw 12 1 0, rw 13 1 0, ro 32 16, ro 48 16]
    | 0x10 => r64 [ro 0 32]
    | _ => none
  else
    match o with
    | 0x1100 => r32 [rwIf 0 16 0x40 (fun v => v ≠ 0)]
    | 0x1108 => r32 [w1c 0, w1c 1, w1c 2, w1c 3]
    | _ => none

/-- A Swath length that R25 allows. -/
def lenOk (v : Nat) : Bool := within 256 32768 v && v % 128 == 0

/-- SWATH (Tables 2.1 to 2.4). -/
def regSwath (o : Nat) : Option Reg :=
  match o with
  | 0x00 => r32 [rwIf 0 16 0x400 lenOk, wo 16 1]
  | 0x08 => r64 [ro 0 48]
  | 0x10 => r32 [rwIf 0 4 8 (within 8 12), rwIf 4 4 11 (within 9 15)]
  | 0x18 => r32 [ro 0 8, ro 8 1, w1c 9]
  | _ => none

/-- PORT p (Tables 4.2 to 4.4); Ethernet is reserved on ports 62 and 63 (R94). -/
def regPort (p o : Nat) : Option Reg :=
  match o with
  | 0x0 => r32 [rw 0 1 0, rwIf 1 1 0 (fun v => v = 0 || p < 62), rwIf 2 2 0 (fun v => v ≠ 3), rw 4 1 0, ro 8 8]
  | 0x4 => r32 [rw 0 8 0x10]
  | 0x8 => r32 [ro 0 16, ro 16 4, ro 20 4]
  | _ => none

/-- LINK (Tables 4.9, 4.10, 4.15); a weight register takes no write of four zeros (R114). -/
def regLink (o : Nat) : Option Reg :=
  if o < 0x1000 then
    match o with
    | 0x00 => r32 [rw 0 16 0xAA00]
    | 0x08 => r32 [rwIf 0 32 0x01010101 (fun v => v ≠ 0)]
    | 0x10 => r32 [rwIf 0 8 8 (fun v => v ≠ 0)]
    | 0x18 => r32 [rwIf 0 4 4 (fun v => v ≠ 0)]
    | _ => none
  else if o < 0x1000 + 0x400 * 64 then
    let r := (o - 0x1000) % 0x400
    if r = 0 then r32 [rwIf 0 32 0x03010404 (fun v => v ≠ 0)]
    else if 0x100 ≤ r ∧ r < 0x200 then
      match r % 0x40 with
      | 0x00 => r64 [rw 0 48 0]
      | 0x08 => r64 [rw 0 32 0]
      | 0x10 => r64 [rw 0 64 0]
      | 0x18 => r64 [rw 0 64 0]
      | 0x20 => r32 [rw 0 1 0, rw 1 1 0, rw 2 3 0, rw 16 16 0xCAFA]
      | 0x28 => r32 [rw 0 16 0x200, rw 16 16 0x100]
      | _ => none
    else none
  else none

/-- SCH (Tables 3.4 and 18.4). -/
def regSch (o : Nat) : Option Reg :=
  match o with
  | 0x00 => r64 [ro 0 15, ro 16 16, ro 32 7]
  | 0x10 => r32 [rwIf 0 2 0 (fun v => v < 2), rwIf 2 2 0 (fun v => v < 3), rwIf 8 8 2 (fun v => 2 ≤ v),
      rwIf 16 8 2 (fun v => 2 ≤ v), rwIf 24 8 2 (fun v => 2 ≤ v)]
  | 0x18 => r32 [rw 0 15 0, rwIf 16 7 0 (fun v => v < 88)]
  | 0x20 => r64 [ro 0 7, ro 7 1, ro 8 32, ro 40 16]
  | _ => none

/-- BPM (Tables 5.3 to 5.8). -/
def regBpm (o : Nat) : Option Reg :=
  match o with
  | 0x00 => r32 [rw 0 2 0, ro 2 1]
  | 0x08 => r64 [rwIf 0 24 0 (within 0 8388608), rw 32 32 0]
  | 0x10 => r32 [rwIf 0 12 0x40 (within 8 4095), rwIf 12 12 0x40 (within 8 4095), rwIf 24 7 0x19 (within 1 100)]
  | 0x14 => r32 [rwIf 0 12 0x200 (within 16 4095)]
  | 0x18 => r64 [ro 0 19, ro 19 2, ro 21 24]
  | 0x20 => r32 [w1c 0, w1c 1, w1c 2, w1c 3, w1c 4]
  | _ => none

/-- EPT window (Tables 3.8, 3.9). -/
def regEpt (o : Nat) : Option Reg :=
  if o = 0 then r64 [rwIf 0 3 0 (fun v => v < 5), wo 3 1, ro 4 1, ro 5 1, rw 8 24 0, rw 32 32 0]
  else if o = 0xA0 then r64 [ro 0 20, ro 20 17, ro 37 17]
  else if o < 0x98 ∧ o % 8 = 0 then r64 [ro 0 64]
  else none

/-- SHP (Tables 5.9 to 5.11). -/
def regShp (o : Nat) : Option Reg :=
  if o < 0x4000 then (if o % 8 = 0 then r64 [rw 0 24 0, rw 24 24 0] else none)
  else if 0x4000 ≤ o ∧ o < 0x4400 ∧ o % 4 = 0 then r32 [rw 0 6 8, rw 6 1 1]
  else if 0x8000 ≤ o ∧ o < 0xA000 ∧ o % 4 = 0 then r32 [rw 0 16 0, rwIf 16 5 2 (within 1 16), rw 24 1 0]
  else none

/-- HLT (Tables 15.14, 15.15). -/
def regHlt (o : Nat) : Option Reg :=
  match o with
  | 0x00 => r32 [rwIf 0 12 0x1F4 (within 16 4095)]
  | 0x08 => r64 [rw 0 16 0x40, rw 16 16 0x100, rw 32 16 0x400]
  | 0x10 => r64 [rw 0 8 8, rw 8 8 2, rw 16 8 0x80, rw 24 8 0x10, rw 32 8 0x40, rw 40 8 0xFF, rw 48 8 0x40, rw 56 8 4]
  | 0x18 => r64 [ro 0 1, ro 1 5, ro 6 8, w1c 14, w1c 15]
  | 0x20 => r64 [rwIf 0 8 0 (fun v => v < 10), rw 8 32 0]
  | 0x28 => r64 [ro 0 16, ro 16 2, ro 18 1, ro 19 1, ro 20 1]
  | 0x30 => r32 [rwIf 0 5 0 (fun v => v < 22)]
  | 0x38 => r64 [ro 0 48]
  | 0x40 => r64 [ro 0 48]
  | _ => none

/-- SEC (Tables 16.11, 16.12). -/
def regSec (o : Nat) : Option Reg :=
  match o with
  | 0x00 => r64 [ro 0 4, ro 4 1, ro 5 1, ro 6 1, ro 8 32, ro 40 8]
  | 0x08 => r64 [ro 0 64]
  | 0x10 => r64 [ro 0 8, ro 8 4, ro 12 1]
  | 0x20 | 0x28 | 0x30 | 0x38 => r64 [ro 0 64]
  | 0x40 => r32 [ro 0 3]
  | 0x48 => r32 [ro 0 8, ro 8 4, w1c 12]
  | 0x50 => r32 [w1c 0, w1c 1, w1c 2, w1c 3]
  | _ => none

/-- Highest event code of a block (Table 17.3). -/
def pmonMax (b : Nat) : Nat :=
  match b with
  | 1 => 3 | 2 => 7 | 3 => 4 | 4 => 4 | 5 => 4 | 6 => 3 | 7 => 4 | 8 => 3 | 9 => 5 | 10 => 4 | 11 => 6 | 12 => 3
  | 13 => 2 | 14 => 3 | 15 => 5 | 16 => 4 | 17 => 5 | 18 => 2 | 19 => 3 | 20 => 4 | _ => 0

/-- PMON (Tables 17.1, 17.2, 17.4, 17.5). -/
def regPmon (o : Nat) : Option Reg :=
  if o = 0 then r32 [rwIf 0 16 0x200 (fun v => v ≠ 0)]
  else if o = 8 then r32 [rw 0 7 0, rw 7 1 0]
  else if o = 0x2C28 then r64 [w1c 0, dv 1 4, dv 5 3, dv 8 12, dv 20 4, dv 24 3]
  else if 0x400 ≤ o ∧ o < 0x400 * 21 then
    let b := o / 0x400
    let r := o % 0x400
    if r = 0 then r64 [ro 0 64]
    else if r = 8 then r32 [rw 0 8 0]
    else if r = 0x10 then r32 ((List.range 8).map w1c)
    else if r = 0x18 ∨ r = 0x20 then r64 [rw 0 64 0]
    else if 0x40 ≤ r ∧ r < 0x80 ∧ r % 8 = 0 then r64 [rw 0 48 0]
    else if 0x80 ≤ r ∧ r < 0xC0 ∧ r % 8 = 0 then
      r64 [rwIf 0 8 0 (fun v => v ≤ pmonMax b), rwIf 8 2 0 (fun v => v < 3), rw 10 1 0, rw 11 1 0, rw 12 1 0, rw 13 1 0,
        rwIf 16 16 0 (fun v => within 1 4 (v / 4096)), rw 32 8 0, rwIf 40 1 0 (fun v => v = 0 || b ≠ 15)]
    else none
  else if 0x8000 ≤ o ∧ o < 0x9000 ∧ o % 8 = 0 then r64 [ro 0 40, ro 40 24]
  else none

/-- SMP (Tables 5.13, 17.6). -/
def regSmp (o : Nat) : Option Reg :=
  if o < 0x400 then
    (if o % 4 = 0 then r32 [rwIf 0 5 0x1F (fun v => v < 25 || v = 31), rwIf 8 5 0x1F (fun v => v < 25 || v = 31),
      rw 16 1 0] else none)
  else match o with
    | 0x1000 => r64 [rw 6 58 0]
    | 0x1008 => r32 [rwIf 0 4 4 (within 4 12), rw 4 7 0, rw 11 1 0, rw 12 1 0]
    | 0x1010 => r32 [rw 0 12 0]
    | 0x1018 => r64 [ro 0 32, ro 32 32]
    | _ => none

/-- DBG (Table 17.8). -/
def regDbg (o : Nat) : Option Reg :=
  match o with
  | 0 => r64 [rwIf 0 3 0 (fun v => v < 5), rw 3 4 0, rwIf 8 32 0 (fun v => v % 8 = 0)]
  | 8 => r64 [rw 0 64 0]
  | _ => none

/-- CRU (Tables 7.13 to 7.16). -/
def regCru (o : Nat) : Option Reg :=
  if o = 0 then r32 [rw 0 1 0, rwIf 8 8 0x40 (fun v => 2 ≤ v)]
  else if o = 8 then r64 [ro 0 17, ro 17 17, ro 34 8, ro 42 11]
  else if o = 0x10 then r32 ((List.range 6).map w1c)
  else if 0x100 ≤ o ∧ o < 0x140 ∧ o % 8 = 0 then r32 [ro 0 14, ro 14 1]
  else none

/-- SEL (Tables 8.6 to 8.10). -/
def regSel (o : Nat) : Option Reg :=
  if o = 0 then r64 [ro 0 11, ro 11 8]
  else if o = 8 then r32 ((List.range 6).map w1c)
  else if o = 0x10 then r32 [rw 0 10 0]
  else if o = 0x18 then r64 [ro 0 2, ro 2 4, ro 16 32, ro 48 16]
  else if 0x100 ≤ o ∧ o < 0x140 ∧ o % 8 = 0 then r64 [ro 0 21, ro 21 15]
  else none

/-- FORGE f (Tables 9.7 to 9.9, 10.10 to 10.12); GSEM lies in Forge 0's page. -/
def regForge (f o : Nat) : Option Reg :=
  match o with
  | 0x00 => r32 [rwIf 0 8 0xE8 (within 1 232)]
  | 0x08 => r64 [ro 0 18, ro 18 1, ro 19 1, ro 20 1, w1c 21]
  | 0x10 => r64 [ro 0 42]
  | 0x18 => r64 [w1c 0, dv 1 3, dv 4 5, dv 16 32]
  | 0x20 => r64 [rw 0 1 0, rw 1 1 0, rwIf 2 2 0 (fun v => v ≠ 3), rwIf 4 3 0 (fun v => v < 6), wo 8 6, rw 32 32 0]
  | 0x28 => r64 [w1c 0, dv 1 3, dv 4 2, dv 6 12, dv 18 6, dv 24 3, dv 32 32]
  | 0x30 => r32 ((List.range 25).map w1c)
  | o =>
    if 0x400 ≤ o ∧ o < 0x480 ∧ o % 4 = 0 then r32 [rw 0 16 0]
    else if f = 0 ∧ 0x800 ≤ o ∧ o < 0x900 ∧ o % 4 = 0 then r32 [rw 0 16 0]
    else if 0x1000 ≤ o ∧ o < 0x3000 then
      match o % 32 with
      | 0 => r64 [rw 0 10 0, rw 10 8 0, rw 18 6 0, rw 24 1 0, rw 32 24 0]
      | 8 => r64 [rwIf 0 13 0 (within 1 4096), rwIf 16 16 0 (within 2 4097)]
      | 16 => r64 [rw 0 12 0, rw 16 16 0, rw 32 32 0]
      | 24 => r64 [rw 0 16 0, rw 16 16 0]
      | _ => none
    else none

/-- ADP (Tables 11.8 to 11.12). -/
def regAdp (o : Nat) : Option Reg :=
  match o with
  | 0x00 => r64 [ro 0 13, ro 13 13, ro 26 13]
  | 0x08 => r32 [rw 0 12 0]
  | 0x10 => r64 [ro 0 32, ro 32 13, ro 45 13, ro 58 1, ro 59 1, w1c 60, w1c 61, w1c 62, w1c 63]
  | 0x18 => r32 ((List.range 4).map w1c)
  | o =>
    if 0x100 ≤ o ∧ o < 0x200 then
      (if o % 16 = 0 then r64 [rwIf 0 8 0 (within 0 191), rwIf 8 8 0 (within 0 128), rwIf 32 15 0 (within 0 16384)]
       else if o % 16 = 8 then r64 [rw 0 48 0] else none)
    else none

/-- MEM (Table 12.5 and the tables after it). -/
def regMem (o : Nat) : Option Reg :=
  match o with
  | 0x00 => r32 [rwIf 0 6 0x24 (within 28 36)]
  | 0x08 => r64 [ro 0 16, ro 16 16]
  | 0x10 => r64 [rw 0 8 0, rw 8 8 0, rw 16 8 0, rw 24 8 0, rw 32 8 0, rw 40 8 0]
  | 0x18 => r32 [rwIf 0 8 0x18 (within 1 168), rw 8 1 1]
  | 0x20 => r32 [rwIf 0 4 4 (fun v => v ≠ 0)]
  | 0x28 => r64 [rw 0 8 0, rwIf 8 8 0 (within 0 64)]
  | 0x30 => r32 ((List.range 11).map w1c)
  | 0x38 => r64 [w1c 0, dv 1 4, dv 5 3, dv 8 21, dv 29 5, dv 34 5]
  | 0x40 => r32 [rw 0 4 0, rwIf 4 11 0 (within 0 1087)]
  | 0x48 => r64 [ro 0 21, ro 21 1, ro 22 1, ro 23 1]
  | _ => none

/-- FAL (Table 13.9 and the tables after it). -/
def regFal (o : Nat) : Option Reg :=
  match o with
  | 0x00 => r32 [rwIf 0 8 0x10 (fun v => v ≠ 0), rwIf 8 4 7 (fun v => v ≠ 0), rwIf 16 8 0x40 (fun v => v ≠ 0)]
  | 0x08 => r64 [rw 0 10 0x40, rw 10 10 0x60, rwIf 20 20 0x186A0 (fun v => 1024 ≤ v),
      rwIf 40 16 0x1F4 (fun v => 16 ≤ v)]
  | 0x10 => r64 [ro 0 3, ro 3 6, ro 9 9, ro 18 6, ro 24 7, ro 31 17]
  | 0x18 => r64 [ro 0 64]
  | 0x20 => r64 [ro 0 32, ro 32 32]
  | 0x28 => r64 [ro 0 32, ro 32 32]
  | 0x30 => r32 [wo 0 1, wo 8 8]
  | 0x38 => r64 [rw 0 36 0, rwIf 36 14 0 (fun v => v ≠ 0), wo 50 1, ro 51 1, ro 52 1]
  | 0x40 => r32 ((List.range 10).map w1c)
  | _ => none

/-- The register at an offset of BAR0, if one occupies it (R467, Table 18.1). -/
def regOf (off : Nat) : Option Reg :=
  if off < 0x10000 then regGlb off
  else if off < 0x20000 then none
  else if off < 0x40000 then regRing (off - 0x20000)
  else if off < 0x80000 then regSwath (off - 0x40000)
  else if off < 0x100000 then
    (if off < 0xC0000 then regPort ((off - 0x80000) / 0x1000) ((off - 0x80000) % 0x1000) else none)
  else if off < 0x180000 then regLink (off - 0x100000)
  else if off < 0x1C0000 then regSch (off - 0x180000)
  else if off < 0x200000 then regBpm (off - 0x1C0000)
  else if off < 0x240000 then regEpt (off - 0x200000)
  else if off < 0x280000 then regShp (off - 0x240000)
  else if off < 0x2C0000 then regCru (off - 0x280000)
  else if off < 0x300000 then regSel (off - 0x2C0000)
  else if off < 0x400000 then regForge ((off - 0x300000) / 0x10000) ((off - 0x300000) % 0x10000)
  else if off < 0x440000 then regAdp (off - 0x400000)
  else if off < 0x480000 then regMem (off - 0x440000)
  else if off < 0x4C0000 then regFal (off - 0x480000)
  else if off < 0x500000 then regSec (off - 0x4C0000)
  else if off < 0x540000 then regHlt (off - 0x500000)
  else if off < 0x580000 then regPmon (off - 0x540000)
  else if off < 0x5C0000 then regSmp (off - 0x580000)
  else if off < 0x600000 then regDbg (off - 0x5C0000)
  else none

/-- The reset value of a register (R468). -/
def regReset (off : Nat) : Nat :=
  match regOf off with
  | some r => r.flds.foldl (fun a f => a + f.reset * 2 ^ f.lo) 0
  | none => 0

/-- The stored value of a register: what was last written, or its reset value. -/
def rg (d : Dev) (off : Nat) : Nat := tgetD d.regs off (regReset off)

/-- A field of a stored register. -/
def fld (d : Dev) (off lo w : Nat) : Nat := bits (rg d off) lo w

/-- A one-bit field of a stored register. -/
def flag (d : Dev) (off i : Nat) : Bool := (rg d off).testBit i

/-- A value in force of a register whose change waits for a boundary. -/
def inForce (d : Dev) (off : Nat) : Nat := tgetD d.force off (regReset off)

/-- The device stores a register value. -/
def putReg (off v : Nat) (d : Dev) : Dev := { d with regs := tput d.regs off v }

/-- The device stores a field. -/
def putFld (off lo w v : Nat) (d : Dev) : Dev := putReg off (setBits (rg d off) lo w v) d

/-- The cycle of a register's clock in which an arithmetic cycle lies (R8): the clock Table 1.2 names for the register's block, the
fabric clock for GLB and where it names several; a counter page has the clock of its block (R451). -/
def regCycle (off t : Nat) : Nat :=
  let mgmt := t * 4 / 11
  if 0x300000 ≤ off ∧ off < 0x440000 then t
  else if 0x4C0000 ≤ off ∧ off < 0x540000 then mgmt
  else if 0x540400 ≤ off ∧ off < 0x540400 + 0x400 * 20 then
    let b := (off - 0x540000) / 0x400
    if 11 ≤ b ∧ b ≤ 14 then t else if b = 18 ∨ b = 19 then mgmt else t / 2
  else t / 2
/-- The device sets W1C bit `i` of a register in arithmetic cycle `t`, or in the cycle of the device's time (R8). -/
def stampAt (t off i : Nat) (d : Dev) : Dev := { d with evt := tput d.evt (64 * off + i) t }
def stamp (off i : Nat) (d : Dev) : Dev := stampAt d.clk.now off i d
/-- As `stampAt`, for the bits of a four-bit flag word from bit `lo` on. -/
def stampFlags (t off lo m : Nat) (d : Dev) : Dev :=
  (List.range 4).foldl (fun d i => if m.testBit i then stampAt t off (lo + i) d else d) d
/-- The device has set the bit in this very cycle of the register's clock (R8). -/
def freshSet (d : Dev) (off i : Nat) : Bool :=
  match tget d.evt (64 * off + i) with
  | some t => regCycle off t == regCycle off d.clk.now
  | none => false
/-- The device sets a W1C bit (R8). -/
def setEvt (off i : Nat) (d : Dev) : Dev := stamp off i (putFld off i 1 1 d)

/-- The value an RW field takes from a write (R10). -/
def rwNew (old v : Nat) (f : Fld) : Nat :=
  let n := bits v f.lo f.w
  if f.ok n then n else bits old f.lo f.w

/-- The stored value after a write of `v` (R7, R9, R10): RW fields take it unless it is reserved, a W1C bit written 1 is
cleared, every other field stays. -/
def writeFlds (old v : Nat) : List Fld → Nat
  | [] => old
  | f :: t =>
    let old' := writeFlds old v t
    match f.acc with
    | .rw => setBits old' f.lo f.w (rwNew old v f)
    | .w1c => if v.testBit f.lo then setBits old' f.lo 1 0 else old'
    | _ => old'

/-- The bits of a flag word, from bit `lo` of a register on, that a written value clears: not those set in the same cycle (R8). -/
def clearedFlags (off lo v : Nat) (d : Dev) : Nat :=
  ((List.range 4).map (fun i => if v.testBit (lo + i) && !freshSet d off (lo + i) then 2 ^ i else 0)).sum
/-- A written value without the ones that would clear a W1C bit which the device sets in the same cycle (R8). -/
def spare (off v : Nat) (d : Dev) : Nat :=
  match regOf off with
  | some r => r.flds.foldl (fun v f => if f.acc = .w1c ∧ v.testBit f.lo ∧ freshSet d off f.lo then v - 2 ^ f.lo else v) v
  | none => v
/-- Marks of a register beside its own bits (R469): an in-band write, and a change the device made in an RW field, in this cycle. -/
def markInband (off : Nat) (d : Dev) : Dev := stamp (off + 1) 0 d
def markDevice (off : Nat) (d : Dev) : Dev := stamp (off + 1) 1 d
def inbandNow (d : Dev) (off : Nat) : Bool := freshSet d (off + 1) 0
def deviceNow (d : Dev) (off : Nat) : Bool := freshSet d (off + 1) 1
/-- Offsets of the registers named in rules. -/
def oSwathCfg : Nat := 0x40000
def oSwathRsv : Nat := 0x40010
def oSwathStat : Nat := 0x40018
def oPortCfg (p : Nat) : Nat := 0x80000 + 0x1000 * p
def oPortHold (p : Nat) : Nat := 0x80004 + 0x1000 * p
def oVcw (p : Nat) : Nat := 0x101000 + 0x400 * p
def oEdge (lp : Nat) : Nat := 0x101100 + 0x400 * (lp / 4) + 0x40 * (lp % 4)
def oBpmRsv : Nat := 0x1C0010
def oBpmEvt : Nat := 0x1C0020
def oRingEvt : Nat := 0x21108
def oSqCtl (q : Nat) : Nat := 0x20018 + 0x20 * q
def oCqCtl (c : Nat) : Nat := 0x20808 + 0x20 * c
def oEqCtl : Nat := 0x21008
def oShpRate (lp tc : Nat) : Nat := 0x240000 + 8 * (8 * lp + tc)
def oShpOvh (lp : Nat) : Nat := 0x244000 + 4 * lp
def oShpPol (lp tc : Nat) : Nat := 0x248000 + 4 * (8 * lp + tc)
def oPmon (b : Nat) : Nat := 0x540000 + 0x400 * b
def oHltStat : Nat := 0x500018
def oSecEvt : Nat := 0x4C0050
def oSecTherm : Nat := 0x4C0048
def oForge (f : Nat) : Nat := 0x300000 + 0x10000 * f
def oMemEvt : Nat := 0x440030
def oMemLog : Nat := 0x440038
def oFalEvt : Nat := 0x480040
def oAdpEvt : Nat := 0x400018
def oSelEvt : Nat := 0x2C0008
def oCruEvt : Nat := 0x280010
def oGlbNode : Nat := 8

/-- N_s as written (R26). -/
def nsCfg (d : Dev) : Nat := fld d oSwathCfg 0 16

/-- The device's node number in force (R471). -/
def nodeNow (d : Dev) : Nat := inForce d oGlbNode

/-- SWC modulo 65,536 (R49). -/
def swc16 (d : Dev) : Nat := d.clk.swc.toNat % 65536

end Sys2Proof.Machine
end

