-- ==== Sys2Proof/WellFormed.lean ====
section
/-! DEFINITION. Which commands the machine has: every operand names a unit, a ring, a stream or a register that exists. -/

namespace Sys2Proof

/-- `a ≤ v ≤ b`. -/
def within1 (a b v : Nat) : Bool := decide (a ≤ v) && decide (v ≤ b)

/-- Memory errors name codewords of the sixteen devices (R329, R331). -/
def memErrsOk (errs : List MemErr) : Bool := errs.all (fun e => decide (e.dev < 16) && decide (e.cw < 32 * 5592405))

/-- Reads of codewords that a flash page has, at the default level and at most 15 table levels (R349, R352). -/
def nandErrsOk (nand : List NandErr) : Bool :=
  nand.all (fun e => decide (e.cw < 8) && decide (1 ≤ e.tries.length) && decide (e.tries.length ≤ 16))

/-- The operands name things the machine has (Tables 1.2, 1.3, 14.1; R93, R245, R384). -/
def wellFormed (i : Instr) : Bool :=
  match i with
  | .railSequencing _ => true
  | .thermalTrip _ => true
  | .thermalWarn _ => true
  | .moduleReset kind => within1 1 3 kind
  | .gddr7BootTraining _ => true
  | .cxlLinkUp width speed _ => [1, 2, 4, 8, 16].contains width && (1 ≤ speed && speed ≤ 5)
  | .fallowDiscovery _ => true
  | .swathCfgWrite _ => true
  | .swathRealign _ => true
  | .retrainWindowEnd _ => true
  | .bankRefresh d bank => d < 16 && bank < 16
  | .markerReceive lp _ _ => lp < 256
  | .swathAlignLost lp => lp < 256
  | .neighbourUnreachable lp => lp < 256
  | .holdExpiry lp => lp < 256
  | .portEnable p _ => p < 64
  | .portDisable p _ => p < 64
  | .portTrained lp => lp < 256
  | .linkSignalLoss lp => lp < 256
  | .fecUncorrectable lp lane => lp < 256 && (match lane with | some i => i < 512 | none => true)
  | .cellUnitReceive lp _ => lp < 256
  | .idleAdaptUnitReceive lp _ => lp < 256
  | .replayReceive lp _ => lp < 256
  | .replayRepeat lp => lp < 256
  | .unitOpportunity lp => lp < 256
  | .creditLend lp vc => lp < 256 && vc < 5
  | .bufferLendRetry x vc => (64 ≤ x && x < 87) && vc < 5
  | .bpmModeWrite _ => true
  | .edgeFrameReceive lp _ => lp < 256
  | .pfcRepeat lp tc => lp < 256 && tc < 8
  | .pfcFrameReceive lp _ => lp < 256
  | .pfcPauseExpiry lp tc => lp < 256 && tc < 8
  | .allowanceRelease _ => true
  | .budgetLowerComplete _ => true
  | .epochFenceClose _ => true
  | .eptSetFenceApply _ => true
  | .reassemblyDeadline _ => true
  | .ackTimeout _ => true
  | .hostqRecvDeliver _ => true
  | .readTimeout _ => true
  | .sqTailDoorbell q _ _ => q < 64
  | .cqHeadDoorbell c _ => c < 64
  | .eqHeadDoorbell _ => true
  | .watchedTailSnoop q _ _ => q < 64
  | .watchedTailPoll q => q < 64
  | .sqEntryAccept q => q < 64
  | .ringEnable r _ => r < 129
  | .sqDisable q _ => q < 64
  | .send q e => q < 64 && e.length = 64
  | .recvPost q e => q < 64 && e.length = 64
  | .read q e => q < 64 && e.length = 64
  | .write q e => q < 64 && e.length = 64
  | .readReqReserve _ => true
  | .collCreate q e => q < 64 && e.length = 64
  | .collJoin q e => q < 64 && e.length = 64
  | .collAbort q e => q < 64 && e.length = 64
  | .selectOpen q e => q < 64 && e.length = 64
  | .selectClose q e => q < 64 && e.length = 64
  | .selectOpenRetry _ => true
  | .task q e => q < 64 && e.length = 64
  | .taskQueueRetry _ => true
  | .microBatchOpenRetry _ => true
  | .imemLoad q e => q < 64 && e.length = 64
  | .imemLoadDone _ => true
  | .imemSwap q e => q < 64 && e.length = 64
  | .imemSwapApply f => f < 16
  | .adapterDefine q e errs => q < 64 && e.length = 64 && memErrsOk errs
  | .adapterStep q e => q < 64 && e.length = 64
  | .adapterClear q e => q < 64 && e.length = 64
  | .stepAcceptRetry _ => true
  | .updateApplyStart slot errs => slot < 4096 && memErrsOk errs
  | .updateApplyDone slot => slot < 4096
  | .biasFlipDevice q e => q < 64 && e.length = 64
  | .biasFlipHost q e => q < 64 && e.length = 64
  | .biasFlipDrained _ => true
  | .eptSet q e => q < 64 && e.length = 64
  | .eptClear q e => q < 64 && e.length = 64
  | .pathSetWrite q e => q < 64 && e.length = 64
  | .pathSetMarkDown q e => q < 64 && e.length = 64
  | .pathSetMarkUp q e => q < 64 && e.length = 64
  | .pathSetClear q e => q < 64 && e.length = 64
  | .mcastSetWrite q e => q < 64 && e.length = 64
  | .mcastSetClear q e => q < 64 && e.length = 64
  | .furrowSetPrepare q e => q < 64 && e.length = 64
  | .furrowSetCommit q e => q < 64 && e.length = 64
  | .furrowClear q e => q < 64 && e.length = 64
  | .budgetSetWrite q e => q < 64 && e.length = 64
  | .budgetSetClear q e => q < 64 && e.length = 64
  | .imgRead q e => q < 64 && e.length = 64
  | .imgReadDone _ => true
  | .imgReadAgeing _ => true
  | .imgWrite q e errs => q < 64 && e.length = 64 && memErrsOk errs
  | .imgWriteDone _ => true
  | .imgWriteOpenRetry _ => true
  | .imgCommit q e => q < 64 && e.length = 64
  | .imgDelete q e => q < 64 && e.length = 64
  | .checkpoint q e errs => q < 64 && e.length = 64 && memErrsOk errs
  | .lunOperationStart _ errs nand => memErrsOk errs && nandErrsOk nand
  | .flashProgramDone _ => true
  | .flashProgramFail _ => true
  | .flashEraseDone _ => true
  | .retentionPatrol _ _ nand => nandErrsOk nand
  | .relocation _ nand => nandErrsOk nand
  | .replicaTimeout _ => true
  | .falFormat _ => true
  | .falPersLoad _ => true
  | .fence q e => q < 64 && e.length = 64
  | .fenceComplete _ => true
  | .nop q e => q < 64 && e.length = 64
  | .memberSetFence q e => q < 64 && e.length = 64
  | .memberSetUnfence q e => q < 64 && e.length = 64
  | .memberSetForget q e => q < 64 && e.length = 64
  | .memberSetReady q e => q < 64 && e.length = 64
  | .selftest q e => q < 64 && e.length = 64
  | .recoverPort q e => q < 64 && e.length = 64
  | .recoverForge q e => q < 64 && e.length = 64
  | .recoverBank q e => q < 64 && e.length = 64
  | .recoverUnit q e => q < 64 && e.length = 64
  | .recoverRestore q e => q < 64 && e.length = 64
  | .recoverCopy q e => q < 64 && e.length = 64
  | .recoverRejoin q e => q < 64 && e.length = 64
  | .recoverStartRetry _ => true
  | .recoveryWaitSatisfied _ => true
  | .copySilenceTimeout _ => true
  | .calWriteCalibration q e => q < 64 && e.length = 64
  | .calWriteFirmware q e => q < 64 && e.length = 64
  | .calWriteFuseAction q e => q < 64 && e.length = 64
  | .calWriteDebugUnlock q e => q < 64 && e.length = 64
  | .createReplyTimeout _ => true
  | .preparedTimeout _ => true
  | .chunkFold _ _ => true
  | .memberChunkSend _ => true
  | .collIdleTimeout _ => true
  | .selectWorkItem x => x < 1024
  | .combWaitTimeout x => x < 1024
  | .dispatchInboxReserve f => f < 16
  | .dispatchEnqueueRetry f => f < 16
  | .forgeCommandStart f st _ => f < 16 && st < 6
  | .forgeCommandEnd f st _ => f < 16 && st < 6
  | .commandOverrun f st _ => f < 16 && st < 6
  | .moverComplete f st _ errs => f < 16 && st < 6 && memErrsOk errs
  | .frameSenderPost f _ => f < 16
  | .semaphoreWaitSatisfied f st _ => f < 16 && st < 6
  | .forgeQsemWrite f n _ => f < 16 && n < 32
  | .forgeGsemWrite n _ => n < 64
  | .forgeBindWrite f i w _ => f < 16 && i < 256 && w < 4
  | .forgeDbgResume f _ => f < 16
  | .nopInstruction f st _ => f < 16 && st < 6
  | .endInstr f st _ => f < 16 && st < 6
  | .rep f st _ => f < 16 && st < 6
  | .br f st _ => f < 16 && st < 6
  | .movi f st _ => f < 16 && st < 6
  | .add f st _ => f < 16 && st < 6
  | .sub f st _ => f < 16 && st < 6
  | .andS f st _ => f < 16 && st < 6
  | .orS f st _ => f < 16 && st < 6
  | .xorS f st _ => f < 16 && st < 6
  | .shl f st _ => f < 16 && st < 6
  | .shr f st _ => f < 16 && st < 6
  | .sra f st _ => f < 16 && st < 6
  | .setc f st _ => f < 16 && st < 6
  | .aset f st _ => f < 16 && st < 6
  | .aadd f st _ => f < 16 && st < 6
  | .astr f st _ => f < 16 && st < 6
  | .aget f st _ => f < 16 && st < 6
  | .lds f st _ => f < 16 && st < 6
  | .sts f st _ => f < 16 && st < 6
  | .post f st _ => f < 16 && st < 6
  | .wait f st _ => f < 16 && st < 6
  | .enq f st _ => f < 16 && st < 6
  | .qd f st _ => f < 16 && st < 6
  | .id f st _ => f < 16 && st < 6
  | .flg f st _ => f < 16 && st < 6
  | .vld f st _ => f < 16 && st < 6
  | .vst f st _ => f < 16 && st < 6
  | .vbc f st _ => f < 16 && st < 6
  | .vadd f st _ => f < 16 && st < 6
  | .vsub f st _ => f < 16 && st < 6
  | .vmul f st _ => f < 16 && st < 6
  | .vfma f st _ => f < 16 && st < 6
  | .viadd f st _ => f < 16 && st < 6
  | .visub f st _ => f < 16 && st < 6
  | .vimin f st _ => f < 16 && st < 6
  | .vimax f st _ => f < 16 && st < 6
  | .vicmp f st _ => f < 16 && st < 6
  | .vcvt f st _ => f < 16 && st < 6
  | .vand f st _ => f < 16 && st < 6
  | .vor f st _ => f < 16 && st < 6
  | .vxor f st _ => f < 16 && st < 6
  | .vsel f st _ => f < 16 && st < 6
  | .mov f st _ => f < 16 && st < 6
  | .wld f st _ => f < 16 && st < 6
  | .rdr f st _ => f < 16 && st < 6
  | .sendInstruction f st _ => f < 16 && st < 6
  | .tld f st _ => f < 16 && st < 6
  | .mma f st _ => f < 16 && st < 6
  | .tnorm f st _ => f < 16 && st < 6
  | .tsmax f st _ => f < 16 && st < 6
  | .tnormb f st _ => f < 16 && st < 6
  | .tsmaxb f st _ => f < 16 && st < 6
  | .patrolScrubRead d errs => d < 16 && memErrsOk errs
  | .remapCopyDone d i errs => d < 16 && i < 1024 && memErrsOk errs
  | .cxlMemRead _ errs => memErrsOk errs
  | .cxlMemWrite _ _ errs => memErrsOk errs
  | .hdmDecoderCommit _ _ ways => ways < 16
  | .suspectHourlyTest kind _ => kind < 10
  | .selftestRun kind _ => kind < 10
  | .selftestDone kind _ _ _ => kind < 10
  | .counterWrap b n => (1 ≤ b && b ≤ 20) && n < 8
  | .pmonEnWrite b _ => 1 ≤ b && b ≤ 20
  | .pmonCntWrite b n _ => (1 ≤ b && b ≤ 20) && n < 8
  | .pmonBwwinWrite _ => true
  | .smpHringHeadWrite _ => true
  | .smpHringEnable _ => true
  | .dbgWinAccess _ => true
  | .eptWinRead _ => true
  | .glbResetModule _ => true
  | .glbResetMgmt _ => true
  | .glbNodeWrite _ => true
  | .registerWrite off b _ => off + b.length ≤ 2 ^ 24 + 2 ^ 14
  | .spdmRequest _ => true
  | .inputPowerRise => true
  | .inputPowerLoss => true
  | .tripExit => true
  | .perstAssert => true
  | .firmwareVerify => true
  | .calRecordLoad => true
  | .hostlessTimeout => true
  | .configRequest => true
  | .svnAdvanced => true
  | .mgmtWatchdogExpiry => true
  | .mgmtCoreReset => true
  | .hostLinkReset => true
  | .swathBoundary => true
  | .retrainWindowStart => true
  | .crossbarSlot => true
  | .bpmSpillDrained => true
  | .sequencedFrameAccept => true
  | .ackReceive => true
  | .noticeReceive => true
  | .readRspReceive => true
  | .commitRecordProgrammed => true
  | .blockTableWrite => true
  | .replicaFrameReceive => true
  | .replicaAnswerReceive => true
  | .copyReqReceive => true
  | .copyFrameReceive => true
  | .calWriteRetry => true
  | .reserveFrame => true
  | .replyFrame => true
  | .commitFrame => true
  | .releaseFrame => true
  | .abortFrame => true
  | .collChunkArrive => true
  | .collResultForward => true
  | .collResultMemberArrive errs => memErrsOk errs
  | .selectFrameArrive => true
  | .combineArrive => true
  | .dispatchArrive => true
  | .forgeWriteFrame errs => memErrsOk errs
  | .forgeReadReq errs => memErrsOk errs
  | .forgeReadRsp errs => memErrsOk errs
  | .forgeNoticeReceive => true
  | .hourlyScoreDecay => true
  | .bwWindowEnd => true
  | .samplerRead => true
  | .regRead => true
  | .regWrite => true
  | .cmd => true
  | .sampleRead => true
  | .eptWinReadDone => true
  | .perstRelease => true
  | .crucibleNoticeReceive => true
  | .mgmtNoticeReceive => true

end Sys2Proof
end

