-- ==== Sys2Proof/Machine/Ops.lean ====
section
/-! DEFINITION. Operations every block shares: running a command, free values, host memory, counters, events, completions,
scores, NOTICEs and sub-port access. -/

namespace Sys2Proof.Machine

/-- Sub-port `lp` (R93). -/
def sub (d : Dev) (lp : Nat) : SubPort := tgetD d.subs lp subZero

def setSub (lp : Nat) (p : SubPort) (d : Dev) : Dev := { d with subs := tput d.subs lp p }

def modSub (lp : Nat) (f : SubPort → SubPort) (d : Dev) : Dev := setSub lp (f (sub d lp)) d

def modLink (lp : Nat) (f : Link → Link) (d : Dev) : Dev := modSub lp (fun p => { p with link := f p.link }) d

def modSw (f : Switch → Switch) (d : Dev) : Dev := { d with sw := f d.sw }

def modTab (f : Tables → Tables) (d : Dev) : Dev := { d with tab := f d.tab }

def modRing (f : Rings → Rings) (d : Dev) : Dev := { d with ring := f d.ring }

def modBpm (f : Bpm → Bpm) (d : Dev) : Dev := { d with bpm := f d.bpm }

def modHlt (f : Health → Health) (d : Dev) : Dev := { d with hlt := f d.hlt }

def modBoot (f : Boot → Boot) (d : Dev) : Dev := { d with boot := f d.boot }

def modTel (f : Telem → Telem) (d : Dev) : Dev := { d with tel := f d.tel }

/-- Work left to the end of the command. -/
def defer (t : Todo) (d : Dev) : Dev := { d with todo := d.todo ++ [t] }

/-- Fold a step over a list. -/
def each {α : Type} (l : List α) (f : α → Dev → Dev) (d : Dev) : Dev := l.foldl (fun d a => f a d) d

/-- Apply a step only under a condition. -/
def when (b : Bool) (f : Dev → Dev) (d : Dev) : Dev := if b then f d else d

/-- The next free value (log 6), and the state in which it is used up. -/
def drawFree (d : Dev) : BitVec 64 × Dev := (Config.freeValue d.free, { d with free := d.free + 1 })

/-- Undefined bytes: each a free value (log 6). -/
def freeBytes (n : Nat) (d : Dev) : Bytes × Dev :=
  ((List.range n).map (fun i => (Config.freeValue (d.free + i)).setWidth 8), { d with free := d.free + n })

/-- Count discards and drops of a kind at a unit (R52, R116, R123). -/
def tally (kind unit : Nat) (d : Dev) : Dev :=
  modSw (fun s => { s with tally := tput s.tally (256 * kind + unit) (tgetD s.tally (256 * kind + unit) 0 + 1) }) d

/-- Host memory reads and writes (R373). -/
def hostRead (d : Dev) (a n : Nat) : Bytes := memReadN d.ring.mem a n

def hostWrite (a : Nat) (b : Bytes) (d : Dev) : Dev := modRing (fun r => { r with mem := memWriteN r.mem a b }) d

/-- Attributes an occurrence carries for the filters of R453. -/
structure Attr where
  priv : Option Nat := none
  masters : List Nat := []
  addr : Option Nat := none
  vc : Option Nat := none
  tc : Option Nat := none
  cls : Option Nat := none

/-- Master codes of PMON_SEL.master. -/
def mSq (q : Nat) : Nat := 0x1000 + q
def mForge (f : Nat) : Nat := 0x2000 + f
def mPort (lp : Nat) : Nat := 0x3000 + lp
def mStream (f st : Nat) : Nat := 0x4000 + st * 16 + f

/-- Every enabled filter of a selection matches (R453). -/
def selMatch (d : Dev) (b ev sel : Nat) (a : Attr) : Bool :=
  let priv := bits sel 8 2
  let kind := bits sel 40 1
  let v := if b = 15 then a.cls else if kind = 0 then a.vc else a.tc
  bits sel 0 8 == ev && ev ≠ 0
  && (priv == 0 || a.priv == some priv)
  && (!sel.testBit 10 || a.masters.contains (bits sel 16 16))
  && (!sel.testBit 11 || (match a.addr with
      | some x => within (rg d (oPmon b + 0x18)) (rg d (oPmon b + 0x20)) x
      | none => false))
  && (!sel.testBit 12 || (match v with
      | some x => x < 8 && (bits sel 32 8).testBit x
      | none => false))

/-- The Forge stream of an occurrence of blocks 11 to 13 (R457): the Temper stream for block 13. -/
def attrStream (b : Nat) (a : Attr) : Option (Nat × Nat × Nat) :=
  match a.masters.find? (fun m => m / 4096 == (if b = 13 then 2 else 4)) with
  | some m => some (m % 16, if b = 13 then 5 else m / 16 % 8, 0)
  | none => none

/-- Count occurrence `ev` of block `b`, `n` at once, but for a counter written in the same cycle (R452); a wrap waits for
COUNTER_WRAP (R456). -/
def count (b ev n : Nat) (a : Attr) (d : Dev) : Dev :=
  each (List.range 8) (fun i d =>
    if (rg d (oPmon b + 8)).testBit i && !freshSet d (oPmon b + 0x40 + 8 * i) 0 && selMatch d b ev (rg d (oPmon b + 0x80 + 8 * i)) a then
      let c := rg d (oPmon b + 0x40 + 8 * i) + n
      let d := putReg (oPmon b + 0x40 + 8 * i) (c % 2 ^ 48) d
      if c < 2 ^ 48 then d
      else modTel (fun t => { t with wraps := t.wraps ++ [(b, i, attrStream b a)] }) d
    else d) d

/-- Count an occurrence of a unit once per Swath (Table 17.3). -/
def countOnce (kind unit b ev : Nat) (a : Attr) (d : Dev) : Dev :=
  if d.tel.once.contains (kind, unit) then d
  else count b ev 1 a (modTel (fun t => { t with once := (kind, unit) :: t.once }) d)

/-- Send the MSI-X message of a vector (R380): a masked vector sets its pending bit. -/
def sendMsix (v : Nat) (d : Dev) : Dev :=
  match tgetD d.ring.msix v (0, 0, true) with
  | (_, _, true) => modRing (fun r => { r with pba := if r.pba.contains v then r.pba else v :: r.pba }) d
  | (a, x, false) =>
    modRing (fun r => { r with msgs := tput r.msgs v (tgetD r.msgs v 0 + 1), mem := memWriteN r.mem a (toLE 4 x) }) d

/-- The EQ's depth and enable, and a CQ's. -/
def eqDepth (d : Dev) : Nat := 2 ^ fld d oEqCtl 0 5
def eqOn (d : Dev) : Bool := flag d oEqCtl 12
def cqDepth (d : Dev) (c : Nat) : Nat := 2 ^ fld d (oCqCtl c) 0 5
def cqOn (d : Dev) (c : Nat) : Bool := flag d (oCqCtl c) 12
def sqDepth (d : Dev) (q : Nat) : Nat := 2 ^ fld d (oSqCtl q) 0 5
def sqOn (d : Dev) (q : Nat) : Bool := flag d (oSqCtl q) 11

def sq (d : Dev) (q : Nat) : Sq := tgetD d.ring.sqs q sqZero
def modSq (q : Nat) (f : Sq → Sq) (d : Dev) : Dev :=
  modRing (fun r => { r with sqs := tput r.sqs q (f (tgetD r.sqs q sqZero)) }) d
def cq (d : Dev) (c : Nat) : Ring := tgetD d.ring.cqs c ringZero
def modCq (c : Nat) (f : Ring → Ring) (d : Dev) : Dev :=
  modRing (fun r => { r with cqs := tput r.cqs c (f (tgetD r.cqs c ringZero)) }) d
def modEq (f : Ring → Ring) (d : Dev) : Dev := modRing (fun r => { r with eq := f r.eq }) d

/-- Phase bit of the entry a ring writes next (R377). -/
def phaseOf (depth wr : Nat) : Nat := if wr / depth % 2 = 0 then 1 else 0

/-- An entry with its phase set in bit 7 of its last byte. -/
def withPhase (e : Bytes) (p : Nat) : Bytes :=
  let n := e.length
  overlay e (n - 1) [BitVec.ofNat 8 (byteAt e (n - 1) % 128 + 128 * p)]

/-- Block of Table 1.2 that raises an event (R498). -/
def eventBlock (code : Nat) : Nat :=
  if code = 1 then 17 else if code ≤ 4 then 6 else if code ≤ 6 then 1 else if code ≤ 8 then 2 else if code ≤ 0xC then 5
  else if code = 0xD then 3 else if code = 0xE then 8 else if code ≤ 0x11 then 11 else if code = 0x12 then 17
  else if code < 0x200 then 19 else 18

/-- Write one EQ entry, or count it lost when the ring is full (R379), and interrupt when armed (R380). -/
def writeEq (e : Event) (d : Dev) : Dev :=
  let n := eqDepth d
  let r := d.ring.eq
  if n ≤ r.wr - r.rd then modEq (fun r => { r with lost := (r.lost + 1) % 2 ^ 32, lostSince := r.lostSince + 1 }) d
  else
    let base := fld d 0x21000 6 58 * 64
    let b := toLE 2 e.code ++ toLE 1 (eventBlock e.code) ++ toLE 1 (min r.lostSince 255) ++ toLE 4 (e.swc % 2 ^ 32)
      ++ fit e.data 23 ++ [0]
    let d := hostWrite (base + 32 * (r.wr % n)) (withPhase b (phaseOf n r.wr)) d
    let d := modEq (fun r => { r with wr := r.wr + 1, lostSince := 0 }) d
    if r.armed then sendMsix (fld d oEqCtl 5 7) (modEq (fun r => { r with armed := false }) d) else d

/-- Raise an event (R379); before the EQ's first enable it is held, up to 32 (R429). -/
def postEvent (code : Nat) (data : Bytes) (d : Dev) : Dev :=
  let e : Event := { code := code, swc := d.clk.swc.toNat, data := data }
  if !d.ring.eqSeen then
    modRing (fun r => if r.held.length < 32 then { r with held := r.held ++ [e] }
      else { r with heldLost := r.heldLost + 1 }) d
  else if eqOn d then writeEq e d
  else modEq (fun r => { r with lost := (r.lost + 1) % 2 ^ 32, lostSince := r.lostSince + 1 }) d

/-- A CQ has an entry neither written and unread nor reserved (R378). -/
def cqFree (d : Dev) (c : Nat) : Bool :=
  let r := cq d c
  cqOn d c && decide (r.wr - r.rd + r.reserved < cqDepth d c)

def cqOf (d : Dev) (q : Nat) : Nat := fld d (oSqCtl q) 5 6

/-- The 16 bytes of a completion entry (R376), phase 0. -/
def cqEntry (tag status detail result sqn : Nat) (dup chunk : Bool) : Bytes :=
  toLE 8 tag ++ toLE 4 result ++ toLE 1 status ++ toLE 1 detail ++ toLE 1 (sqn % 64 + 64 * boolNat dup)
    ++ toLE 1 (boolNat chunk)

/-- Write a CQ entry (R376, R377), and interrupt when armed (R380). -/
def writeCq (c : Nat) (e : Bytes) (d : Dev) : Dev :=
  let n := cqDepth d c
  let r := cq d c
  let base := fld d (0x20800 + 0x20 * c) 6 58 * 64
  let d := hostWrite (base + 16 * (r.wr % n)) (withPhase e (phaseOf n r.wr)) d
  let d := modCq c (fun r => { r with wr := r.wr + 1 }) d
  let d := count 17 2 1 { masters := [mSq (byteAt e 14 % 64)], priv := some 1 } d
  if r.armed then sendMsix (fld d (oCqCtl c) 5 7) (modCq c (fun r => { r with armed := false }) d) else d

/-- A disabled SQ with nothing in progress empties its duplicate-tag window (R383, R397). -/
def sqSettle (q : Nat) (d : Dev) : Dev :=
  if !sqOn d q && (sq d q).busy.isEmpty then modSq q (fun s => { s with window := [] }) d else d

/-- Complete a command (R376, R378, R383): its reservation becomes an entry, and its tag enters the window. A disabled CQ
discards the entry (R416). -/
def complete (c : Cmd) (status detail result : Nat) (d : Dev) : Dev :=
  match c.chan with
  | .sq q =>
    let r := result % 2 ^ 32
    let d := modSq q (fun s => { s with busy := s.busy.erase c.tag,
                                        window := ((c.tag, status, detail, r) :: s.window).take 4096 }) d
    let k := cqOf d q
    let d := modCq k (fun x => { x with reserved := x.reserved - 1 }) d
    let d := if cqOn d k then writeCq k (cqEntry c.tag status detail r q false false) d else d
    sqSettle q d
  | .inband _ => defer (.answer c status detail (result % 2 ^ 32)) d
  | .own => d

/-- Mark the command at the head of its queue as one that waits for a Swath boundary, or take the mark away. -/
def setSlow (b : Bool) (c : Cmd) (d : Dev) : Dev :=
  match c.chan with
  | .sq q => modSq q (fun s => { s with slow := b }) d
  | .inband e =>
    modTel (fun t => { t with queues := tmod t.queues e (fun l => match l with
      | x :: r => { x with slow := b } :: r
      | [] => []) }) d
  | .own => d
/-- The command waits, and is tried again at each Swath boundary (R229, R313). -/
def waitSwath (c : Cmd) (d : Dev) : Dev := setSlow true c d
/-- The command has been tried and its next try is at a Swath boundary. -/
def isSlow (c : Cmd) (d : Dev) : Bool :=
  match c.chan with
  | .sq q => (sq d q).waiting.isSome && (sq d q).slow
  | .inband e => (match tgetD d.tel.queues e [] with
    | x :: _ => x.slow
    | [] => false)
  | .own => false

/-- A command tried at a Swath boundary has lost its mark. -/
def unslow (c : Cmd) (d : Dev) : Dev := if isSlow c d then setSlow false c d else d

/-- Command accepted (R375, R378): the head advances, a CQ entry is reserved, the head is written back (R397). -/
def accept (c : Cmd) (d : Dev) : Dev :=
  match c.chan with
  | .sq q =>
    let d := modSq q (fun s => { s with head := (s.head + 1) % sqDepth d q, waiting := none, busy := c.tag :: s.busy }) d
    let d := modCq (cqOf d q) (fun r => { r with reserved := r.reserved + 1 }) d
    let d := count 17 1 1 { masters := [mSq q], priv := some 1 } d
    let a := fld d (0x20008 + 0x20 * q) 6 58 * 64
    hostWrite a (toLE 4 (sq d q).head) d
  | .inband e =>
    modTel (fun t => { t with queues := tput t.queues e ((tgetD t.queues e []).drop 1), busy := (e, c.tag) :: t.busy }) d
  | .own => d

/-- Local EPT entries of a kind and local_index: the EIDs, lowest first (Table 3.1). -/
def localEids (d : Dev) (kind idx : Nat) : List Nat :=
  (d.tab.ept.filter (fun p => p.2.isLocal && !p.2.mcast && p.2.kind == kind && p.2.idx == idx)).map (·.1)

/-- The EID of SQ q (R374). -/
def sqEid (d : Dev) (q : Nat) : Option Nat := (localEids d 0 q).head?

/-- The EID a NOTICE of the device itself comes from: its MGMT EID, else its lowest local EID (log 9). -/
def noticeSrc (d : Dev) : Option Nat :=
  match localEids d 5 0 with
  | e :: _ => some e
  | [] => ((d.tab.ept.filter (fun p => p.2.isLocal && !p.2.mcast)).map (·.1)).head?

/-- Gather a NOTICE of this Swath for an addressee (R51, R57, R131, R161): one per status, detail and body. -/
def gather (dst status detail : Nat) (body : Bytes) (d : Dev) : Dev :=
  match noticeSrc d with
  | none => d
  | some src =>
    let go := fun (n : NoticeAcc) =>
      n.dst == dst && n.status == status && n.detail == detail && n.body == body && n.src == src
    if d.sw.notices.any go then
      modSw (fun s => { s with notices := s.notices.map (fun n => if go n then { n with count := n.count + 1 } else n) }) d
    else
      modSw (fun s => { s with notices := s.notices ++ [{ dst := dst, src := src, status := status, detail := detail,
                                                          body := body, count := 1, sent := false }] }) d

/-- Mark a function unproductive in the Swath in progress (R421). -/
def cause (fn : Nat) (d : Dev) : Dev :=
  modHlt (fun h => if h.causes.contains fn then h else { h with causes := fn :: h.causes }) d

/-- A sub-port is in HOLD from a cause at the far end (log 123). -/
def farHold (d : Dev) (lp : Nat) : Bool := (sub d lp).state == .hold && ((sub d lp).cause == .retry || (sub d lp).cause == .liveness)

/-- The sub-port an output lies on; 255 for an endpoint. -/
def tgtSub (t : Tgt) : Nat :=
  match t with
  | .fabric l => l
  | .edge l _ => l
  | .inner _ _ => 255

/-- A cell queued towards a sub-port is discarded under R51: the switch is unproductive, unless the HOLD has a far cause (R421). -/
def lateCause (lp : Nat) (d : Dev) : Dev := when (!farHold d lp) (cause 0) d

/-- Key of a part of Table 15.1. -/
def partKey (kind idx : Nat) : Nat := 2 ^ 32 * kind + idx

/-- A part in the retirement log (R403). -/
def retired (d : Dev) (kind idx : Nat) : Bool := d.nv.log.contains (kind, idx)

/-- The default and programmed weight of a row of Table 15.2 (R399). -/
def weight (d : Dev) (row : Nat) : Nat := fld d 0x500010 (8 * row) 8

/-- The row of Table 15.12 that a row of Table 15.2 counts against, with its hourly limit (R422). -/
def rateRow (row : Nat) : Option (Nat × Nat) :=
  match row with
  | 0 => some (0, 100) | 1 => some (1, 1000) | 3 => some (2, 10) | 4 => some (3, 2) | 5 => some (4, 1)
  | 7 => some (5, 1000) | _ => none

/-- What a limit of Table 15.12 counts by: the device, port or die a part belongs to. -/
def ratePart (kind idx : Nat) : Nat × Nat :=
  match kind with
  | 0 => (1, idx / 8)
  | 3 => (2, idx / 2 ^ 24)
  | 6 => (6, 0)
  | 9 => (8, idx % 1024)
  | _ => (kind, idx)

/-- Count an event against the limits of Table 15.12; beyond one, RATE_LIMIT once per part per hour (R422). -/
def rateCount (row limit kind idx : Nat) (d : Dev) : Dev :=
  let (kind, idx) := ratePart kind idx
  let k := 2 ^ 40 * row + partKey kind idx
  let (n, posted) := tgetD d.hlt.rates k (0, false)
  let d := modHlt (fun h => { h with rates := tput h.rates k (n + 1, posted || decide (limit < n + 1)) }) d
  if limit < n + 1 ∧ !posted then
    postEvent 0x106 (toLE 1 kind ++ toLE 4 idx ++ toLE 1 row ++ toLE 4 (n + 1)) (setEvt oHltStat 14 d)
  else d

/-- The levels of R400, 1 to 3, with their thresholds. -/
def levels (d : Dev) : List (Nat × Nat) :=
  [(1, fld d 0x500008 0 16), (2, fld d 0x500008 16 16), (3, fld d 0x500008 32 16)]

/-- Order the self-test of a part (R401): at most one is pending. -/
def orderTest (kind idx why : Nat) (w : List Cmd) (d : Dev) : Dev :=
  if d.hlt.tests.any (fun t => t.kind == kind && t.idx == idx) then
    modHlt (fun h => { h with tests := h.tests.map (fun t =>
      if t.kind == kind && t.idx == idx then { t with waiters := t.waiters ++ w } else t) }) d
  else
    modHlt (fun h => { h with tests := h.tests ++ [{ kind := kind, idx := idx, cause := why, running := false, waiters := w }] }) d

/-- The entry of the score table that gives way when a row or block table is full (R398). -/
def scoreRoom (kind idx : Nat) (t : Tab (Nat × Nat)) : Tab (Nat × Nat) :=
  let same := fun (k : Nat) =>
    k / 2 ^ 32 == kind && (kind == 9 || (kind == 3 && k % 2 ^ 32 / 2 ^ 24 == idx / 2 ^ 24))
  let lim := if kind = 9 then 65536 else 1024
  let l := t.filter (fun p => same p.1)
  if (kind = 3 ∨ kind = 9) ∧ lim ≤ l.length ∧ (tget t (partKey kind idx)).isNone then
    match l with
    | [] => t
    | x :: xs => tdel t (xs.foldl (fun m p => if p.2.1 < m.2.1 then p else m) x).1
  else t

/-- Post the level events a score has newly reached, and retire at RETIRE (R400, R402). -/
def levelEvents (kind idx row : Nat) (d : Dev) : Dev :=
  let k := partKey kind idx
  let s := (tgetD d.hlt.scores k (0, 0)).1
  each (levels d) (fun l d =>
    let (_, m) := tgetD d.hlt.scores k (0, 0)
    if l.2 ≤ s ∧ !m.testBit l.1 then
      let d := modHlt (fun h => { h with scores := tput h.scores k (s, m + 2 ^ l.1) }) d
      let d := postEvent 0x100 (toLE 1 kind ++ toLE 4 idx ++ toLE 2 s ++ toLE 1 l.1 ++ toLE 1 row) d
      if l.1 = 3 then defer (.retire kind idx true) d else d
    else d) d

/-- An event of Table 15.2: its weight, its level, its self-test, its rate and the sequences it disturbs (R399 to R401, R407,
R422). -/
def scoreEvent (row kind idx : Nat) (d : Dev) : Dev :=
  let k := partKey kind idx
  let d := modHlt (fun h => { h with scores := scoreRoom kind idx h.scores }) d
  let (s, m) := tgetD d.hlt.scores k (0, 0)
  let d := modHlt (fun h => { h with scores := tput h.scores k (min 65535 (s + weight d row), m) }) d
  let d := count 19 1 1 {} d
  let d := levelEvents kind idx row d
  let d := orderTest kind idx 1 [] d
  let d := match rateRow row with
    | some (r, lim) => rateCount r lim kind idx d
    | none => d
  defer (.fault kind idx) d

/-- Run a command's effect: operands that name no unit of the machine change nothing (log 99), and so does a module that is not ON
(R487). -/
def act (c : Instr) (settle f : Dev → Dev) (s : State) : Host.Outcome State Fault Refusal :=
  if wellFormed c then
    if s.dev.boot.power = .on then .next { s with dev := settle (f s.dev) } else .next s
  else .next s

/-- The accesses that follow meet these memory errors (R331, R334, log 75). -/
def meet (errs : List MemErr) (d : Dev) : Dev := if errs.isEmpty then d else { d with mem := { d.mem with errs := errs } }
/-- They are past. -/
def unmeet (errs : List MemErr) (d : Dev) : Dev := if errs.isEmpty then d else { d with mem := { d.mem with errs := [] } }

/-- Run a command whose accesses meet memory errors. -/
def actMem (c : Instr) (errs : List MemErr) (settle f : Dev → Dev) (s : State) : Host.Outcome State Fault Refusal :=
  act c (fun d => unmeet errs (settle d)) (fun d => f (meet errs d)) s

/-- As `act`, for the commands of the module's power, which act in every power state; what they leave is done if the module is then
ON. -/
def actPower (c : Instr) (settle f : Dev → Dev) (s : State) : Host.Outcome State Fault Refusal :=
  if wellFormed c then
    let d := f s.dev
    .next { s with dev := if d.boot.power = .on then settle d else d }
  else .next s

end Sys2Proof.Machine
end

