-- ==== Sys2Proof/Machine/Rates.lean ====
section
/-! DEFINITION. Sub-ports, their rates and capacities, and what an output has left for budgets (R34 to R40, R93 to R96). -/

namespace Sys2Proof.Machine

def portOf (lp : Nat) : Nat := lp / 4

/-- PORT_CFG.enable of a sub-port's port. -/
def enabled (d : Dev) (lp : Nat) : Bool := flag d (oPortCfg (portOf lp)) 0

/-- The port runs the Ethernet personality (R93). -/
def isEdge (d : Dev) (lp : Nat) : Bool := flag d (oPortCfg (portOf lp)) 1

def breakout (d : Dev) (lp : Nat) : Nat := fld d (oPortCfg (portOf lp)) 2 2

def laneRate (d : Dev) (lp : Nat) : Nat := fld d (oPortCfg (portOf lp)) 4 1

/-- The port's breakout gives the sub-port (Table 4.1). -/
def subExists (d : Dev) (lp : Nat) : Bool := decide (lp % 4 < 2 ^ min (breakout d lp) 2)

/-- The sub-ports of a port (Table 4.1). -/
def subsOf (d : Dev) (p : Nat) : List Nat := (List.range (2 ^ min (breakout d (4 * p)) 2)).map (4 * p + ·)

/-- Every sub-port that exists. -/
def allSubs (d : Dev) : List Nat := (List.range 64).flatMap (subsOf d)

/-- Lanes of a sub-port at full width (Table 4.1). -/
def fullLanes (d : Dev) (lp : Nat) : Nat := 8 / 2 ^ min (breakout d lp) 2

/-- Lanes it counts for: the running width once it has been in SERVICE (R96). -/
def lanesNow (d : Dev) (lp : Nat) : Nat :=
  let p := sub d lp
  if p.served ∧ p.lanes ≠ 0 then p.lanes else fullLanes d lp

/-- Rate in Gb/s (Table 4.1); for the combination that the table does not support, log 101. -/
def gbps (d : Dev) (lp : Nat) : Nat := 
  if laneRate d lp = 0 then lanesNow d lp * 200 else if lanesNow d lp = 2 then Config.pairRate else lanesNow d lp * 100

/-- t_cell or t_edge at 1.6 Tb/s, in 0.1 ps (R34). -/
def cellTime (d : Dev) (lp : Nat) : Nat := if isEdge d lp then 31500 else 27600

/-- Capacity C of an external output, cells per Swath (R34). -/
def capacity (d : Dev) (lp : Nat) : Nat := d.clk.nsNow * 18182 * gbps d lp / (cellTime d lp * 1600)

/-- R_cal (R35). -/
def calCells (d : Dev) (lp : Nat) : Nat :=
  ceilDiv ((ceilDiv d.clk.nsNow (2 ^ d.clk.adaptNow) + 1) * 18182 * gbps d lp) (cellTime d lp * 1600)

/-- M, the cap on VC4 (R35, R36). -/
def mgmtCells (d : Dev) (lp : Nat) : Nat := ceilDiv (capacity d lp) 50

/-- n_a, the ADAPT units of a Swath (R36). -/
def adaptUnits (d : Dev) (lp : Nat) : Nat :=
  ceilDiv (ceilDiv d.clk.nsNow (2 ^ d.clk.adaptNow) * 18182 * gbps d lp) (cellTime d lp * 1600)

/-- Crossbar port of an internal endpoint (Table 3.1). -/
def xportInner (code idx : Nat) : Nat :=
  match code with
  | 0xF8 => 84 + idx % 2
  | 0xF9 => 64 + idx
  | 0xFA => 72 + idx / 2
  | 0xFB => 76 + idx / 2
  | _ => 86

/-- Final hop code of an endpoint kind (Table 3.1). -/
def kindCode (kind : Nat) : Nat :=
  match kind with
  | 0 => 0xF8 | 1 => 0xFB | 2 => 0xF9 | 3 => 0xFA | 5 => 0xFC | _ => 0

/-- A local_index is in range for a final hop code (Table 3.1). -/
def idxOk (code idx : Nat) : Bool :=
  match code with
  | 0xF8 => decide (idx < 64) | 0xF9 => decide (idx < 8) | 0xFA => decide (idx < 8) | 0xFB => decide (idx < 16)
  | 0xFC => decide (idx = 0) | _ => false

/-- A byte is an internal final hop code (R54). -/
def isInner (b : Nat) : Bool := within 0xF8 0xFC b

def tgtXport : Tgt → Nat
  | .fabric lp => portOf lp
  | .edge lp _ => portOf lp
  | .inner code idx => xportInner code idx

/-- Where a Furrow entry sends (R86). -/
def furrowInner (f : Furrow) : Bool := f.last && isInner f.outHop

def furrowX (f : Furrow) : Nat := if furrowInner f then xportInner f.outHop f.idx else portOf f.outHop

/-- The held slots of an entry (R87). -/
def heldSlots (f : Furrow) : List Nat := (List.range f.count).map (fun j => f.first + j * f.stride)

/-- F_o of an output: an external sub-port, or an internal crossbar port (R35). -/
def furrowCells (d : Dev) (xport subp : Nat) : Nat :=
  (d.tab.furrows.map (fun p =>
    if furrowX p.2 = xport ∧ (64 ≤ xport ∨ p.2.outHop % 4 = subp) then p.2.count else 0)).sum

/-- avail_o (R37, R96). -/
def avail (d : Dev) (xport subp : Nat) : Nat :=
  if xport < 64 then
    let lp := 4 * xport + subp
    if enabled d lp then capacity d lp - calCells d lp - mgmtCells d lp - furrowCells d xport subp else 0
  else d.clk.nsNow - furrowCells d xport subp

/-- Weight w_v of an output, and the sum W (R37, R105). -/
def vcWeight (d : Dev) (xport v : Nat) : Nat := bits (inForce d (if xport < 64 then oVcw xport else 0x100008)) (8 * v) 8

def vcWeights (d : Dev) (xport : Nat) : Nat := ((List.range 4).map (vcWeight d xport)).sum

/-- What a budget index may come to count for: output, sub-port, VC mask and rate of what is in force, of what still runs out,
and of what waits (R39, R46); a CLEAR that waits takes away all before it (R76, log 111). -/
def budgetClaims (d : Dev) (i : Nat) : List (Nat × Nat × Nat × Nat) :=
  let now := match tget d.tab.budgets i with
    | none => []
    | some b => (b.rate :: b.old.map (·.rate)).map (fun r => (b.xport, b.sub, b.vcMask, r))
  (tgetD d.tab.budgetWait i []).foldl (fun l c => match c with
    | .write r _ _ x s m _ => l ++ [(x, s, m, r)]
    | .clear _ => []) now

/-- The most an index counts for at an output, in all or on one VC. -/
def budgetLoad (d : Dev) (i xport subp : Nat) (v : Option Nat) : Nat :=
  (budgetClaims d i).foldl (fun m c =>
    let on := match v with
      | some v => c.2.2.1.testBit v
      | none => true
    if c.1 = xport ∧ c.2.1 = subp ∧ on = true then max m c.2.2.2 else m) 0

/-- Indices of budgets in force or waiting. -/
def budgetKeys (d : Dev) : List Nat :=
  (d.tab.budgets.map (·.1)).filter (· < 65536) ++ (d.tab.budgetWait.map (·.1)).filter (fun i => (tget d.tab.budgets i).isNone)

/-- Loads of the budgets whose first hop is an output, one entry left out: in all, and for a VC. -/
def loadOf (d : Dev) (xport subp skip : Nat) (v : Option Nat) : Nat :=
  ((budgetKeys d).map (fun i => if i = skip then 0 else budgetLoad d i xport subp v)).sum

/-- R37 holds at an output with `extra` more cells of a mask, entry `skip` left out, and `furrow` more Furrow cells. -/
def r37Ok (d : Dev) (xport subp skip extra mask furrow : Nat) : Bool :=
  let a := avail d xport subp - furrow
  let w := vcWeights d xport
  decide (furrow ≤ avail d xport subp)
  && decide (loadOf d xport subp skip none + extra ≤ a)
  && (List.range 4).all (fun v =>
    decide (loadOf d xport subp skip (some v) + (if mask.testBit v then extra else 0) ≤ a * vcWeight d xport v / w))

/-- A fabric sub-port that carries cells: in SERVICE or HOLD (R57). -/
def fabricOpen (d : Dev) (lp : Nat) : Bool :=
  subExists d lp && !isEdge d lp && ((sub d lp).state == .service || (sub d lp).state == .hold)

def edgeOpen (d : Dev) (lp : Nat) : Bool :=
  subExists d lp && isEdge d lp && ((sub d lp).state == .service || (sub d lp).state == .hold)

/-- Some fabric sub-port is in SERVICE, other than one of a port left out. -/
def fabricService (d : Dev) (skip : Option Nat) : Bool :=
  (allSubs d).any (fun lp => some lp ≠ skip && !isEdge d lp && (sub d lp).state == .service)

/-- SWATH_STAT.aligned (Table 2.4). -/
def aligned (d : Dev) : Bool :=
  fabricService d none || !(allSubs d).any (fun lp =>
    !isEdge d lp && ((sub d lp).state == .aligning || (sub d lp).state == .hold))

end Sys2Proof.Machine
end

