-- ==== Sys2Proof/Machine/Startup.lean ====
section
/-! DEFINITION. Steps 7 and 8 of start-up, and its end: they complete as the ports they wait for do (R425, R449). -/

namespace Sys2Proof.Machine

/-- Milliseconds since the module reset. -/
def millis (d : Dev) : Nat := d.clk.now / 3300000

/-- STARTUP_DONE, once steps 6 and 7 have completed or failed (R449). -/
def startupDone (d : Dev) : Dev :=
  if d.boot.step6 && d.boot.step7 && !d.boot.doneSent then
    postEvent 0x209 (toLE 1 d.boot.stage ++ toLE 4 (millis d)) (modBoot (fun b => { b with doneSent := true }) d)
  else d

/-- Every enabled port has left TRAINING. -/
def portsTrained (d : Dev) : Bool :=
  (List.range 64).all (fun p => !flag d (oPortCfg p) 0 || (subsOf d p).all (fun lp => (sub d lp).state ≠ .training))

/-- The fabric sub-ports of enabled ports, and whether all have been in SERVICE. -/
def fabricAligned (d : Dev) : Bool :=
  let l := (List.range 64).flatMap (fun p => if flag d (oPortCfg p) 0 && !flag d (oPortCfg p) 1 then subsOf d p else [])
  !l.isEmpty && l.all (fun lp => (sub d lp).served)

/-- Steps 7 and 8 complete as their ports do (R425); what changes a port or begins step 7 ends with it. -/
def laterSteps (d : Dev) : Dev :=
  if d.boot.stage < 5 ∨ d.boot.recovery = true then d
  else
    let d := if !d.boot.step7 && portsTrained d then modBoot (fun b => { b with step7 := true, stage := max b.stage 7 }) d else d
    let d := if d.boot.step7 && decide (d.boot.stage < 8) && fabricAligned d then modBoot (fun b => { b with stage := 8 }) d else d
    startupDone d

end Sys2Proof.Machine
end

