-- ==== Sys2Proof/Machine/Crc.lean ====
section
/-! DEFINITION. The checksums the spec names: CRC-8 of the link header (R100), CRC-16/CCITT-FALSE of cells and markers
(R60), CRC-32C of digests and records (R197), and the Ethernet frame check sequence and the Internet checksum (R119). -/

namespace Sys2Proof.Machine

/-- One shift of an unreflected CRC register of `w` bits. -/
def crcShift (w poly : Nat) (c : Nat) : Nat :=
  let d := c * 2 % 2 ^ w
  if c.testBit (w - 1) then d ^^^ poly else d

def iter {α : Type} (f : α → α) : Nat → α → α
  | 0, x => x
  | n + 1, x => iter f n (f x)

/-- An unreflected CRC, bytes most significant bit first. -/
def crcMsb (w poly init : Nat) (b : Bytes) : Nat :=
  b.foldl (fun c x => iter (crcShift w poly) 8 (c ^^^ x.toNat * 2 ^ (w - 8))) init

/-- One shift of a reflected CRC register. -/
def crcShiftR (poly : Nat) (c : Nat) : Nat := if c % 2 = 1 then (c / 2) ^^^ poly else c / 2

/-- A reflected 32-bit CRC with initial value and final inversion of all ones. -/
def crcLsb32 (poly : Nat) (b : Bytes) : Nat :=
  (b.foldl (fun c x => iter (crcShiftR poly) 8 (c ^^^ x.toNat)) 0xFFFFFFFF) ^^^ 0xFFFFFFFF

/-- CRC-8 of the link header: polynomial 0x07, initial value 0 (R100). -/
def crc8 (b : Bytes) : Nat := crcMsb 8 0x07 0 b

/-- CRC-16/CCITT-FALSE (R60). -/
def crc16 (b : Bytes) : Nat := crcMsb 16 0x1021 0xFFFF b

/-- CRC-32C (R197). -/
def crc32c (b : Bytes) : Nat := crcLsb32 0x82F63B78 b

/-- The Ethernet FCS (R119), its value as transmitted least significant byte first. -/
def crc32 (b : Bytes) : Nat := crcLsb32 0xEDB88320 b

/-- Sum of 16-bit big-endian words, the odd byte padded with zero. -/
def sum16 : Bytes → Nat
  | [] => 0
  | [a] => a.toNat * 256
  | a :: b :: t => a.toNat * 256 + b.toNat + sum16 t

def fold16 (n : Nat) : Nat :=
  let a := n % 65536 + n / 65536
  let b := a % 65536 + a / 65536
  b % 65536 + b / 65536

/-- The Internet checksum of a byte string (R119). -/
def inetSum (b : Bytes) : Nat := 0xFFFF - fold16 (sum16 b)

end Sys2Proof.Machine
end

