-- ==== Sys2Proof/Machine/Dram.lean ====
section
/-! DEFINITION. The bytes of GDDR7: layout, remapping, the inline code, reads and writes by a request class (R18, R329 to R334). -/

namespace Sys2Proof.Machine

def modMem (f : Mems → Mems) (d : Dev) : Dev := { d with mem := f d.mem }

def gddrZero (i : Nat) : Gddr :=
  { mem := memNew (64 + i), bad := [], remap := [], fenced := [], trained := false, failed := false, scrub := 0, scrubAt := 0,
    behind := false, refreshed := [], owed := [] }

/-- GDDR7 device `i`. -/
def gddr (d : Dev) (i : Nat) : Gddr := tgetD d.mem.devs i (gddrZero i)

def modGddr (i : Nat) (f : Gddr → Gddr) (d : Dev) : Dev := modMem (fun m => { m with devs := tput m.devs i (f (gddr d i)) }) d

/-- Usable offsets below the spare region (R329). -/
def dataSize : Nat := 0xAA8E3800

/-- Code groups of a device, and spare row 0 (R329). -/
def groups : Nat := 5592405
def spareRow (i : Nat) : Nat := 1571840 + i

/-- Flat address of a usable offset of a device (R330). -/
def flatOf (i off : Nat) : Nat := 8192 * (off / 512) + 512 * i + off % 512

/-- Device and usable offset of a flat address (R330). -/
def ofFlat (a : Nat) : Nat × Nat := (a / 512 % 16, 512 * (a / 8192) + a % 512)

/-- The row an access to a physical row reaches (R338): a failed spare row serves until its replacement is valid. -/
def rowNow (g : Gddr) (r : Nat) : Nat :=
  match g.remap.find? (fun p => p.2.valid && !p.2.spareFailed && p.2.row == r) with
  | some (i, _) => spareRow i
  | none => match g.remap.reverse.find? (fun p => p.2.valid && p.2.row == r) with
    | some (i, _) => spareRow i
    | none => r

/-- Rows of the data block and of the check block of a codeword (R329, R331), as its address gives them and as accesses reach them. -/
def cwBlock (cw : Nat) : Nat := 9 * (cw / 32) + cw % 32 / 4
def cwRows (cw : Nat) : List Nat := [cwBlock cw / 32, (9 * (cw / 32) + 8) / 32]
def cwRow (g : Gddr) (cw : Nat) : Nat := rowNow g (cwBlock cw / 32)

/-- A codeword lies in a fenced row (R339). -/
def cwFenced (g : Gddr) (cw : Nat) : Bool := (cwRows cw).any (fun r => g.fenced.contains r || g.fenced.contains (rowNow g r))

/-- A read of a codeword is answered as uncorrectable (R332, R339, R341). -/
def cwLost (g : Gddr) (cw : Nat) : Bool := g.failed || g.bad.contains cw || cwFenced g cw

/-- Codewords of a range. -/
def cwsOf (off n : Nat) : List Nat := if n = 0 then [] else (List.range ((off + n - 1) / 16 - off / 16 + 1)).map (off / 16 + ·)

/-- Index of a row region (Table 15.1). -/
def rowIdx (i row : Nat) : Nat := row + 2 ^ 24 * i

/-- Report an uncorrectable codeword read by a class (R332, R403); a row fenced or a device not in use is not read, and only the
health manager is told (R264). -/
def reportLost (i cls cw : Nat) (d : Dev) : Dev :=
  let g := gddr d i
  if g.failed then defer (.fault 2 i) d
  else if cwFenced g cw then defer (.fault 3 (rowIdx i (cwRow g cw))) d
  else
    let row := cwRow g cw
    let d := rateCount 6 0 2 i (setEvt oMemEvt 3 d)
    let d := if flag d oMemLog 0 then d
      else stamp oMemLog 0 (putReg oMemLog (1 + 2 * i + 2 ^ 5 * cls + 2 ^ 8 * row + 2 ^ 29 * (cwBlock cw % 32) + 2 ^ 34 * (cw % 32)) d)
    defer (.fault 3 (rowIdx i row)) (defer (.retire 3 (rowIdx i row) false) d)

/-- The blocks of an access, counted (Table 17.3). -/
def countBlocks (ev i off n cls : Nat) (d : Dev) : Dev :=
  if n = 0 then d
  else each (List.range ((off + n - 1) / 64 - off / 64 + 1)) (fun k d =>
    count 15 ev 1 { addr := some (flatOf i (64 * (off / 64 + k))), cls := some cls } d) d

/-- The error the running command's accesses meet in a codeword. -/
def errAt (d : Dev) (i cw : Nat) : Option MemErr := d.mem.errs.find? (fun e => e.dev == i && e.cw == cw)

/-- Repetitions of a transmission whose EDC CRC fails `n` times in a row (R334): up to MEM_EDC.max, each reported. -/
def edcRetry (i cls cw n : Nat) (d : Dev) : Dev :=
  iter (fun d => scoreEvent 1 2 i (setEvt oMemEvt 1 (count 15 4 1 { addr := some (flatOf i (16 * cw)), cls := some cls } d)))
    (min n (fld d 0x440020 0 4)) d

/-- A codeword has been corrected (R332): counted, and its row region scores. -/
def corrected (i cls cw : Nat) (d : Dev) : Dev :=
  scoreEvent 0 3 (rowIdx i (cwRow (gddr d i) cw))
    (setEvt oMemEvt 0 (count 15 3 1 { addr := some (flatOf i (16 * cw)), cls := some cls } d))

/-- What reading a codeword gives. -/
inductive CwRead where
  /-- Its data as stored; it was corrected or not. -/
  | good (fixed : Bool)
  /-- Other data, taken for good (R331). -/
  | wrong (b : Bytes) (fixed : Bool)
  /-- Uncorrectable. -/
  | lost
deriving DecidableEq, Repr

/-- Read and decode one codeword (R331, R332, R334): one wrong symbol is corrected, two are detected, and of more nothing is
guaranteed: detected, miscorrected or missed, by a free value (log 75). -/
def readCw (i cls cw : Nat) (d : Dev) : CwRead × Dev :=
  let lose := fun (d : Dev) => (CwRead.lost, reportLost i cls cw (modGddr i (fun g => { g with bad := cw :: g.bad }) d))
  if cwLost (gddr d i) cw then (.lost, reportLost i cls cw d)
  else
    match errAt d i cw with
    | none => (.good false, d)
    | some e =>
      let d := edcRetry i cls cw e.edc d
      match e.symbols with
      | 0 => (.good false, d)
      | 1 => (.good true, corrected i cls cw d)
      | 2 => lose d
      | _ =>
        let (v, d) := drawFree d
        let (b, d) := freeBytes 16 d
        match v.toNat % 3 with
        | 0 => lose d
        | 1 => (.wrong b true, corrected i cls cw d)
        | _ => (.wrong b false, d)

/-- Read codewords: whether one is lost, and the wrong data taken for good. -/
def readCws (i cls : Nat) (cws : List Nat) (d : Dev) : Bool × Tab Bytes × Dev :=
  cws.foldl (fun (a : Bool × Tab Bytes × Dev) cw =>
    match readCw i cls cw a.2.2 with
    | (.good _, d) => (a.1, a.2.1, d)
    | (.wrong b _, d) => (a.1, tput a.2.1 cw b, d)
    | (.lost, d) => (true, a.2.1, d)) (false, [], d)

/-- Codewords of a range with wrong data put over memory. -/
def patched (m : Memory) (wrong : Tab Bytes) : Memory := wrong.foldl (fun m p => memWriteN m (16 * p.1) p.2) m

/-- Read bytes of a device for a request class (R332): none when a codeword is uncorrectable. -/
def gRead (i off n cls : Nat) (d : Dev) : Option Bytes × Dev :=
  let (lost, wrong, d) := readCws i cls (cwsOf off n) (countBlocks 1 i off n cls d)
  (if lost then none else some (memReadN (patched (gddr d i).mem wrong) off n), d)

/-- A codeword is covered whole by a range. -/
def cwWhole (off n cw : Nat) : Bool := decide (off ≤ 16 * cw) && decide (16 * cw + 16 ≤ off + n)

/-- A write of a codeword goes over the pins (R334): taken as written even when its last repetition fails. -/
def writeCw (i cls cw : Nat) (d : Dev) : Dev :=
  match errAt d i cw with
  | none => d
  | some e => when (decide (fld d 0x440020 0 4 < e.edc)) (setEvt oMemEvt 2) (edcRetry i cls cw e.edc d)

/-- Write bytes of a device (R333): a codeword covered in part is read first, and when one is uncorrectable, or lies in a fenced
row or a device not in use, nothing is written. True when it was written. -/
def gWrite (i off cls : Nat) (b : Bytes) (d : Dev) : Bool × Dev :=
  let n := b.length
  let d := countBlocks 2 i off n cls d
  let cws := cwsOf off n
  let part := cws.filter (fun cw => !cwWhole off n cw)
  let whole := cws.filter (cwWhole off n)
  let d := each part (fun cw d => count 15 5 1 { addr := some (flatOf i (16 * cw)), cls := some cls } d) d
  let (lost, wrong, d) := readCws i cls part d
  let g := gddr d i
  match whole.find? (fun cw => g.failed || cwFenced g cw) with
  | some cw => (false, reportLost i cls cw d)
  | none =>
  if lost then (false, d)
  else
    (true, modGddr i (fun g => { g with mem := memWriteN (patched g.mem wrong) off b,
                                        bad := g.bad.filter (fun cw => !whole.contains cw) }) (each whole (writeCw i cls) d))

end Sys2Proof.Machine
end

