-- ==== Sys2Proof/Machine/Bpm.lean ====
section
/-! DEFINITION. The Buffer Pool Manager: owners, lending, levels, returns and answer reservations (R145 to R157). -/

namespace Sys2Proof.Machine

/-- Owner numbers of Table 5.1: a logical ingress sub-port and VC, or an internal crossbar port and VC. -/
def ownExt (lp vc : Nat) : Nat := 8 * lp + vc
def ownInt (x vc : Nat) : Nat := 2048 + 8 * x + vc

def ownVc (o : Nat) : Nat := o % 8

/-- The owner is a sub-port of the Ethernet personality, or an internal source. -/
def ownInternal (o : Nat) : Bool := decide (2048 ≤ o)

/-- Reserved minimum of an owner in force (R146, R147); an owner that does not exist has none. -/
def ownMin (d : Dev) (o : Nat) : Nat :=
  if ownInternal o then bits (inForce d oBpmRsv) 12 12
  else if d.bpm.ext.contains (o / 8) then bits (inForce d oBpmRsv) 0 12 else 0

def useOf (d : Dev) (o : Nat) : Use := tgetD d.bpm.use o { p0 := 0, p1 := 0 }

/-- 2c of every PREPARED and ACTIVE Furrow entry (R146). -/
def furrowRsv (d : Dev) : Nat :=
  (d.tab.furrows.map (fun p => if p.2.state = .broken then 0 else 2 * p.2.count)).sum

/-- P0 cells (R145). -/
def p0Cells : Nat := 393216

/-- Reserved minima with given minima and owners (R146). -/
def rsvSum (d : Dev) (extMin intMin owners : Nat) : Nat := extMin * 5 * owners + intMin * 115 + furrowRsv d

/-- Sh (R146). -/
def shPart (d : Dev) : Nat :=
  p0Cells - rsvSum d (bits (inForce d oBpmRsv) 0 12) (bits (inForce d oBpmRsv) 12 12) d.bpm.ext.length

/-- Sub-ports whose owners exist or are coming into existence (R146). -/
def comingSubs (d : Dev) : List Nat :=
  let want := (List.range 64).flatMap (fun p => if flag d (oPortCfg p) 0 then subsOf d p else [])
  d.bpm.ext ++ want.filter (fun lp => !d.bpm.ext.contains lp)

/-- Minima the BPM will hold: as last written (R146, R147). -/
def rsvAfter (d : Dev) (extMin intMin : Nat) (subs : List Nat) : Nat := rsvSum d extMin intMin subs.length

/-- The owners that exist or come leave Sh at 1 or more, with `more` cells of Furrows besides. -/
def shStays (d : Dev) (v more : Nat) : Bool :=
  decide (rsvAfter d (bits v 0 12) (bits v 12 12) (comingSubs d) + more < p0Cells)

/-- What an owner holds of the shared part: its excess over its minimum (R147, Table 5.5). -/
def sharedOf (d : Dev) (o : Nat) : Nat := (useOf d o).p0 - ownMin d o

/-- U (R146). -/
def uPart (d : Dev) : Nat := (d.bpm.use.map (fun p => p.2.p0 - ownMin d p.1)).sum

/-- P0 buffers lent, those of Furrow entries included. -/
def p0Used (d : Dev) : Nat := (d.bpm.use.map (fun p => p.2.p0)).sum + furrowRsv d

def p1Used (d : Dev) : Nat := (d.bpm.use.map (fun p => p.2.p1)).sum

/-- The level U / Sh leads to from the level held (Table 5.2). -/
def levelStep (u sh l : Nat) : Nat :=
  let up := if 95 * sh ≤ 100 * u then 3 else if 85 * sh ≤ 100 * u then 2 else if 75 * sh ≤ 100 * u then 1 else 0
  let keep := if 93 * sh ≤ 100 * u then 3 else if 83 * sh ≤ 100 * u then 2 else if 73 * sh ≤ 100 * u then 1 else 0
  max up (min l keep)

/-- Recompute the level; entering one posts its event at most once per Swath (R148). -/
def relevel (d : Dev) : Dev :=
  let u := uPart d
  let l := levelStep u (shPart d) d.bpm.level
  let old := d.bpm.level
  let d := modBpm (fun b => { b with level := l }) d
  each ([1, 2, 3].filter (fun i => decide (old < i) && decide (i ≤ l))) (fun i d =>
    let d := setEvt oBpmEvt (i - 1) d
    if d.bpm.posted.contains i then d
    else postEvent (8 + i) (toLE 4 u) (modBpm (fun b => { b with posted := i :: b.posted }) d)) d

/-- Who asks for a buffer, as R148 sets them apart. -/
inductive Asker where
  | credit | source | datagram
deriving DecidableEq, Repr

/-- The level lets the shared part be lent (Table 5.2). -/
def levelAllows (level vc : Nat) (a : Asker) : Bool :=
  match level with
  | 0 | 1 => true
  | 2 => a ≠ .credit || vc == 1 || vc == 4
  | _ => vc == 1 || vc == 4

/-- The BPM lends from P1: START, TEST or RECOVERY with no change to SERVICE pending (R147, R154). -/
def spillMode (d : Dev) : Bool := d.bpm.mode ≠ 3 && !d.bpm.pending

/-- Requester slot of an owner (R151). -/
def rqSlot (o : Nat) : Nat := if ownInternal o then 16 + ((o - 2048) / 8 - 64) / 3 else o / 8 / 16

/-- Crossbar port of an owner. -/
def ownPort (o : Nat) : Nat := if ownInternal o then (o - 2048) / 8 else o / 8 / 4

/-- One buffer is left to the shared part. -/
def lastBuffer (d : Dev) : Bool := uPart d + 1 == shPart d || p0Used d + 1 == p0Cells

/-- A fabric sub-port lends credits: it exists with a link that has been trained (R149, log 110). -/
def lendsCredits (d : Dev) (lp : Nat) : Bool :=
  let p := sub d lp
  !(isEdge d lp || p.state == .disabled || p.state == .training || (p.state == .down && !p.lock))

/-- Credits a sub-port wants: fewer are lent and not yet filled than BPM_CREDIT.max_out (R149). -/
def wantsCredit (d : Dev) (lp v : Nat) : Bool :=
  lendsCredits d lp && decide (tgetD (sub d lp).link.lent v 0 < fld d 0x1C0014 0 12)

/-- Credits that ask for a shared buffer: sub-port and VC. -/
def creditAsks (d : Dev) : List (Nat × Nat) :=
  d.subs.flatMap (fun s => ((List.range 5).filter (fun v => wantsCredit d s.1 v && levelAllows d.bpm.level v .credit)).map
    (fun v => (s.1, v)))

/-- Frames of an internal source that wait for a buffer or a reservation: crossbar port and number (R150, R152). -/
def awaiting (d : Dev) : List (Nat × Nat) :=
  d.sw.tx.filterMap (fun p => if p.2.why = 1 ∧ 64 ≤ p.2.fr.xport then some (p.2.fr.xport, p.1) else none)

/-- Requester slots that ask for a buffer in this cycle (R151). -/
def slotsAsking (d : Dev) : List Nat :=
  ((awaiting d).map (fun (w : Nat × Nat) => 16 + (w.1 - 64) / 3) ++ (creditAsks d).map (fun (c : Nat × Nat) => c.1 / 16)).eraseDups

/-- The slot that the last shared buffer goes to when a slot `s` asks for it with others (R151): the first one after the slot
served last in a tie; none when no other asks. -/
def tieWinner (d : Dev) (s : Nat) : Option Nat :=
  if lastBuffer d then
    let l := (s :: slotsAsking d).eraseDups
    if 2 ≤ l.length then (List.range 24).map (fun i => (d.bpm.tie + 1 + i) % 24) |>.find? l.contains else none
  else none

/-- What lending one buffer to an owner would draw on: some false P0, some true P1, none refused (R147, R151). -/
def lendFrom (d : Dev) (o : Nat) (a : Asker) : Option Bool :=
  let u := useOf d o
  if u.p0 < ownMin d o ∧ p0Used d < p0Cells then some false
  else if 100 * (sharedOf d o + 1) ≤ bits (inForce d oBpmRsv) 24 7 * shPart d ∧ uPart d < shPart d
      ∧ levelAllows d.bpm.level (ownVc o) a ∧ p0Used d < p0Cells then
    (if (tieWinner d (rqSlot o)).all (· == rqSlot o) then some false else none)
  else if spillMode d ∧ p1Used d < fld d 0x1C0008 0 24 then some true
  else none

/-- The logical port filter of an owner's events (Table 17.3). -/
def ownAttr (o : Nat) : Attr :=
  if ownInternal o then { vc := some (ownVc o) } else { masters := [mPort (o / 8)], vc := some (ownVc o) }

def setUse (o : Nat) (u : Use) (d : Dev) : Dev := modBpm (fun b => { b with use := tput b.use o u }) d

/-- One more, and one fewer, buffer of a pool. -/
def useAdd (spill : Bool) (u : Use) : Use := if spill then { u with p1 := u.p1 + 1 } else { u with p0 := u.p0 + 1 }
def useSub (spill : Bool) (u : Use) : Use := if spill then { u with p1 := u.p1 - 1 } else { u with p0 := u.p0 - 1 }

/-- Charge one buffer to an owner. -/
def charge (o : Nat) (spill : Bool) (d : Dev) : Dev :=
  let shared := !spill && decide (ownMin d o ≤ (useOf d o).p0)
  let d := if shared && (tieWinner d (rqSlot o)).isSome then count 5 4 1 (ownAttr o) (modBpm (fun b => { b with tie := rqSlot o }) d) else d
  let d := setUse o (useAdd spill (useOf d o)) (modBpm (fun b => { b with turn := tput b.turn (rqSlot o) (ownPort o) }) d)
  let d := if shared then count 5 1 1 (ownAttr o) d else d
  let d := if spill then count 5 3 1 (ownAttr o) d else d
  relevel d

/-- Return one buffer to its pool and owner (R153). -/
def uncharge (o : Nat) (spill : Bool) (d : Dev) : Dev :=
  relevel (setUse o (useSub spill (useOf d o)) d)

/-- Lend one buffer: which pool, and the state after; a refusal is counted. -/
def lend (o : Nat) (a : Asker) (d : Dev) : Option Bool × Dev :=
  match lendFrom d o a with
  | some s => (some s, charge o s d)
  | none => (none, count 5 2 1 (ownAttr o) d)

/-- Lend `n` buffers, all or none (R150): the pools they came from. -/
def lendAll (o : Nat) (a : Asker) : Nat → Dev → Option (List Bool × Dev)
  | 0, d => some ([], d)
  | n + 1, d =>
    match lend o a d with
    | (some p, d) =>
      match lendAll o a n d with
      | some (l, d) => some (p :: l, d)
      | none => none
    | (none, _) => none

/-- Where cell `k` of P1 lies (R145, R330): device and usable offset. -/
def spillAt (d : Dev) (k : Nat) : Nat × Nat := ofFlat (2 ^ 20 * fld d 0x1C0008 32 32 + 512 * k)

/-- Lowest free cell of P1. -/
def spillFree (d : Dev) : Nat :=
  let used := d.bpm.bufs.filterMap (fun p => p.2.cell)
  ((List.range (used.length + 1)).find? (fun k => !used.contains k)).getD used.length

/-- Store a cell in a buffer already charged: its number, and the state after; a cell spilled to P1 is written to GDDR7 (R18, R145). -/
def store (hdr pay : Bytes) (owner : Option Nat) (spill : Bool) (refs : Nat) (d : Dev) : Nat × Dev :=
  let cell := if spill then some (spillFree d) else none
  let d := match cell with
    | some k => (gWrite (spillAt d k).1 (spillAt d k).2 5 pay d).2
    | none => d
  (d.bpm.nextBuf, modBpm (fun b => { b with
    bufs := tput b.bufs b.nextBuf { hdr := hdr, pay := pay, owner := owner, spill := spill, cell := cell, swc := d.clk.swc.toNat,
                                    refs := refs, resv := none },
    nextBuf := b.nextBuf + 1 }) d)

def buf (d : Dev) (n : Nat) : Option Buf := tget d.bpm.bufs n

/-- The payload of a buffer as it leaves the pool: a spilled one is read back from GDDR7; none when a codeword is uncorrectable (R332). -/
def bufRead (b : Buf) (d : Dev) : Option Bytes × Dev :=
  match b.cell with
  | some k => gRead (spillAt d k).1 (spillAt d k).2 b.pay.length 5 d
  | none => (some b.pay, d)

/-- Take one cell off a reservation (R152). -/
def resvTake (id : Nat) (d : Dev) : Dev :=
  match tget d.bpm.resv id with
  | some r =>
    let t := if r.left ≤ 1 then tdel d.bpm.resv id else tput d.bpm.resv id { r with left := r.left - 1 }
    modBpm (fun b => { b with resv := t }) d
  | none => d

/-- Give a buffer back when its last reference has gone (R153, R157). -/
def freeBuf (n : Nat) (d : Dev) : Dev :=
  match buf d n with
  | none => d
  | some b =>
    let d := modBpm (fun p => { p with bufs := tdel p.bufs n }) d
    let d := match b.resv with
      | some id => resvTake id d
      | none => d
    match b.owner with
    | some o => uncharge o b.spill d
    | none => d

/-- Remove one reference; the count reaches 0 once, and the buffer is returned then, once (R157). -/
def dropRef (n : Nat) (d : Dev) : Dev :=
  match buf d n with
  | none => d
  | some b =>
    if b.refs ≤ 1 then freeBuf n d
    else modBpm (fun p => { p with bufs := tput p.bufs n { b with refs := b.refs - 1 } }) d

/-- Draw `n` buffers of P0, all or none (R152). -/
def lendP0 (o : Nat) : Nat → Dev → Option Dev
  | 0, d => some d
  | n + 1, d => if lendFrom d o .source = some false then lendP0 o n (charge o false d) else none

/-- Reserve `n` buffers for an answer at a requester's crossbar port, charged to its VC1 owner (R152). -/
def reserve (xport own dst src n dl : Nat) (step : Option (Nat × Nat × Nat)) (d : Dev) : Option (Nat × Dev) :=
  if p0Cells < n then none
  else
    match lendP0 own n d with
    | none => none
    | some d =>
      let id := d.bpm.nextBuf
      let r : Resv := { xport := xport, dst := dst, src := src, left := n, dl := dl, step := step, own := own }
      some (id, modBpm (fun b => { b with nextBuf := b.nextBuf + 1, resv := tput b.resv id r }) d)

/-- Return what is left of a reservation; a cell that has moved to it keeps its buffer until it leaves. -/
def unreserve (id : Nat) (d : Dev) : Dev :=
  match tget d.bpm.resv id with
  | none => d
  | some r =>
    let moved := (d.bpm.bufs.filter (fun p => p.2.resv == some id)).length
    let d := modBpm (fun b => { b with
      resv := tdel b.resv id, bufs := tmap (fun x => if x.resv = some id then { x with resv := none } else x) b.bufs }) d
    each (List.range (r.left - moved)) (fun _ d => uncharge r.own false d) d

/-- The open reservation a VC1 cell answers (R152). -/
def resvFor (d : Dev) (src dst : Nat) : Option Nat :=
  (d.bpm.resv.find? (fun p => p.2.src == src && p.2.dst == dst
    && decide ((d.bpm.bufs.filter (fun b => b.2.resv == some p.1)).length < p.2.left))).map (·.1)

/-- BPM_MODE_CHANGED (R155). -/
def postMode (d : Dev) : Dev := postEvent 0xC (toLE 1 d.bpm.mode.toNat ++ toLE 1 (boolNat d.bpm.pending)) d

/-- A write of BPM_MODE.mode (R154). -/
def writeMode (m : BitVec 2) (d : Dev) : Dev :=
  let old := d.bpm
  let d' := if m = 3 then
      (if p1Used d = 0 then modBpm (fun b => { b with mode := 3, pending := false }) d
       else if old.mode = 3 then d else modBpm (fun b => { b with pending := true }) d)
    else modBpm (fun b => { b with mode := m, pending := false }) d
  if d'.bpm.mode = old.mode ∧ d'.bpm.pending = old.pending then d' else postMode d'

end Sys2Proof.Machine
end

