-- ==== Sys2Proof/Machine/Cells.lean ====
section
/-! DEFINITION. Cell headers, forwarding and the write of a cell into the packet buffer (R51, R56 to R61, R78, R115, R156). -/

namespace Sys2Proof.Machine

/-- Fields of a cell header (Table 4.11). -/
def hVc (h : Bytes) : Nat := byteAt h 16 / 32
def hTc (h : Bytes) : Nat := byteAt h 16 / 4 % 8
def hFirst (h : Bytes) : Bool := (byteAt h 16).testBit 1
def hLast (h : Bytes) : Bool := (byteAt h 16).testBit 0
def hPtr (h : Bytes) : Nat := byteAt h 17 / 16
def hCnt (h : Bytes) : Nat := byteAt h 17 % 16
def hDst (h : Bytes) : Nat := beAt h 18 3
def hSrc (h : Bytes) : Nat := beAt h 21 3
def hDl (h : Bytes) : Nat := beAt h 24 2
def hIdx (h : Bytes) : Nat := byteAt h 26
def hLen (h : Bytes) : Nat := if byteAt h 27 / 8 = 0 then 512 else byteAt h 27 / 8 * 16
def hMcast (h : Bytes) : Bool := (byteAt h 27).testBit 1
def hLate (h : Bytes) : Bool := (byteAt h 27).testBit 0
def hHash (h : Bytes) : Nat := beAt h 28 2
def hHop (h : Bytes) (i : Nat) : Nat := byteAt h i
def hGroup (h : Bytes) : Nat := beAt h 0 2

/-- The header with its CRC (R115). -/
def sealHdr (h : Bytes) : Bytes := slice h 0 30 ++ toBE 2 (crc16 (slice h 0 30))

/-- Build a cell header (R56, R115). -/
def mkHdr (hops : Bytes) (vc tc : Nat) (first last : Bool) (cnt dst src dl idx len : Nat) (mcast : Bool) (hash : Nat) : Bytes :=
  sealHdr (fit hops 16
    ++ toBE 1 (vc * 32 + tc * 4 + boolNat first * 2 + boolNat last)
    ++ toBE 1 cnt ++ toBE 3 dst ++ toBE 3 src ++ toBE 2 dl ++ toBE 1 idx
    ++ toBE 1 (len / 16 % 32 * 8 + boolNat mcast * 2) ++ toBE 2 hash)

/-- The copy a link transmits: one link further (R57, R78), with the late flag when it is due (R52). -/
def hopCopy (h : Bytes) (late : Bool) : Bytes :=
  sealHdr (overlay (overlay h 17 [BitVec.ofNat 8 ((hPtr h + 1) % 16 * 16 + hCnt h)]) 27
    [BitVec.ofNat 8 (if late && !hLate h then byteAt h 27 + 1 else byteAt h 27)])

/-- Flow hash (R60). -/
def flowHash (src dst label : Nat) : Nat := crc16 (toBE 3 src ++ toBE 3 dst ++ toBE 2 label)

/-- A deadline has passed (R51). -/
def isLate (d : Dev) (dl : Nat) : Bool := within 1 32767 (subMod 16 (swc16 d) dl)

/-- Tally kinds: 0 R57, 1 R51, 2 R116, 3 R78, 4 R90, 5 late flags, 6 no credit, 7 R161, 8 R420, 9 R417, 10 R118 and R167,
11 PAUSE frames, 12 datagrams without a buffer, 13 rx op not taken, 14 duplicates, 15 in-band codes, 16 to 23 tests of R123, 24 cells of P1 lost (R332). -/
def dropCell (kind unit : Nat) (status : Option Nat) (h : Bytes) (d : Dev) : Dev :=
  let d := tally kind unit d
  match status with
  | some s => gather (hSrc h) s (if kind = 7 then 4 else 0) [] d
  | none => d

/-- The local EDGE entry's peer record names a sub-port (R126, R128). -/
def peerLp (r : Bytes) : Nat := byteAt r 7

def peerRec (d : Dev) (i : Nat) : Bytes := fit (tgetD d.tab.peers i (zeros 32)) 32

/-- A valid local MGMT entry exists (R462). -/
def hasMgmt (d : Dev) : Bool := !(localEids d 5 0).isEmpty

def reservedEid (e : Nat) : Bool := e == 0 || decide (0xFFFF00 ≤ e)

/-- The final hop of a unicast cell (R58, R126, R462): a target, or none for the discard of R57. -/
def finalHop (d : Dev) (b dst : Nat) : Option Tgt :=
  if b = 0xFC ∧ !hasMgmt d then (if reservedEid dst then none else some (.inner 0xFC 0))
  else
    match tget d.tab.ept dst with
    | none => none
    | some e =>
      if !e.isLocal || e.mcast then none
      else if isInner b then (if kindCode e.kind = b then some (.inner b e.idx) else none)
      else if b < 0xF8 ∧ e.kind = 4 ∧ edgeOpen d b ∧ peerLp (peerRec d e.idx) = b then some (.edge b e.idx)
      else none

/-- Look-up count of the EPT (Table 17.3), with what the filters see of it. -/
def countLookup (hit : Bool) (a : Attr) (d : Dev) : Dev :=
  let a := { priv := a.priv }
  let d := count 4 1 1 a d
  if hit then d else count 4 2 1 a d

/-- What the filters see of a cell: the logical ports among the units given, its VC and its TC (Table 17.3, log 124). -/
def cellAttr (units : List Nat) (h : Bytes) : Attr :=
  { masters := (units.filter (· < 64)).map mPort, vc := some (hVc h), tc := some (hTc h) }

/-- A target of a multicast group, or none for the discard of R78 or the refusal of R417. -/
def groupTgt (d : Dev) (fromLink : Bool) (vc : Nat) (t : Target) : Option Tgt :=
  if t.fabric then
    (if fromLink && !d.hlt.ready && decide (vc < 4) then none
     else if fabricOpen d t.hop then some (.fabric t.hop) else none)
  else if isInner t.hop then some (.inner t.hop t.idx)
  else if edgeOpen d t.hop ∧ peerLp (peerRec d t.idx) = t.hop then some (.edge t.hop t.idx) else none

/-- Where a cell goes from here, and what its discarded copies report (R57, R58, R78, R417). -/
def route (fromLink : Bool) (unit : Nat) (h : Bytes) (d : Dev) : List Tgt × Dev :=
  if hMcast h then
    match tget d.tab.groups (hGroup h) with
    | none => ([], tally 3 unit d)
    | some g =>
      if hCnt h < hPtr h then ([], tally 3 unit d)
      else
        let ts := g.targets.map (groupTgt d fromLink (hVc h))
        let bad := (ts.filter Option.isNone).length
        let d := if fromLink && !d.hlt.ready && bad ≠ 0 then setEvt oHltStat 15 d else d
        (ts.filterMap id, each (List.range bad) (fun _ => dropCell 0 unit (some 4) h) d)
  else if hPtr h < hCnt h then
    if fromLink && !d.hlt.ready && decide (hVc h ≠ 4) then
      ([], dropCell 9 unit (some 4) h (setEvt oHltStat 15 d))
    else
      let lp := hHop h (hPtr h)
      if fabricOpen d lp then ([.fabric lp], d) else ([], dropCell 0 unit (some 4) h d)
  else
    match finalHop d (hHop h (hCnt h)) (hDst h) with
    | some t => ([t], countLookup true {} d)
    | none => ([], dropCell 0 unit (some 4) h (countLookup (tget d.tab.ept (hDst h)).isSome {} d))

def voqKey (i o v : Nat) : Nat := (88 * i + o) * 5 + v

/-- Put a reference to a buffer at the tail of its VOQ (R135, R137). -/
def enqueue (xin vc bufn : Nat) (t : Tgt) (d : Dev) : Dev :=
  let k := voqKey xin (tgtXport t) vc
  let r : Ref := { rid := d.sw.nextRid, buf := bufn, tgt := t, committed := false }
  modSw (fun s => { s with voq := tput s.voq k (tgetD s.voq k [] ++ [r]), nextRid := s.nextRid + 1 }) d

/-- The EID check of R420 at either check of R51. -/
def fencedCell (d : Dev) (h : Bytes) : Bool := d.hlt.eids.contains (hSrc h) || d.hlt.eids.contains (hDst h)

def dropFenced (unit : Nat) (h : Bytes) (d : Dev) : Dev :=
  dropCell 8 unit (if d.hlt.eids.contains (hDst h) then some 4 else none) h d

/-- A VC1 answer that arrives for a reservation here moves to it, and the ingress owner's buffer is returned (R152). -/
def moveToResv (owner n : Nat) (h : Bytes) (spill : Bool) (d : Dev) : Dev :=
  if hVc h ≠ 1 ∨ hMcast h ∨ hPtr h ≠ hCnt h then d
  else
    match resvFor d (hSrc h) (hDst h), buf d n with
    | some id, some b =>
      (match tget d.bpm.resv id with
       | none => d
       | some r =>
         let d := modBpm (fun p => { p with bufs := tput p.bufs n { b with owner := some r.own, spill := false, cell := none, resv := some id } }) d
         uncharge owner spill d)
    | _, _ => d

/-- Write a cell of VC0 to VC4 into the packet buffer, its buffer already charged to `owner` (R51, R156): the buffer it got,
or none when it was discarded. `unit` is the ingress counted against. -/
def place (xin unit owner : Nat) (spill fromLink : Bool) (h pay : Bytes) (d : Dev) : Option Nat × Dev :=
  if isLate d (hDl h) then
    (none, uncharge owner spill (count 7 2 1 (cellAttr [unit] h) (dropCell 1 unit (some 5) h d)))
  else if fencedCell d h then (none, uncharge owner spill (dropFenced unit h d))
  else
    let (ts, d) := route fromLink unit h d
    if ts.isEmpty then (none, uncharge owner spill d)
    else
      let (n, d) := store h pay (some owner) spill ts.length d
      (some n, moveToResv owner n h spill (each ts (enqueue xin (hVc h) n) d))

/-- Take the sample that falls due when a frame's first cell passes a port (R165, R166). -/
def sampleCell (lp : Nat) (tx : Bool) (n : Nat) (h : Bytes) (d : Dev) : Dev :=
  let k := fld d (0x580000 + 4 * lp) (if tx then 8 else 0) 5
  if !hFirst h || k = 31 then d
  else
    let p := sub d lp
    let i := if tx then p.smpCount.2 else p.smpCount.1
    let d := modSub lp (fun p => { p with smpCount := if tx then (p.smpCount.1, i + 1) else (i + 1, p.smpCount.2) }) d
    if i % 2 ^ k ≠ 2 ^ k - 1 then d
    else
      let q := if tx then p.smpSeq.2 else p.smpSeq.1
      let d := modSub lp (fun p => { p with smpSeq := if tx then (p.smpSeq.1, (q + 1) % 2 ^ 32)
                                                       else ((q + 1) % 2 ^ 32, p.smpSeq.2) }) d
      if 1024 ≤ d.sw.samples.length then count 20 2 1 { masters := [mPort lp] } d
      else
        match buf d n with
        | none => d
        | some b =>
          let s : Sample := { buf := n, swc := d.clk.swc.toNat % 2 ^ 32, lp := lp, tx := tx, slot := d.clk.slot, seq := q }
          let d := modBpm (fun p => { p with bufs := tput p.bufs n { b with refs := b.refs + 1 } }) d
          modSw (fun w => { w with samples := w.samples ++ [s] }) (count 20 1 1 { masters := [mPort lp] } d)

end Sys2Proof.Machine
end

