-- ==== Sys2Proof/Machine/Admit.lean ====
section
/-! DEFINITION. Admission: the one look-up of a frame at its source, its checks, its deadline and its sequence (R43 to R49,
R53, R56, R61, R63, R65, R72, R76, R79, R80, R83, R90, R121, R393, R420, R499). -/

namespace Sys2Proof.Machine

/-- Virtual channel of a frame op (Table 4.7). -/
def vcOfOp (d : Dev) (op tc : Nat) (furrow : Bool) : Nat :=
  if furrow then 5
  else match op with
    | 0 | 3 => bits (rg d 0x100000) (2 * tc) 2
    | 1 | 6 | 8 => 0
    | 2 | 7 | 9 => 1
    | 4 | 5 => 3
    | _ => 4

/-- Cells of a frame: its 32-byte header and its data. -/
def cellsOf (dataLen : Nat) : Nat := ceilDiv (32 + dataLen) 512

/-- Deadline of R49: `m` release Swaths at the source, `h` links, the delay term. -/
def deadline (d : Dev) (h delay m : Nat) : Nat :=
  (swc16 d + 2 * h + 1 + m + ceilDiv (delay + 8 * h) d.clk.nsNow) % 65536

/-- The offset of R49 with m = 256 stays below 32,768 (R50, R79). -/
def deadlineOk (d : Dev) (h delay : Nat) : Bool :=
  decide (2 * h + 1 + 256 + ceilDiv (delay + 8 * h) d.clk.nsNow < 32768)

/-- Links of a path (R59, R66). -/
def linksOf (p : PathEntry) : Nat := if isInner (byteAt p.hops (p.nhop - 1)) then p.nhop - 1 else p.nhop

/-- Lowest class an EID's entry permits (R499). -/
def lowTc (d : Dev) (dst : Nat) : Nat :=
  match tget d.tab.ept dst with
  | none => 0
  | some e =>
    if e.mcast then (match tget d.tab.groups e.idx with
      | some g => g.tc
      | none => 0)
    else ((List.range 8).find? e.tcMask.testBit).getD 0

/-- What an admission answers. -/
inductive AdmRes where
  /-- Refused with a status and a detail code. -/
  | refuse (status detail : Nat)
  /-- Held by the path epoch fence (R83). -/
  | hold
  /-- Admitted. -/
  | ok (a : Adm)
deriving DecidableEq, Repr

/-- The first hop of a path can take a frame now (R65, R72, R113). -/
def firstHopOk (d : Dev) (p : PathEntry) : Bool :=
  let b := byteAt p.hops 0
  if p.nhop = 1 then
    (isInner b || edgeOpen d b)
  else
    fabricOpen d b && !(sub d b).unreach &&
    (match p.node2, (sub d b).nbr with
     | some n, some m => m.node == n || (sub d b).met == some n
     | _, _ => true)

/-- The frame came in as an edge datagram. -/
def Origin.isEdge (o : Origin) : Bool :=
  match o with
  | .edge _ _ _ => true
  | _ => false

/-- The virtual channel of a frame (R102); a datagram keeps the one its buffers were lent for (R124). -/
def vcOf (d : Dev) (fr : Frame) : Nat :=
  match fr.org with
  | .edge _ _ vc => vc
  | _ => vcOfOp d fr.op fr.tc fr.furrow.isSome

/-- The frame header as sent: version, op, length, sequence (R117). -/
def sealFrame (fr : Frame) (k seq : Nat) (resend : Bool) : Bytes :=
  if fr.org.isEdge then fit fr.hdr 32 else overlay (fit fr.hdr 32) 0
    ([BitVec.ofNat 8 (16 + byteAt fr.hdr 0 / 8 % 2 * 8 + boolNat resend * 4), BitVec.ofNat 8 fr.op] ++ toBE 2 k ++ toBE 4 seq)

/-- Next sequence after one, skipping 0 (R393). -/
def seqNext (s : Nat) : Nat := if s + 1 = 2 ^ 32 then 1 else s + 1

def pairKey (src dst : Nat) : Nat := 2 ^ 24 * src + dst

/-- DATA and WRITE frames are sequenced (R393). -/
def sequenced (op : Nat) : Bool := op == 0 || op == 3

/-- The sequence a frame would carry, none when a resend names one not used, or when no record is free (R393, R396). -/
def seqFor (d : Dev) (fr : Frame) : Except Nat Nat :=
  if !sequenced fr.op then .ok ((fr.seq).getD 0)
  else
    match fr.org, fr.seq with
    | .edge _ _ _, s => .ok (s.getD 0)
    | _, some s =>
      match tget d.ring.srcPairs (pairKey fr.src fr.dst) with
      | some next => if s ≠ 0 ∧ within 1 (2 ^ 31) (subMod 32 next s) = true then .ok s else .error 0x10
      | none => .error 0x10
    | _, none =>
      match tget d.ring.srcPairs (pairKey fr.src fr.dst) with
      | some n => .ok n
      | none => if d.ring.srcPairs.length < 131072 then .ok 1 else .error 2

/-- Finish an admission that has found its route. -/
def admitWith (d : Dev) (fr : Frame) (hops : Bytes) (cnt h delay : Nat) (mcast : Bool) (budget : Option Nat)
    (rate : Option Nat) (vc : Nat) : AdmRes :=
  let k := cellsOf fr.data.length
  match seqFor d fr with
  | .error s => .refuse s 0
  | .ok seq =>
    let m := match rate with
      | some b => ceilDiv k b
      | none => k
    .ok { hops := hops, nhop := cnt, mcast := mcast, vc := vc, dl := deadline d h delay m, budget := budget,
          hash := flowHash fr.src fr.dst fr.label, rate := rate.getD 0,
          hdr := sealFrame fr k seq fr.seq.isSome }

/-- The budget checks of a frame on VC0 to VC3 (R44, R76); on VC4 none applies (R103). -/
def admitBudget (d : Dev) (fr : Frame) (hops : Bytes) (cnt h delay : Nat) (mcast : Bool) (bi vc : Nat) : AdmRes :=
  if vc = 4 then admitWith d fr hops cnt h delay mcast none none vc
  else
    match tget d.tab.budgets bi with
    | none => .refuse 0x10 0
    | some b =>
      if !b.vcMask.testBit vc then .refuse 0x10 0
      else if b.burst < cellsOf fr.data.length then .refuse 1 0
      else admitWith d fr hops cnt h delay mcast (some bi) (some b.rate) vc

/-- The destination has a valid EPT entry that permits the frame's class (R65). -/
def classOk (d : Dev) (fr : Frame) : Bool :=
  match tget d.tab.ept fr.dst with
  | none => false
  | some e => e.tcMask.testBit fr.tc

/-- A frame of more than 16 cells to an EDGE entry (R121). -/
def edgeTooLong (d : Dev) (fr : Frame) : Bool :=
  decide (16 < cellsOf fr.data.length) && (match tget d.tab.ept fr.dst with
    | some e => !e.mcast && e.kind == 4
    | none => false)

/-- Admit a frame: the look-up and every check (R56, R65 and the rules this file names). -/
def admitFrame (d : Dev) (fr : Frame) : AdmRes :=
  let k := cellsOf fr.data.length
  let vc := vcOf d fr
  match fr.direct with
  | some (hops, n, delay) =>
    let h := if isInner (byteAt hops (n - 1)) then n - 1 else n
    admitWith d fr hops (n - 1) h delay false none none 4
  | none =>
    if reservedEid fr.dst then .refuse 0x10 0
    else if d.hlt.eids.contains fr.dst then .refuse 4 0
    else
      match fr.furrow with
      | some fid =>
        match tget d.tab.furrows fid with
        | none => .refuse 4 0
        | some f =>
          if f.dst ≠ fr.dst then .refuse 0x10 0
          else if f.state ≠ .active ∨ f.inX < 64 then .refuse 4 0
          else
            match tget d.tab.paths f.path with
            | none => .refuse 4 0
            | some p =>
              if p.down || !firstHopOk d p || !classOk d fr then .refuse 4 0
              else if edgeTooLong d fr then .refuse 0x10 0
              else if 256 < k then .refuse 1 0
              else admitWith d fr p.hops (p.nhop - 1) (linksOf p) p.delay false none (some f.count) 5
      | none =>
        match tget d.tab.ept fr.dst with
        | none => .refuse 4 0
        | some e =>
          if e.mcast then
            match tget d.tab.groups e.idx with
            | none => .refuse 4 0
            | some g =>
              if !e.tcMask.testBit fr.tc then .refuse 4 0
              else if g.tc ≠ fr.tc then .refuse 0x10 0
              else admitBudget d fr (toBE 2 e.idx ++ zeros 14) g.h g.h g.delay true g.budget vc
          else if !e.tcMask.testBit fr.tc then .refuse 4 0
          else if edgeTooLong d fr then .refuse 0x10 0
          else
            let hash := flowHash fr.src fr.dst fr.label
            let (pi, base) := e.slots.getD (hash % e.slots.length) (0, 0)
            match tget d.tab.paths pi with
            | none => .refuse 4 0
            | some p =>
              if p.down || !firstHopOk d p then .refuse 4 0
              else
                let held : Bool := match e.fence with
                  | some old => old.getD (hash % old.length) pi != pi
                  | none => false
                if held then .hold
                else admitBudget d fr p.hops (p.nhop - 1) (linksOf p) p.delay false (base + popCount fr.tc e.tcMask) vc

/-- The budget a frame waits on, as the tables stand (R45, R63); none on VC4 and VC5. -/
def budgetOf (d : Dev) (fr : Frame) : Option Nat :=
  if fr.direct.isSome || decide (4 ≤ vcOf d fr) then none
  else
    match tget d.tab.ept fr.dst with
    | none => none
    | some e =>
      if e.mcast then (tget d.tab.groups e.idx).map (·.budget)
      else
        let hash := flowHash fr.src fr.dst fr.label
        let (_, base) := e.slots.getD (hash % e.slots.length) (0, 0)
        some (base + popCount fr.tc e.tcMask)

/-- What the release of a frame's first cell leaves in its EPT entry (R83). -/
def noteDeadline (dst dl : Nat) (d : Dev) : Dev :=
  match tget d.tab.ept dst with
  | none => d
  | some e =>
    let later := match e.lastD with
      | none => true
      | some l => within 1 32767 (subMod 16 dl l)
    if later then modTab (fun t => { t with ept := tput t.ept dst { e with lastD := some dl } }) d else d

/-- Take the sequence an admitted frame carries (R393). -/
def takeSeq (fr : Frame) (hdr : Bytes) (d : Dev) : Dev :=
  if sequenced fr.op ∧ fr.seq.isNone ∧ !fr.org.isEdge then
    modRing (fun r => { r with srcPairs := tput r.srcPairs (pairKey fr.src fr.dst) (seqNext (beAt hdr 4 4)) }) d
  else d

end Sys2Proof.Machine
end

