-- ==== Sys2Proof/Machine/Send.lean ====
section
/-! DEFINITION. Sending: frames wait for allowance, space for their answers and buffers, and release their cells (R43 to R46,
R90, R150, R152). -/

namespace Sys2Proof.Machine

def setTx (id : Nat) (t : Tx) (d : Dev) : Dev := modSw (fun s => { s with tx := tput s.tx id t }) d
def delTx (id : Nat) (d : Dev) : Dev := modSw (fun s => { s with tx := tdel s.tx id }) d

/-- Rate at which a frame draws: its own, or a higher one now in force (R46). -/
def drawRate (b : Budget) (a : Adm) : Nat := max a.rate b.rate

/-- Cells drawn in this Swath by frames of a rate up to `r`. -/
def drawnUpTo (b : Budget) (r : Nat) : Nat := (b.drawn.map (fun p => if p.1 ≤ r then p.2 else 0)).sum

/-- Allowance a frame may still draw from a budget in this Swath (R43): with lowerings outstanding, the frames of each rate and
of lower ones together draw no more than that rate (R46). -/
def mayDraw (b : Budget) (a : Adm) : Nat :=
  if b.old.isEmpty then b.allow
  else ((b.rate :: b.old.map (·.rate)).filter (fun r => decide (drawRate b a ≤ r))).foldl
    (fun m r => min m (r - drawnUpTo b r)) b.allow

def drawBudget (i : Nat) (a : Adm) (d : Dev) : Dev :=
  modTab (fun t => { t with budgets := tmod t.budgets i (fun b =>
    let r := drawRate b a
    { b with allow := b.allow - 1, drawn := if b.old.isEmpty then b.drawn else tput b.drawn r (tgetD b.drawn r 0 + 1) }) }) d

/-- Put a cell of a Furrow frame into its entry's own queue, which holds 2c buffers (R136), if its hop byte is read as R57 and R58
say: the buffer it got. `unit` is the ingress counted against. -/
def placeFurrow (fid unit : Nat) (fromLink : Bool) (h pay : Bytes) (d : Dev) : Option Nat × Dev :=
  match tget d.tab.furrows fid with
  | none => (none, d)
  | some f =>
    let (ts, d) := route fromLink unit h d
    match ts with
    | [] => (none, d)
    | t :: _ =>
      let (n, d) := store h pay none false 1 d
      let r : Ref := { rid := d.sw.nextRid, buf := n, tgt := t, committed := false }
      (some n, modSw (fun s => { s with nextRid := s.nextRid + 1 })
        (modTab (fun t => { t with furrows := tput t.furrows fid { f with queue := f.queue ++ [r] } }) d))

/-- A VC5 cell outside an ACTIVE entry of its input and hop byte is discarded and counted (R90). -/
def strayFurrow (unit : Nat) (d : Dev) : Dev := tally 4 unit (count 8 3 1 { masters := if unit < 64 then [mPort unit] else [] } d)

/-- The header and payload of the next cell of a frame in release. -/
def nextCell (tx : Tx) (a : Adm) : Bytes × Bytes :=
  let all := a.hdr ++ tx.fr.data
  let k := cellsOf tx.fr.data.length
  let i := tx.sent
  let raw := (all.drop (512 * i)).take 512
  let pay := fit raw (ceilDiv raw.length 16 * 16)
  (mkHdr a.hops a.vc tx.fr.tc (i == 0) (i + 1 == k) a.nhop tx.fr.dst tx.fr.src a.dl i pay.length a.mcast a.hash, pay)

/-- The budget of an admitted frame lets a cell go (R43). -/
def allowed (a : Adm) (d : Dev) : Bool :=
  match a.budget with
  | none => true
  | some i => (match tget d.tab.budgets i with
    | some b => decide (0 < mayDraw b a)
    | none => false)

/-- One cell of an admitted frame leaves its source; none when allowance or a buffer is missing. -/
def cellOut (tx : Tx) (a : Adm) (d : Dev) : Option (Tx × Dev) :=
  let (h, pay) := nextCell tx a
  if a.vc = 5 then
    match tx.fr.furrow with
    | none => none
    | some fid =>
      match tget d.tab.furrows fid with
      | none => none
      | some f =>
        if f.state = .active ∧ f.released < f.count ∧ f.queue.length < 2 * f.count then
          let d := modTab (fun t => { t with furrows := tput t.furrows fid { f with released := f.released + 1 } }) d
          some ({ tx with sent := tx.sent + 1 },
            if tx.fr.xport ≠ f.inX ∨ hHop h (hPtr h) ≠ f.outHop then strayFurrow 255 d else (placeFurrow fid 255 false h pay d).2)
        else none
  else
    if !allowed a d then none
    else
      match tx.fr.org, tx.held with
      | .edge lp _ _, p :: rest =>
        let d := match a.budget with
          | some i => drawBudget i a d
          | none => d
        (match place (portOf lp) lp (ownExt lp a.vc) p false h pay d with
         | (some n, d) => some ({ tx with sent := tx.sent + 1, held := rest }, sampleCell lp false n h d)
         | (none, d) => some ({ tx with sent := tx.sent + 1, held := rest }, d))
      | _, _ =>
        let o := ownInt tx.fr.xport a.vc
        match lend o .source d with
        | (none, _) => none
        | (some p, d) =>
          let d := match a.budget with
            | some i => drawBudget i a d
            | none => d
          some ({ tx with sent := tx.sent + 1 }, (place tx.fr.xport 255 o p false h pay d).2)

/-- Release cells while allowance and buffers last; the fuel is the frame's remaining cells. -/
def cellsOut (a : Adm) : Nat → Tx → Dev → Tx × Dev
  | 0, tx, d => (tx, d)
  | n + 1, tx, d =>
    match cellOut tx a d with
    | some (tx, d) => cellsOut a n tx d
    | none => (tx, d)

/-- The command behind a host frame (R375); a command not yet accepted can be accepted only with a free CQ entry (R378). -/
def hostReady (d : Dev) (fr : Frame) : Bool :=
  match fr.org with
  | .host c _ _ false => (match c.chan with
    | .sq q => cqFree d (cqOf d q)
    | _ => true)
  | _ => true

def acceptOrg (fr : Frame) (d : Dev) : Frame × Dev :=
  match fr.org with
  | .host c ack op false => ({ fr with org := .host c ack op true }, accept c d)
  | _ => (fr, d)

/-- The completion that an ack = 0 SEND or WRITE, or the wait that an ack = 1 one or a READ, has at its last cell, and the
work other origins have (R395, R387). -/
def frameDone (tx : Tx) (a : Adm) (d : Dev) : Dev :=
  match tx.fr.org with
  | .host c ack op _ =>
    let seq := beAt a.hdr 4 4
    if op = 3 then d
    else if ack then d
    else complete c 0 0 seq d
  | .plain => d
  | _ => defer (.released tx.fr a.dl) d

/-- What the filters see of a frame at its source (Table 17.3). -/
def frameAttr (fr : Frame) : Attr :=
  match fr.org with
  | .host c _ _ _ => (match c.chan with
    | .sq q => { priv := some 1, masters := [mSq q], tc := some fr.tc }
    | _ => { priv := some 2, tc := some fr.tc })
  | .edge lp _ _ => { masters := [mPort lp], tc := some fr.tc }
  | .mgmt _ => { priv := some 2, tc := some fr.tc }
  | _ => { tc := some fr.tc }

/-- What follows from a frame's admission at its first cell: its sequence, its EPT entry, its ACK or READ record. -/
def frameAdmitted (fr : Frame) (a : Adm) (d : Dev) : Dev :=
  let d := count 3 1 1 (frameAttr fr) d
  let d := if fr.direct.isSome then d else countLookup true (frameAttr fr) d
  let d := takeSeq fr a.hdr d
  let d := if fr.direct.isSome then d else noteDeadline fr.dst a.dl d
  match fr.org with
  | .host c ack op _ =>
    let id := d.ring.nextId
    if op = 3 then
      modRing (fun r => { r with reads := tmap (fun e =>
        if e.cmd = c ∧ e.dl = none then { e with dl := some a.dl } else e) r.reads }) d
    else if ack then
      let e : PendAck := { src := fr.src, dst := fr.dst, seq := beAt a.hdr 4 4, dl := a.dl, cmd := c }
      modRing (fun r => { r with nextId := id + 1, acks := tput r.acks id e }) d
    else d
  | _ => d

/-- The Furrow a frame is on still takes its cells (R90). -/
def furrowActive (d : Dev) (fr : Frame) : Bool :=
  match fr.furrow with
  | none => false
  | some i => (match tget d.tab.furrows i with
    | some f => f.state == .active
    | none => false)

/-- The Select step a frame belongs to. -/
def stepOf (fr : Frame) : Option (Nat × Nat × Nat) :=
  match fr.org with
  | .select x g st => some (x, g, st)
  | _ => none

/-- The Swath up to which an answer's space is held (R152): a READ_RSP's limit of R387, a COMBINE's of R242. -/
def answerBy (d : Dev) (fr : Frame) (dl : Nat) : Nat :=
  match fr.org with
  | .select x _ _ => (swc16 d + (match tget d.sel x with
      | some c => leAt c.record 58 2
      | none => 0)) % 65536
  | _ => (dl + fld d 0x21100 0 16) % 65536

/-- The command comes over a submission ring. -/
def Cmd.sqn (c : Cmd) : Option Nat :=
  match c.chan with
  | .sq q => some q
  | _ => none

/-- The SQ whose head a frame came from; frames of other origins come after those of a ring (R45). -/
def sqOfTx (t : Tx) : Nat :=
  match t.fr.org with
  | .host c _ _ _ => c.sqn.getD 256
  | _ => 256

/-- Order in which frames of one budget are released (R45, log 118): when they came, then one already begun, then by SQ number. -/
def txLe (a b : Nat × Tx) : Bool :=
  decide (a.2.at_ < b.2.at_) || (a.2.at_ == b.2.at_ &&
    (if a.2.adm.isSome != b.2.adm.isSome then a.2.adm.isSome else decide (sqOfTx a.2 ≤ sqOfTx b.2)))

/-- Frames waiting on a budget, in the order of their release (R45). -/
def waitingOn (d : Dev) (b : Nat) : List Nat := (sortBy txLe (d.sw.tx.filter (fun p => p.2.budget == some b))).map (·.1)

/-- The ingress queue an edge datagram waits in: sub-port and priority (R124). -/
def edgeQueue (t : Tx) : Option (Nat × Nat) :=
  match t.fr.org with
  | .edge lp tc _ => some (lp, tc)
  | _ => none

/-- No frame stands before this one, on its budget (R45) or in its ingress queue (R124). A frame that a fence or a full CQ holds
does not wait on its budget. -/
def txTurn (d : Dev) (id : Nat) (t : Tx) : Bool :=
  (match t.budget with
   | none => true
   | some b => ((waitingOn d b).takeWhile (· ≠ id)).all (fun i => (tget d.sw.tx i).all (fun x => x.why == 2)))
  && (match edgeQueue t with
   | none => true
   | some q => d.sw.tx.all (fun p => decide (id ≤ p.1) || edgeQueue p.2 ≠ some q))

/-- The earlier frames of its step have left: they leave in the order they are given (R235, R240). -/
def stepTurn (d : Dev) (id : Nat) (t : Tx) : Bool :=
  (stepOf t.fr).isNone || d.sw.tx.all (fun p => decide (id ≤ p.1) || stepOf p.2.fr ≠ stepOf t.fr)

/-- Owner of VC1 that a requester's answer is charged to (R152). -/
def answerOwner (fr : Frame) : Nat :=
  match fr.org with
  | .edge lp _ _ => ownExt lp 1
  | _ => ownInt fr.xport 1

/-- A frame goes on releasing; what it lacks when it stops is kept. -/
def releaseOn (id : Nat) (tx : Tx) (a : Adm) (d : Dev) : Dev :=
  let (tx, d) := cellsOut a (cellsOf tx.fr.data.length - tx.sent) tx d
  if tx.sent = cellsOf tx.fr.data.length then frameDone tx a (delTx id d)
  else setTx id { tx with why := if a.vc < 5 && allowed a d then 1 else 0 } d

/-- Try to move one waiting frame on: its admission, its answer's space, the cells that may go. -/
def tryTx1 (id : Nat) (d : Dev) : Dev :=
  match tget d.sw.tx id with
  | none => d
  | some tx =>
    match tx.adm with
    | some a =>
      if a.vc = 5 && !furrowActive d tx.fr then defer (.refused tx.fr 4 0) (delTx id d)
      else if !txTurn d id tx then d
      else releaseOn id tx a d
    | none =>
      match admitFrame d tx.fr with
      | .refuse s t =>
        let d := if s = 1 then count 3 4 1 (frameAttr tx.fr) d else d
        let d := if tx.fr.direct.isSome then d else countLookup (tget d.tab.ept tx.fr.dst).isSome (frameAttr tx.fr) d
        let d := when (s == 2) (setEvt oRingEvt 1) d
        let d := match tx.resv with
          | some rv => unreserve rv d
          | none => d
        let d := match tx.fr.org with
          | .edge lp _ vc => each tx.held (fun p d => uncharge (ownExt lp vc) p d) d
          | _ => d
        defer (.refused tx.fr s t) (delTx id d)
      | .hold => setTx id { tx with budget := budgetOf d tx.fr, why := 2 } (countOnce 0 id 4 3 { priv := (frameAttr tx.fr).priv } d)
      | .ok a =>
        if a.budget ≠ tx.budget then setTx id { tx with budget := a.budget } d
        else if !hostReady d tx.fr || !stepTurn d id tx then setTx id { tx with why := 2 } d
        else if !txTurn d id tx then setTx id { tx with why := 0 } d
        else
          let rs : Option (Option Nat × Dev) :=
            if tx.fr.reply = 0 ∨ tx.resv.isSome then some (tx.resv, d)
            else (reserve tx.fr.xport (answerOwner tx.fr) tx.fr.src tx.fr.dst tx.fr.reply (answerBy d tx.fr a.dl) (stepOf tx.fr) d).map
              (fun p => (some p.1, p.2))
          match rs with
          | none => setTx id { tx with why := 1 } d
          | some (rv, d) =>
            match cellOut { tx with resv := rv } a d with
            | none => setTx id { tx with resv := rv, why := if allowed a d then 1 else 0 } d
            | some (tx, d) =>
              let (fr, d) := acceptOrg tx.fr d
              releaseOn id { tx with fr := fr, adm := some a } a (frameAdmitted fr a d)

/-- Frames that stood behind one that has gone: on its budget, in its ingress queue, in its step. -/
def behind (d : Dev) (tx : Tx) : List Nat :=
  (match tx.budget with
   | some b => waitingOn d b
   | none => [])
  ++ (d.sw.tx.filter (fun p => (edgeQueue tx).isSome && edgeQueue p.2 == edgeQueue tx)).map (·.1)
  ++ (d.sw.tx.filter (fun p => (stepOf tx.fr).isSome && stepOf p.2.fr == stepOf tx.fr)).map (·.1)

/-- Try a frame; when it has gone, those behind it are tried. -/
def tryTx (id : Nat) (d : Dev) : Dev :=
  let e := tryTx1 id d
  match tget d.sw.tx id with
  | some tx => if (tget e.sw.tx id).isNone then each (behind e tx) tryTx1 e else e
  | none => e

/-- Release what a Furrow's entry allows of the frames sent on it: up to c cells a Swath (R90). -/
def releaseFurrow (fid : Nat) (d : Dev) : Dev :=
  each ((d.sw.tx.filter (fun p => p.2.fr.furrow == some fid)).map (·.1)) tryTx d

/-- Entries of the Budget Table that an index names: the one in force, and those a CLEAR took away whose frames still draw (R80). -/
def budgetKin (d : Dev) (b : Nat) : List Nat :=
  b :: (d.tab.budgets.filter (fun p => p.1 % 65536 == b && p.1 ≠ b)).map (·.1)

/-- Release what a budget's allowance allows (R43, R45). -/
def releaseBudget (b : Nat) (d : Dev) : Dev := each ((budgetKin d b).flatMap (waitingOn d)) tryTx d

/-- Frames that use no budget: VC4, Furrows, in-band answers. -/
def releaseFree (d : Dev) : Dev := each ((d.sw.tx.filter (fun p => p.2.budget == none)).map (·.1)) tryTx d

/-- Give a frame to be sent: it joins the frames waiting, and goes on at once if nothing holds it. -/
def sendFrame (fr : Frame) (held : List Bool) (d : Dev) : Dev :=
  let id := d.sw.nextTx
  let t : Tx := { fr := fr, budget := budgetOf d fr, adm := none, sent := 0, resv := none, held := held,
                  at_ := d.clk.now }
  let d := modSw (fun s => { s with nextTx := id + 1, tx := tput s.tx id t }) d
  match budgetOf d fr with
  | some b => if waitingOn d b = [id] then tryTx id d else releaseBudget b d
  | none => tryTx id d

/-- A frame header whose bytes 12 to 31 are given (R117). -/
def frameHdr (body : Bytes) : Bytes := zeros 12 ++ fit body 20

/-- A frame of the device itself on VC4 or elsewhere, of the class R499 gives. -/
def ownFrame (d : Dev) (op src dst xport : Nat) (body data : Bytes) (org : Origin) : Frame :=
  { op := op, src := src, dst := dst, tc := lowTc d dst, label := 0, hdr := frameHdr body, data := data, xport := xport,
    furrow := none, direct := none, reply := 0, seq := none, org := org }

/-- Crossbar port of the endpoint an EID names here. -/
def eidXport (d : Dev) (eid : Nat) : Nat :=
  match tget d.tab.ept eid with
  | some e => if e.kind = 4 then 86 else xportInner (kindCode e.kind) e.idx
  | none => 86

/-- Header bytes 12 to 31 of a NOTICE: bytes 12 to 25 as the rule gives them, the status in 26 and 27, the detail in 28
(R379, log 8). -/
def noticeBody (body : Bytes) (status detail : Nat) : Bytes :=
  overlay (fit body 20) 14 (if detail = 0 then toBE 2 status else toBE 2 status ++ toBE 1 detail)

/-- Send one NOTICE. -/
def sendNotice (dst src status detail : Nat) (body : Bytes) (d : Dev) : Dev :=
  sendFrame (ownFrame d 0xA src dst (eidXport d src) (noticeBody body status detail) [] .plain) [] d

/-- A NOTICE from the endpoint that found the fault. -/
def noticeFrom (src dst status : Nat) (body : Bytes) (d : Dev) : Dev := defer (.notice dst src status 0 body) d

/-- Body of a gathered NOTICE: the rule's bytes, or the count of cells in bytes 22 to 25 (R51, log 8). -/
def gatheredBody (n : NoticeAcc) : Bytes := if n.body.isEmpty then zeros 10 ++ toBE 4 n.count else n.body

/-- The marks of NOTICEs sent in a Swath end with it. -/
def dropMarks (d : Dev) : Dev := modSw (fun s => { s with notices := s.notices.filter (fun n => !n.sent) }) d

/-- Send the gathered NOTICEs, one per addressee and kind (R51): those of the Swath that ends, with what its boundary discards. -/
def flushNotices (d : Dev) : Dev :=
  let l := d.sw.notices
  each (l.filter (fun n => !n.sent)) (fun n d => sendNotice n.dst n.src n.status n.detail (gatheredBody n) d)
    (modSw (fun s => { s with notices := l.filter (fun n => n.sent) }) d)

end Sys2Proof.Machine
end

