-- ==== Sys2Proof/Machine/Switch.lean ====
section
/-! DEFINITION. The slot: calendar, matcher, crossing, delivery and reassembly (R118, R136 to R144, R152, R156 to R158,
R167). -/

namespace Sys2Proof.Machine

/-- The slot index that follows one, the removed slot skipped and the Swath's end wrapping to 0 (R30). -/
def slotAfter (d : Dev) (s : Nat) : Nat :=
  let n := s + 1
  let n := if d.clk.removed = some n then n + 1 else n
  if (match d.clk.removed with
      | some _ => d.clk.nsNow
      | none => d.clk.lenNow) ≤ n then 0 else n

/-- Furrow entries that hold a slot (R139). -/
def heldAt (d : Dev) (s : Nat) : List (Nat × Furrow) := d.tab.furrows.filter (fun p => (heldSlots p.2).contains s)

/-- Input buffer of an endpoint for VC0, VC2 and VC3, in cells: 16 (R192), 64 (R225), 32 (R265); others take every cell (R152). -/
def innerCap (code : Nat) : Option Nat :=
  match code with
  | 0xF9 => some 16
  | 0xFA => some 64
  | 0xFB => some 32
  | _ => none

/-- A frame's cells in the input buffer, `n` of its `k` having come: those of a DISPATCH frame that has been matched leave it at once
(R266); a frame longer than the buffer takes one (log 120). -/
def bufCells (cap k n op : Nat) (c : Claim) : Nat := if op = 8 then (if c = .none then n else 0) else if cap < k then min n 1 else n

/-- Cells in the input buffer of an internal endpoint for VC `v`: of whole frames, of frames being gathered, and of references
that matchings in flight bring (R138). -/
def innerHeld (d : Dev) (cap code idx v : Nat) : Nat :=
  ((d.sw.rx.filter (fun f => f.code == code && f.idx == idx && f.vc == v)).map (fun f => bufCells cap f.k f.k (byteAt f.hdr 1) f.claim)).sum
  + ((d.sw.reasm.filter (fun r => r.code == code && r.idx == idx && r.key.getD 2 0 == v)).map (fun r =>
      match r.cells.find? (fun c => c.1 == 0) with
      | some c => bufCells cap (beAt c.2.2 2 2) r.cells.length (byteAt c.2.2 1) r.claim
      | none => r.cells.length)).sum
  + (d.sw.voq.map (fun p => if p.1 % 5 = v then (p.2.filter (fun r => r.committed && r.tgt == .inner code idx)).length else 0)).sum

def innerReady (d : Dev) (code idx v : Nat) : Bool :=
  if v = 1 ∨ v = 4 then true
  else match innerCap code with
    | some cap => decide (innerHeld d cap code idx v < cap)
    | none => true

def stageKey (lp v : Nat) : Nat := 8 * lp + v

def staged (d : Dev) (lp v : Nat) : List Ref := tgetD d.sw.stage (stageKey lp v) []

/-- References of the matchings in flight towards a sub-port on a VC (R138, R141). -/
def committedTo (d : Dev) (lp v : Nat) : Nat :=
  (d.sw.voq.map (fun p => if p.1 % 5 = v then (p.2.filter (fun r => r.committed && r.tgt == .fabric lp)).length else 0)).sum

/-- Cells of a VC gathered at an edge egress. -/
def edgeHeld (d : Dev) (lp v : Nat) : Nat :=
  (((sub d lp).edge.out.filter (fun f => f.key.getD 2 0 == v)).map (fun f => f.cells.length)).sum

/-- A target is ready for VC `v` (R138). -/
def ready (d : Dev) (t : Tgt) (v : Nat) : Bool :=
  match t with
  | .fabric lp =>
    let l := (sub d lp).link
    let have_ := subMod 16 (tgetD l.known v 0) (tgetD l.sent v 0)
    let n := (staged d lp v).length
    decide (n < 32) && decide (have_ < 32768) && decide (n + committedTo d lp v < have_)
  | .edge lp _ => decide (edgeHeld d lp v < 32)
  | .inner code idx => innerReady d code idx v

/-- The lead cell of a VOQ: its first cell not committed (R140). -/
def lead (q : List Ref) : Option Ref := q.find? (fun r => !r.committed)

/-- A request of the matcher: input, output, VC, urgency, deadline rank, reference (R142). -/
structure Req where
  i : Nat
  o : Nat
  v : Nat
  urgent : Bool
  rank : Nat
  rid : Nat
deriving DecidableEq, Repr

/-- Which of two eligible VOQs of one pair the request carries (R142). -/
def better (a b : Req) : Bool :=
  if a.urgent != b.urgent then a.urgent
  else if (a.v == 4) != (b.v == 4) then a.v == 4
  else if a.rank ≠ b.rank then decide (a.rank < b.rank)
  else decide (a.v < b.v)

/-- A VOQ's request, when it is eligible (R140, R142). -/
def reqOf (d : Dev) (k : Nat) (q : List Ref) : Option Req :=
  match lead q with
  | none => none
  | some r =>
    match buf d r.buf with
    | none => none
    | some b =>
      if ready d r.tgt (k % 5) then
        some { i := k / 440, o := k / 5 % 88, v := k % 5, urgent := decide (b.swc ≠ d.clk.swc.toNat),
               rank := subMod 16 (hDl b.hdr) (swc16 d), rid := r.rid }
      else none

/-- Insert a request, keeping the better one of each pair of ports. -/
def addReq (l : List Req) (r : Req) : List Req :=
  match l.find? (fun x => x.i == r.i && x.o == r.o) with
  | none => l ++ [r]
  | some x => if better r x then l.map (fun y => if y.i == r.i && y.o == r.o then r else y) else l

/-- One request per pair of ports. -/
def requests (d : Dev) : List Req := (d.sw.voq.filterMap (fun p => reqOf d p.1 p.2)).foldl addReq []

/-- The first element at or after a pointer, counting round 88 places (R142). -/
def firstFrom (p : Nat) (l : List Nat) : Option Nat :=
  l.foldl (fun m x => match m with
    | none => some x
    | some y => if (x + 88 - p) % 88 < (y + 88 - p) % 88 then some x else some y) none

/-- Urgent ones first, if there is one (R142). -/
def preferUrgent (l : List Req) : List Req := if l.any (·.urgent) then l.filter (·.urgent) else l

/-- The matcher's pointers and pairs made so far. -/
structure Rga where
  g : Tab Nat
  a : Tab Nat
  pairs : List Req

/-- One request, grant and accept iteration (R142, R143). -/
def rgaStep (first : Bool) (rs : List Req) (st : Rga) : Rga :=
  let live := rs.filter (fun r => !st.pairs.any (fun p => p.i == r.i || p.o == r.o))
  let outs := (live.map (·.o)).eraseDups
  let grants := outs.filterMap (fun o =>
    let r := preferUrgent (live.filter (fun x => x.o == o))
    (firstFrom (tgetD st.g o 0) (r.map (·.i))).bind (fun i => r.find? (fun x => x.i == i)))
  let ins := (grants.map (·.i)).eraseDups
  ins.foldl (fun st i =>
    let gr := preferUrgent (grants.filter (fun x => x.i == i))
    match (firstFrom (tgetD st.a i 0) (gr.map (·.o))).bind (fun o => gr.find? (fun x => x.o == o)) with
    | none => st
    | some r =>
      if first then { g := tput st.g r.o ((i + 1) % 88), a := tput st.a i ((r.o + 1) % 88), pairs := st.pairs ++ [r] }
      else { st with pairs := st.pairs ++ [r] }) st

/-- A matching for a slot index: three iterations over the ports the calendar leaves free (R141, R142). -/
def matching (slot : Nat) (d : Dev) : Rga :=
  let held := heldAt d slot
  let rs := (requests d).filter (fun r => !held.any (fun h => h.2.inX == r.i || furrowX h.2 == r.o))
  let st : Rga := { g := d.sw.grant, a := d.sw.accept, pairs := [] }
  rgaStep false rs (rgaStep false rs (rgaStep true rs st))

/-- Mark a reference of a VOQ committed (R141). -/
def commitRef (r : Req) (d : Dev) : Dev :=
  let k := voqKey r.i r.o r.v
  let q := (tgetD d.sw.voq k []).map (fun x => if x.rid == r.rid then { x with committed := true } else x)
  modSw (fun s => { s with voq := tput s.voq k q }) d

/-- Begin the matching for slot t + 4 and put it last in flight (R141). -/
def beginMatch (d : Dev) : Dev :=
  let t4 := slotAfter d (slotAfter d (slotAfter d (slotAfter d d.clk.slot)))
  let m := matching t4 d
  let d := each m.pairs commitRef d
  modSw (fun s => { s with grant := m.g, accept := m.a,
                           flight := s.flight ++ [m.pairs.map (fun r => (r.i, r.o, r.v, r.rid))] }) d

/-- Take a reference out of a VOQ. -/
def pullRef (k rid : Nat) (d : Dev) : Option Ref × Dev :=
  let q := tgetD d.sw.voq k []
  (q.find? (fun r => r.rid == rid), modSw (fun s => { s with voq := tput s.voq k (q.filter (fun r => r.rid != rid)) }) d)

/-- Key that says which frame a cell belongs to (R118): source, destination, VC, TC, flow hash, deadline, endpoint. -/
def frameKey (h : Bytes) (code idx : Nat) : List Nat := [hSrc h, hDst h, hVc h, hTc h, hHash h, hDl h, code, idx]

/-- Frame ops an endpoint takes (R192, R225, R265, R388, R463); other frames are discarded and counted. -/
def takesOp (code op vc : Nat) : Bool :=
  match code with
  | 0xF8 => [0, 2, 5, 0xA, 0xB].contains op
  | 0xF9 => [4, 5, 0xA, 0xB, 0xC].contains op && (vc == 3 || vc == 4 || vc == 5)
  | 0xFA => [6, 9, 0xA, 0xB].contains op || vc == 2 || vc == 3
  | 0xFB => [1, 2, 3, 5, 8, 0xA, 0xB].contains op
  | 0xFC => [0xA, 0xB, 0xC, 4, 0].contains op
  | _ => false

/-- A frame as gathered fails R118; `cells` are its cells' index, last flag and payload. -/
def cellsBad (cells : List (Nat × Bool × Bytes)) : Bool :=
  let idxs := cells.map (·.1)
  let first := (cells.find? (fun c => c.1 == 0)).map (fun c => c.2.2)
  let lens := match first with
    | some p => some (beAt p 2 2)
    | none => none
  let last := (cells.find? (fun c => c.2.1)).map (·.1)
  (match first with
    | some p => byteAt p 0 / 16 ≠ 1 || decide (0xC < byteAt p 1)
    | none => false)
  || decide (idxs.eraseDups.length ≠ idxs.length)
  || (match lens with
    | some n => idxs.any (fun i => decide (n ≤ i))
    | none => false)
  || (match last with
    | some l => (match lens with
        | some n => decide (n ≠ l + 1)
        | none => false) || idxs.any (fun i => decide (l < i))
    | none => false)
  || decide (1 < (cells.filter (fun c => c.2.1)).length)

/-- A frame is complete: cells 0 to k - 1 (R118). -/
def reasmDone (r : Reasm) : Bool :=
  match (r.cells.find? (fun c => c.2.1)).map (·.1) with
  | some l => decide (r.cells.length = l + 1)
  | none => false

/-- The bytes of a gathered frame in index order. -/
def reasmBytes (r : Reasm) : Bytes :=
  (List.range r.cells.length).flatMap (fun i => ((r.cells.find? (fun c => c.1 == i)).map (fun c => c.2.2)).getD [])

/-- Discard a frame in reassembly, counted once (R167); inbox rows it held are freed. -/
def dropReasm (r : Reasm) (d : Dev) : Dev :=
  let d := match r.claim with
    | .rows b h _ _ _ _ _ _ => defer (.rowsLost r.idx b h) d
    | _ => d
  tally 10 0 (modSw (fun s => { s with reasm := s.reasm.filter (fun x => x.key != r.key) }) d)

/-- A cell of a DISPATCH frame at a Forge is matched, or written, as it arrives (R266). -/
def atForge (code idx : Nat) (r : Reasm) (d : Dev) : Dev :=
  if code = 0xFB ∧ ((r.cells.find? (fun c => c.1 == 0)).map (fun c => byteAt c.2.2 1)) = some 8 then defer (.dispatch idx) d else d

/-- A frame failed and its later cells are discarded with it (R118, R121, R167). -/
def markFailed (key : List Nat) (dl : Nat) (d : Dev) : Dev := modSw (fun s => { s with failed := s.failed ++ [(key, dl)] }) d

/-- The NOTICE of R118 to a frame's source. -/
def badFrame (h : Bytes) (d : Dev) : Dev :=
  match noticeSrc d with
  | some s => noticeFrom s (hSrc h) 0x10 [] d
  | none => d

/-- A cell of a frame that has failed: not the first of another (R167). -/
def isFailed (d : Dev) (key : List Nat) (h : Bytes) : Bool := !hFirst h && d.sw.failed.any (fun p => p.1 == key)

/-- The first cell of another frame ends the mark of one that failed. -/
def newFrame (key : List Nat) (h : Bytes) (d : Dev) : Dev :=
  if hFirst h ∧ d.sw.failed.any (fun p => p.1 == key) then modSw (fun s => { s with failed := s.failed.filter (fun p => p.1 != key) }) d
  else d

/-- Hand a cell to an internal endpoint: gather it, check the frame, pass a whole one on (R118, R152, R167). -/
def deliverCell (code idx : Nat) (late : Bool) (h pay : Bytes) (d : Dev) : Dev :=
  let key := frameKey h code idx
  if isFailed d key h then d
  else
    let d := newFrame key h d
    let known := d.sw.reasm.find? (fun r => r.key == key)
    let old := known.getD
      { key := key, ord := d.sw.nextOrd, claim := .none, code := code, idx := idx, dl := hDl h, late := false, cells := [] }
    let d := if known.isSome then d else modSw (fun s => { s with nextOrd := s.nextOrd + 1 }) d
    let r : Reasm := { old with late := old.late || late || hLate h, cells := old.cells ++ [(hIdx h, hLast h, pay.take (hLen h))] }
    if cellsBad r.cells then badFrame h (markFailed key (hDl h) (dropReasm r d))
    else if reasmDone r then
      let d := modSw (fun s => { s with reasm := s.reasm.filter (fun x => x.key != key) }) d
      let b := reasmBytes r
      let f : RxFrame := { code := code, idx := idx, src := hSrc h, dst := hDst h, tc := hTc h, vc := hVc h, dl := hDl h,
                           k := r.cells.length, late := r.late, hdr := b.take 32, data := b.drop 32, accepted := false,
                           arrived := d.clk.swc.toNat, ord := r.ord, claim := r.claim }
      if takesOp code (byteAt f.hdr 1) f.vc then atForge code idx r (modSw (fun s => { s with rx := s.rx ++ [f] }) d)
      else tally 13 code d
    else
      atForge code idx r (modSw (fun s => { s with reasm := s.reasm.filter (fun x => x.key != key) ++ [r] }) d)

/-- A frame at an edge egress is whole. -/
def edgeWhole (f : EdgeFrame) : Bool :=
  match (f.cells.find? (fun c => c.2.1)).map (·.1) with
  | some l => decide (f.cells.length = l + 1)
  | none => false

/-- Gather a cell at an edge egress (R126), under the checks of R118; a frame of more than 16 cells is discarded under R57 (R121). -/
def gatherEdge (lp peer : Nat) (r : Ref) (b : Buf) (d : Dev) : Dev :=
  let key := frameKey b.hdr lp peer
  if isFailed d key b.hdr then dropRef r.buf d
  else
    let d := newFrame key b.hdr d
    let e := (sub d lp).edge
    let old := (e.out.find? (fun f => f.key == key && !edgeWhole f)).getD
      { key := key, peer := peer, tc := hTc b.hdr, hash := hHash b.hdr, dl := hDl b.hdr, cells := [] }
    let f : EdgeFrame := { old with cells := old.cells ++ [(hIdx b.hdr, hLast b.hdr, b.pay, r.buf)] }
    let rest := e.out.filter (fun x => !(x.key == key && !edgeWhole x))
    let cells := f.cells.map (fun c => (c.1, c.2.1, c.2.2.1))
    let long := decide (16 ≤ hIdx b.hdr) || (hFirst b.hdr && within 17 256 (beAt b.pay 2 2))
    let out := fun (l : List EdgeFrame) (d : Dev) => modSub lp (fun p => { p with edge := { p.edge with out := l } }) d
    if cellsBad cells then
      badFrame b.hdr (markFailed key f.dl (tally 10 lp (each (f.cells.map (fun c => c.2.2.2)) dropRef (out rest d))))
    else if long then
      markFailed key f.dl (each (f.cells.map (fun c => c.2.2.2)) (fun n d => dropRef n (dropCell 0 lp (some 4) b.hdr d)) (out rest d))
    else out (rest ++ [f]) d

/-- The sub-ports of an external crossbar port, the whole of which an event of the crossbar is counted for (log 124). -/
def portUnits (x : Nat) : List Nat := if x < 16 then (List.range 4).map (4 * x + ·) else []

/-- A reference crosses to its output (R141): to staging, to an edge egress, or into an endpoint, late when R47's limit has passed
(R52). A late or fenced cell is
discarded at its selection and its slot goes unused (R51, R144, R420). -/
def cross (i v : Nat) (r : Ref) (d : Dev) : Dev :=
  match buf d r.buf with
  | none => d
  | some b =>
    if isLate d (hDl b.hdr) then
      lateCause (tgtSub r.tgt) (dropRef r.buf (count 7 2 1 (cellAttr [tgtSub r.tgt] b.hdr) (dropCell 1 (tgtSub r.tgt) (some 5) b.hdr d)))
    else if fencedCell d b.hdr then dropRef r.buf (dropFenced (tgtSub r.tgt) b.hdr d)
    else
      match bufRead b d with
      | (none, d) => dropRef r.buf (dropCell 24 (tgtSub r.tgt) none b.hdr d)
      | (some pay, d) =>
      let b := { b with pay := pay }
      let d := if b.cell.isSome then modBpm (fun p => { p with bufs := tput p.bufs r.buf b }) d else d
      let at_ := cellAttr (portUnits i ++ [tgtSub r.tgt]) b.hdr
      let d := if v = 5 then count 8 1 1 at_ d else
        (let d := count 6 1 1 at_ d
         if b.swc ≠ d.clk.swc.toNat then count 6 2 1 at_ d else d)
      match r.tgt with
      | .fabric lp => modSw (fun s => { s with stage := tput s.stage (stageKey lp v) (tgetD s.stage (stageKey lp v) [] ++ [r]) }) d
      | .edge lp peer => gatherEdge lp peer r b d
      | .inner code idx =>
        dropRef r.buf (deliverCell code idx (decide (1 < subMod 48 d.clk.swc.toNat b.swc)) b.hdr b.pay d)

/-- A held slot: the Furrow cell at the head of its entry's queue crosses (R136, R139). -/
def crossHeld (p : Nat × Furrow) (d : Dev) : Dev :=
  let d := releaseFurrow p.1 d
  let unused := count 8 2 1 { masters := ((if p.2.inX < 16 then [4 * p.2.inX + p.2.inSub] else []) ++ [p.2.outHop]).filter (· < 64) |>.map mPort }
  match tget d.tab.furrows p.1 with
  | none => d
  | some f =>
    match f.queue with
    | r :: rest =>
      if f.state = .active then
        cross f.inX 5 r (modTab (fun t => { t with furrows := tput t.furrows p.1 { f with queue := rest } }) d)
      else unused d
    | [] => unused d

/-- A matched pair crosses, unless its cell has gone (R144). -/
def crossPair (m : Nat × Nat × Nat × Nat) (d : Dev) : Dev :=
  let (i, o, v, rid) := m
  match pullRef (voqKey i o v) rid d with
  | (some r, d) => cross i v r d
  | (none, d) => count 6 3 1 { masters := (portUnits i ++ portUnits o).map mPort, vc := some v } d

/-- The reassembly, in order, whose deadline has passed (R167). -/
def reasmExpired (d : Dev) (r : Reasm) : Bool := isLate d r.dl

/-- A reference goes to a sub-port. -/
def Ref.towards (r : Ref) (lp : Nat) : Bool :=
  match r.tgt with
  | .fabric l => l == lp
  | .edge l _ => l == lp
  | .inner _ _ => false

/-- Discard every reference of VOQs, staging areas and edge queues that goes to a sub-port, telling the sources (R131). -/
def flushQueues (lp : Nat) (d : Dev) : Dev :=
  let toLp := fun (r : Ref) => r.towards lp
  let gone := (d.sw.voq.flatMap (fun p => p.2.filter toLp)) ++ (d.sw.stage.flatMap (fun p => p.2.filter toLp))
  let d := modSw (fun s => { s with voq := tmap (fun q => q.filter (fun r => !toLp r)) s.voq,
                                    stage := tmap (fun q => q.filter (fun r => !toLp r)) s.stage }) d
  let eb := (sub d lp).edge.out.flatMap (fun f => f.cells.map (fun c => c.2.2.2))
  let d := modSub lp (fun p => { p with edge := { p.edge with out := [] } }) d
  each (gone.map (·.buf) ++ eb) (fun n d =>
    match buf d n with
    | some b => dropRef n (gather (hSrc b.hdr) 4 0 [] d)
    | none => d) d

/-- A Furrow entry breaks when a sub-port is flushed (R91): its queue is discarded, its buffers return, its slots stay held, its source
is told; cells queued towards the sub-port are reported with the others (R131). -/
def breakFurrow (lp fid : Nat) (d : Dev) : Dev :=
  match tget d.tab.furrows fid with
  | none => d
  | some f =>
    if f.state = .broken then d
    else
      let d := each f.queue (fun r d => match buf d r.buf with
        | some b => dropRef r.buf (if r.towards lp then gather (hSrc b.hdr) 4 0 [] d else d)
        | none => d) d
      let d := modTab (fun t => { t with furrows := tput t.furrows fid { f with state := .broken, queue := [] } }) d
      let d := relevel d
      match tget d.tab.ept f.src, noticeSrc d with
      | some _, some s => noticeFrom s f.src 4 (toBE 4 fid ++ toBE 2 f.gen ++ zeros 8) d
      | _, _ => postEvent 0xE (toLE 4 fid ++ toLE 2 f.gen) d

/-- Entries that R91 breaks when a sub-port is flushed. -/
def furrowsOn (d : Dev) (lp : Nat) : List Nat :=
  (d.tab.furrows.filter (fun p => (!furrowInner p.2 && p.2.outHop == lp)
    || (p.2.inX == portOf lp && p.2.inSub == lp % 4))).map (·.1)

/-- Give back the credits a sub-port was lent and its neighbour never filled. -/
def returnCredits (lp : Nat) (d : Dev) : Dev :=
  let l := (sub d lp).link
  let d := each (List.range 5) (fun v d =>
    each (List.range (tgetD l.lent v 0)) (fun i d => uncharge (ownExt lp v) (decide (i < tgetD l.lentSpill v 0)) d) d) d
  modLink lp (fun l => { l with lent := [], lentSpill := [] }) d

/-- Cells of the replay buffer the neighbour has not acknowledged are reported lost (R131, R132). -/
def reportReplay (lp : Nat) (d : Dev) : Dev :=
  let l := (sub d lp).link
  each (l.replay.filter (fun u => decide (subMod 18 u.1 (l.acked + 1) < 2 ^ 17)))
    (fun u d => gather (hSrc (u.2.take 32)) 4 0 [] d) d

/-- The flush at the end of HOLD (R131): queues, replay buffer, Furrows; the link's counts start afresh (R133). -/
def flushSub (lp : Nat) (d : Dev) : Dev :=
  let d := flushQueues lp d
  let d := each (furrowsOn d lp) (breakFurrow lp) d
  let d := returnCredits lp (reportReplay lp d)
  modSub lp (fun p => { p with link := { linkZero with markerSent := p.link.markerSent }, fresh := true }) d

end Sys2Proof.Machine
end

