-- ==== Sys2Proof/Machine/Link.lean ====
section
/-! DEFINITION. Ollet Link: units, credits, retry, markers, alignment, port states and the link arbiter (R99 to R114, R130 to
R134, R149, R159 to R161, R27, R30 to R33, R36). -/

namespace Sys2Proof.Machine

/-- Fields of the link header (Table 4.6). -/
def uWord (u : Bytes) : Nat := beNat (slice u 0 8)
def uType (u : Bytes) : Nat := bits (uWord u) 60 4
def uCvc (u : Bytes) : Nat := bits (uWord u) 57 3
def uGrant (u : Bytes) : Nat := bits (uWord u) 45 12
def uSeq (u : Bytes) : Nat := bits (uWord u) 27 18
def uAck (u : Bytes) : Nat := bits (uWord u) 9 18
def uBody (u : Bytes) : Bytes := slice u 8 544

/-- The unit's header is good (R100, R101). -/
def unitOk (u : Bytes) : Bool :=
  crc8 (slice u 0 7) == byteAt u 7 && decide (uType u < 5) && uCvc u ≠ 5 && uCvc u ≠ 6

/-- Build a unit (R100). -/
def mkUnit (ty cvc grant seq ack : Nat) (body : Bytes) : Bytes :=
  let w := ty * 2 ^ 60 + cvc * 2 ^ 57 + grant % 4096 * 2 ^ 45 + seq % 2 ^ 18 * 2 ^ 27 + ack % 2 ^ 18 * 2 ^ 9
  let h := slice (toBE 8 w) 0 7
  h ++ toBE 1 (crc8 h) ++ fit body 544

/-- `a` lies ahead of `b` in the 18-bit sequence space (R108). -/
def ahead (a b : Nat) : Bool := within 1 (2 ^ 17 - 1) (subMod 18 a b)

/-- A loss is detected (R108): one REPLAY while none is outstanding. -/
def detectLoss (lp : Nat) (d : Dev) : Dev :=
  modLink lp (fun l => if l.loss then l else { l with loss := true, replayDue := true }) d

/-- An uncorrectable codeword (R99, R101): reported to the health manager; on a fabric sub-port it is a loss. -/
def fecLoss (lp : Nat) (lane : Option Nat) (d : Dev) : Dev :=
  let d := count 1 2 1 { masters := [mPort lp] } (cause 0 d)
  let d := match lane with
    | some i => scoreEvent 3 0 i d
    | none => scoreEvent 3 1 (portOf lp) d
  if isEdge d lp then d else detectLoss lp d

/-- A sub-port enters HOLD (Table 4.17). -/
def enterHold (lp : Nat) (why : HoldCause) (d : Dev) : Dev :=
  let d := modSub lp (fun p => { p with state := .hold, holdCount := 0, cause := why, unreach := why == .liveness }) d
  scoreEvent 4 1 (portOf lp) d

/-- The 16-bit grant count a 12-bit update stands for: the smallest not below the last known (R107). -/
def extendGrant (known low : Nat) : Nat := (known + (low + 4096 - known % 4096) % 4096) % 65536

/-- What every good unit brings: a grant and an ack (R107, R132). -/
def unitCommon (lp : Nat) (u : Bytes) (d : Dev) : Dev :=
  modLink lp (fun l =>
    let l := if uCvc u < 5 then { l with known := tput l.known (uCvc u) (extendGrant (tgetD l.known (uCvc u) 0) (uGrant u)) }
      else l
    let l := if l.resume then
        { l with resume := false, replayAt := if (uAck u + 1) % 2 ^ 18 = l.seqNext then none else some ((uAck u + 1) % 2 ^ 18) }
      else l
    { l with acked := uAck u }) d

/-- The ACTIVE entry a VC5 cell from a link belongs to (R90): of its input, sub-port and hop byte; of several, the one of its source
and destination (log 78). -/
def furrowOf (d : Dev) (lp : Nat) (h : Bytes) : Option (Nat × Furrow) :=
  let l := d.tab.furrows.filter (fun p => p.2.state == .active && p.2.inX == portOf lp && p.2.inSub == lp % 4
    && p.2.outHop == hHop h (hPtr h))
  (l.find? (fun p => p.2.src == hSrc h && p.2.dst == hDst h)).or l.head?

/-- A VC5 cell from a link (R90, R136, R165). -/
def furrowCell (lp : Nat) (h pay : Bytes) (d : Dev) : Dev :=
  match furrowOf d lp h with
  | some (fid, f) =>
    if isLate d (hDl h) then count 7 2 1 (cellAttr [lp] h) (dropCell 1 lp (some 5) h d)
    else if fencedCell d h then dropFenced lp h d
    else if f.queue.length < 2 * f.count then
      (match placeFurrow fid lp true h pay d with
       | (some n, d) => sampleCell lp false n h d
       | (none, d) => d)
    else strayFurrow lp d
  | none => strayFurrow lp d

/-- The cell header passes R116. -/
def cellOk (h : Bytes) : Bool :=
  crc16 (slice h 0 30) == beAt h 30 2 && decide (hVc h < 6) && (hLast h || hLen h == 512)

/-- Take a policer token (R161). -/
def policeCell (lp : Nat) (h : Bytes) (d : Dev) : Bool × Dev :=
  let t := hTc h
  if !(inForce d (oShpPol lp t)).testBit 24 then (true, d)
  else
    let n := tgetD (sub d lp).police t 0
    if n < 1 then
      (false, count 3 2 1 (cellAttr [lp] h)
        (modSub lp (fun p => { p with policed := tput p.policed t (tgetD p.policed t 0 + 1) }) (dropCell 7 lp (some 1) h d)))
    else (true, modSub lp (fun p => { p with police := tput p.police t (n - 1) }) d)

/-- A cell accepted in sequence (R116, R149, R161, R51, R165). -/
def acceptCell (lp : Nat) (h pay : Bytes) (d : Dev) : Dev :=
  let d := modSub lp (fun p => { p with bytes := (p.bytes.1 + 552, p.bytes.2) }) (count 2 2 1 (cellAttr [lp] h) d)
  if !cellOk h then tally 2 lp (count 3 3 1 (cellAttr [lp] h) d)
  else
    let v := hVc h
    let d := if hLate h then tally 5 lp (count 7 4 1 (cellAttr [lp] h) d) else d
    if v = 5 then
      (match policeCell lp h d with
       | (true, d) => furrowCell lp h (pay.take (hLen h)) d
       | (false, d) => d)
    else
      let l := (sub d lp).link
      if tgetD l.lent v 0 = 0 then tally 6 lp d
      else
        let spill := decide (tgetD l.lent v 0 ≤ tgetD l.lentSpill v 0)
        let ls := if spill then tput l.lentSpill v (tgetD l.lentSpill v 0 - 1) else l.lentSpill
        let le := tput l.lent v (tgetD l.lent v 0 - 1)
        let d := modLink lp (fun l => { l with lent := le, lentSpill := ls }) d
        match policeCell lp h d with
        | (false, d) => uncharge (ownExt lp v) spill d
        | (true, d) =>
          match place (portOf lp) lp (ownExt lp v) spill true h (pay.take (hLen h)) d with
          | (none, d) => d
          | (some n, d) => sampleCell lp false n h d

/-- A CELL unit (R108). -/
def recvCell (lp : Nat) (u : Bytes) (d : Dev) : Dev :=
  let d := unitCommon lp u d
  let l := (sub d lp).link
  if uSeq u = l.expect then
    let d := modLink lp (fun l => { l with expect := (l.expect + 1) % 2 ^ 18, loss := false, replayDue := false }) d
    acceptCell lp (slice (uBody u) 0 32) (slice (uBody u) 32 512) d
  else if ahead (uSeq u) l.expect then detectLoss lp d
  else d

/-- A unit that carries no cell shows a loss when its next sequence lies ahead (R108). -/
def recvOther (lp : Nat) (u : Bytes) (d : Dev) : Dev :=
  let d := unitCommon lp u d
  if ahead (uSeq u) (sub d lp).link.expect then detectLoss lp d else d

/-- A REPLAY (R109): replay from ack + 1, or HOLD. -/
def recvReplay (lp : Nat) (u : Bytes) (d : Dev) : Dev :=
  let d := recvOther lp u d
  let s := (uAck u + 1) % 2 ^ 18
  let l := (sub d lp).link
  let n := match l.replaySeen with
    | some (q, n) => if q = s then n + 1 else 1
    | none => 1
  let d := modLink lp (fun l => { l with replaySeen := some (s, n) }) d
  if (s ≠ l.seqNext ∧ !l.replay.any (fun x => x.1 == s)) ∨ fld d 0x100018 0 4 < n then
    if (sub d lp).state = .service then
      enterHold lp .retry (postEvent 7 (toLE 1 lp ++ toLE 4 s) d)
    else d
  else modLink lp (fun l => { l with replayAt := if s = l.seqNext then none else some s }) d

/-- A good unit of a type other than MARKER that a sub-port can take in SERVICE, or reads in HOLD. -/
def linkUp (d : Dev) (lp : Nat) : Bool :=
  !isEdge d lp && (sub d lp).lock && (sub d lp).state ≠ .disabled && (sub d lp).state ≠ .training

/-- A unit arrives (R101, R108, R109). -/
def recvUnit (lp : Nat) (u : Bytes) (d : Dev) : Dev :=
  if !linkUp d lp then d
  else if !unitOk u then fecLoss lp none d
  else match uType u with
    | 0 => recvCell lp u d
    | 3 => recvReplay lp u d
    | 1 | 4 => recvOther lp u d
    | _ => d

/-- Signed division by a positive number, toward zero (R30, R112). -/
def tdiv (a : Int) (b : Nat) : Int := if a < 0 then -((a.natAbs / b : Nat) : Int) else ((a.natAbs / b : Nat) : Int)

/-- A marker body is valid (R112). -/
def markerOk (b : Bytes) : Bool :=
  crc16 (slice b 0 542) == beAt b 542 2 && byteAt b 15 == 0 && decide (byteAt b 13 < 4) && allZero (slice b 34 508)

/-- Retired lanes of a port (R97, R403). -/
def lanesRetired (d : Dev) (p : Nat) : Nat :=
  ((List.range 8).map (fun i => if retired d 0 (8 * p + i) then 2 ^ i else 0)).sum

/-- The widest width of Table 4.1 inside a sub-port whose lanes are all in service and that its lane rate supports (R134). -/
def trainWidth (d : Dev) (lp : Nat) : Option Nat :=
  let r := lanesRetired d (portOf lp)
  let n := fullLanes d lp
  let base := n * (lp % 4)
  let ok := fun (w : Nat) => (List.range (n / w)).any (fun j => (r / 2 ^ (base + w * j)) % 2 ^ w == 0)
  ([8, 4, 2].filter (fun w => decide (w ≤ n) && (w ≠ 2 || laneRate d lp == 0))).find? ok

/-- The counts of a link start afresh (R133): credits come from the marker just received. -/
def restartCounts (lp : Nat) (d : Dev) : Dev :=
  modLink lp (fun l => { linkZero with known := l.known, markerSent := l.markerSent, vc4Sent := l.vc4Sent, adaptSent := l.adaptSent })
    (returnCredits lp d)

/-- The sub-port shows fresh in its markers (R111): flushed since it was last in SERVICE, or never in SERVICE (R417, log 109). -/
def showsFresh (p : SubPort) : Bool := p.fresh || !p.served

/-- FEC lock on every lane: a sub-port that shows fresh starts its counts at 0 (R133, log 109), what its neighbour showed
before is forgotten, and its first marker waits for a boundary (R111, log 109). -/
def lockIn (lp : Nat) (d : Dev) : Dev :=
  let d := modSub lp (fun p => { p with
    lock := true, told := [], nbr := p.nbr.map (fun n => { n with fresh := false }),
    link := { p.link with markerSent := p.link.markerSent || decide (d.clk.slot ≠ 0) } }) d
  if showsFresh (sub d lp) && !isEdge d lp then restartCounts lp d else d

/-- Enter SERVICE (R130, R132, R133, R96); on a return within HOLD the first unit says where the replay starts. -/
def enterService (lp : Nat) (resume : Bool) (d : Dev) : Dev :=
  let w := (trainWidth d lp).getD (sub d lp).lanes
  let before := capacity d lp
  let d := modLink lp (fun l => { l with resume := resume, replaySeen := none }) d
  let d := modSub lp (fun p => { p with state := .service, served := true, lanes := w, unreach := false, holdCount := 0,
                                        fresh := false, missing := 0, overs := 0, met := p.nbr.map (·.node) }) d
  if capacity d lp < before then postEvent 6 (toLE 1 lp ++ toLE 2 (capacity d lp)) d else d

/-- R33: whether the link's SWC is settled, and whether this end loads it; none when the two islands disagree. -/
def settleSwc (d : Dev) (lp : Nat) (n : Neighbour) (theta : Int) : Option Bool :=
  let mine := !d.clk.realigned && fabricService d (some lp)
  let agree := n.swc == d.clk.swc.toNat && decide (theta.natAbs ≤ 8)
  match mine, n.inFabric with
  | false, true => some true
  | true, false => if agree then some false else none
  | true, true => if agree then some false else none
  | false, false =>
    let me := (nodeNow d, d.nv.fuse.serial.toNat)
    if n.node < me.1 ∨ (n.node = me.1 ∧ n.serial < me.2) then some true
    else if agree then some false else none

/-- Load SWC and boundary from the neighbour's marker (R33): what was measured from the boundary moves with it or is forgotten, and
no θ is formed until markers sent since then have been answered (log 103). -/
def loadSwc (lp : Nat) (n : Neighbour) (theta : Int) (d : Dev) : Dev :=
  let len := d.clk.lenNow
  let s : Int := ((d.clk.slot : Int) - theta) % (len : Int)
  let start : Int := (d.clk.swStart : Int) + 6 * ((d.clk.slot : Int) - s)
  each (if theta = 0 then [] else d.subs.map (·.1)) (fun l d => modSub l (fun p =>
      { p with theta := none, lastTheta := 0, oRx := if l = lp then p.oRx.map (· - theta) else none, blind := 2 }) d)
    { d with clk := { d.clk with swc := BitVec.ofNat 48 n.swc, slot := s.toNat, swStart := start.toNat, realigned := false } }

/-- Post an event of R27 or R33, once for each time the sub-port trains (log 102). -/
def tell (lp code : Nat) (data : Bytes) (d : Dev) : Dev :=
  if (sub d lp).told.contains code then d else postEvent code data (modSub lp (fun p => { p with told := code :: p.told }) d)

/-- What a valid marker lets a sub-port do (R27, R32, R33, R130, R132, R133); R33 needs θ, so a complete exchange of markers. -/
def markerAlign (lp : Nat) (n : Neighbour) (th : Option Int) (d : Dev) : Dev :=
  let p := sub d lp
  if p.state = .service then d
  else if !p.lock ∨ (trainWidth d lp).isNone then d
  else if n.ns ≠ d.clk.nsNow then
    tell lp 2 (toLE 1 lp ++ toLE 2 n.ns) d
  else
    match th with
    | none => d
    | some theta =>
    match settleSwc d lp n theta with
    | none =>
      if !d.clk.realigned && fabricService d (some lp) && n.inFabric then
        tell lp 4 (toLE 1 lp ++ toLE 2 n.node) d
      else d
    | some load =>
      let d := if load then loadSwc lp n theta d else d
      laterSteps (enterService lp (p.state == .hold && !n.fresh) d)

/-- A marker arrives; `arr` is its start in fabric cycles from the local boundary (R107, R111, R112). A neighbour that begins to show
fresh restarts the counts of a sub-port in HOLD, which reports its replay buffer, of one in SERVICE, and of one not yet in SERVICE that
has taken cells (R132, R133, R500). -/
def recvMarker (lp : Nat) (arr : Int) (u : Bytes) (d : Dev) : Dev :=
  let b := uBody u
  if !linkUp d lp then d
  else if !unitOk u then fecLoss lp none d
  else if uType u ≠ 2 then d
  else
    let d := recvOther lp u d
    if !markerOk b then d
    else
      let half : Int := (3 * d.clk.nsNow / 2 : Nat)
      let o := tdiv ((arr - (byteAt b 12 : Nat) + half) % ((3 * d.clk.nsNow : Nat) : Int) - half) 3
      let otx := beAt b 10 2
      let th : Option Int := if otx = 0x8000 ∨ 0 < (sub d lp).blind then none else some (tdiv (o - signed 16 otx) 2)
      let n : Neighbour := { node := beAt b 0 2, serial := beAt b 26 8, swc := beAt b 2 6, ns := beAt b 8 2,
                             inFabric := (byteAt b 13).testBit 0, fresh := (byteAt b 13).testBit 1 }
      let big := match th with
        | some t => decide (8 < t.natAbs)
        | none => false
      let was := ((sub d lp).nbr.map (·.fresh)).getD false
      let d := modSub lp (fun p =>
        let k := (List.range 5).foldl (fun k v => tput k v (beAt b (16 + 2 * v) 2)) p.link.known
        let ov := if big then p.overs + 1 else 0
        { p with nbr := some n, oRx := some o, theta := th, lastTheta := th.getD p.lastTheta, overs := ov, marked := true,
                 link := { p.link with known := k } }) d
      let d := if !n.fresh then d
        else if (sub d lp).state = .hold then (if was then d else restartCounts lp (reportReplay lp d))
        else if (sub d lp).state = .service then (if was then d else restartCounts lp d)
        else if (sub d lp).link.expect ≠ 0 then restartCounts lp d
        else d
      markerAlign lp n th d

/-- The marker body this device sends on a sub-port (Table 4.8); a tx_delay that its byte cannot hold is a free value (log 112). -/
def markerBody (d : Dev) (lp : Nat) : Bytes :=
  let p := sub d lp
  let fabric := !d.clk.realigned && fabricService d (some lp)
  let b := toBE 2 (nodeNow d) ++ toBE 6 d.clk.swc.toNat ++ toBE 2 d.clk.nsNow
    ++ toBE 2 (match p.oRx with
      | some o => wrap 16 o
      | none => 0x8000)
    ++ toBE 1 (if d.clk.slot < 86 then d.clk.slot * 3 else (Config.freeValue d.free).toNat) ++ toBE 1 (boolNat fabric + 2 * boolNat (showsFresh p))
    ++ toBE 1 (fld d oSwathRsv 0 4) ++ [0]
    ++ (List.range 5).flatMap (fun v => toBE 2 (tgetD p.link.granted v 0))
    ++ toBE 8 d.nv.fuse.serial.toNat ++ zeros 508
  b ++ toBE 2 (crc16 b)

/-- Name the next VC whose grant count changed (R107): VC, count and the list left. -/
def nextGrant (l : Link) : Nat × Nat × List Nat :=
  match l.changed with
  | v :: rest => (v, tgetD l.granted v 0, rest)
  | [] => (7, 0, [])

/-- Send a unit that carries no cell. -/
def sendUnit (lp ty : Nat) (body : Bytes) (d : Dev) : Dev :=
  modSub lp (fun p =>
    let l := p.link
    let (v, g, rest) := nextGrant l
    { p with lastTx := mkUnit ty v g (l.replayAt.getD l.seqNext) ((l.expect + 2 ^ 18 - 1) % 2 ^ 18) body, link := { l with changed := rest } }) d

/-- Length a shaper takes for the frame that the first cell in buffer `n` begins (R159): the payload of all its cells. A last cell
that has not come yet is of an unknown length, a free value (log 119). -/
def shaperLen (lp n : Nat) (b : Buf) (d : Dev) : Nat × Dev :=
  let k := beAt b.pay 2 2
  let key := frameKey b.hdr 0 0
  let o := inForce d (oShpOvh lp)
  let ovh := if o.testBit 6 then (if isEdge d lp then 20 else 8) else bits o 0 6
  let here := d.bpm.bufs.filter (fun p => decide (n ≤ p.1) && frameKey p.2.hdr 0 0 == key)
  match here.find? (fun p => hLast p.2.hdr && hIdx p.2.hdr + 1 == k) with
  | some p => ((k - 1) * 512 + hLen p.2.hdr + ovh, d)
  | none =>
    let (w, d) := drawFree d
    ((k - 1) * 512 + 16 * (1 + w.toNat % 32) + ovh, d)

/-- A frame's first cell may go as far as its shaper is concerned (R160). -/
def shaperOk (d : Dev) (lp tc : Nat) (first : Bool) : Bool :=
  !first || bits (inForce d (oShpRate lp tc)) 0 24 == 0 || decide (0 < tgetD (sub d lp).shaper tc 0)

def shaperTake (lp tc n : Nat) (d : Dev) : Dev :=
  if bits (inForce d (oShpRate lp tc)) 0 24 = 0 then d
  else modSub lp (fun p => { p with shaper := tput p.shaper tc (tgetD p.shaper tc 0 - (n : Int)) }) d

/-- Send a staged cell as a CELL unit (R104, R106, R52). -/
def sendCell (lp v : Nat) (r : Ref) (b : Buf) (d : Dev) : Dev :=
  let late := decide (1 < subMod 48 d.clk.swc.toNat b.swc)
  let body := hopCopy b.hdr late ++ fit b.pay 512
  let d := if hFirst b.hdr ∧ v < 4 ∧ bits (inForce d (oShpRate lp (hTc b.hdr))) 0 24 ≠ 0 then
      (let (n, d) := shaperLen lp r.buf b d
       shaperTake lp (hTc b.hdr) n d)
    else d
  let keep := 2 * capacity d lp
  let d := modSub lp (fun p =>
    let l := p.link
    let (g, n, rest) := nextGrant l
    let rep := l.replay ++ [(l.seqNext, body)]
    { p with lastTx := mkUnit 0 g n l.seqNext ((l.expect + 2 ^ 18 - 1) % 2 ^ 18) body,
             bytes := (p.bytes.1, p.bytes.2 + 552),
             link := { l with changed := rest, seqNext := (l.seqNext + 1) % 2 ^ 18,
                              sent := if v < 5 then tput l.sent v ((tgetD l.sent v 0 + 1) % 65536) else l.sent,
                              vc4Sent := if v = 4 then l.vc4Sent + 1 else l.vc4Sent,
                              replay := rep.drop (rep.length - keep) } }) d
  let d := count 2 1 1 (cellAttr [lp] b.hdr) (count 7 1 1 (cellAttr [lp] b.hdr) d)
  dropRef r.buf (sampleCell lp true r.buf b.hdr d)

/-- Take late and fenced cells off the head of a staging area (R51). -/
def trimStage (lp v : Nat) : Nat → Dev → Dev
  | 0, d => d
  | n + 1, d =>
    match staged d lp v with
    | [] => d
    | r :: rest =>
      let pop := fun (d : Dev) => modSw (fun s => { s with stage := tput s.stage (stageKey lp v) rest }) d
      match buf d r.buf with
      | none => trimStage lp v n (pop d)
      | some b =>
        if isLate d (hDl b.hdr) then
          trimStage lp v n (pop (dropRef r.buf (count 7 2 1 (cellAttr [lp] b.hdr) (dropCell 1 lp (some 5) b.hdr d))))
        else if fencedCell d b.hdr then trimStage lp v n (pop (dropRef r.buf (dropFenced lp b.hdr d)))
        else d

/-- The cell at the head of a staging area that may go: it has a credit and its shaper lets it (R105, R160). -/
def eligible (d : Dev) (lp v : Nat) : Option (Ref × Buf) :=
  let l := (sub d lp).link
  match staged d lp v with
  | [] => none
  | r :: _ =>
    match buf d r.buf with
    | none => none
    | some b =>
      if v < 5 ∧ !within 1 32767 (subMod 16 (tgetD l.known v 0) (tgetD l.sent v 0)) then none
      else if v < 4 ∧ !shaperOk d lp (hTc b.hdr) (hFirst b.hdr) then none
      else some (r, b)

def popStage (lp v : Nat) (d : Dev) : Dev :=
  modSw (fun s => { s with stage := tput s.stage (stageKey lp v) ((tgetD s.stage (stageKey lp v) []).drop 1) }) d

/-- Weighted round robin over VC0 to VC3 (R105): the VC to serve and the place in the round after it. -/
def wrrPick (d : Dev) (lp : Nat) : Nat → Nat × Nat → Option (Nat × (Nat × Nat))
  | 0, _ => none
  | n + 1, (v, c) =>
    if c < vcWeight d (portOf lp) v ∧ (eligible d lp v).isSome then some (v, (v, c + 1))
    else wrrPick d lp n ((v + 1) % 4, 0)

/-- An adaptation slot of the Swath (R36). -/
def adaptSlot (d : Dev) : Bool :=
  decide (d.clk.slot < d.clk.nsNow) && (d.clk.nsNow - 1 - d.clk.slot) % 2 ^ d.clk.adaptNow == 0

/-- Resend one unit of the replay buffer (R109). -/
def sendReplayed (lp s : Nat) (d : Dev) : Dev :=
  let l := (sub d lp).link
  match l.replay.find? (fun x => x.1 == s) with
  | none => modLink lp (fun l => { l with replayAt := none }) d
  | some (_, body) =>
    let nxt := (s + 1) % 2 ^ 18
    count 2 4 1 (cellAttr [lp] body) (modSub lp (fun p =>
      let l := p.link
      let (g, n, rest) := nextGrant l
      { p with lastTx := mkUnit 0 g n s ((l.expect + 2 ^ 18 - 1) % 2 ^ 18) body, bytes := (p.bytes.1, p.bytes.2 + 552),
               link := { l with changed := rest, replayAt := if nxt = l.seqNext then none else some nxt } }) d)

/-- Items 6 to 8 of R104: a VC4 cell within M, a cell by weighted round robin, or IDLE. -/
def sendQueued (lp : Nat) (d : Dev) : Dev :=
  match (if (sub d lp).link.vc4Sent < mgmtCells d lp then eligible d lp 4 else none) with
  | some (r, b) => sendCell lp 4 r b (popStage lp 4 d)
  | none =>
    match wrrPick d lp 5 (sub d lp).link.wrr with
    | some (v, w) =>
      (match eligible d lp v with
       | some (r, b) => sendCell lp v r b (popStage lp v (modLink lp (fun l => { l with wrr := w }) d))
       | none => sendUnit lp 1 [] d)
    | none =>
      let d := each (List.range 4) (fun v d => match staged d lp v with
        | r :: _ => (match buf d r.buf with
          | some b => if hFirst b.hdr ∧ !shaperOk d lp (hTc b.hdr) true then
              countOnce 1 r.rid 7 3 (cellAttr [lp] b.hdr) d else d
          | none => d)
        | [] => d) d
      sendUnit lp 1 [] d

/-- One unit opportunity of a fabric sub-port (R104, R111, R130). -/
def unitOpp (lp : Nat) (d : Dev) : Dev :=
  let p := sub d lp
  if !linkUp d lp then d
  else
    let d := each (List.range 6) (fun v d => trimStage lp v 33 d) d
    let serving := p.state == .service
    if adaptSlot d ∧ p.link.adaptSent < adaptUnits d lp then
      count 1 3 1 { masters := [mPort lp] } (modLink lp (fun l => { l with adaptSent := l.adaptSent + 1 }) (sendUnit lp 4 [] d))
    else
      match (if serving then eligible d lp 5 else none) with
      | some (r, b) => sendCell lp 5 r b (popStage lp 5 d)
      | none =>
        if !p.link.markerSent then
          let d := modLink lp (fun l => { l with markerSent := true, vc4Sent := l.vc4Sent + 1 }) (sendUnit lp 2 (markerBody d lp) d)
          if d.clk.slot < 86 then d else { d with free := d.free + 1 }
        else if !serving then sendUnit lp 1 [] d
        else if p.link.replayDue then
          count 2 3 1 { masters := [mPort lp] } (modLink lp (fun l => { l with replayDue := false }) (sendUnit lp 3 [] d))
        else
          match p.link.replayAt with
          | some s => sendReplayed lp s d
          | none => sendQueued lp d

/-- Lend a credit to the neighbour (R149), once the sub-port trains no more (log 110). -/
def lendCredit (lp v : Nat) (d : Dev) : Dev :=
  if !wantsCredit d lp v then d
  else
    match lend (ownExt lp v) .credit d with
    | (none, d) => d
    | (some spill, d) =>
      modLink lp (fun l =>
        let ls := if spill then tput l.lentSpill v (tgetD l.lentSpill v 0 + 1) else l.lentSpill
        let g := tput l.granted v ((tgetD l.granted v 0 + 1) % 65536)
        let ch := if l.changed.contains v then l.changed else l.changed ++ [v]
        { l with lent := tput l.lent v (tgetD l.lent v 0 + 1), lentSpill := ls, granted := g, changed := ch }) d

end Sys2Proof.Machine
end

