-- ==== Sys2Proof/Machine/Edge.lean ====
section
/-! DEFINITION. The edge personality: Ethernet frames in and out, responders, priority flow control and the egress of
datagrams (R119 to R129, R150, R159, R160, R458). -/

namespace Sys2Proof.Machine

/-- Own addresses of an edge sub-port (Table 4.15). -/
def ownMac (d : Dev) (lp : Nat) : Bytes := toBE 6 (rg d (oEdge lp))
def ownIp4 (d : Dev) (lp : Nat) : Bytes := toBE 4 (rg d (oEdge lp + 8))
def ownIp6 (d : Dev) (lp : Nat) : Bytes := toBE 8 (rg d (oEdge lp + 0x18)) ++ toBE 8 (rg d (oEdge lp + 0x10))
def ip4Valid (d : Dev) (lp : Nat) : Bool := flag d (oEdge lp + 0x20) 0
def ip6Valid (d : Dev) (lp : Nat) : Bool := flag d (oEdge lp + 0x20) 1
def defPrio (d : Dev) (lp : Nat) : Nat := fld d (oEdge lp + 0x20) 2 3
def udpPort (d : Dev) (lp : Nat) : Nat := fld d (oEdge lp + 0x20) 16 16
def xoffOf (d : Dev) (lp : Nat) : Nat := fld d (oEdge lp + 0x28) 0 16
def xonOf (d : Dev) (lp : Nat) : Nat := fld d (oEdge lp + 0x28) 16 16

def bcastMac : Bytes := List.replicate 6 0xFF
def pfcMac : Bytes := [0x01, 0x80, 0xC2, 0x00, 0x00, 0x01]

/-- The solicited-node multicast address of an IPv6 address, and its MAC. -/
def solicited (ip : Bytes) : Bytes := [0xFF, 0x02] ++ zeros 9 ++ [0x01, 0xFF] ++ slice ip 13 3
def solicitedMac (ip : Bytes) : Bytes := [0x33, 0x33, 0xFF] ++ slice ip 13 3

/-- Transmit an Ethernet frame: padded to the minimum, its FCS added (R119), its bytes counted (R458). -/
def etherOut (lp : Nat) (f : Bytes) (d : Dev) : Dev :=
  let f := f ++ zeros (60 - f.length)
  let f := f ++ toLE 4 (crc32 f)
  modSub lp (fun p => { p with lastTx := f, bytes := (p.bytes.1, p.bytes.2 + f.length) }) d

/-- A priority flow control frame for one priority (R125). -/
def pfcOut (lp tc quanta : Nat) (d : Dev) : Dev :=
  let q := (List.range 8).flatMap (fun i => toBE 2 (if i = tc then quanta else 0))
  count 2 7 1 { masters := [mPort lp], tc := some tc }
    (etherOut lp (pfcMac ++ ownMac d lp ++ [0x88, 0x08, 0x01, 0x01] ++ toBE 2 (2 ^ tc) ++ q) d)

/-- Cells held in an ingress queue of a sub-port (R124). -/
def ingressHeld (d : Dev) (lp tc : Nat) : Nat :=
  (d.sw.tx.map (fun p => match p.2.fr.org with
    | .edge l t _ => if l = lp ∧ t = tc then p.2.held.length else 0
    | _ => 0)).sum

/-- A queue above xoff starts a pause (R125). -/
def pfcStart (lp tc : Nat) (d : Dev) : Dev :=
  if xoffOf d lp < ingressHeld d lp tc ∧ (tget (sub d lp).edge.xoff tc).isNone then
    pfcOut lp tc 0xFFFF (modSub lp (fun p => { p with edge := { p.edge with xoff := tput p.edge.xoff tc 1 } }) d)
  else d

/-- Queues that have fallen to xon or below end their pause (R125). -/
def pfcEnd (d : Dev) : Dev :=
  each (d.subs.flatMap (fun s => s.2.edge.xoff.map (fun x => (s.1, x.1)))) (fun k d =>
    if ingressHeld d k.1 k.2 ≤ xonOf d k.1 then
      pfcOut k.1 k.2 0 (modSub k.1 (fun p => { p with edge := { p.edge with xoff := tdel p.edge.xoff k.2 } }) d)
    else d) d

/-- The repeat of a pause (R125). -/
def pfcRepeat (lp tc : Nat) (d : Dev) : Dev :=
  if (tget (sub d lp).edge.xoff tc).isSome ∧ xonOf d lp < ingressHeld d lp tc then pfcOut lp tc 0xFFFF d else d

/-- Sum of an IP pseudo-header for UDP or ICMPv6 (R119). -/
def pseudo (src dst : Bytes) (proto len : Nat) : Bytes := src ++ dst ++ toBE 4 len ++ toBE 4 proto

def udpSum (src dst u : Bytes) : Nat := inetSum (pseudo src dst 17 u.length ++ u)

/-- A gathered edge frame's bytes. -/
def edgeBytes (f : EdgeFrame) : Bytes :=
  (List.range f.cells.length).flatMap (fun i => ((f.cells.find? (fun c => c.1 == i)).map (fun c => c.2.2.1)).getD [])

/-- The datagram of a frame (R120, R126). IP fields the manual does not name are free (log 6). -/
def datagram (lp : Nat) (f : EdgeFrame) (d : Dev) : Bytes × Dev :=
  let r := peerRec d f.peer
  let (w, d) := drawFree d
  let x := w.toNat
  let v6 := (byteAt r 6).testBit 0
  let body := toBE 3 (f.key.getD 1 0) ++ toBE 3 (f.key.getD 0 0) ++ zeros 2 ++ edgeBytes f
  let ulen := 8 + body.length
  let u0 := toBE 2 f.hash ++ toBE 2 (leAt r 10 2) ++ toBE 2 ulen ++ zeros 2 ++ body
  let src := if v6 then ownIp6 d lp else ownIp4 d lp
  let dst := if v6 then slice r 16 16 else slice r 28 4
  let c := udpSum src dst u0
  let u := overlay u0 6 (toBE 2 (if c = 0 then 0xFFFF else c))
  let ip4 := [0x45, BitVec.ofNat 8 (bits x 32 6 * 4)] ++ toBE 2 (20 + ulen) ++ toBE 2 (bits x 0 16)
    ++ toBE 2 (bits x 24 1 * 0x4000) ++ toBE 1 (bits x 16 8) ++ [17] ++ zeros 2 ++ src ++ dst
  let ip6 := toBE 4 (6 * 2 ^ 28 + bits x 32 6 * 2 ^ 22 + bits x 0 20) ++ toBE 2 ulen ++ [17] ++ toBE 1 (bits x 40 8)
    ++ src ++ dst
  let ip := if v6 then ip6 else overlay ip4 10 (toBE 2 (inetSum ip4))
  let tag : Bytes := if (byteAt r 6).testBit 1 then [0x81, 0x00] ++ toBE 2 (f.tc * 2 ^ 13 + leAt r 8 2 % 4096) else []
  let ty : Bytes := if v6 then [0x86, 0xDD] else [0x08, 0x00]
  (slice r 0 6 ++ ownMac d lp ++ tag ++ ty ++ ip ++ u, d)

/-- Drop an edge frame that is late (R51). -/
def lateEdge (lp : Nat) (f : EdgeFrame) (d : Dev) : Dev :=
  each (f.cells.map (fun c => c.2.2.2)) (fun n d => match buf d n with
    | some b => dropRef n (count 7 2 1 (cellAttr [lp] b.hdr) (dropCell 1 lp (some 5) b.hdr d))
    | none => d) (lateCause lp d)

/-- Bytes a shaper takes for a datagram: destination MAC through FCS, and the overhead (R159). -/
def edgeShape (d : Dev) (lp : Nat) (b : Bytes) : Nat :=
  let o := inForce d (oShpOvh lp)
  b.length + 4 + (if o.testBit 6 then 20 else bits o 0 6)

/-- One gathered frame: late, held, or sent as a datagram (R51, R126, R127, R160, R167); VC4 within the cap M (R36, R103). -/
def edgeOne (lp : Nat) (f : EdgeFrame) (d : Dev) : Dev :=
  let p := sub d lp
  let gone := fun (d : Dev) => modSub lp (fun p => { p with edge := { p.edge with out := p.edge.out.erase f } }) d
  if isLate d f.dl then
    (if edgeWhole f then lateEdge lp f (gone d) else tally 10 lp (each (f.cells.map (fun c => c.2.2.2)) dropRef (gone d)))
  else if !edgeWhole f || p.state ≠ .service || (tget p.edge.paused f.tc).isSome then d
  else if f.key.getD 2 0 = 4 ∧ mgmtCells d lp ≤ p.link.vc4Sent then d
  else if f.key.getD 2 0 < 4 ∧ !shaperOk d lp f.tc true then countOnce 2 (f.cells.map (fun c => c.2.2.2)).sum 7 3 { masters := [mPort lp], vc := some (f.key.getD 2 0), tc := some f.tc } d
  else
    let v := f.key.getD 2 0
    let (b, d) := datagram lp f (gone d)
    let d := if v < 4 then shaperTake lp f.tc (edgeShape d lp b) d else d
    let d := etherOut lp b (if v = 4 then modLink lp (fun l => { l with vc4Sent := l.vc4Sent + f.cells.length }) d else d)
    let d := count 7 1 f.cells.length { masters := [mPort lp], vc := some (f.key.getD 2 0), tc := some f.tc } d
    let d := match f.cells.find? (fun c => c.1 == 0) with
      | some c => (match buf d c.2.2.2 with
        | some b => sampleCell lp true c.2.2.2 b.hdr d
        | none => d)
      | none => d
    each (f.cells.map (fun c => c.2.2.2)) dropRef d

/-- Every edge sub-port sends what may go, in order. -/
def edgeTry (d : Dev) : Dev :=
  each (d.subs.map (·.1)) (fun lp d => each (sub d lp).edge.out (edgeOne lp) d) d

/-- A frame fails test `n` of R123. -/
def edgeDrop (lp n : Nat) (d : Dev) : Dev :=
  let d := tally (15 + n) lp d
  if n ≤ 6 then count 2 6 1 { masters := [mPort lp] } d else d

/-- A NOTICE of the device to an EID (R123). -/
def tellEid (dst status detail : Nat) (d : Dev) : Dev :=
  match noticeSrc d with
  | some s => defer (.notice dst s status detail []) d
  | none => d

/-- Answer an ARP request for the own IPv4 address (R122). -/
def arpAnswer (lp : Nat) (src arp : Bytes) (d : Dev) : Dev :=
  if ip4Valid d lp && slice arp 0 8 == [0x00, 0x01, 0x08, 0x00, 0x06, 0x04, 0x00, 0x01] && slice arp 24 4 == ownIp4 d lp then
    etherOut lp (src ++ ownMac d lp ++ [0x08, 0x06, 0x00, 0x01, 0x08, 0x00, 0x06, 0x04, 0x00, 0x02] ++ ownMac d lp
      ++ ownIp4 d lp ++ slice arp 8 6 ++ slice arp 14 4) d
  else d

/-- A neighbour solicitation: type 135, code 0, hop limit 255, a good checksum, the own address as its target. -/
def isSolicit (d : Dev) (lp : Nat) (ip : Bytes) : Bool :=
  let n := beAt ip 4 2
  let m := slice ip 40 n
  byteAt ip 6 == 58 && byteAt ip 7 == 255 && decide (24 ≤ n) && byteAt m 0 == 135 && byteAt m 1 == 0
  && inetSum (pseudo (slice ip 8 16) (slice ip 24 16) 58 n ++ m) == 0 && slice m 8 16 == ownIp6 d lp

/-- Answer it with a neighbour advertisement (R122). -/
def naAnswer (lp : Nat) (src ip : Bytes) (d : Dev) : Dev :=
  let own := ownIp6 d lp
  let m0 : Bytes := [136, 0, 0, 0, 0x60, 0, 0, 0] ++ own ++ [2, 1] ++ ownMac d lp
  let dst := slice ip 8 16
  let m := overlay m0 2 (toBE 2 (inetSum (pseudo own dst 58 32 ++ m0)))
  etherOut lp (src ++ ownMac d lp ++ [0x86, 0xDD, 0x60, 0, 0, 0] ++ toBE 2 32 ++ [58, 255] ++ own ++ dst ++ m) d

/-- A priority flow control frame is acted on (R127): quanta for each enabled priority. -/
def pfcTake (lp : Nat) (f : Bytes) (d : Dev) : Dev :=
  let en := beAt f 2 2
  edgeTry (each (List.range 8) (fun t d =>
    if en.testBit t then
      let q := beAt f (4 + 2 * t) 2
      modSub lp (fun p =>
        let ps := if q = 0 then tdel p.edge.paused t else tput p.edge.paused t q
        { p with edge := { p.edge with paused := ps } }) d
    else d) d)

/-- What IP and UDP say of a datagram: its payload, its source address, whether IPv6 (tests 3 to 5 of R123); or the test
that failed. -/
def ipParse (d : Dev) (lp : Nat) (v6 : Bool) (ip : Bytes) : Except Nat (Bytes × Bytes × Bool) :=
  let hl := if v6 then 40 else 20
  let src := if v6 then slice ip 8 16 else slice ip 12 4
  let dst := if v6 then slice ip 24 16 else slice ip 16 4
  let own := if v6 then ip6Valid d lp && dst == ownIp6 d lp else ip4Valid d lp && dst == ownIp4 d lp
  let plain := if v6 then byteAt ip 0 / 16 == 6 else byteAt ip 0 == 0x45 && beAt ip 6 2 % 0x4000 == 0
  let proto := if v6 then byteAt ip 6 else byteAt ip 9
  let u := ip.drop hl
  let n := beAt u 4 2
  if !own || !plain then .error 3
  else if proto ≠ 17 ∨ beAt u 2 2 ≠ udpPort d lp then .error 4
  else if (!v6 && inetSum (slice ip 0 20) ≠ 0)
      || (beAt u 6 2 ≠ 0 && inetSum (pseudo src dst 17 n ++ slice u 0 n) ≠ 0) then .error 5
  else if n < 8 ∨ u.length < n then .error 6
  else .ok (slice u 0 n, src, v6)

/-- The frame a datagram carries (R120, R123 test 6): source, destination, label, header, data. -/
def edgeParse (u : Bytes) : Option (Nat × Nat × Nat × Bytes × Bytes) :=
  let n := u.length - 8
  let p := u.drop 8
  let oeh := slice p 8 32
  if n < 40 ∨ 8200 < n then none
  else if beAt p 6 2 ≠ 0 ∨ byteAt oeh 0 / 16 ≠ 1 ∨ beAt oeh 2 2 ≠ ceilDiv (n - 8) 512 then none
  else some (beAt p 3 3, beAt p 0 3, beAt u 0 2, oeh, p.drop 40)

/-- The source EID is a local EDGE entry of this sub-port and IP address (R123 test 7). -/
def edgeSource (d : Dev) (lp src : Nat) (ip : Bytes) (v6 : Bool) : Bool :=
  match tget d.tab.ept src with
  | none => false
  | some e =>
    let r := peerRec d e.idx
    e.isLocal && !e.mcast && e.kind == 4 && peerLp r == lp && (byteAt r 6).testBit 0 == v6
    && (if v6 then slice r 16 16 == ip else slice r 28 4 == ip)

/-- A datagram that passed tests 1 to 7: admission checks, buffers for all its cells, its ingress queue (R123 test 8, R124,
R125, R150). -/
def edgeAdmit (lp tc : Nat) (src dst label : Nat) (hdr data : Bytes) (d : Dev) : Dev :=
  let op := byteAt hdr 1
  let vc := vcOfOp d op tc false
  let fr : Frame :=
    { op := op, src := src, dst := dst, tc := tc, label := label, hdr := hdr, data := data, xport := portOf lp, furrow := none,
      direct := none, reply := if op = 1 then beAt hdr 22 4 else 0, seq := some (beAt hdr 4 4), org := .edge lp tc vc }
  match admitFrame d fr with
  | .refuse s t => tellEid src s t d
  | _ =>
    match lendAll (ownExt lp vc) .datagram (cellsOf data.length) d with
    | none => setEvt oBpmEvt 3 (tally 12 lp (count 5 2 1 (ownAttr (ownExt lp vc)) d))
    | some (pools, d) => pfcStart lp tc (sendFrame fr pools d)

/-- A datagram to the own MAC address: tests 3 to 8 of R123. -/
def edgeDatagram (lp tc : Nat) (v6 : Bool) (b : Bytes) (d : Dev) : Dev :=
  match ipParse d lp v6 b with
  | .error n => edgeDrop lp n d
  | .ok (u, ip, v6) =>
    match edgeParse u with
    | none => edgeDrop lp 6 d
    | some (src, dst, label, hdr, data) =>
      if !edgeSource d lp src ip v6 then edgeDrop lp 7 d else edgeAdmit lp tc src dst label hdr data d

/-- Behind the Ethernet header, tag taken off: the type and what follows (tests 1 and 2 of R123); `stacked` says that a second tag
follows. Broadcast is for ARP only, a solicited-node address for a neighbour solicitation only, the address of flow control for MAC
control only. -/
def edgeTyped (lp : Nat) (dmac smac : Bytes) (tc ty : Nat) (stacked : Bool) (b : Bytes) (d : Dev) : Dev :=
  let own := dmac == ownMac d lp
  let ask := ty == 0x86DD && !stacked && ip6Valid d lp && isSolicit d lp b
    && (slice b 24 16 == ownIp6 d lp || slice b 24 16 == solicited (ownIp6 d lp))
  let arp := ty == 0x0806 && !stacked
  let mac := ty == 0x8808 && !stacked
  let fits := own || (dmac == bcastMac && arp) || (dmac == solicitedMac (ownIp6 d lp) && ask) || (dmac == pfcMac && mac)
  if !fits then edgeDrop lp 1 d
  else if mac then
    (if beAt b 0 2 = 0x0101 then pfcTake lp b d else if beAt b 0 2 = 1 then tally 11 lp d else edgeDrop lp 2 d)
  else if arp then arpAnswer lp smac b d
  else if stacked ∨ (ty ≠ 0x0800 ∧ ty ≠ 0x86DD) then edgeDrop lp 2 d
  else if ask then naAnswer lp smac b d
  else edgeDatagram lp tc (ty == 0x86DD) b d

/-- An Ethernet frame arrives, FCS last (R123). -/
def edgeReceive (lp : Nat) (f : Bytes) (d : Dev) : Dev :=
  if !isEdge d lp || (sub d lp).state ≠ .service then d
  else
    let n := f.length
    let good := decide (64 ≤ n) && decide (n ≤ 9216) && toLE 4 (crc32 (f.take (n - 4))) == f.drop (n - 4)
    if !good then edgeDrop lp 1 d
    else
      let d := modSub lp (fun p => { p with bytes := (p.bytes.1 + n, p.bytes.2) }) d
      let b := f.take (n - 4)
      let dmac := slice b 0 6
      let smac := slice b 6 6
      if beAt b 12 2 = 0x8100 then
        edgeTyped lp dmac smac (byteAt b 14 / 32) (beAt b 16 2) (beAt b 16 2 == 0x8100 || beAt b 16 2 == 0x88A8) (b.drop 18) d
      else edgeTyped lp dmac smac (defPrio d lp) (beAt b 12 2) false (b.drop 14) d

/-- The peer's pause of a priority has run out (R127). -/
def pfcExpire (lp tc : Nat) (d : Dev) : Dev :=
  edgeTry (modSub lp (fun p => { p with edge := { p.edge with paused := tdel p.edge.paused tc } }) d)

end Sys2Proof.Machine
end

