-- ==== Sys2Proof/Machine/Cmd.lean ====
section
/-! DEFINITION. What every command of Table 14.6 shares: its body checks, the bytes it names, and how its beginning ends (R11,
R374, R375, R386, R465). -/

namespace Sys2Proof.Machine

/-- What the beginning of a command at the head of its queue comes to (R375). -/
inductive Res where
  /-- Accepted and completed at once: status, detail, result. -/
  | done (status detail result : Nat) (d : Dev)
  /-- Read and not accepted: it waits at the head. -/
  | wait (d : Dev)
  /-- Accepted and in progress. -/
  | run (d : Dev)

/-- BAD_DESCRIPTOR, BUSY, OK and CHECK_FAIL with nothing else. -/
def bad (d : Dev) : Res := .done 0x10 0 0 d
def busyRes (d : Dev) : Res := .done 2 0 0 d
def okRes (d : Dev) : Res := .done 0 0 0 d

def opOf (e : Bytes) : Nat := byteAt e 0
def modeOf (e : Bytes) : Nat := byteAt e 2
def tagOf (e : Bytes) : Nat := leAt e 8 8

/-- Header bytes and body bytes outside the ranges a command uses are 0 (R11, R374); byte 1 is checked by its command. -/
def bodyOk (e : Bytes) (used : List (Nat × Nat)) : Bool :=
  allZero (slice e 3 5)
  && (List.range 48).all (fun i =>
    used.any (fun u => decide (u.1 ≤ i + 16) && decide (i + 16 < u.1 + u.2)) || byteAt e (i + 16) == 0)

/-- As `bodyOk`, with byte 1 zero. -/
def plainOk (e : Bytes) (used : List (Nat × Nat)) : Bool := byteAt e 1 == 0 && bodyOk e used

/-- A field fits in `w` bits. -/
def fitsIn (v w : Nat) : Bool := decide (v < 2 ^ w)

/-- The bytes a host-address field names: host memory from an aligned address (R386), or bytes of the data an in-band command
carries (R465). -/
def image (c : Cmd) (a n : Nat) (d : Dev) : Option Bytes :=
  match c.chan with
  | .inband _ => if a + n ≤ c.att.length then some (slice c.att a n) else none
  | _ => if a % 64 = 0 then some (hostRead d a n) else none

/-- The origin a filter sees (R453): 1 a submission ring, 2 in band. -/
def Cmd.priv (c : Cmd) : Option Nat :=
  match c.chan with
  | .sq _ => some 1
  | .inband _ => some 2
  | .own => some 2

/-- A Forge address of R247: 48 bits of a 64-bit field. -/
def forgeAddrOk (a : Nat) : Bool := decide (a < 2 ^ 48)

end Sys2Proof.Machine
end

