-- ==== Sys2Proof/Machine/Tables.lean ====
section
/-! DEFINITION. The table commands and the read window: Endpoint Table, Path Store, Budget Table, Multicast Table (R46, R62 to
R85, R121, R128, R390). -/

namespace Sys2Proof.Machine

/-- A range of bits is zero. -/
def zeroBits (v lo w : Nat) : Bool := bits v lo w == 0

/-- refs of a Path Store entry (R66, R67): the EPT slots and source Furrow entries that name it. -/
def refsOf (d : Dev) (i : Nat) : Nat :=
  (d.tab.ept.map (fun p => (p.2.slots.filter (fun s => s.1 == i)).length)).sum
  + (d.tab.furrows.filter (fun p => decide (64 ≤ p.2.inX) && p.2.path == i)).length

/-- A budget index is named by an EPT slot or a multicast group (R76). -/
def budgetNamed (d : Dev) (i : Nat) : Bool :=
  d.tab.ept.any (fun p => !p.2.mcast && p.2.slots.any (fun s => within s.2 (s.2 + popCount 8 p.2.tcMask - 1) i))
  || d.tab.groups.any (fun g => g.2.budget == i)

/-- Crossbar port and sub-port of a path's first hop, for an entry with a local_index (R64). -/
def firstHop (p : PathEntry) (idx : Nat) : Nat × Nat :=
  let b := byteAt p.hops 0
  if p.nhop = 1 ∧ isInner b = true then (xportInner b idx, 0) else (portOf b, b % 4)

/-- A live budget that no waiting CLEAR takes away. -/
def budgetLive (d : Dev) (i : Nat) : Option Budget :=
  if (tgetD d.tab.budgetWait i []).any (fun c => match c with
      | .clear _ => true
      | _ => false) then none
  else tget d.tab.budgets i

/-- The words of an EPT image (Table 3.2). -/
structure EptImg where
  eid : Nat
  e : EptEntry
  peer : Option Bytes

/-- The path slots of an EPT image, and those in use. -/
def eptAll (b : Bytes) : List (Nat × Nat) :=
  (List.range 8).map (fun p => (leAt b (16 + 4 * p) 2, leAt b (18 + 4 * p) 2))

def eptSlots (b : Bytes) : List (Nat × Nat) := (eptAll b).take (bits (leAt b 0 8) 16 3 + 1)

/-- local_index in range for a kind (Table 3.1). -/
def kindIdxOk (kind idx : Nat) : Bool := if kind = 4 then decide (idx < 4096) else idxOk (kindCode kind) idx

/-- A peer record is well formed (R128). -/
def peerOk (d : Dev) (r : Bytes) : Bool :=
  decide (byteAt r 6 < 4) && isEdge d (byteAt r 7) && decide (leAt r 8 2 < 4096)
  && allZero (slice r 12 4) && ((byteAt r 6).testBit 0 || allZero (slice r 16 12))

/-- The budgets an entry selects on a slot (R63), each with its class. -/
def slotBudgets (mask base : Nat) : List (Nat × Nat) :=
  ((List.range 8).filter (fun t => mask.testBit t)).map (fun t => (base + popCount t mask, t))

/-- A slot of a unicast entry passes R64. -/
def slotOk (d : Dev) (idx mask : Nat) (s : Nat × Nat) : Bool :=
  match tget d.tab.paths s.1 with
  | none => false
  | some p =>
    (slotBudgets mask s.2).all (fun bt => decide (bt.1 < 65536) && (match budgetLive d bt.1 with
      | none => false
      | some b => b.tc == bt.2 && (b.xport, b.sub) == firstHop p idx))

/-- Read and check an EPT image (R11, R53, R64, R128, R390). -/
def eptImage (c : Cmd) (a : Nat) (d : Dev) : Option EptImg :=
  match image c a 48 d with
  | none => none
  | some b =>
    let w0 := leAt b 0 8
    let w1 := leAt b 8 8
    let kind := bits w0 1 3
    let isLoc := w0.testBit 4
    let mc := w0.testBit 5
    let mask := bits w0 24 8
    let eid := bits w0 32 24
    let idx := bits w1 0 16
    let slots := if mc then [] else eptSlots b
    let edge := isLoc && kind == 4 && !mc
    let peer := if edge then image c a 80 d else some []
    if w0 % 2 ≠ 0 || !zeroBits w0 6 2 || !zeroBits w0 8 8 || !zeroBits w0 19 5 || !zeroBits w0 56 8 || !zeroBits w1 16 48
        || reservedEid eid || decide (5 < kind) then none
    else if isLoc && !mc && !kindIdxOk kind idx then none
    else if !mc && (mask == 0 || !slots.all (slotOk d idx mask)) then none
    else
      match peer with
      | none => none
      | some pb =>
        let r := slice pb 48 32
        if edge && !peerOk d r then none
        else some { eid := eid, peer := if edge then some r else none,
                    e := { kind := kind, isLocal := isLoc, mcast := mc, epoch := 0, tcMask := mask, idx := idx, slots := slots,
                           lastD := none, fence := none, np := bits w0 16 3, all := eptAll b } }

/-- Occurrences of a path among slots. -/
def slotUses (l : List (Nat × Nat)) (i : Nat) : Nat := (l.filter (fun s => s.1 == i)).length

/-- EPT_SET (R64, R67, R83, R84). -/
def cmdEptSet (c : Cmd) (e : Bytes) (d : Dev) : Res :=
  if !plainOk e [(16, 8)] then bad d
  else
    match eptImage c (leAt e 16 8) d with
    | none => bad d
    | some m =>
      let old := tget d.tab.ept m.eid
      if (match old with
          | some o => o.fence.isSome
          | none => false) then .wait d
      else if m.e.slots.any (fun s => decide (65535 < refsOf d s.1 + slotUses m.e.slots s.1
          - slotUses ((old.map (·.slots)).getD []) s.1)) then busyRes d
      else if old.isNone && decide (524288 ≤ d.tab.ept.length) then busyRes d
      else
        let n : EptEntry := match old with
          | none => m.e
          | some o =>
            if o.slots.map (·.1) = m.e.slots.map (·.1) then { m.e with epoch := o.epoch, lastD := o.lastD }
            else
              let f := if o.lastD.isSome then some (o.slots.map (·.1)) else none
              { m.e with epoch := (o.epoch + 1) % 256, lastD := o.lastD, fence := f }
        let d := modTab (fun t =>
          let ps := match m.peer with
            | some r => tput t.peers n.idx r
            | none => t.peers
          { t with ept := tput t.ept m.eid n, peers := ps }) d
        .done 0 0 n.epoch (count 4 4 1 { priv := c.priv } d)

/-- Frames not yet admitted that name a destination are tried again. -/
def retryTo (eid : Nat) (d : Dev) : Dev :=
  each ((d.sw.tx.filter (fun p => p.2.fr.dst == eid && p.2.adm.isNone)).map (·.1)) tryTx d

/-- EPT_CLEAR (R84). -/
def cmdEptClear (_ : Cmd) (e : Bytes) (d : Dev) : Res :=
  let eid := leAt e 16 3
  if !plainOk e [(16, 3)] || modeOf e ≠ 0 || reservedEid eid then bad d
  else okRes (retryTo eid (modTab (fun t => { t with ept := tdel t.ept eid }) d))

/-- A node record (R71, R390): node, rank, coordinates. -/
structure NodeRec where
  node : Nat
  rank : Nat
  co : List Nat

def nodeRecs (b : Bytes) (n : Nat) : List NodeRec :=
  (List.range n).map (fun i =>
    { node := leAt b (24 + 8 * i) 2, rank := leAt b (26 + 8 * i) 2, co := (List.range 3).map (fun j => byteAt b (28 + 8 * i + j)) })

def dimOrder (d : Dev) : Bool := fld d 0x180010 0 2 == 1
def axes (d : Dev) : Nat := fld d 0x180010 2 2 + 1
def axisSize (d : Dev) (a : Nat) : Nat := fld d 0x180010 (8 + 8 * a) 8

/-- Node records carry what SCH_TURN requires and nothing else (R390, R75). -/
def recsOk (d : Dev) (b : Bytes) (n : Nat) : Bool :=
  (List.range n).all (fun i => byteAt b (31 + 8 * i) == 0
    && (if dimOrder d then leAt b (26 + 8 * i) 2 == 0 else allZero (slice b (28 + 8 * i) 3)))

/-- The turn rule of up*/down* (R74): whether a hop down has been seen. -/
def upDown : List NodeRec → Bool → Bool
  | u :: v :: t, down =>
    let up := decide (u.rank < v.rank) || (u.rank == v.rank && decide (u.node < v.node))
    u.node ≠ v.node && !(up && down) && upDown (v :: t) (down || !up)
  | _, _ => true

/-- One hop of dimension order (R75): its axis, whether it moves by +1, whether it is a dateline hop. -/
def dimHop (d : Dev) (u v : NodeRec) : Option (Nat × Bool × Bool) :=
  let ax := (List.range 3).filter (fun a => u.co.getD a 0 ≠ v.co.getD a 0)
  match ax with
  | [a] =>
    let x := u.co.getD a 0
    let y := v.co.getD a 0
    let n := axisSize d a
    if axes d ≤ a ∨ n ≤ x ∨ n ≤ y then none
    else if (x + 1) % n = y then some (a, true, x == n - 1)
    else if (y + 1) % n = x then some (a, false, x == 0)
    else none
  | _ => none

/-- The turn rule of dimension order (R75): the axis and direction of the hop before. -/
def dimWalk (d : Dev) (inner : Bool) : List NodeRec → Option (Nat × Bool) → Bool
  | u :: v :: t, prev =>
    (match dimHop d u v with
     | none => false
     | some (a, pos, line) =>
       (match prev with
        | some (pa, pp) => decide (pa < a) || (pa == a && pp == pos)
        | none => true)
       && (!line || (t.isEmpty && inner)) && dimWalk d inner (v :: t) (some (a, pos)))
  | _, _ => true

def coordsOk (d : Dev) (l : List NodeRec) : Bool :=
  l.all (fun r => (List.range 3).all (fun a => decide (a < axes d) || r.co.getD a 0 == 0))

/-- A path obeys SCH_TURN (R73 to R75). -/
def turnOk (d : Dev) (l : List NodeRec) (inner : Bool) : Bool :=
  if dimOrder d then coordsOk d l && dimWalk d inner l none else upDown l false

/-- The node records name this device and its neighbour (R72). -/
def nodesOk (d : Dev) (hops : Bytes) (n : Nat) (l : List NodeRec) : Bool :=
  (match l with
   | r :: _ => r.node == nodeNow d
   | [] => false)
  && (n < 2 || (sub d (byteAt hops 0)).state ≠ .service
      || (match l, (sub d (byteAt hops 0)).nbr with
          | _ :: r :: _, some m => r.node == m.node
          | _, _ => true))

/-- Hop bytes of a path image (R69): each but the last names a sub-port that its port's breakout has, as this device's own
PORT_CFG gives it (log 11). -/
def hopsOk (d : Dev) (hops : Bytes) (n : Nat) : Bool :=
  let l := byteAt hops (n - 1)
  decide (l < 0xFD) && allZero (hops.drop n) && (List.range (n - 1)).all (fun i => subExists d (byteAt hops i))

/-- PATH_SET WRITE (R68, R69, R71, R72). -/
def cmdPathWrite (c : Cmd) (e : Bytes) (d : Dev) : Res :=
  let i := leAt e 16 2
  let a := leAt e 24 8
  match image c a 24 d with
  | none => bad d
  | some b =>
    let w := leAt b 16 8
    let n := bits w 0 4 + 1
    match image c a (24 + 8 * n) d with
    | none => bad d
    | some full =>
      let hops := slice b 0 16
      let rs := nodeRecs full n
      let inner := isInner (byteAt hops (n - 1))
      let p : PathEntry := { hops := hops, nhop := n, down := false, delay := bits w 16 16,
                             node2 := if n < 2 then none else (rs.map (·.node))[1]? }
      if !plainOk e [(16, 2), (24, 8)] || !zeroBits w 4 12 || !zeroBits w 32 32 || !recsOk d full n then bad d
      else if refsOf d i ≠ 0 then busyRes d
      else if !hopsOk d hops n || !deadlineOk d (linksOf p) p.delay then bad d
      else if !turnOk d rs inner then .done 0x10 1 0 d
      else if !nodesOk d hops n rs then .done 0x10 2 0 d
      else okRes (modTab (fun t => { t with paths := tput t.paths i p }) d)

/-- PATH_SET MARK_DOWN and MARK_UP (R68, R70). -/
def cmdPathMark (down : Bool) (e : Bytes) (d : Dev) : Res :=
  let i := leAt e 16 2
  if !plainOk e [(16, 2)] then bad d
  else
    match tget d.tab.paths i with
    | none => bad d
    | some p => okRes (modTab (fun t => { t with paths := tput t.paths i { p with down := down } }) d)

/-- PATH_SET CLEAR (R68). -/
def cmdPathClear (e : Bytes) (d : Dev) : Res :=
  let i := leAt e 16 2
  if !plainOk e [(16, 2)] then bad d
  else if refsOf d i ≠ 0 then busyRes d
  else okRes (modTab (fun t => { t with paths := tdel t.paths i }) d)

/-- The targets of a group image (Table 3.6). -/
def groupTargets (b : Bytes) (n : Nat) : List Target :=
  (List.range n).map (fun i =>
    let w := leAt b (8 + 4 * i) 4
    { hop := bits w 24 8, fabric := w.testBit 23, idx := bits w 0 12 })

/-- A target passes R79. -/
def targetOk (d : Dev) (t : Target) : Bool :=
  if t.fabric then t.idx == 0 && subExists d t.hop && !isEdge d t.hop
  else if isInner t.hop then idxOk t.hop t.idx
  else decide (t.hop < 0xF8) && isEdge d (peerLp (peerRec d t.idx))

/-- MCAST_SET WRITE (R79). -/
def cmdMcastWrite (c : Cmd) (e : Bytes) (d : Dev) : Res :=
  match image c (leAt e 24 8) 144 d with
  | none => bad d
  | some b =>
    let w := leAt b 0 8
    let n := bits w 1 6
    let ts := groupTargets b n
    let ws := (List.range 32).map (fun i => leAt b (8 + 4 * i) 4)
    let g : Group := { tc := bits w 8 3, budget := bits w 16 16, h := bits w 32 4, delay := bits w 48 16, targets := ts }
    if !plainOk e [(16, 2), (24, 8)] || w % 2 ≠ 0 || !zeroBits w 7 1 || !zeroBits w 11 5 || !zeroBits w 36 12
        || decide (32 < n) || leAt b 136 8 ≠ 0 || !ws.all (fun x => zeroBits x 12 11) || !(ws.drop n).all (· == 0)
        || !deadlineOk d g.h g.delay || !ts.all (targetOk d) then bad d
    else okRes (modTab (fun t => { t with groups := tput t.groups (leAt e 16 2) g }) d)

/-- MCAST_SET CLEAR (R80). -/
def cmdMcastClear (e : Bytes) (d : Dev) : Res :=
  if !plainOk e [(16, 2)] then bad d
  else okRes (modTab (fun t => { t with groups := tdel t.groups (leAt e 16 2) }) d)

/-- Add a change that waits for the next boundary. -/
def waitBudget (i : Nat) (c : BudgetChange) (d : Dev) : Dev :=
  modTab (fun t => { t with budgetWait := tput t.budgetWait i (tgetD t.budgetWait i [] ++ [c]) }) d

/-- A WRITE would change what an entry that is named must keep (R76). -/
def namedClash (d : Dev) (i tc x s m : Nat) : Bool :=
  budgetNamed d i && (match tget d.tab.budgets i with
    | some b => (b.tc, b.xport, b.sub, b.vcMask) ≠ (tc, x, s, m)
    | none => false)

/-- BUDGET_SET WRITE (R39, R46, R76). -/
def cmdBudgetWrite (c : Cmd) (e : Bytes) (d : Dev) : Res :=
  let i := leAt e 16 2
  let w := leAt e 24 8
  let rate := bits w 0 16
  let burst := bits w 16 9
  let tc := bits w 25 3
  let x := bits w 32 7
  let s := bits w 40 2
  let m := bits w 42 4
  if !plainOk e [(16, 2), (24, 8)] || !within 1 32768 rate || !within 1 256 burst || m == 0 || !zeroBits w 28 4
      || !zeroBits w 39 1 || !zeroBits w 46 18 || decide (87 < x)
      || (if x < 64 then !subExists d (4 * x + s) else s ≠ 0) then bad d
  else if namedClash d i tc x s m then busyRes d
  else if !r37Ok d x s i rate m 0 then busyRes d
  else .run (waitBudget i (.write rate burst tc x s m c) d)

/-- BUDGET_SET CLEAR (R76, R390). -/
def cmdBudgetClear (c : Cmd) (e : Bytes) (d : Dev) : Res :=
  let i := leAt e 16 2
  if !plainOk e [(16, 2)] then bad d
  else if budgetNamed d i then busyRes d
  else .run (waitBudget i (.clear c) d)

/-- Frames of a budget that are part-way through their release. -/
def partReleased (d : Dev) (i : Nat) : List Nat :=
  (d.sw.tx.filter (fun p => (match p.2.adm with
    | some a => a.budget == some i
    | none => false))).map (·.1)

/-- Frames part-way through their release finish at the rate before a lowering (R46). -/
def keepRate (ids : List Nat) (r : Nat) (d : Dev) : Dev :=
  modSw (fun s => { s with tx := s.tx.map (fun p =>
    if ids.contains p.1 then (p.1, { p.2 with adm := p.2.adm.map (fun a => { a with rate := max a.rate r }) }) else p) }) d

/-- The first key of a Budget Table entry a CLEAR took away (R80). -/
def ghostKey (d : Dev) (i : Nat) : Nat :=
  ((List.range (d.tab.budgets.length + 1)).map (fun n => i + 65536 * (n + 1))).find? (fun k => (tget d.tab.budgets k).isNone) |>.getD i

/-- A CLEAR takes an entry away (R76); frames part-way through their release go on drawing on it as it stood (R80). -/
def clearBudget (i : Nat) (d : Dev) : Dev :=
  let ids := partReleased d i
  let k := ghostKey d i
  let keep := (tget d.tab.budgets i).toList.filter (fun _ => !ids.isEmpty)
  let d := modTab (fun t => { t with budgets := keep.foldl (fun l b => tput l k b) (tdel t.budgets i) }) d
  modSw (fun s => { s with tx := s.tx.map (fun p =>
    if ids.contains p.1 then (p.1, { p.2 with budget := some k, adm := p.2.adm.map (fun a => { a with budget := some k }) })
    else p) }) d

/-- Lowerings of one entry complete, each once every frame part-released before it has released its last cell (R46); an entry
taken away goes with its last frame (R80). -/
def lowerOne (i : Nat) (d : Dev) : Dev :=
  match tget d.tab.budgets i with
  | none => d
  | some b =>
    let done := fun (l : Lowering) => !l.frames.any (fun f => (tget d.sw.tx f).isSome)
    let ended := b.old.filter done
    let gone := decide (65536 ≤ i) && (partReleased d i).isEmpty
    if ended.isEmpty && !gone then d
    else
      each ended (fun l d => complete l.cmd 0 0 0 d) (modTab (fun t =>
        { t with budgets := if gone then tdel t.budgets i else tput t.budgets i { b with old := b.old.filter (fun l => !done l) } }) d)

/-- One change of a budget takes effect at a boundary (R46, R76); an entry named since the command was accepted is left alone. -/
def applyBudget (i : Nat) (ch : BudgetChange) (d : Dev) : Dev :=
  match ch with
  | .clear c => if budgetNamed d i then complete c 2 0 0 d else complete c 0 0 0 (clearBudget i (lowerOne i d))
  | .write rate burst tc x s m c =>
    let put := fun (old : List Lowering) (d : Dev) =>
      let b : Budget := { rate := rate, burst := burst, tc := tc, xport := x, sub := s, vcMask := m, allow := 0, drawn := [],
                          old := old }
      modTab (fun t => { t with budgets := tput t.budgets i b }) d
    if namedClash d i tc x s m then complete c 2 0 0 d
    else
      match tget d.tab.budgets i with
      | none => complete c 0 0 0 (put [] d)
      | some b =>
        let ids := partReleased d i
        if rate < b.rate ∧ !ids.isEmpty then
          keepRate ids b.rate (put (b.old ++ [{ rate := b.rate, frames := ids, cmd := c }]) d)
        else complete c 0 0 0 (put b.old d)

/-- Every budget change that waits takes effect, and every allowance is refilled (R43, R46, R76). -/
def refillBudgets (d : Dev) : Dev :=
  let w := d.tab.budgetWait
  let d := modTab (fun t => { t with budgetWait := [] }) d
  let d := each w (fun p d => each p.2 (applyBudget p.1) d) d
  modTab (fun t => { t with budgets := tmap (fun b =>
    { b with allow := (b.old.map (·.rate)).foldl max b.rate, drawn := [] }) t.budgets }) d

/-- A lowering completes (R46): of an index's entries, the one in force and those a CLEAR took away. -/
def lowerDone (i : Nat) (d : Dev) : Dev := each (budgetKin d i) lowerOne d

/-- The path epoch fence of an entry closes, if its last deadline has passed (R83). -/
def closeFence (eid : Nat) (d : Dev) : Dev :=
  match tget d.tab.ept eid with
  | none => d
  | some e =>
    match e.lastD with
    | some l =>
      if isLate d l then
        retryTo eid (modTab (fun t => { t with ept := tput t.ept eid { e with lastD := none, fence := none } }) d)
      else d
    | none => d

/-- The words of a table entry, as the window shows them (R85). -/
def eptWords (eid : Nat) (e : EptEntry) : List Nat :=
  let w0 := 1 + e.kind * 2 + boolNat e.isLocal * 16 + boolNat e.mcast * 32 + e.epoch * 256 + e.np * 65536
    + e.tcMask * 2 ^ 24 + eid * 2 ^ 32
  let slot := fun (p : Nat) => match e.all[p]? with
    | some (a, b) => a + b * 65536
    | none => 0
  [w0, e.idx] ++ (List.range 4).map (fun i => slot (2 * i) + slot (2 * i + 1) * 2 ^ 32)

def pathWords (refs : Nat) (p : PathEntry) : List Nat :=
  [leNat (slice p.hops 0 8), leNat (slice p.hops 8 8),
   p.nhop - 1 + 16 + boolNat p.down * 32 + p.delay * 65536 + refs * 2 ^ 32]

def budgetWord (b : Budget) : Nat :=
  b.rate + b.burst * 2 ^ 16 + b.tc * 2 ^ 25 + 2 ^ 28 + b.xport * 2 ^ 32 + b.sub * 2 ^ 40 + b.vcMask * 2 ^ 42

def groupWords (g : Group) : List Nat :=
  let w0 := 1 + g.targets.length * 2 + g.tc * 256 + g.budget * 65536 + g.h * 2 ^ 32 + g.delay * 2 ^ 48
  let t := fun (i : Nat) => match g.targets[i]? with
    | some t => t.hop * 2 ^ 24 + boolNat t.fabric * 2 ^ 23 + t.idx
    | none => 0
  w0 :: (List.range 16).map (fun i => t (2 * i) + t (2 * i + 1) * 2 ^ 32) ++ [0]

def furrowStateCode (s : FurrowState) : Nat :=
  match s with
  | .prepared => 1 | .active => 2 | .broken => 3

def furrowWords (id : Nat) (f : Furrow) : List Nat :=
  [id + f.gen * 2 ^ 32 + furrowStateCode f.state * 2 ^ 48,
   f.inX + boolNat f.last * 128 + f.outHop * 256 + f.idx * 65536 + f.inSub * 2 ^ 24 + f.first * 2 ^ 32 + f.count * 2 ^ 48,
   f.stride + f.src * 2 ^ 16 + f.dst * 2 ^ 40, f.path]

/-- The entry EPT_WIN_CTL selects. -/
def windowWords (d : Dev) : Option (List Nat) :=
  let w := rg d 0x200000
  let k := bits w 8 24
  match bits w 0 3 with
  | 0 => (tget d.tab.ept k).map (eptWords k)
  | 1 => (tget d.tab.paths k).map (pathWords (refsOf d k))
  | 2 => if k < 65536 then (tget d.tab.budgets k).map (fun b => [budgetWord b]) else none
  | 3 => (tget d.tab.groups k).map groupWords
  | _ => (tget d.tab.furrows (bits w 32 32)).map (furrowWords (bits w 32 32))

/-- A write of EPT_WIN_CTL (R85): ignored while busy. -/
def windowWrite (v : Nat) (d : Dev) : Dev :=
  if d.tab.winBusy then d
  else
    let d := match regOf 0x200000 with
      | some r => putReg 0x200000 (writeFlds (rg d 0x200000) v r.flds) d
      | none => d
    when (v.testBit 3) (modTab (fun t => { t with winBusy := true, winMiss := false })) d

/-- The window read completes: one snapshot, unused words 0 (R85). -/
def windowDone (d : Dev) : Dev :=
  if !d.tab.winBusy then d
  else
    let w := windowWords d
    let l := w.getD []
    let t := (List.range 18).foldl (fun t i => tput t i (l.getD i 0)) ([] : Tab Nat)
    modTab (fun x => { x with winBusy := false, winMiss := w.isNone, winData := t }) d

end Sys2Proof.Machine
end

