-- ==== Sys2Proof/Machine/Furrows.lean ====
section
/-! DEFINITION. FURROW_SET and FURROW_CLEAR (R53, R86 to R92, R146, R501). -/

namespace Sys2Proof.Machine

/-- The minimum stride of an output (R87). -/
def minStride (d : Dev) (f : Furrow) : Nat :=
  if furrowInner f then 1
  else if 1600 ≤ gbps d f.outHop then 2 else if 800 ≤ gbps d f.outHop then 4 else 7

/-- The fields of a Furrow image (Table 3.10), and whether its reserved bits and state are 0. -/
def furrowImage (b : Bytes) : Furrow × Bool :=
  let w0 := leAt b 0 8
  let w1 := leAt b 8 8
  let w2 := leAt b 16 8
  let w3 := leAt b 24 8
  ({ gen := bits w0 32 16, state := .prepared, inX := bits w1 0 7, last := w1.testBit 7, outHop := bits w1 8 8,
     idx := bits w1 16 8, inSub := bits w1 24 2, first := bits w1 32 16, count := bits w1 48 16, stride := bits w2 0 16,
     src := bits w2 16 24, dst := bits w2 40 24, path := bits w3 0 16, queue := [], released := 0 },
   zeroBits w0 48 16 && zeroBits w1 26 6 && zeroBits w3 16 48)

/-- The conditions on an entry's own fields (R501, R87). -/
def furrowFieldsOk (d : Dev) (f : Furrow) : Bool :=
  let n := d.clk.nsNow
  let inner := within 64 86 f.inX
  within 1 n f.count && decide (minStride d f ≤ f.stride)
  && (heldSlots f).all (fun s => decide (s < n) && (n - 1 - s) % 256 ≠ 0)
  && (if inner then f.inSub == 0 && (match tget d.tab.paths f.path with
        | some p => byteAt p.hops 0 == f.outHop
        | none => false)
      else decide (f.inX < 64) && f.path == 0 && subExists d (4 * f.inX + f.inSub))
  && (if f.last then (isInner f.outHop && idxOk f.outHop f.idx) || (decide (f.outHop < 0xF8) && isEdge d f.outHop && subExists d f.outHop)
      else !isEdge d f.outHop && subExists d f.outHop)

/-- The same entry, whatever its state and queue. -/
def sameFields (a b : Furrow) : Bool :=
  decide ({ a with state := .prepared, queue := [], released := 0 } = { b with state := .prepared, queue := [], released := 0 })

/-- Two Furrows leave by the same output (R87). -/
def sameOut (a b : Furrow) : Bool :=
  if furrowInner a then furrowInner b && furrowX a == furrowX b else !furrowInner b && a.outHop == b.outHop

/-- Cyclic distance of two slots (R87). -/
def slotDist (n s t : Nat) : Nat :=
  let x := if s < t then t - s else s - t
  min x (n - x)

/-- The entry's slots are spaced among themselves (R87). -/
def ownSpaced (n g : Nat) : List Nat → Bool
  | [] => true
  | s :: t => t.all (fun x => decide (g ≤ slotDist n s x)) && ownSpaced n g t

/-- The slots are free at both crossbar ports and spaced on the output (R87). -/
def slotsFree (d : Dev) (id : Nat) (f : Furrow) : Bool :=
  let n := d.clk.nsNow
  let g := minStride d f
  let mine := heldSlots f
  ownSpaced n g mine && d.tab.furrows.all (fun p => p.1 == id ||
    (let other := heldSlots p.2
     (p.2.inX ≠ f.inX && furrowX p.2 ≠ furrowX f || !mine.any other.contains)
     && (!sameOut f p.2 || mine.all (fun s => other.all (fun t => decide (g ≤ slotDist n s t))))))

/-- The resources of a PREPARE (R88, R146, R37, R67): the entry it replaces, if any, left out. -/
def furrowRoom (d : Dev) (id : Nat) (f : Furrow) : Bool :=
  let d := modTab (fun t => { t with furrows := tdel t.furrows id }) d
  let sub := if furrowInner f then 0 else f.outHop % 4
  slotsFree d id f
  && decide (p0Used d + 2 * f.count ≤ p0Cells)
  && decide (d.tab.furrows.length < 16384)
  && decide (2 * f.count + 1 ≤ shPart d) && shStays d (rg d oBpmRsv) (2 * f.count)
  && r37Ok d (furrowX f) sub 65536 0 0 f.count
  && (f.inX < 64 || decide (refsOf d f.path < 65535))

/-- FURROW_SET PREPARE (R88, R501). -/
def cmdFurrowPrepare (c : Cmd) (e : Bytes) (d : Dev) : Res :=
  let id := leAt e 16 4
  let gen := leAt e 20 2
  match image c (leAt e 24 8) 32 d with
  | none => bad d
  | some b =>
    let (f, zero) := furrowImage b
    let put := fun (d : Dev) => okRes (relevel (modTab (fun t => { t with furrows := tput t.furrows id f }) d))
    if !plainOk e [(16, 6), (24, 8)] || !zero || leAt b 0 4 ≠ id || f.gen ≠ gen || reservedEid f.src || reservedEid f.dst
        || !furrowFieldsOk d f then bad d
    else
      match tget d.tab.furrows id with
      | none => if furrowRoom d id f then put d else busyRes d
      | some old =>
        if old.gen = gen then (if sameFields old f then okRes d else bad d)
        else if !within 1 32767 (subMod 16 gen old.gen) then bad d
        else if old.state = .active then busyRes d
        else if furrowRoom d id f then put (each (old.queue.map (·.buf)) dropRef d)
        else busyRes d

/-- FURROW_SET COMMIT (R88). -/
def cmdFurrowCommit (e : Bytes) (d : Dev) : Res :=
  let id := leAt e 16 4
  let gen := leAt e 20 2
  if !plainOk e [(16, 6)] then bad d
  else
    match tget d.tab.furrows id with
    | none => bad d
    | some f =>
      if f.gen ≠ gen then bad d
      else
        match f.state with
        | .prepared => okRes (modTab (fun t => { t with furrows := tput t.furrows id { f with state := .active } }) d)
        | .active => okRes d
        | .broken => bad d

/-- FURROW_CLEAR (R92). -/
def cmdFurrowClear (e : Bytes) (d : Dev) : Res :=
  let id := leAt e 16 4
  let gen := leAt e 20 2
  if !plainOk e [(16, 6)] then bad d
  else
    match tget d.tab.furrows id with
    | none => okRes d
    | some f =>
      if f.gen ≠ gen ∧ !within 1 32767 (subMod 16 gen f.gen) then bad d
      else
        let d := each (f.queue.map (·.buf)) dropRef d
        okRes (releaseFurrow id (relevel (modTab (fun t => { t with furrows := tdel t.furrows id }) d)))

end Sys2Proof.Machine
end

