-- ==== Sys2Proof/Machine/Rings.lean ====
section
/-! DEFINITION. Rings and doorbells, frames of the host, posted receive buffers, once-only delivery (R371 to R397, R429). -/

namespace Sys2Proof.Machine

/-- A doorbell is ignored (R381): RING_ERROR with its cause. An SQ's tail doorbell counts for that SQ (Table 17.3); cause 2 is of
a head doorbell. -/
def ringError (unit why : Nat) (sq : Bool) (d : Dev) : Dev :=
  postEvent 0x12 (toLE 1 unit ++ toLE 1 why)
    (count 17 5 1 { masters := if sq then [mSq unit] else [], priv := some 1 } (setEvt oRingEvt 0 d))

/-- Take a new tail (R381, R382). -/
def takeTail (q v : Nat) (d : Dev) : Dev :=
  if sqDepth d q ≤ v then ringError q 1 true d else modSq q (fun s => { s with tail := v }) d

/-- A write of the tail doorbell (R381). -/
def tailDoorbell (q v : Nat) (d : Dev) : Dev :=
  if !sqOn d q then ringError q 3 true d
  else if flag d (oSqCtl q) 12 then count 17 5 1 { masters := [mSq q], priv := some 1 } d
  else takeTail q v d

/-- The tail a watched line holds (R382). -/
def watchedTail (d : Dev) (q : Nat) : Nat := leNat (hostRead d (fld d (0x20010 + 0x20 * q) 6 58 * 64) 4)

/-- Read a watched line again and hold it (R382). -/
def watchedRead (q : Nat) (d : Dev) : Dev :=
  if sqOn d q && flag d (oSqCtl q) 12 then takeTail q (watchedTail d q) (modSq q (fun s => { s with held := true }) d) else d

/-- A ring's driver returns entries (R377, R379): how many a head index returns, if it lies in the written span. -/
def headReturn (depth : Nat) (r : Ring) (v : Nat) : Option Nat :=
  let n := (v + depth - r.rd % depth) % depth
  if v < depth ∧ n ≤ r.wr - r.rd then some n else none

/-- Rearm after a head write: leftover entries send the message again at once (R380). -/
def rearm (r : Ring) (irq : Bool) (n : Nat) : Ring × Bool :=
  let r := { r with rd := r.rd + n }
  let again := irq && decide (r.rd < r.wr)
  ({ r with armed := irq && !again }, again)

/-- CQ head doorbell (R378, R380, R381). -/
def cqHead (c v : Nat) (d : Dev) : Dev :=
  if !cqOn d c then ringError c 3 false d
  else
    match headReturn (cqDepth d c) (cq d c) v with
    | none => ringError c 2 false d
    | some n =>
      let (r, again) := rearm (cq d c) (flag d (oCqCtl c) 13) n
      when again (sendMsix (fld d (oCqCtl c) 5 7)) (modCq c (fun _ => r) d)

/-- EQ head doorbell (R380, R381). -/
def eqHead (v : Nat) (d : Dev) : Dev :=
  if !eqOn d then ringError 0 3 false d
  else
    match headReturn (eqDepth d) d.ring.eq v with
    | none => ringError 0 2 false d
    | some n =>
      let (r, again) := rearm d.ring.eq (flag d oEqCtl 13) n
      when again (sendMsix (fld d oEqCtl 5 7)) (modEq (fun _ => r) d)

/-- The value a control register takes: its locked fields keep their value while the ring is enabled (R397). -/
def lockedWrite (old v : Nat) (flds : List Fld) (on : Bool) (locked : List Nat) : Nat :=
  writeFlds old v (if on then flds.filter (fun f => !locked.contains f.lo) else flds)

/-- The frame of an entry that waits at the head, and was not accepted, is withdrawn. -/
def dropWaiting (q : Nat) (d : Dev) : Dev :=
  let mine := fun (t : Tx) => (match t.fr.org with
    | .host c _ _ false => c.chan == .sq q
    | _ => false)
  let d := each (d.sw.tx.filter (fun p => mine p.2)) (fun p d =>
    match p.2.resv with
    | some rv => unreserve rv d
    | none => d) d
  let d := modSw (fun s => { s with tx := s.tx.filter (fun p => !mine p.2) }) d
  let d := modRing (fun r => { r with reads := r.reads.filter (fun p => !(p.2.cmd.chan == .sq q && p.2.dl.isNone)) }) d
  modSq q (fun s => { s with waiting := none }) d

/-- A write of RING_SQ_CTL (R371, R382, R397). -/
def writeSqCtl (q v : Nat) (d : Dev) : Dev :=
  match regOf (oSqCtl q) with
  | none => d
  | some r =>
    let old := rg d (oSqCtl q)
    let on := sqOn d q
    let v := if d.boot.cxlProto then v else setBits v 12 1 (bits old 12 1)
    let d := putReg (oSqCtl q) (lockedWrite old v r.flds on [0, 5, 12]) d
    if !on && sqOn d q then
      watchedRead q (modSq q (fun s => { s with head := 0, tail := 0, waiting := none, held := false }) d)
    else if on && !sqOn d q then sqSettle q (dropWaiting q (modSq q (fun s => { s with held := false }) d))
    else d

/-- A write of RING_CQ_CTL (R397). -/
def writeCqCtl (c v : Nat) (d : Dev) : Dev :=
  match regOf (oCqCtl c) with
  | none => d
  | some r =>
    let on := cqOn d c
    let d := putReg (oCqCtl c) (lockedWrite (rg d (oCqCtl c)) v r.flds on [0, 5]) d
    let irq := flag d (oCqCtl c) 13
    if !on && cqOn d c then modCq c (fun x => { x with wr := 0, rd := 0, armed := irq }) d
    else if on && cqOn d c then modCq c (fun x => { x with armed := irq }) d
    else d

/-- The EQ's first enable after a module reset: RESET_SEEN, then the events held (R413, R429). -/
def eqFirst (d : Dev) : Dev :=
  let held := d.ring.held
  let lost := d.ring.heldLost
  let d := modRing (fun r => { r with eqSeen := true, held := [], heldLost := 0 }) d
  let d := postEvent 0x105 (toLE 1 d.boot.modReset) d
  let d := modEq (fun r => { r with lostSince := lost }) d
  each held writeEq d

/-- A write of RING_EQ_CTL (R397, R429). -/
def writeEqCtl (v : Nat) (d : Dev) : Dev :=
  match regOf oEqCtl with
  | none => d
  | some r =>
    let on := eqOn d
    let d := putReg oEqCtl (lockedWrite (rg d oEqCtl) v r.flds on [0, 5]) d
    let irq := flag d oEqCtl 13
    if !on && eqOn d then
      let d := modEq (fun x => { x with wr := 0, rd := 0, armed := irq, lostSince := 0 }) d
      if d.ring.eqSeen then d else eqFirst d
    else if on && eqOn d then modEq (fun x => { x with armed := irq }) d
    else d

/-- A write of the control register of ring `r`: SQ 0 to 63, CQ 64 to 127, EQ 128. -/
def writeRingCtl (r v : Nat) (d : Dev) : Dev :=
  if r < 64 then writeSqCtl r v d else if r < 128 then writeCqCtl (r - 64) v d else writeEqCtl v d

/-- The frame header bytes 12 to 31 and flags of SEND (Table 14.8). -/
def sendOk (d : Dev) (e : Bytes) : Bool :=
  let len := leAt e 24 4
  let fl := byteAt e 31
  let op := byteAt e 34
  let kind := (tget d.tab.ept (leAt e 28 3)).map (·.kind)
  let kindOk := match kind with
    | some k => if op = 0 then k == 0 || k == 4 else k == 3
    | none => true
  byteAt e 1 == 0 && allZero (slice e 3 5) && byteAt e 35 == 0 && (op == 0 || op == 6) && decide (fl < 64)
  && leAt e 16 8 % 64 == 0 && len % 16 == 0 && within 16 131040 len && (kind ≠ some 4 || decide (len ≤ 8160))
  && (fl.testBit 4 || leAt e 56 4 == 0) && (fl.testBit 5 || leAt e 60 4 == 0)
  && kindOk && !reservedEid (leAt e 28 3)

/-- A command that sends a frame from its ring: it waits at the head until its first cell is released (R44, R375); a ring
without an endpoint of its own has no path (log 10). -/
def startFrame (c : Cmd) (d : Dev) (mk : Nat → Frame) : Res :=
  match c.sqn with
  | none => bad d
  | some q =>
    match sqEid d q with
    | none => .done 4 0 0 d
    | some src => .wait (sendFrame (mk src) [] d)

/-- SEND (R387, R90, R393, R395). -/
def cmdSend (c : Cmd) (e : Bytes) (d : Dev) : Res :=
  if !sendOk d e then bad d
  else
    let fl := byteAt e 31
    let op := byteAt e 34
    startFrame c d (fun src =>
      { op := op, src := src, dst := leAt e 28 3, tc := fl % 8, label := leAt e 32 2, hdr := frameHdr (slice e 36 20),
        data := hostRead d (leAt e 16 8) (leAt e 24 4), xport := 84 + (c.sqn.getD 0) % 2,
        furrow := if fl.testBit 5 then some (leAt e 60 4) else none, direct := none, reply := 0,
        seq := if fl.testBit 4 && op == 0 then some (leAt e 56 4) else none,
        org := .host c (fl.testBit 3) 1 false })

/-- The destination of READ and WRITE is a FORGE entry, if it is an entry at all (R387). -/
def forgeDst (d : Dev) (eid : Nat) : Bool :=
  !reservedEid eid && (match tget d.tab.ept eid with
    | some e => e.kind == 1
    | none => true)

/-- READ (R387, R152). -/
def cmdRead (c : Cmd) (e : Bytes) (d : Dev) : Res :=
  let len := leAt e 24 4
  let dst := leAt e 28 3
  let cells := ceilDiv (len + 32) 512
  if !plainOk e [(16, 26)] || leAt e 16 8 % 64 ≠ 0 || len % 16 ≠ 0 || !within 16 131040 len || decide (7 < byteAt e 31)
      || !forgeAddrOk (leAt e 32 8) || !forgeDst d dst then bad d
  else
    match c.sqn with
    | none => bad d
    | some q =>
      match sqEid d q with
      | none => .done 4 0 0 d
      | some src =>
        let r : PendRead := { src := src, dst := dst, addr := leAt e 16 8, len := len, dl := none, cmd := c }
        let d := modRing (fun x => { x with nextId := x.nextId + 1, reads := tput x.reads x.nextId r }) d
        startFrame c d (fun src =>
          { op := 1, src := src, dst := dst, tc := byteAt e 31, label := leAt e 40 2,
            hdr := frameHdr (toBE 8 (leAt e 32 8) ++ zeros 2 ++ toBE 4 cells), data := [], xport := 84 + q % 2,
            furrow := none, direct := none, reply := cells, seq := none, org := .host c false 3 false })

/-- WRITE (R387, Table 9.5). -/
def cmdWrite (c : Cmd) (e : Bytes) (d : Dev) : Res :=
  let len := leAt e 24 4
  let dst := leAt e 28 3
  let fl := byteAt e 31
  let g := fl.testBit 5
  let post := fl.testBit 4
  let n := byteAt e 42
  if !plainOk e [(16, 28)] || leAt e 16 8 % 64 ≠ 0 || len % 16 ≠ 0 || !within 16 131040 len || decide (63 < fl)
      || !forgeAddrOk (leAt e 32 8) || !forgeDst d dst || decide (15 < byteAt e 43)
      || (if post then (if g then decide (63 < n) else decide (31 < n)) else g || n ≠ 0 || byteAt e 43 ≠ 0) then bad d
  else
    startFrame c d (fun src =>
      { op := 3, src := src, dst := dst, tc := fl % 8, label := leAt e 40 2,
        hdr := frameHdr (toBE 8 (leAt e 32 8) ++ toBE 1 (boolNat post * 128 + boolNat g * 64) ++ toBE 1 n),
        data := hostRead d (leAt e 16 8) len, xport := 84 + (c.sqn.getD 0) % 2, furrow := none, direct := none, reply := 0,
        seq := none, org := .host c (fl.testBit 3) 4 false })

/-- RECV_POST (R387, R388). -/
def cmdRecvPost (c : Cmd) (e : Bytes) (d : Dev) : Res :=
  let len := leAt e 24 4
  if !plainOk e [(16, 12)] || leAt e 16 8 % 64 ≠ 0 || !within 64 131072 len then bad d
  else
    match c.sqn with
    | none => bad d
    | some q => .run (modSq q (fun s => { s with bufs := s.bufs ++ [(c, leAt e 16 8, len)] }) d)

/-- Sequences a frame may carry: how the destination sees one (R394). -/
inductive SeqTest where
  | dup | accept | beyond | full
deriving DecidableEq, Repr

def seqTest (d : Dev) (src dst seq : Nat) : SeqTest :=
  match tget d.ring.dstPairs (pairKey src dst) with
  | none =>
    if 131072 ≤ d.ring.dstPairs.length then .full
    else if seq = 0 ∨ 2 ^ 31 ≤ seq then .dup else if seq ≤ 1024 then .accept else .beyond
  | some p =>
    let x := subMod 32 seq p.h
    if x = 0 ∨ 2 ^ 31 ≤ x then .dup
    else if x ≤ 1024 then (if p.win.contains seq then .dup else .accept)
    else .beyond

/-- H advances over every set bit that follows it (R394). -/
def advance : Nat → Nat → List Nat → Nat × List Nat
  | 0, h, w => (h, w)
  | n + 1, h, w =>
    let x := (h + 1) % 2 ^ 32
    if w.contains x then advance n x (w.filter (· ≠ x)) else (h, w)

/-- Set the bit of a sequence accepted and delivered; an ACK is due (R394, R395). -/
def seqAccept (src dst seq : Nat) (d : Dev) : Dev :=
  let p := tgetD d.ring.dstPairs (pairKey src dst) { h := 0, win := [], ackDue := false }
  let w := seq :: p.win
  let (h, w) := advance w.length p.h w
  modRing (fun r => { r with dstPairs := tput r.dstPairs (pairKey src dst) { h := h, win := w, ackDue := true } }) d

/-- Take one whole frame away from those that wait. -/
def takeRx (f : RxFrame) (d : Dev) : Dev := modSw (fun s => { s with rx := s.rx.erase f }) d

/-- The first waiting frame that satisfies a test. -/
def firstRx (d : Dev) (p : RxFrame → Bool) : Option RxFrame := d.sw.rx.find? p

def rxOp (f : RxFrame) : Nat := byteAt f.hdr 1
def rxSeq (f : RxFrame) : Nat := beAt f.hdr 4 4

/-- A NOTICE from an endpoint, once per addressee and status per Swath (R209, R211, R394). -/
def noticeOnceFrom (src dst status : Nat) (body : Bytes) (d : Dev) : Dev :=
  if d.sw.notices.any (fun n => n.dst == dst && n.status == status && n.src == src && n.sent) then d
  else
    let a : NoticeAcc := { dst := dst, src := src, status := status, detail := 0, body := body, count := 1, sent := true }
    modSw (fun w => { w with notices := w.notices ++ [a] }) (sendNotice dst src status 0 body d)

/-- A frame fails the sequence test (R394, R396). -/
def seqReject (f : RxFrame) (t : SeqTest) (d : Dev) : Dev :=
  let d := takeRx f d
  match t with
  | .dup =>
    let d := setEvt oRingEvt 2 (tally 14 0 d)
    modRing (fun r => { r with dstPairs := tmod r.dstPairs (pairKey f.src f.dst) (fun p => { p with ackDue := true }) }) d
  | .full =>
    let d := setEvt oRingEvt 1 d
    (match noticeSrc d with
     | some s => noticeFrom s f.src 2 (zeros 14) d
     | none => d)
  | _ =>
    let d := setEvt oRingEvt 3 (tally 14 1 d)
    (match noticeSrc d with
     | some s => noticeOnceFrom s f.src 2 (zeros 14) d
     | none => d)

/-- An acknowledgement completes the SENDs and WRITEs it covers (R395): the frame goes from the acknowledging endpoint to the
one that sent. -/
def takeAck (f : RxFrame) (d : Dev) : Dev :=
  if !(byteAt f.hdr 0).testBit 3 then d
  else
    let h := beAt f.hdr 8 4
    let l := d.ring.acks.filter (fun p => p.2.src == f.dst && p.2.dst == f.src && decide (subMod 32 h p.2.seq < 2 ^ 31))
    each l (fun p d => complete p.2.cmd 0 0 p.2.seq (modRing (fun r => { r with acks := tdel r.acks p.1 }) d)) d

/-- The record of a pair, created by the first frame that arrives for it (R394). -/
def newPair (src dst : Nat) (d : Dev) : Dev :=
  modRing (fun r => { r with dstPairs := match tget r.dstPairs (pairKey src dst) with
    | some _ => r.dstPairs
    | none => tput r.dstPairs (pairKey src dst) { h := 0, win := [], ackDue := false } }) d

/-- SEQUENCED_FRAME_ACCEPT: the first sequenced frame not yet tested (R394). -/
def sequencedAccept (d : Dev) : Dev :=
  match firstRx d (fun f => sequenced (rxOp f) && !f.accepted && (f.code == 0xF8 || f.code == 0xFB || (f.code == 0xFC && rxOp f == 0))) with
  | none => d
  | some f =>
    let t := seqTest d f.src f.dst (rxSeq f)
    let d := when (t ≠ .full) (newPair f.src f.dst) d
    match t with
    | .accept =>
      modSw (fun s => { s with rx := s.rx.map (fun x => if x = f then { x with accepted := true } else x) }) (takeAck f d)
    | t => seqReject f t d

/-- ACK_RECEIVE: the first waiting ACK of a HOSTQ or FORGE endpoint (R395). -/
def ackReceive (d : Dev) : Dev :=
  match firstRx d (fun f => rxOp f == 0xB && !(f.code == 0xFA && (f.vc == 2 || f.vc == 3))) with
  | none => d
  | some f => takeAck f (takeRx f d)

/-- A deadline plus RING_CFG.ack_timeout has ended (R387, R395). -/
def ackExpired (d : Dev) (dl : Nat) : Bool := isLate d ((dl + fld d 0x21100 0 16) % 65536)

def ackTimeout (id : Nat) (d : Dev) : Dev :=
  match tget d.ring.acks id with
  | none => d
  | some p =>
    if ackExpired d p.dl then complete p.cmd 7 0 p.seq (modRing (fun r => { r with acks := tdel r.acks id }) d) else d

def readTimeout (id : Nat) (d : Dev) : Dev :=
  match tget d.ring.reads id with
  | none => d
  | some p =>
    match p.dl with
    | some dl => if ackExpired d dl then complete p.cmd 7 0 0 (modRing (fun r => { r with reads := tdel r.reads id }) d) else d
    | none => d

/-- READ_RSP_RECEIVE: the answer of the oldest READ of its pair is written (R387); another is discarded. -/
def readRsp (d : Dev) : Dev :=
  match firstRx d (fun f => f.code == 0xF8 && rxOp f == 2) with
  | none => d
  | some f =>
    let d := takeAck f (takeRx f d)
    match d.ring.reads.find? (fun p => p.2.src == f.dst && p.2.dst == f.src && p.2.dl.isSome) with
    | none => d
    | some (id, p) =>
      let d := modRing (fun r => { r with reads := tdel r.reads id }) d
      complete p.cmd 0 0 p.len (hostWrite p.addr (slice f.data 0 p.len) d)

/-- HOSTQ_RECV_DELIVER: the first DATA frame of an SQ's EID goes into its next posted buffer (R388). -/
def hostDeliver (q : Nat) (d : Dev) : Dev :=
  match firstRx d (fun f => f.code == 0xF8 && f.idx == q && rxOp f == 0 && f.accepted), (sq d q).bufs with
  | some f, (c, a, n) :: rest =>
    (match seqTest d f.src f.dst (rxSeq f) with
     | .accept =>
       let d := seqAccept f.src f.dst (rxSeq f) (takeRx f d)
       let h := toLE 3 f.src ++ toLE 1 (rxOp f) ++ toLE 4 (rxSeq f) ++ toLE 2 f.k ++ toLE 1 (f.tc + boolNat f.late * 8) ++ [0]
         ++ slice f.hdr 12 20
       let all := h ++ f.data
       let d := hostWrite a (all.take n) (modSq q (fun s => { s with bufs := rest }) d)
       complete c 0 (if n < all.length then 3 else 0) f.data.length d
     | t => seqReject f t d)
  | _, _ => d

/-- Frames a HOSTQ holds past their deadline are discarded and reported (R48, R51, R394). -/
def hostExpire (d : Dev) : Dev :=
  each (d.sw.rx.filter (fun f => f.code == 0xF8 && rxOp f == 0 && isLate d f.dl)) (fun f d =>
    each (List.range f.k) (fun _ d => tally 1 0 (gather f.src 5 0 [] d)) (takeRx f d)) d

/-- The ACKs of a Swath (R129, R395). -/
def sendAcks (d : Dev) : Dev :=
  each (d.ring.dstPairs.filter (fun p => p.2.ackDue)) (fun p d =>
    let src := p.1 / 2 ^ 24
    let dst := p.1 % 2 ^ 24
    let hdr : Bytes := [0x18] ++ zeros 7 ++ toBE 4 p.2.h ++ zeros 20
    let fr := { ownFrame d 0xB dst src (eidXport d dst) [] [] .plain with hdr := hdr }
    sendFrame fr [] (modRing (fun r => { r with dstPairs := tput r.dstPairs p.1 { p.2 with ackDue := false } }) d)) d

/-- MEMBER_SET FORGET frees every pair record of an EID (R396). -/
def forgetPairs (eid : Nat) (d : Dev) : Dev :=
  let other := fun (k : Nat) => k / 2 ^ 24 ≠ eid && k % 2 ^ 24 ≠ eid
  modRing (fun r => { r with srcPairs := r.srcPairs.filter (fun p => other p.1),
                             dstPairs := r.dstPairs.filter (fun p => other p.1) }) d

/-- The event of a NOTICE to a HOSTQ EID (R379). -/
def noticeEvent (f : RxFrame) (d : Dev) : Dev := postEvent 1 (toLE 3 f.src ++ slice f.hdr 12 20) d

end Sys2Proof.Machine
end

