-- ==== Sys2Proof/Machine/Ports.lean ====
section
/-! DEFINITION. Ports and their states, Swath configuration, the BPM's mode and retries (R25, R26, R32, R94 to R97, R113, R130 to
R134, R146, R151, R154, R500). -/

namespace Sys2Proof.Machine

/-- Every sub-port of a port begins training (Table 4.17). -/
def startPort (p : Nat) (d : Dev) : Dev :=
  let d := if laneRate d (4 * p) = 1 ∧ breakout d (4 * p) = 2 then postEvent 5 (toLE 1 p) d else d
  each (subsOf d p) (fun lp d => modSub lp (fun s =>
    { s with state := .training, served := false, lock := false, lanes := 0, unreach := false, holdCount := 0 }) d) d

/-- Every sub-port of a port is flushed and disabled (Table 4.17). -/
def stopPort (p : Nat) (d : Dev) : Dev :=
  each (subsOf d p) (fun lp d => modSub lp (fun s =>
    { s with state := .disabled, lock := false, served := false, unreach := false, nbr := none, oRx := none, theta := none })
    (flushSub lp d)) d

/-- What a write of PORT_CFG does to its port (R95, R130, R146). -/
def putPortCfg (p v : Nat) (d : Dev) : Dev :=
  match regOf (oPortCfg p) with
  | none => d
  | some r =>
    let on := flag d (oPortCfg p) 0
    let flds := if on then r.flds.filter (fun f => f.lo == 0) else r.flds
    let d' := putReg (oPortCfg p) (writeFlds (rg d (oPortCfg p)) v flds) d
    let now := flag d' (oPortCfg p) 0
    if !on && now then
      (if shStays d' (rg d' oBpmRsv) 0 then startPort p d' else setEvt oBpmEvt 4 d)
    else if on && !now then stopPort p (putReg (oPortCfg p) (rg d' (oPortCfg p)) d)
    else d'

/-- A write of PORT_CFG. -/
def writePortCfg (p v : Nat) (d : Dev) : Dev := laterSteps (putPortCfg p v d)

/-- A write of BPM_RSV (R146). -/
def writeBpmRsv (v : Nat) (d : Dev) : Dev :=
  match regOf oBpmRsv with
  | none => d
  | some r =>
    let d' := putReg oBpmRsv (writeFlds (rg d oBpmRsv) v r.flds) d
    if shStays d' (rg d' oBpmRsv) 0 then d' else setEvt oBpmEvt 4 d

/-- FEC lock on every lane (R130, R95, R134). -/
def portTrained (lp : Nat) (d : Dev) : Dev :=
  let p := sub d lp
  if !enabled d lp || !subExists d lp || (laneRate d lp == 1 && breakout d lp == 2) || (trainWidth d lp).isNone then d
  else
    let lock := lockIn lp d
    laterSteps (match p.state with
    | .training => if isEdge d lp then enterService lp false lock else modSub lp (fun p => { p with state := .aligning }) lock
    | .hold | .down => if isEdge d lp then enterService lp false lock else lock
    | _ => lock)

/-- Loss of signal or FEC lock (Table 4.17). -/
def signalLoss (lp : Nat) (d : Dev) : Dev :=
  let p := sub d lp
  let d := modSub lp (fun p => { p with lock := false }) d
  match p.state with
  | .service => enterHold lp .signal d
  | .aligning => modSub lp (fun p => { p with state := .training }) d
  | .hold => modSub lp (fun p => { p with cause := .signal, unreach := false }) d
  | _ => d

/-- The end of HOLD (R131). -/
def holdExpiry (lp : Nat) (d : Dev) : Dev :=
  let p := sub d lp
  if p.state = .hold ∧ max 1 (fld d (oPortHold (portOf lp)) 0 8) ≤ p.holdCount then
    modSub lp (fun p => { p with state := .down, unreach := false }) (flushSub lp (when (!farHold d lp) (cause 0) d))
  else d

/-- Lost alignment (R32). -/
def alignLost (lp : Nat) (d : Dev) : Dev :=
  let p := sub d lp
  if !isEdge d lp && p.state == .service && decide (2 ≤ p.overs) then
    postEvent 3 (toLE 1 lp ++ toLE 2 (wrap 16 p.lastTheta)) (enterHold lp .align d)
  else d

/-- Lost liveness (R113). -/
def unreachable (lp : Nat) (d : Dev) : Dev :=
  let p := sub d lp
  if !isEdge d lp && p.state == .service && p.lock && decide (fld d 0x100010 0 8 ≤ p.missing) then
    postEvent 8 (toLE 1 lp ++ toLE 2 ((p.nbr.map (·.node)).getD 0)) (enterHold lp .liveness d)
  else d

/-- The REPLAY of an outstanding loss is repeated (R108). -/
def replayRepeat (lp : Nat) (d : Dev) : Dev :=
  modLink lp (fun l => if l.loss then { l with replayDue := true } else l) d

/-- Realign (R500). -/
def realign (d : Dev) : Dev :=
  let l := (allSubs d).filter (fun lp => !isEdge d lp && ((sub d lp).state == .aligning || (sub d lp).state == .service
    || (sub d lp).state == .hold))
  let d := each l (fun lp d => modSub lp (fun p =>
    { p with state := if p.lock then .aligning else .training, unreach := false, holdCount := 0, told := [] }) (flushSub lp d)) d
  { d with clk := { d.clk with realigned := true } }

/-- A write of SWATH_CFG (R25, R26, R500). -/
def writeSwathCfg (v : Nat) (d : Dev) : Dev :=
  let d := if v.testBit 16 then realign d else d
  let n := bits v 0 16
  if !lenOk n || n == nsCfg d then d
  else if fabricService d none then setEvt oSwathStat 9 d
  else putFld oSwathCfg 0 16 n d

/-- How far a port stands behind the one served last in its slot (R151): 0 the next. -/
def turnDist (d : Dev) (s x : Nat) : Nat :=
  let n := if s < 16 then 4 else 3
  match tget d.bpm.turn s with
  | some last => (x + 4 * n - last - 1) % n
  | none => (x - (if s < 16 then 4 * s else 64 + 3 * (s - 16))) % n

/-- A requester slot is served: its ports take turns (R151). -/
def serveSlot (w : Nat) (d : Dev) : Dev :=
  if w < 16 then
    let l := (creditAsks d).filter (fun c => c.1 / 16 == w)
    match sortBy (fun a b => decide (turnDist d w (portOf a.1) ≤ turnDist d w (portOf b.1))) l with
    | c :: _ => lendCredit c.1 c.2 d
    | [] => d
  else
    let l := (awaiting d).filter (fun p => 16 + (p.1 - 64) / 3 == w)
    each (sortBy (fun a b => decide (turnDist d w a.1 ≤ turnDist d w b.1)) l) (fun p d => tryTx p.2 d) d

/-- A slot asks for a shared buffer: when others ask for the last one with it, the slot the rotating priority names is served
first (R151). -/
def tieServe (o : Nat) (d : Dev) : Dev :=
  match tieWinner d (rqSlot o) with
  | some w => if w = rqSlot o ∨ (useOf d o).p0 < ownMin d o then d else serveSlot w d
  | none => d

/-- CREDIT_LEND (R149, R151). -/
def creditLend (lp v : Nat) (d : Dev) : Dev := lendCredit lp v (if wantsCredit d lp v then tieServe (ownExt lp v) d else d)

/-- An internal source tries again (R150, R151). -/
def lendRetry (x vc : Nat) (d : Dev) : Dev :=
  let l := (d.sw.tx.filter (fun p => p.2.fr.xport == x && vcOf d p.2.fr == vc)).map (·.1)
  each l tryTx (if l.isEmpty then d else tieServe (ownInt x vc) d)

/-- P1 has emptied while SERVICE was pending (R154, R155). -/
def spillDrained (d : Dev) : Dev :=
  if d.bpm.pending ∧ p1Used d = 0 then postMode (modBpm (fun b => { b with mode := 3, pending := false }) d) else d

/-- The current sub-ports' owners come and go (R146). -/
def ownersAtBoundary (d : Dev) : Dev :=
  let want := (List.range 64).flatMap (fun p => if flag d (oPortCfg p) 0 then subsOf d p else [])
  let idle := fun (lp : Nat) => (List.range 5).all (fun v => useOf d (ownExt lp v) == { p0 := 0, p1 := 0 })
  let keep := d.bpm.ext.filter (fun lp => want.contains lp || !idle lp)
  modBpm (fun b => { b with ext := keep ++ want.filter (fun lp => !keep.contains lp) }) d

end Sys2Proof.Machine
end

