-- ==== Sys2Proof/Machine/Crucible.lean ====
section
/-! DEFINITION. The Crucible: creating collectives, nodes, chunks, folds, results and aborts (R191 to R224). -/

namespace Sys2Proof.Machine

open Sys2Proof.Num

def modCru (f : Crucible → Crucible) (d : Dev) : Dev := { d with cru := f d.cru }

/-- A part is out of use: retired, or fenced by a recovery sequence (R403). -/
def partOut (d : Dev) (kind idx : Nat) : Bool := retired d kind idx || d.hlt.fenced.contains (kind, idx)

def cruProtect (d : Dev) : Nat := fld d 0x280000 0 1
def prepTimeout (d : Dev) : Nat := fld d 0x280000 8 8

/-- Swaths since one, the counter wrapping (R28). -/
def swathsSince (d : Dev) (t : Nat) : Nat := subMod 48 d.clk.swc.toNat t

/-- Fields of a record header (Table 7.2). -/
def rOp (r : Bytes) : Nat := byteAt r 6 % 16
def rFmt (r : Bytes) : Nat := byteAt r 7 % 8
def rSat (r : Bytes) : Bool := (byteAt r 7).testBit 3
def rOrm (r : Bytes) : Nat := byteAt r 7 / 16 % 4
def rCount (r : Bytes) : Nat := leAt r 8 4 + 1
def rP (r : Bytes) : Nat := leAt r 12 2 + 1
def rAlg (r : Bytes) : Nat := byteAt r 16
def rCc (r : Bytes) : Nat := byteAt r 17 + 1
def rW (r : Bytes) : Nat := leAt r 18 2
def rN (r : Bytes) : Nat := leAt r 20 2 + 1
def rSize (r : Bytes) (a : Nat) : Nat := byteAt r (22 + a)
def rOrder (r : Bytes) (i : Nat) : Nat := byteAt r 25 / 4 ^ i % 4
def rIdle (r : Bytes) : Nat := leAt r 26 2
def rDepth (r : Bytes) : Nat := leAt r 28 2

/-- Element width in bytes (R193). -/
def elemW (op fmt : Nat) : Nat := if op = 7 then 8 else (Fmt.ofCode fmt).bytes

/-- Elements of a chunk, and chunks of a collective (R193). -/
def chunkElems (cc w : Nat) : Nat := (512 * cc - 32) / w
def rElems (r : Bytes) : Nat := chunkElems (rCc r) (elemW (rOp r) (rFmt r))
def rChunks (r : Bytes) : Nat := ceilDiv (rCount r) (rElems r)

/-- Elements chunk `c` holds. -/
def elemsOf (count e c : Nat) : Nat := min e (count - c * e)

/-- Pairing of op and format in the Crucible (R185, Table 6.6). -/
def opFmtOk (op fmt : Nat) : Bool :=
  match op with
  | 0 | 1 | 2 | 7 => decide (fmt ≤ 6)
  | 3 => decide (fmt ≤ 2)
  | 4 | 5 => within 3 6 fmt
  | 6 => decide (fmt ≤ 7)
  | _ => false

/-- Axes in use of a TORUS record, in order (R195, R196). -/
def usedAxes (r : Bytes) : List Nat := (List.range 3).filter (fun a => rSize r a ≠ 0)

/-- Stages of a node: axis and ring size; RING is one axis of size P (R214, R215), and a TORUS without a used axis a ring of one. -/
def rStages (r : Bytes) : List (Nat × Nat) :=
  if rAlg r = 1 then [(0, rP r)]
  else if (usedAxes r).isEmpty then [(0, 1)]
  else (List.range (usedAxes r).length).map (fun i => (rOrder r i, rSize r (rOrder r i)))

/-- Coordinate of rank `n` on an axis (R199). -/
def coordOf (r : Bytes) (n a : Nat) : Nat :=
  if rAlg r = 1 then n
  else
    let f := fun (i : Nat) => if rSize r i = 0 then 1 else rSize r i
    let below := ((List.range a).map f).prod
    if rSize r a = 0 then 0 else n / below % rSize r a

/-- The rank one step along an axis, up or down. -/
def stepRank (r : Bytes) (n a : Nat) (up : Bool) : Nat :=
  if rAlg r = 1 then (if up then (n + 1) % rP r else (n + rP r - 1) % rP r)
  else
    let f := fun (i : Nat) => if rSize r i = 0 then 1 else rSize r i
    let below := ((List.range a).map f).prod
    let x := coordOf r n a
    let z := if rSize r a = 0 then 1 else rSize r a
    let y := if up then (x + 1) % z else (x + z - 1) % z
    n - x * below + y * below

/-- Node and member entries of a full record. -/
def recNode (b : Bytes) (j : Nat) : Bytes := slice b (64 + 16 * j) 16
def recMember (b : Bytes) (r : Nat) : Bytes := slice b (64 + 16 * (rN b) + 16 * r) 16
def eBase (e : Bytes) : Nat := leAt e 0 3
def eSpread (e : Bytes) : Nat := 2 ^ (byteAt e 3 % 4)
def eParent (e : Bytes) : Nat := leAt e 4 2

/-- Inputs of TREE node `j`: positions of its child nodes and attached members (R196). -/
def treeInputs (b : Bytes) (j : Nat) : List (Nat × Bool × Nat) :=
  ((List.range (rN b)).filter (fun i => i ≠ 0 && eParent (recNode b i) == j)).map (fun i => (byteAt (recNode b i) 6, true, i))
  ++ ((List.range (rP b)).filter (fun r => leAt (recMember b r) 4 2 == j)).map (fun r => (byteAt (recMember b r) 6, false, r))

/-- Following parents from a node reaches node 0 within N steps (R196). -/
def reachesRoot (b : Bytes) : Nat → Nat → Bool
  | 0, j => j == 0
  | n + 1, j => j == 0 || (eParent (recNode b j) < rN b && reachesRoot b n (eParent (recNode b j)))

/-- TREE checks of R196. -/
def treeOk (b : Bytes) : Bool :=
  (List.range (rN b)).all (fun j => (eParent (recNode b j) == 0xFFFF) == (j == 0))
  && (List.range (rN b)).all (reachesRoot b (rN b))
  && (List.range (rN b)).all (fun j =>
    let ps := (treeInputs b j).map (·.1)
    within 1 256 ps.length && (List.range ps.length).all (fun i => (ps.filter (· == i)).length == 1))
  && (List.range (rP b)).all (fun r => decide (leAt (recMember b r) 4 2 < rN b))

/-- RING and TORUS checks of R196. -/
def ringOk (b : Bytes) : Bool :=
  rN b == rP b
  && (List.range (rP b)).all (fun r => leAt (recMember b r) 4 2 == r && byteAt (recMember b r) 6 == 0)
  && (List.range (rN b)).all (fun j => eParent (recNode b j) == 0xFFFF && byteAt (recNode b j) 6 == 0)
  && (if rAlg b = 2 then
        let u := usedAxes b
        let o := (List.range u.length).map (rOrder b)
        (u.map (rSize b)).prod == rP b && u.all o.contains && o.all u.contains
        && (List.range 3).all (fun i => decide (i < u.length) || rOrder b i == 0)
      else true)

/-- Inputs a node counts: TREE its inputs, RING and TORUS two (R196). -/
def nInputs (b : Bytes) (j : Nat) : Nat := if rAlg b = 0 then (treeInputs b j).length else 2

/-- Reserved fields and encodings of a record (R195). -/
def recordFields (b : Bytes) : Bool :=
  decide (byteAt b 6 < 8) && decide (byteAt b 7 < 64) && leAt b 14 2 == 0 && decide (byteAt b 16 < 3) && decide (byteAt b 17 < 8)
  && rW b ≠ 0 && rDepth b ≠ 0 && allZero (slice b 30 34) && decide (rOrm b < 2) && rSize b 0 ≠ 1 && rSize b 1 ≠ 1 && rSize b 2 ≠ 1
  && decide (byteAt b 25 < 64)
  && (List.range (rN b)).all (fun j => decide (byteAt (recNode b j) 3 < 4) && allZero (slice (recNode b j) 7 9))
  && (List.range (rP b)).all (fun r => byteAt (recMember b r) 3 == 0 && allZero (slice (recMember b r) 7 9))

/-- The record passes R196. -/
def recordOk (b : Bytes) : Bool :=
  recordFields b && opFmtOk (rOp b) (rFmt b)
  && (if rAlg b = 0 then treeOk b else ringOk b)
  && (rOp b ≠ 6 || (rAlg b == 0 && decide (rCount b ≤ rElems b) && rDepth b == 1 && decide (rP b * rCc b ≤ rW b)))
  && decide (rChunks b ≤ 16777216)
  && (List.range (rN b)).all (fun j =>
    let s := eSpread (recNode b j)
    rDepth b % s == 0 && rW b % s == 0 && decide (rDepth b * nInputs b j * rCc b ≤ rW b))

/-- The digest of a collective (R197). -/
def digestOf (op fmt alg count p gen : Nat) : Nat :=
  crc32c (toBE 1 op ++ toBE 1 fmt ++ toBE 1 alg ++ [0] ++ toBE 4 (count - 1) ++ toBE 2 (p - 1) ++ toBE 2 gen)

def rDigest (r : Bytes) : Nat := digestOf (rOp r) (rFmt r) (rAlg r) (rCount r) (rP r) (leAt r 4 2)

/-- Bytes 12 to 31 of a control frame (Table 7.4). -/
def ctlBody (cid gen code answered low token status rank node : Nat) : Bytes :=
  toBE 4 cid ++ toBE 2 gen ++ toBE 1 code ++ toBE 1 answered ++ toBE 2 low ++ toBE 4 token ++ toBE 2 status ++ toBE 2 rank
    ++ toBE 2 node

/-- An entry of RESERVE data (R199): a record entry with an index and a kind. -/
def tagEntry (e : Bytes) (idx kind : Nat) : Bytes := overlay (overlay (fit e 16) 8 (toLE 4 idx)) 15 (toLE 1 kind)

/-- The entries of Table 7.5 for node `j`, inputs in position order. -/
def nbrEntries (b : Bytes) (j : Nat) : List Bytes :=
  let node := fun (i kind : Nat) => tagEntry (recNode b i) i kind
  let self := node j 0
  if rAlg b = 0 then
    let ins := treeInputs b j
    let up := if j = 0 then [] else [node (eParent (recNode b j)) 1]
    self :: up ++ (List.range ins.length).filterMap (fun p => (ins.find? (fun x => x.1 == p)).map (fun x =>
      if x.2.1 then node x.2.2 2 else tagEntry (recMember b x.2.2) x.2.2 3))
  else
    self :: (rStages b).map (fun s => node (stepRank b j s.1 true) (4 + s.1))
      ++ (rStages b).map (fun s => node (stepRank b j s.1 false) (7 + s.1)) ++ [tagEntry (recMember b j) j 10]

/-- Send a control frame (R198). -/
def sendCtl (src dst : Nat) (body data : Bytes) (org : Origin) (d : Dev) : Dev :=
  sendFrame (ownFrame d 0xC src dst (eidXport d src) body data org) [] d

/-- Start a phase of a creation (R200): the same control frame to every node. -/
def sendPhase (id : Nat) (c : Create) (code : Nat) (data : Nat → Bytes) (d : Dev) : Dev :=
  each (List.range c.nodes.length) (fun j d =>
    let low := if code = 1 then cruProtect d else 0
    sendCtl c.coord (c.nodes.getD j 0) (ctlBody c.cid c.gen code 0 low c.token 0 0 j) (data j) (.create id j) d) d

/-- COLL_CREATE (R196, R200). -/
def cmdCollCreate (c : Cmd) (e : Bytes) (d : Dev) : Res :=
  let a := leAt e 16 8
  let len := leAt e 24 4
  if !plainOk e [(16, 12)] || len < 96 || decide (64 + 16 * 131072 < len) then bad d
  else
    match image c a len d with
    | none => bad d
    | some b =>
      if len ≠ 64 + 16 * (rN b + rP b) || !recordOk b then bad d
      else
        match (localEids d 2 0).head? with
        | none => .done 7 0 0 d
        | some coord =>
          let id := d.cru.nextId
          let cr : Create :=
            { cmd := c, cid := leAt b 0 4, gen := leAt b 4 2, token := c.tag % 2 ^ 32, coord := coord,
              nodes := (List.range (rN b)).map (fun j => eBase (recNode b j)), phase := 1, replies := [], lost := [],
              noticed := false, since := d.clk.swc.toNat }
          let d := modCru (fun x => { x with nextId := id + 1, creates := tput x.creates id cr }) d
          .run (sendPhase id cr 1 (fun j => slice b 0 64 ++ (nbrEntries b j).flatten) d)

/-- Step 6 of Table 7.6. -/
def createFail (id : Nat) (cr : Create) (d : Dev) : Dev :=
  let d := modCru (fun x => { x with creates := tdel x.creates id }) d
  let d := sendPhase id cr 3 (fun _ => []) d
  let missing := decide (cr.replies.length < cr.nodes.length)
  let st := if cr.replies.any (fun p => p.2 == 0x10) then 0x10
    else if cr.noticed || !cr.lost.isEmpty || missing then 7 else 2
  complete cr.cmd st 0 0 d

/-- Every REPLY of a phase is in, or its time is over (R200, steps 3, 5 and 6). -/
def createDecide (id : Nat) (late : Bool) (d : Dev) : Dev :=
  match tget d.cru.creates id with
  | none => d
  | some cr =>
    let all := cr.replies.length == cr.nodes.length
    let ok := all && cr.replies.all (fun p => p.2 == 0)
    if ok && cr.phase == 1 then
      let cr := { cr with phase := 2, replies := [], since := d.clk.swc.toNat }
      sendPhase id cr 2 (fun _ => []) (modCru (fun x => { x with creates := tput x.creates id cr }) d)
    else if ok then complete cr.cmd 0 0 0 (modCru (fun x => { x with creates := tdel x.creates id }) d)
    else if late || decide (cr.nodes.length ≤ cr.replies.length + cr.lost.length) then createFail id cr d
    else d

/-- A control frame of a creation was refused at admission. -/
def createRefused (id node : Nat) (d : Dev) : Dev :=
  createDecide id false (modCru (fun x => { x with creates := tmod x.creates id (fun c =>
    { c with lost := if c.lost.contains node then c.lost else node :: c.lost }) }) d)

/-- CREATE_REPLY_TIMEOUT (R200). -/
def createTimeout (id : Nat) (d : Dev) : Dev :=
  match tget d.cru.creates id with
  | none => d
  | some cr => if prepTimeout d / 2 < swathsSince d cr.since then createDecide id true d else d

/-- Fields of a received frame's header. -/
def fCid (f : RxFrame) : Nat := beAt f.hdr 12 4
def fGen (f : RxFrame) : Nat := beAt f.hdr 16 2
def fWord (f : RxFrame) : Nat := beAt f.hdr 18 4
def fCode (f : RxFrame) : Nat := fWord f / 2 ^ 24
def fTail (f : RxFrame) : Nat := beAt f.hdr 30 2

/-- The first waiting control frame with a code at a Crucible endpoint. -/
def firstCtl (d : Dev) (code : Nat) : Option RxFrame :=
  firstRx d (fun f => f.code == 0xF9 && rxOp f == 0xC && fCode f == code)

/-- REPLY_FRAME at the coordinator (R200). -/
def replyFrame (d : Dev) : Dev :=
  match firstCtl d 4 with
  | none => d
  | some f =>
    let d := takeRx f d
    match d.cru.creates.find? (fun p => p.2.cid == fCid f && p.2.gen == fGen f && p.2.token == beAt f.hdr 22 4
        && p.2.phase == fWord f / 65536 % 256 && p.2.coord == f.dst && decide (fTail f < p.2.nodes.length)) with
    | none => tally 13 0xF9 d
    | some (id, _) =>
      createDecide id false (modCru (fun x => { x with creates := tmod x.creates id (fun c =>
        { c with replies := tput c.replies (fTail f) (beAt f.hdr 26 2) }) }) d)

/-- Slots of a bank not reserved (R194). -/
def bankFree (d : Dev) (j : Nat) : Nat :=
  12288 - (d.cru.nodes.map (fun p => if p.2.banks.contains j then rW p.2.record / p.2.s else 0)).sum

/-- Banks of an EID range of local CRUCIBLE entries with different local_index (R194). -/
def banksOf (d : Dev) (base s : Nat) : Option (List Nat) :=
  let l := (List.range s).filterMap (fun i => (tget d.tab.ept (base + i)).bind (fun e =>
    if e.isLocal && !e.mcast && e.kind == 2 then some e.idx else none))
  if l.length = s ∧ l.eraseDups.length = s then some l else none

def nodeServes (n : CruNode) (eid : Nat) : Bool := decide (n.eidBase ≤ eid) && decide (eid < n.eidBase + n.s)
def tombServes (t : Tomb) (eid : Nat) : Bool := decide (t.eidBase ≤ eid) && decide (eid < t.eidBase + t.s)

/-- The node entry of a collective ID at an EID. -/
def nodeAt (d : Dev) (cid eid : Nat) : Option (Nat × CruNode) :=
  d.cru.nodes.find? (fun p => p.2.cid == cid && nodeServes p.2 eid)

def tombAt (d : Dev) (cid eid : Nat) : Option Tomb := d.cru.tombs.find? (fun t => t.cid == cid && tombServes t eid)

def tombFor (d : Dev) (cid gen eid : Nat) : Bool :=
  d.cru.tombs.any (fun t => t.cid == cid && t.gen == gen && tombServes t eid)

/-- What stands for the chunk in the origin of a node's control frame: no chunk index reaches it (R196). -/
def ctlChunk : Nat := 2 ^ 24

/-- A node's REPLY (R201); one of a node entry is a frame the node sent for the collective (R218). -/
def sendReply (f : RxFrame) (code status : Nat) (node : Option Nat) (d : Dev) : Dev :=
  sendCtl f.dst f.src (ctlBody (fCid f) (fGen f) 4 code 0 (beAt f.hdr 22 4) status 0 (fTail f)) []
    (match node with
     | some id => .crucible id ctlChunk
     | none => .plain) d

/-- RESERVE at a node (Table 7.7). -/
def reserveFrame (d : Dev) : Dev :=
  match firstCtl d 1 with
  | none => d
  | some f =>
    let d := takeRx f d
    let record := slice f.data 0 64
    let nbrs := chunks 16 (f.data.drop 64)
    let s := eSpread (nbrs.getD 0 [])
    match nodeAt d (fCid f) f.dst, tombAt d (fCid f) f.dst with
    | some (id, n), _ =>
      if n.gen ≠ fGen f then sendReply f 1 2 none d
      else if n.record = record ∧ n.nbrs = nbrs then sendReply f 1 0 (some id) d else sendReply f 1 0x10 (some id) d
    | none, some t => if t.gen = fGen f then sendReply f 1 0x10 none d else sendReply f 1 2 none d
    | none, none =>
      match banksOf d f.dst s with
      | none => sendReply f 1 0x10 none d
      | some banks =>
        if (fWord f) % 2 ≠ cruProtect d then sendReply f 1 0x10 none d
        else if banks.any (fun j => partOut d 6 j || decide (bankFree d j < rW record / s)) then sendReply f 1 2 none d
        else
          let n : CruNode :=
            { cid := fCid f, gen := fGen f, idx := fTail f, eidBase := f.dst, s := s, banks := banks, active := false,
              token := beAt f.hdr 22 4, record := record, nbrs := nbrs, since := d.clk.swc.toNat, got := false, matched := [],
              bad := [], groups := [], fwd := [], fin := 0 }
          sendReply f 1 0 (some d.cru.nextId) (modCru (fun x => { x with nextId := x.nextId + 1, nodes := tput x.nodes x.nextId n }) d)

/-- COMMIT at a node (R200, step 4); at a tombstone it is discarded (R219). -/
def commitFrame (d : Dev) : Dev :=
  match firstCtl d 2 with
  | none => d
  | some f =>
    let d := takeRx f d
    if tombFor d (fCid f) (fGen f) f.dst then tally 13 0xF9 d
    else
      match nodeAt d (fCid f) f.dst with
      | some (id, n) =>
        if n.gen ≠ fGen f then sendReply f 2 2 none d
        else if n.active then sendReply f 2 0 (some id) d
        else if n.token = beAt f.hdr 22 4 then
          sendReply f 2 0 (some id) (modCru (fun x => { x with nodes := tput x.nodes id { n with active := true } }) d)
        else sendReply f 2 2 (some id) d
      | none => sendReply f 2 2 none d

def dropNode (id : Nat) (d : Dev) : Dev := modCru (fun x => { x with nodes := tdel x.nodes id }) d

/-- RELEASE at a node (R202); at a tombstone it is discarded (R219). -/
def releaseFrame (d : Dev) : Dev :=
  match firstCtl d 3 with
  | none => d
  | some f =>
    let d := takeRx f d
    match nodeAt d (fCid f) f.dst with
    | some (id, n) =>
      if n.gen = fGen f ∧ n.token = beAt f.hdr 22 4 ∧ !(n.active && n.got) then dropNode id d else d
    | none => if tombFor d (fCid f) (fGen f) f.dst then tally 13 0xF9 d else d

/-- PREPARED_TIMEOUT (R202). -/
def preparedTimeout (id : Nat) (d : Dev) : Dev :=
  match tget d.cru.nodes id with
  | none => d
  | some n => if !n.active && decide (prepTimeout d < swathsSince d n.since) then dropNode id d else d

/-- Leave a tombstone; the 1,024 most recent stay (R219). -/
def addTomb (t : Tomb) (d : Dev) : Dev := modCru (fun x => { x with tombs := (t :: x.tombs).take 1024 }) d

def eKind (e : Bytes) : Nat := byteAt e 15
def eIdx (e : Bytes) : Nat := leAt e 8 4

/-- Neighbour nodes, and attached members, of an entry (Table 7.5). -/
def nbrNodes (n : CruNode) : List Bytes := n.nbrs.filter (fun e => let k := eKind e; k ≠ 0 && k ≠ 3 && k ≠ 10)
def members (n : CruNode) : List Bytes := n.nbrs.filter (fun e => eKind e == 3 || eKind e == 10)

/-- A node raises or receives an abort (R218): state freed, tombstone, ABORT frames, NOTICEs. -/
def nodeAbort (id status rank : Nat) (fromEid : Option Nat) (d : Dev) : Dev :=
  match tget d.cru.nodes id with
  | none => d
  | some n =>
    let d := when (status == 0x11) (cause 17) d
    let d := addTomb { cid := n.cid, gen := n.gen, eidBase := n.eidBase, s := n.s, status := status, rank := rank } (dropNode id d)
    let d := modSw (fun w => { w with tx := w.tx.filter (fun p => match p.2.fr.org, p.2.adm with
      | .crucible k c, none => k != id || c == ctlChunk
      | _, _ => true) }) d
    let far := ((nbrNodes n).map eBase).eraseDups.filter (fun e => some e ≠ fromEid)
    let d := each far (fun e d => sendCtl n.eidBase e (ctlBody n.cid n.gen 5 0 0 0 status (if status = 6 then rank else 0) n.idx) [] .plain d) d
    each (members n) (fun m d =>
      let body := toBE 4 n.cid ++ toBE 2 n.gen ++ zeros 8 ++ toBE 2 status ++ toBE 2 rank ++ zeros 2
      sendFrame (ownFrame d 0xA n.eidBase (eBase m) (eidXport d n.eidBase) body [] .plain) [] d) d

/-- ABORT at a node (R218). -/
def abortFrame (d : Dev) : Dev :=
  match firstCtl d 5 with
  | none => d
  | some f =>
    let d := takeRx f d
    match nodeAt d (fCid f) f.dst with
    | some (id, n) =>
      if n.gen = fGen f then nodeAbort id (beAt f.hdr 26 2) (beAt f.hdr 28 2) (some f.src) d else tally 13 0xF9 d
    | none => tally 13 0xF9 d

/-- The group of a chunk (R194). -/
def groupOf (n : CruNode) (c : Nat) : Nat := c % n.s + n.s * (c / n.s % (rDepth n.record / n.s))

def groupZero : CruGroup := { occ := none, last := none, ins := [], ready := none, stage := 0, sent := false, since := 0 }

def setGroup (id k : Nat) (g : CruGroup) (d : Dev) : Dev :=
  modCru (fun x => { x with nodes := tmod x.nodes id (fun n => { n with groups := tput n.groups k g }) }) d

/-- Elements chunk `c` of a node's collective holds; GATHER chunks hold every element of one rank. -/
def nodeElems (n : CruNode) (c : Nat) : Nat :=
  if rOp n.record = 6 then rCount n.record else elemsOf (rCount n.record) (rElems n.record) c

/-- Data bytes of a chunk, without padding. -/
def nodeBytes (n : CruNode) (c : Nat) : Nat := nodeElems n c * elemW (rOp n.record) (rFmt n.record)

/-- The check value of a chunk passes (R222). -/
def checkOk (d : Dev) (n : CruNode) (c : Nat) (f : RxFrame) : Bool :=
  cruProtect d == 0 || crc32c (slice f.data 0 (nodeBytes n c)) == beAt f.hdr 26 4

/-- A protection failure of a bank: the health manager tests it (R223). -/
def bankFail (j : Nat) (d : Dev) : Dev := scoreEvent 5 6 j (count 9 5 1 {} (setEvt oCruEvt 1 d))

/-- A protection failure at a node: of the bank of its chunk (R223). -/
def protectFail (id : Nat) (n : CruNode) (c : Nat) (d : Dev) : Dev :=
  nodeAbort id 0x11 0 none (bankFail (n.banks.getD (c % n.s) 0) d)

/-- Position a chunk frame takes at a node: TREE by entry, RING and TORUS by stage (R208, R214, R215). -/
def inputPos (n : CruNode) (f : RxFrame) : Option Nat :=
  let kind := fWord f / 2 ^ 26 % 4
  let r := n.record
  if rOp r = 6 then
    (if kind = 0 ∧ n.nbrs.any (fun e => eKind e == 3 && eIdx e == fTail f) then some (fTail f)
     else if kind = 2 ∧ n.nbrs.any (fun e => eKind e == 2 && within (eBase e) (eBase e + eSpread e - 1) f.src) then some (fTail f)
     else none)
  else if rAlg r = 0 then
    let ins := n.nbrs.filter (fun e => eKind e == 2 || eKind e == 3)
    let want := if kind = 0 then 3 else 2
    ins.findIdx? (fun e => eKind e == want && eIdx e == fTail f)
  else if kind = 0 then (if n.nbrs.any (fun e => eKind e == 10 && eIdx e == fTail f) then some 1 else none)
  else
    match n.nbrs.find? (fun e => within 7 9 (eKind e) && eIdx e == fTail f) with
    | none => none
    | some e => ((rStages r).findIdx? (fun s => s.1 == eKind e - 7)).map (fun s => 2 * s)

/-- The stage in progress has its inputs (R210, R214, R215). -/
def groupReady (n : CruNode) (c : Nat) (g : CruGroup) : Bool :=
  let r := n.record
  if rOp r = 6 then n.idx == 0 && g.ins.length == rP r
  else if rAlg r = 0 then g.ins.length == (n.nbrs.filter (fun e => eKind e == 2 || eKind e == 3)).length
  else
    match (rStages r)[g.stage]? with
    | none => false
    | some (a, z) =>
      let x := coordOf r n.idx a
      (tget g.ins (2 * g.stage + 1)).isSome && (x == (c + 1) % z || (tget g.ins (2 * g.stage)).isSome)

/-- Store an input; a GATHER contribution is passed up at once by a node other than the root (R208, R216). -/
def storeInput (id k : Nat) (n : CruNode) (c pos : Nat) (i : ChunkIn) (d : Dev) : Dev :=
  let g := tgetD n.groups k groupZero
  let g := { g with occ := some c, ins := tput g.ins pos i, since := d.clk.swc.toNat }
  let g := { g with ready := if groupReady n c g then some d.clk.swc.toNat else g.ready }
  setGroup id k g (modCru (fun x => { x with nodes := tmod x.nodes id (fun m => { m with got := true }) }) d)

/-- Bytes 12 to 31 of a chunk or result frame (Table 7.8). -/
def chunkBody (cid gen flags kind c digest check tail : Nat) : Bytes :=
  toBE 4 cid ++ toBE 2 gen ++ toBE 4 (flags * 2 ^ 28 + kind * 2 ^ 26 + c) ++ toBE 4 digest ++ toBE 4 check ++ toBE 2 tail

/-- Send a chunk or result frame of a node (R207): from the EID of its chunk. -/
def nodeSend (id : Nat) (n : CruNode) (op kind c place flags tail dst : Nat) (data : Bytes) (d : Dev) : Dev :=
  let src := n.eidBase + place % n.s
  let data := data ++ zeros (ceilDiv data.length 16 * 16 - data.length)
  let check := if cruProtect d = 1 then crc32c (slice data 0 (nodeBytes n (if rOp n.record = 6 then 0 else c))) else 0
  let fr := ownFrame d op src dst (eidXport d src) (chunkBody n.cid n.gen flags kind c 0 check tail) data (.crucible id place)
  sendFrame { fr with label := n.cid % 65536 } [] d

/-- The EID of a node entry that handles chunk `c` (R194). -/
def chunkEid (e : Bytes) (c : Nat) : Nat := eBase e + c % eSpread e

/-- Results to members and child nodes, in order (R213). -/
def sendResults (id : Nat) (n : CruNode) (c place flags : Nat) (data : Bytes) (d : Dev) : Dev :=
  let ms := members n
  let cs := n.nbrs.filter (fun e => eKind e == 2)
  let d := each ms (fun m d => nodeSend id n 5 0 c place flags (eIdx m) (eBase m) data d) d
  each cs (fun e d => nodeSend id n 5 1 c place flags n.idx (chunkEid e place) data d) d

/-- One fold step on an element (Table 7.9). -/
def foldElem (r : Bytes) (a b : Bytes) : Bytes × Flags :=
  let f := Fmt.ofCode (rFmt r)
  let x := leNat a
  let y := leNat b
  let w := a.length
  let res := fun (p : Nat × Flags) => (toLE w p.1, p.2)
  match rOp r with
  | 0 => if f.isFloat then res (addF f .rne (rOrm r) x y) else res (addI f (rSat r) x y)
  | 1 => (toLE w (minmax f false x y), 0)
  | 2 => (toLE w (minmax f true x y), 0)
  | 3 => res (mulF f .rne (rOrm r) x y)
  | 4 => (toLE w (x &&& y), 0)
  | 5 => (toLE w (x ||| y), 0)
  | 7 =>
    let va := rank f (leAt a 0 f.bytes)
    let vb := rank f (leAt b 0 f.bytes)
    if va < vb || (va == vb && decide (leAt b 4 4 < leAt a 4 4)) then (b, 0) else (a, 0)
  | _ => (a, 0)

/-- A fold step on whole chunks, `k` elements of `w` bytes. -/
def foldChunk (r : Bytes) (w k : Nat) (acc x : ChunkIn) : ChunkIn :=
  let els := (List.range k).map (fun i => foldElem r (slice acc.data (w * i) w) (slice x.data (w * i) w))
  let fl := els.foldl (fun m e => m ||| e.2.toNat) (acc.flags ||| x.flags)
  { data := (els.map (·.1)).flatten, flags := fl, rank := acc.rank }

/-- Fold a list of inputs in order (R208). -/
def foldAll (r : Bytes) (w k : Nat) : List ChunkIn → Option ChunkIn
  | [] => none
  | a :: t => some (t.foldl (foldChunk r w k) a)

/-- A node has finished every chunk: it leaves a tombstone with status OK (R219). -/
def finishNode (id : Nat) (d : Dev) : Dev :=
  match tget d.cru.nodes id with
  | none => d
  | some n =>
    let total := if rOp n.record = 6 then rP n.record else rChunks n.record
    if n.fin < total || n.groups.any (fun g => g.2.occ.isSome && rOp n.record ≠ 6) then d
    else addTomb { cid := n.cid, gen := n.gen, eidBase := n.eidBase, s := n.s, status := 0, rank := 0 } (dropNode id d)

def addFin (id k : Nat) (d : Dev) : Dev :=
  modCru (fun x => { x with nodes := tmod x.nodes id (fun n => { n with fin := n.fin + k }) }) d

/-- Free a group for its next chunk (R209). -/
def freeGroup (id k c : Nat) (d : Dev) : Dev :=
  modCru (fun x => { x with nodes := tmod x.nodes id (fun n =>
    { n with groups := tput n.groups k { groupZero with last := some c } }) }) d

/-- A frame of a node has been released: the last one of a fold frees the group (R209). -/
def cruReleased (id c : Nat) (d : Dev) : Dev :=
  match tget d.cru.nodes id with
  | none => d
  | some n =>
    let k := groupOf n c
    match tget n.groups k with
    | none => d
    | some g =>
      let left := d.sw.tx.any (fun p => decide (p.2.fr.org = .crucible id c))
      if g.occ ≠ some c then d
      else if g.sent && !left then finishNode id (freeGroup id k c d)
      else setGroup id k { g with since := d.clk.swc.toNat } d

/-- The outputs of a TREE fold (R213). -/
def treeOut (id k : Nat) (n : CruNode) (c : Nat) (g : CruGroup) (o : ChunkIn) (d : Dev) : Dev :=
  match n.nbrs.find? (fun e => eKind e == 1) with
  | some up =>
    nodeSend id n 4 1 c c o.flags n.idx (chunkEid up c) o.data (setGroup id k { g with ready := none, sent := true } d)
  | none => sendResults id n c c o.flags o.data (addFin id 1 (setGroup id k { g with ready := none, sent := true } d))

/-- The check value a node keeps with a chunk it computed (R222). -/
def storedCheck (d : Dev) (b : Bytes) : Nat := if cruProtect d = 1 then crc32c b else 0

/-- The outputs of a stage of RING or TORUS (R214, R215); in a ring of one nothing is forwarded. -/
def ringOut (id k : Nat) (n : CruNode) (c : Nat) (g : CruGroup) (o : ChunkIn) (d : Dev) : Dev :=
  match (rStages n.record)[g.stage]? with
  | none => d
  | some (a, z) =>
    let x := coordOf n.record n.idx a
    let succ := n.nbrs.find? (fun e => eKind e == 4 + a)
    let final := g.stage + 1 == (rStages n.record).length
    let toSucc := fun (op : Nat) (d : Dev) => match succ with
      | some e => nodeSend id n op 1 c c o.flags n.idx (chunkEid e c) o.data d
      | none => d
    if x ≠ c % z then
      let g := if final then { g with ready := none, sent := true } else { g with ready := none, stage := g.stage + 1 }
      toSucc 4 (setGroup id k g d)
    else if final then
      let d := addFin id 1 (setGroup id k { g with ready := none, sent := true } d)
      let d := each (members n) (fun m d => nodeSend id n 5 0 c c o.flags (eIdx m) (eBase m) o.data d) d
      if z = 1 then d else toSucc 5 d
    else
      let g := { g with stage := g.stage + 1, ins := tput g.ins (2 * g.stage + 3) { o with check := storedCheck d o.data } }
      let g := { g with ready := if groupReady n c g then some d.clk.swc.toNat else none }
      if z = 1 then setGroup id k g d else toSucc 5 (setGroup id k g d)

/-- A chunk read to be folded passes its check (R222). -/
def readOk (d : Dev) (i : ChunkIn) : Bool := cruProtect d == 0 || crc32c i.data == i.check

/-- CHUNK_FOLD: the first chunk of a node whose last input came in an earlier Swath is folded (R210, R212), or found bad: by a residue
check (R221), or by the check value of an input read (R222). -/
def chunkFold (id : Nat) (bad : Bool) (d : Dev) : Dev :=
  match tget d.cru.nodes id with
  | none => d
  | some n =>
    match n.groups.find? (fun p => (match p.2.ready with
        | some t => t ≠ d.clk.swc.toNat
        | none => false)) with
    | none => d
    | some (k, g) =>
      match g.occ with
      | none => d
      | some c =>
        let r := n.record
        let w := elemW (rOp r) (rFmt r)
        if bad || !g.ins.all (fun p => readOk d p.2) then protectFail id n c d
        else
        let d := count 9 1 1 {} d
        if rOp r = 6 then
          let d := addFin id (rP r) (setGroup id k { g with ready := none, sent := true } d)
          each g.ins (fun i d => sendResults id n i.1 0 i.2.flags i.2.data d) d
        else
          let ins := if rAlg r = 0 then g.ins.map (·.2)
            else (match (rStages r)[g.stage]? with
              | some (a, z) => if coordOf r n.idx a = (c + 1) % z then (tget g.ins (2 * g.stage + 1)).toList
                  else (tget g.ins (2 * g.stage)).toList ++ (tget g.ins (2 * g.stage + 1)).toList
              | none => [])
          match foldAll r w (nodeElems n c) ins with
          | none => d
          | some o =>
            let d := modCru (fun x => { x with nodes := tmod x.nodes id (fun m => { m with flags := m.flags ||| o.flags }) }) d
            if rAlg r = 0 then treeOut id k n c g o d else ringOut id k n c g o d

/-- A discard of R211. -/
def unknownChunk (f : RxFrame) (d : Dev) : Dev :=
  noticeOnceFrom f.dst f.src 8 (slice f.hdr 12 14) (count 9 4 1 {} (setEvt oCruEvt 2 d))

def dupChunk (d : Dev) : Dev := count 9 2 1 {} (setEvt oCruEvt 4 d)

/-- The first contribution of a member is checked against the record's digest (R217): whether the chunk goes on. -/
def matchMember (id : Nat) (n : CruNode) (f : RxFrame) (d : Dev) : Bool × Dev :=
  let rank := fTail f
  if fWord f / 2 ^ 26 % 4 ≠ 0 ∨ n.matched.contains rank = true then (true, d)
  else if n.bad.contains rank then (false, d)
  else if beAt f.hdr 22 4 = rDigest n.record then
    (true, modCru (fun x => { x with nodes := tmod x.nodes id (fun m => { m with matched := rank :: m.matched }) }) d)
  else (false, modCru (fun x => { x with nodes := tmod x.nodes id (fun m => { m with bad := rank :: m.bad, got := true }) }) d)

/-- A chunk in its group (R209). -/
def groupArrive (id : Nat) (n : CruNode) (c pos : Nat) (f : RxFrame) (d : Dev) : Dev :=
  let k := groupOf n c
  let g := tgetD n.groups k groupZero
  let i : ChunkIn := { data := slice f.data 0 (nodeBytes n c), flags := fWord f / 2 ^ 28, rank := fTail f,
                       check := beAt f.hdr 26 4 }
  let later := match g.last with
    | none => true
    | some l => decide (l < c)
  if g.occ = some c then
    (if (tget g.ins pos).isSome then dupChunk d else storeInput id k n c pos i d)
  else if g.occ.isNone && later then storeInput id k n c pos i d
  else if !later || (match g.occ with
      | some o => decide (c < o)
      | none => false) then dupChunk d
  else noticeOnceFrom f.dst f.src 2 (slice f.hdr 12 14) (count 9 3 1 {} (setEvt oCruEvt 3 d))

/-- COLL_CHUNK_ARRIVE (R207 to R211, R216, R217, R222). -/
def chunkArrive (d : Dev) : Dev :=
  match firstRx d (fun f => f.code == 0xF9 && rxOp f == 4) with
  | none => d
  | some f =>
    let d := takeRx f d
    let kind := fWord f / 2 ^ 26 % 4
    let c := fWord f % 2 ^ 24
    if kind = 3 then tally 13 0xF9 d
    else if tombFor d (fCid f) (fGen f) f.dst then tally 13 0xF9 d
    else
      match nodeAt d (fCid f) f.dst with
      | none => unknownChunk f d
      | some (id, n) =>
        if !n.active || n.gen ≠ fGen f then unknownChunk f d
        else if rChunks n.record ≤ c then tally 13 0xF9 d
        else
          match inputPos n f with
          | none => tally 13 0xF9 d
          | some pos =>
            if !checkOk d n c f then protectFail id n c d
            else
              match matchMember id n f d with
              | (false, d) => d
              | (true, d) =>
                if rOp n.record = 6 ∧ n.idx ≠ 0 then
                  let k := groupOf n c
                  if (tget (tgetD n.groups k groupZero).ins pos).isSome then dupChunk d
                  else
                    let i : ChunkIn := { data := [], flags := 0, rank := fTail f }
                    let d := storeInput id k n c pos i d
                    (match n.nbrs.find? (fun e => eKind e == 1) with
                     | some up => nodeSend id n 4 2 c c (fWord f / 2 ^ 28) (fTail f) (chunkEid up c) f.data d
                     | none => d)
                else groupArrive id n c pos f d

/-- A result between nodes, on RING and TORUS: deliver or keep it, and pass it on (R214, R215). -/
def ringResult (id : Nat) (n : CruNode) (c : Nat) (f : RxFrame) (d : Dev) : Dev :=
  match n.nbrs.find? (fun e => within 7 9 (eKind e) && eIdx e == fTail f) with
  | none => tally 13 0xF9 d
  | some e =>
    let a := eKind e - 7
    match (rStages n.record).findIdx? (fun s => s.1 == a) with
    | none => d
    | some st =>
      let z := ((rStages n.record).getD st (0, 1)).2
      let data := slice f.data 0 (nodeBytes n c)
      let fl := fWord f / 2 ^ 28
      if n.fwd.contains (2 ^ 24 * st + c) then dupChunk d
      else
        let d := modCru (fun x => { x with nodes := tmod x.nodes id (fun m => { m with fwd := (2 ^ 24 * st + c) :: m.fwd }) }) d
        let final := st + 1 == (rStages n.record).length
        let d := if final then
            each (members n) (fun m d => nodeSend id n 5 0 c c fl (eIdx m) (eBase m) data d) (addFin id 1 d)
          else
            storeInput id (groupOf n c) n c (2 * (st + 1) + 1) { data := data, flags := fl, rank := 0, check := storedCheck d data } d
        let x := coordOf n.record n.idx a
        let d := if x = (c % z + z - 1) % z then d
          else (match n.nbrs.find? (fun e => eKind e == 4 + a) with
            | some e => nodeSend id n 5 1 c c fl n.idx (chunkEid e c) data d
            | none => d)
        finishNode id d

/-- COLL_RESULT_FORWARD: the first waiting result of kind 0b01 is sent on (R213 to R215, R211, R219). -/
def resultForward (d : Dev) : Dev :=
  match firstRx d (fun f => f.code == 0xF9 && rxOp f == 5 && f.arrived != d.clk.swc.toNat) with
  | none => d
  | some f =>
    let d := takeRx f d
    let c := fWord f % 2 ^ 24
    if fWord f / 2 ^ 26 % 4 ≠ 1 then tally 13 0xF9 d
    else if tombFor d (fCid f) (fGen f) f.dst then tally 13 0xF9 d
    else
      match nodeAt d (fCid f) f.dst with
      | none => unknownChunk f d
      | some (id, n) =>
        if !n.active || n.gen ≠ fGen f then unknownChunk f d
        else if !checkOk d n (if rOp n.record = 6 then 0 else c) f then protectFail id n c d
        else if rAlg n.record ≠ 0 then ringResult id n c f d
        else if n.fwd.contains c then dupChunk d
        else
          let d := modCru (fun x => { x with nodes := tmod x.nodes id (fun m => { m with fwd := c :: m.fwd }) }) (addFin id 1 d)
          let place := if rOp n.record = 6 then 0 else c
          let bytes := slice f.data 0 (nodeBytes n place)
          finishNode id (sendResults id n c place (fWord f / 2 ^ 28) bytes d)

/-- COLL_IDLE_TIMEOUT (R218); a GATHER node other than the root passes everything up and holds no group (R216). -/
def idleTimeout (id : Nat) (d : Dev) : Dev :=
  match tget d.cru.nodes id with
  | none => d
  | some n =>
    let lim := rIdle n.record
    let holds := !(rOp n.record == 6 && n.idx ≠ 0)
    if lim ≠ 0 ∧ holds = true ∧ n.groups.any (fun g => g.2.occ.isSome && decide (lim < swathsSince d g.2.since)) = true then
      nodeAbort id 7 0 none d
    else d

/-- Mismatches of the Swath that ends (R217): the lowest rank is named. -/
def mismatchAborts (d : Dev) : Dev :=
  each (d.cru.nodes.filter (fun p => !p.2.bad.isEmpty)) (fun p d =>
    nodeAbort p.1 6 (p.2.bad.foldl min 65535) none (setEvt oCruEvt 0 d)) d

/-- A NOTICE says a frame of a node or coordinator was lost (Table 7.12, R200): it concerns the collective it names, or, naming none,
every node and creation of the EID it reached (log 12). -/
def crucibleNotice (d : Dev) : Dev :=
  match firstRx d (fun f => f.code == 0xF9 && rxOp f == 0xA) with
  | none => d
  | some f =>
    let d := takeRx f d
    let st := beAt f.hdr 26 2
    let about := fun (cid gen : Nat) => (cid == fCid f && gen == fGen f) || allZero (slice f.hdr 12 10)
    let waits := fun (c : Create) => c.coord == f.dst && decide (c.replies.length < c.nodes.length) && about c.cid c.gen
    let d := modCru (fun x => { x with creates := tmap (fun c => if waits c then { c with noticed := true } else c) x.creates }) d
    let why := if st = 4 ∨ st = 5 then some 7 else if st = 8 then some 8 else none
    match why with
    | none => d
    | some why =>
      each (d.cru.nodes.filter (fun p => nodeServes p.2 f.dst && about p.2.cid p.2.gen)) (fun p d => nodeAbort p.1 why 0 none d) d

/-- A fenced EID is an attached member or a neighbour node of a local node (Table 7.12). -/
def fenceNodes (eid : Nat) (d : Dev) : Dev :=
  each (d.cru.nodes.filter (fun p => (members p.2).any (fun m => eBase m == eid)
      || (nbrNodes p.2).any (fun e => within (eBase e) (eBase e + eSpread e - 1) eid))) (fun p d => nodeAbort p.1 7 0 none d) d

/-- A write of CRU_CFG (R224): protect keeps its value while a node entry stands. -/
def writeCruCfg (v : Nat) (d : Dev) : Dev :=
  match regOf 0x280000 with
  | none => d
  | some r =>
    let hold := !d.cru.nodes.isEmpty && v % 2 ≠ cruProtect d
    let v := if hold then setBits v 0 1 (cruProtect d) else v
    when hold (setEvt oCruEvt 5) (putReg 0x280000 (writeFlds (rg d 0x280000) v r.flds) d)

end Sys2Proof.Machine
end

