-- ==== Sys2Proof/Machine/Select.lean ====
section
/-! DEFINITION. The Select engine: contexts, steps, selections, sampling and mixture-of-experts (R225 to R244). -/

namespace Sys2Proof.Machine

open Sys2Proof.Num

def modSel (f : Tab SelCtx → Tab SelCtx) (d : Dev) : Dev := { d with sel := f d.sel }
def modCtx (x : Nat) (f : SelCtx → SelCtx) (d : Dev) : Dev := modSel (fun t => tmod t x f) d
def modStep (x st : Nat) (f : SelStep → SelStep) (d : Dev) : Dev :=
  modCtx x (fun c => { c with steps := tmod c.steps st f }) d

/-- Fields of a context record (Table 8.1). -/
def xOp (r : Bytes) : Nat := byteAt r 4 % 16
def xPairs (r : Bytes) : Bool := (byteAt r 4).testBit 4
def xPre (r : Bytes) : Bool := (byteAt r 4).testBit 5
def xAsc (r : Bytes) : Bool := (byteAt r 4).testBit 6
def xFmt (r : Bytes) : Fmt := Fmt.ofCode (byteAt r 5 % 8)
def xOfmt (r : Bytes) : Fmt := Fmt.ofCode (byteAt r 5 / 8 % 8)
def xOrm (r : Bytes) : Nat := byteAt r 5 / 64
def xNin (r : Bytes) : Nat := byteAt r 6 + 1
def xNmax (r : Bytes) : Nat := leAt r 8 4
def xK (r : Bytes) : Nat := leAt r 12 2
def xFirst (r : Bytes) : Nat := leAt r 16 4
def xAllot (r : Bytes) : Nat := leAt r 20 4
def xOut (r : Bytes) : Nat := leAt r 24 3
def xTc (r : Bytes) : Nat := byteAt r 27 % 8
def xPar (r : Bytes) (i : Nat) : Nat := leAt r (32 + 4 * i) 4
def xSel (r : Bytes) : Nat := byteAt r 48
def xSub (r : Bytes) : Nat := byteAt r 49
def xE (r : Bytes) : Nat := leAt r 50 2
def xG (r : Bytes) : Nat := byteAt r 52
def xGate (r : Bytes) : Nat := byteAt r 53 % 4
def xAfmt (r : Bytes) : Fmt := Fmt.ofCode (byteAt r 53 / 4 % 8)
def xRfmt (r : Bytes) : Fmt := Fmt.ofCode (byteAt r 53 / 32)
def xD (r : Bytes) : Nat := leAt r 54 2
def xCap (r : Bytes) : Nat := leAt r 56 2
def xWait (r : Bytes) : Nat := leAt r 58 2
def xExpert (r : Bytes) (e : Nat) : Nat := leAt r (64 + 4 * e) 3

/-- Bytes of one element, or of one token row (R229, R231). -/
def elemBytes (r : Bytes) : Nat :=
  if xOp r = 5 then xE r * (xFmt r).bytes + xD r * (xAfmt r).bytes
  else if xPairs r then 8 else (xFmt r).bytes

/-- Working memory of a context, in units of 512 bytes (R229). -/
def memUnits (r : Bytes) : Nat :=
  ceilDiv (2 * xNmax r * elemBytes r + if xOp r = 5 then 4 * xNmax r * xD r else 0) 512

/-- Fields the record's op does not use are 0 (R227): `orm` is used by the operations with floating-point results, SAMPLE and MOE
(R177, R237). -/
def unusedZero (r : Bytes) : Bool :=
  let op := xOp r
  let z := fun (a n : Nat) => allZero (slice r a n)
  byteAt r 7 == 0 && z 14 2 && byteAt r 27 < 8 && z 60 4 && !(byteAt r 4).testBit 7
  && (op == 2 || !xPre r) && (op == 4 || !xAsc r)
  && (op == 5 || byteAt r 5 / 8 % 8 == 0) && (op == 5 || op == 2 || byteAt r 5 / 64 == 0) && (op ≤ 2 || z 12 2)
  && (op == 2 || (z 28 8 && z 44 4)) && (op == 2 || op == 3 || (z 36 8 && z 48 2))
  && (op == 5 || z 50 10)

/-- The finite value of an FP32 field, as a test against a bound: sign and comparison with 1. -/
def fpFinite (b : Nat) : Bool :=
  match decode .fp32 b with
  | .fin _ _ _ _ => true
  | _ => false

/-- Value comparison of two FP32 fields. -/
def fpLt (a b : Nat) : Bool := vcmp32 a b == some .lt
def fpLe (a b : Nat) : Bool := vcmp32 a b == some .lt || vcmp32 a b == some .eq
def one32 : Nat := 0x3F800000

/-- A context record passes R227, R228 and R185. -/
def selRecordOk (r : Bytes) : Bool :=
  let op := xOp r
  decide (op < 6) && unusedZero r && decide (leAt r 0 2 < 1024)
  && decide (byteAt r 5 % 8 < 5) && within 1 (if op = 5 then 4096 else 1048576) (xNmax r)
  && !reservedEid (xOut r)
  && (decide (2 < op) || (within 1 256 (xK r) && decide (xK r ≤ xNmax r)))
  && (op ≠ 1 || xPairs r) && (op ≠ 2 || xPre r || xPairs r) && (op ≠ 5 || !xPairs r)
  && (op ≠ 2 || (decide (xOrm r < 2) && decide (xSel r ≤ xK r) && decide (xSub r < 2)
      && (xSub r == 1 || (fpFinite (xPar r 1) && fpLt 0 (xPar r 1)))
      && fpLt 0 (xPar r 2) && fpLe (xPar r 2) one32 && fpLe 0 (xPar r 3) && fpLt (xPar r 3) one32))
  && (op ≠ 3 || (decide (xSel r % 16 < 7) && decide (xSel r / 16 < 7) && decide (xSub r < 4)))
  && (op ≠ 5 || (within 8 256 (xE r) && xE r % 8 == 0 && within 1 8 (xG r) && decide (xGate r < 2)
      && decide (byteAt r 53 / 4 % 8 < 3) && decide (byteAt r 53 / 32 < 3) && decide (byteAt r 5 / 8 % 8 < 3)
      && decide (xOrm r < 2) && within 16 16384 (xD r) && xD r % 16 == 0 && xWait r ≠ 0
      && (List.range (xE r)).all (fun e => byteAt r (67 + 4 * e) == 0 && !reservedEid (xExpert r e))))

/-- What the contexts of a unit hold (R229, R244). -/
def unitCtxs (d : Dev) (u : Nat) : Tab SelCtx := d.sel.filter (fun p => p.1 % 8 == u)
def allotUsed (d : Dev) (u : Nat) : Nat := ((unitCtxs d u).map (fun p => xAllot p.2.record)).sum
def memUsed (d : Dev) (u : Nat) : Nat := ((unitCtxs d u).map (fun p => memUnits p.2.record)).sum

/-- The EID of a unit (R226). -/
def unitEid (d : Dev) (u : Nat) : Option Nat := (localEids d 3 u).head?

/-- The record at an address: the header, and for MOE its expert entries. -/
def selImage (c : Cmd) (a : Nat) (d : Dev) : Option Bytes :=
  match image c a 64 d with
  | none => none
  | some h => if xOp h = 5 then image c a (64 + 4 * xE h) d else some h

/-- OPEN of a context (R228, R229, R230): a record that names another context or generation is malformed (log 21). -/
def cmdSelectOpen (c : Cmd) (e : Bytes) (d : Dev) : Res :=
  let x := leAt e 16 2
  let gen := leAt e 18 2
  if !plainOk e [(16, 4), (24, 8)] || decide (1023 < x) then bad d
  else
    match selImage c (leAt e 24 8) d with
    | none => bad d
    | some r =>
      match tget d.sel x with
      | some k => if k.gen ≠ gen then busyRes d else if k.record = r then okRes d else bad d
      | none =>
        let u := x % 8
        if !selRecordOk r || leAt r 0 2 ≠ x || leAt r 2 2 ≠ gen then bad d
        else if partOut d 7 u then .done 0x11 0 0 d
        else if (tget d.tab.ept (xOut r)).isNone then .done 4 0 0 d
        else if 48 * d.clk.nsNow < xAllot r ∨ 16384 < memUnits r then .done 1 0 0 d
        else if 48 * d.clk.nsNow < allotUsed d u + xAllot r ∨ 16384 < memUsed d u + memUnits r then .wait (waitSwath c d)
        else
          okRes (modSel (fun t => tput t x
            { gen := gen, record := r, closing := false, closers := [], cur := xFirst r, done := [],
              steps := [], queue := [], last := none, block := [], blockAt := 0, base := none }) { d with selFlags := tdel d.selFlags x })

/-- A CLOSING context with no step left ends (R230). -/
def ctxEnd (x : Nat) (d : Dev) : Dev :=
  match tget d.sel x with
  | none => d
  | some c =>
    if c.closing && c.steps.isEmpty then each c.closers (fun k d => complete k 0 0 0 d) (modSel (fun t => tdel t x) d) else d

/-- CLOSE of a context (R230). -/
def cmdSelectClose (c : Cmd) (e : Bytes) (d : Dev) : Res :=
  let x := leAt e 16 2
  if !plainOk e [(16, 4)] || decide (1023 < x) then bad d
  else
    match tget d.sel x with
    | none => okRes d
    | some k =>
      if k.gen ≠ leAt e 18 2 then bad d
      else
        let steps := k.steps.filter (fun p => p.2.phase ≠ .input)
        if steps.isEmpty then each k.closers (fun k d => complete k 0 0 0 d) (modSel (fun t => tdel t x) d) |> okRes
        else .run (modSel (fun t => tput t x { k with closing := true, steps := steps, closers := k.closers ++ [c] }) d)

/-- The header bytes 12 to 31 of a frame of a step (Table 8.3). -/
def selBody (st gen word extra x : Nat) : Bytes :=
  toBE 4 st ++ toBE 2 gen ++ toBE 4 word ++ toBE 4 extra ++ zeros 4 ++ toBE 2 x

/-- cur passes over every step already finished (R232). -/
def curAdvance : Nat → SelCtx → SelCtx
  | 0, c => c
  | n + 1, c =>
    if c.done.contains c.cur then curAdvance n { c with cur := (c.cur + 1) % 2 ^ 32, done := c.done.filter (· ≠ c.cur) } else c

/-- A step has released its output or failed (R232). -/
def stepEnd (x st : Nat) (d : Dev) : Dev :=
  ctxEnd x (modCtx x (fun c =>
    curAdvance (c.done.length + 1) { c with steps := tdel c.steps st, queue := c.queue.filter (· ≠ st), done := st :: c.done }) d)

/-- A step fails (R242): its frames not yet admitted and its reservations go, and the output EID gets one NOTICE. -/
def stepFail (x st status : Nat) (d : Dev) : Dev :=
  match tget d.sel x with
  | none => d
  | some c =>
    let mine := fun (o : Option (Nat × Nat × Nat)) => o == some (x, c.gen, st)
    let d := modSw (fun s => { s with tx := s.tx.filter (fun p => !(mine (stepOf p.2.fr) && p.2.adm.isNone)) }) d
    let d := each ((d.bpm.resv.filter (fun p => mine p.2.step)).map (·.1)) unreserve d
    let src := match unitEid d (x % 8) with
      | some s => some s
      | none => noticeSrc d
    let d := match src with
      | some s => sendNotice (xOut c.record) s status 0 (selBody st c.gen 0 0 x) d
      | none => d
    let d := if status = 0x11 then cause 18 d else d
    stepEnd x st (count 10 3 1 {} d)

/-- A unit is fenced (R230): every step of its contexts fails, and they close. -/
def selectFence (u : Nat) (d : Dev) : Dev :=
  each (unitCtxs d u) (fun p d =>
    let d := each p.2.steps (fun s d => stepFail p.1 s.1 0x11 d) d
    match tget d.sel p.1 with
    | none => d
    | some c => each c.closers (fun k d => complete k 0 0 0 d) (modSel (fun t => tdel t p.1) d)) d

/-- Positions of one input: an offset has 21 bits, and the elements of its frame follow it. -/
def elSpan : Nat := 2 ^ 22
/-- Position of element `i` of an input. -/
def elKey (input i : Nat) : Nat := elSpan * input + i

/-- Swath in which a work item of cost `c` ready in Swath `n` is done, and the elements used in it, when the items before it end as
`last` says (R233). -/
def dueOf (a n : Nat) (last : Option (Nat × Nat)) (c : Nat) : Nat × Nat :=
  let q := match last with
    | some (due, used) =>
      let ahead := subMod 48 due n
      if within 1 (2 ^ 47) ahead then (ahead - 1) * a + used else 0
    | none => 0
  let w := ceilDiv (q + c) a
  ((n + w) % 2 ^ 48, q + c - (w - 1) * a)

/-- A work item waits for another Swath. -/
def setDue (due : Nat) : SelPhase → SelPhase
  | .work _ => .work due
  | .combine _ => .combine due
  | p => p

/-- The items of a context that became ready in Swath `n`, each with the Swath in which it is done, and where the last one ends. -/
def blockDues (a n : Nat) : Option (Nat × Nat) → List (Nat × Nat) → List (Nat × Nat) × Option (Nat × Nat)
  | last, [] => ([], last)
  | last, (st, c) :: t =>
    let due := dueOf a n last c
    let (l, e) := blockDues a n (some due) t
    ((st, due.1) :: l, e)

/-- A work item of a step becomes ready (R233): those that become ready in one Swath stand in ascending step (log 122). -/
def itemReady (x st cost : Nat) (mk : Nat → SelPhase) (d : Dev) : Dev :=
  modCtx x (fun k =>
    let n := d.clk.swc.toNat
    let same := k.blockAt == n && !k.block.isEmpty
    let base := if same then k.base else k.last
    let block := insertBy (fun a b => decide (a.1 ≤ b.1)) (st, cost) (if same then k.block else [])
    let (dues, last) := blockDues (xAllot k.record) n base block
    let steps := tmod k.steps st (fun s => { s with phase := mk n })
    let waits := fun (i : Nat) => i == st || k.queue.contains i
    let mine := (block.map (·.1)).filter waits
    { k with queue := k.queue.filter (fun i => !mine.contains i) ++ mine, last := last, block := block, blockAt := n, base := base,
             steps := (dues.filter (fun p => waits p.1)).foldl
               (fun t p => tmod t p.1 (fun s => { s with phase := setDue p.2 s.phase })) steps }) d

/-- Smallest t with 16^t at least n. -/
def log16 (n : Nat) : Nat := ((List.range 8).find? (fun t => decide (n ≤ 16 ^ t))).getD 8

/-- Cost of the processing of a step with `n` elements (Table 8.4). -/
def workCost (r : Bytes) (n : Nat) : Nat :=
  match xOp r with
  | 2 => n + 4 * xK r
  | 4 => n * max 1 (log16 n)
  | 5 => xNmax r * (xE r + 2 * xG r)
  | _ => n

def stepZero : SelStep :=
  { phase := .input, els := [], ends := [], kept := [], rows := [], flags := 0, left := 0, disp := 0 }

/-- Elements held of one input. -/
def inputHeld (s : SelStep) (i : Nat) : Nat := (s.els.filter (fun p => p.1 / elSpan == i)).length

/-- Every input is complete (R232). -/
def inputsDone (r : Bytes) (s : SelStep) : Bool :=
  (List.range (xNin r)).all (fun i => tget s.ends i == some (inputHeld s i))

/-- Elements of a frame: whole elements of its data (R231). -/
def frameEls (r : Bytes) (data : Bytes) : List Bytes :=
  let w := elemBytes r
  (List.range (data.length / w)).map (fun i => slice data (w * i) w)

/-- Discard a frame or row of Select as a duplicate. -/
def selDup (d : Dev) : Dev := tally 13 0xFA (setEvt oSelEvt 2 d)

/-- The unit, the context and the step a frame names. -/
def selX (f : RxFrame) : Nat := beAt f.hdr 30 2
def selSt (f : RxFrame) : Nat := beAt f.hdr 12 4

/-- Most elements a step takes: `nmax`, and of a SORT 65,536 keys (R227, R235). -/
def stepMost (r : Bytes) : Nat := if xOp r = 4 then min (xNmax r) 65536 else xNmax r

/-- Store the elements of a SELECT_IN frame (R232); what would pass the most a step takes is discarded (log 21). -/
def selStore (x : Nat) (k : SelCtx) (f : RxFrame) (d : Dev) : Dev :=
  let st := selSt f
  let w := fWord f
  let input := w / 2 ^ 24
  let off := w % 2 ^ 21
  let r := k.record
  let s := tgetD k.steps st stepZero
  let els := frameEls r f.data
  if w / 2 ^ 21 % 4 ≠ 0 ∨ xNin r ≤ input then tally 13 0xFA d
  else if s.phase ≠ .input ∨ (List.range els.length).any (fun i => (tget s.els (elKey input (off + i))).isSome) = true then selDup d
  else if stepMost r < s.els.length + els.length then tally 13 0xFA d
  else
    let held := (List.range els.length).foldl (fun t i => tput t (elKey input (off + i)) (els.getD i [])) s.els
    let ends := if w.testBit 23 then tput s.ends input (off + els.length) else s.ends
    let s := { s with els := held, ends := ends }
    let d := modCtx x (fun k => { k with steps := tput k.steps st s }) d
    if inputsDone r s then itemReady x st (workCost r s.els.length) .work d else d

/-- A frame at a Select endpoint that no other row takes: all but the COMBINEs and ACKs, and those too on a VC that R225 closes. -/
def selTakes (f : RxFrame) : Bool := f.code == 0xFA && (f.vc == 2 || f.vc == 3 || (rxOp f ≠ 9 && rxOp f ≠ 0xB))

/-- SELECT_FRAME_ARRIVE: the first such frame (R225, R232). -/
def selectFrame (d : Dev) : Dev :=
  match firstRx d selTakes with
  | none => d
  | some f =>
    let d := takeRx f d
    let x := selX f
    if f.vc = 2 ∨ f.vc = 3 then tally 13 0xFA (setEvt oSelEvt 5 d)
    else if rxOp f ≠ 6 then tally 13 0xFA d
    else if x % 8 ≠ f.idx then tally 13 0xFA (setEvt oSelEvt 5 d)
    else
      let st := selSt f
      let gen := beAt f.hdr 16 2
      match tget d.sel x with
      | none => noticeOnceFrom f.dst f.src 8 (selBody st gen 0 0 x) (tally 13 0xFA (setEvt oSelEvt 0 d))
      | some k =>
        if k.closing ∨ k.gen ≠ gen then noticeOnceFrom f.dst f.src 8 (selBody st gen 0 0 x) (tally 13 0xFA (setEvt oSelEvt 0 d))
        else
          let delta := subMod 32 st k.cur
          if 2 ^ 31 ≤ delta ∨ k.done.contains st = true then selDup d
          else if 2 ≤ delta then noticeOnceFrom f.dst f.src 2 (selBody st gen 0 0 x) (tally 13 0xFA (setEvt oSelEvt 1 d))
          else selStore x k f d

/-- Selection order (R234): key bits and index; `asc` takes the reverse key order, indices still rising. -/
def selLe (f : Fmt) (asc : Bool) (a b : Nat × Nat) : Bool :=
  let ra := rank f a.1
  let rb := rank f b.1
  if ra = rb then decide (a.2 ≤ b.2) else if asc then decide (ra < rb) else decide (rb < ra)

/-- The (key, index) pair of an element at a position (R231). -/
def pairAt (r : Bytes) (pos : Nat) (b : Bytes) : Nat × Nat :=
  if xPairs r then (leNat (b.take (xFmt r).bytes), leAt b 4 4) else (leNat b, pos)

/-- The pairs of one input, in position order, and of a step. -/
def inputPairs (r : Bytes) (s : SelStep) (i : Nat) : List (Nat × Nat) :=
  (s.els.filter (fun p => p.1 / elSpan == i)).map (fun p => pairAt r (p.1 % elSpan) p.2)
def stepPairs (r : Bytes) (s : SelStep) : List (Nat × Nat) := s.els.map (fun p => pairAt r (p.1 % elSpan) p.2)

/-- A pair as it is sent (R212). -/
def pairBytes (p : Nat × Nat) : Bytes := toLE 4 p.1 ++ toLE 4 p.2

/-- A list is in selection order. -/
def inOrder (f : Fmt) : List (Nat × Nat) → Bool
  | a :: b :: t => selLe f false a b && inOrder f (b :: t)
  | _ => true

/-- R236. -/
def listsOk (r : Bytes) (s : SelStep) : Bool :=
  (List.range (xNin r)).all (fun i =>
    let l := inputPairs r s i
    decide (l.length ≤ 256) && inOrder (xFmt r) l)

/-- A key widened to FP32 or INT32 (R182). -/
def widen (f : Fmt) (b : Nat) : Nat × Flags :=
  ((convert f (if f.isFloat then .fp32 else .int32) .rne 0 false b)).getD (b, 0)

/-- A key as FP32 (R237, R238). -/
def toF32 (f : Fmt) (b : Nat) : Nat × Flags := (convert f .fp32 .rne 0 false b).getD (b, 0)

/-- One predicate of FILTER (R227). -/
def predHolds (r : Bytes) (code : Nat) (index : Bool) (thr : Nat) (p : Nat × Nat) : Bool :=
  if code = 0 then true
  else if index then pred code (some (compare p.2 thr))
  else
    let k := (widen (xFmt r) p.1).1
    if (xFmt r).isFloat then pred code (vcmp32 k thr) else pred code (some (compare (toInt .int32 k) (toInt .int32 thr)))

def filterKeeps (r : Bytes) (p : Nat × Nat) : Bool :=
  predHolds r (xSel r % 16) ((xSub r).testBit 0) (xPar r 1) p && predHolds r (xSel r / 16) ((xSub r).testBit 1) (xPar r 2) p

def orFlags (l : List Flags) : Nat := l.foldl (fun a f => a ||| f.toNat) 0

/-- `q_j` of R237. -/
def sampleQ (r : Bytes) (v0 v : Nat) : Nat × Nat :=
  let a := subF .fp32 .rne (xOrm r) v v0
  let b := mulF .fp32 .rne (xOrm r) a.1 (xPar r 1)
  let q := expF (xOrm r) b.1
  (q.1, orFlags [a.2, b.2, q.2])

/-- Prefix sums of FP32 values from +0, and their flags (R237). -/
def prefixSums (orm : Nat) : Nat → List Nat → List Nat × Nat
  | _, [] => ([], 0)
  | acc, q :: t =>
    let s := addF .fp32 .rne orm acc q
    let (l, fl) := prefixSums orm s.1 t
    (s.1 :: l, fl ||| s.2.toNat)

/-- Place of the first element with a property. -/
def firstIdx (l : List Nat) (p : Nat → Bool) : Option Nat := l.findIdx? p

/-- The random number of a step, u × 2^-24 as FP32 (R237). -/
def drawOf (r : Bytes) (st : Nat) : Nat :=
  let u := ((mix (BitVec.ofNat 64 (leAt r 28 8)) (BitVec.ofNat 64 st)) >>> 40).toNat
  (encode .fp32 .rne 0 (.fin false u 1 (-24))).1

/-- The draw of R237, steps 4 to 7, over the pairs kept by step 2: the record, and the flags. With no `c_j` at `t` or above
(a sum that is no number) the spec gives no J, and it is a free value (log 22). -/
def sampleDraw (r : Bytes) (st : Nat) (kept : List (Nat × Nat)) (fr : Nat) : Bytes × Nat :=
  let v := kept.map (fun p => (toF32 (xFmt r) p.1))
  let v0 := (v.headD (0, 0)).1
  let qs := v.map (fun x => sampleQ r v0 x.1)
  let js := (List.range kept.length).filter (fun j => j == 0 || !fpLt (qs.getD j (0, 0)).1 (xPar r 3))
  let (cs, fl) := prefixSums (xOrm r) 0 (js.map (fun j => (qs.getD j (0, 0)).1))
  let t := mulF .fp32 .rne (xOrm r) (xPar r 2) (cs.getLastD 0)
  let jj := (firstIdx cs (fpLe t.1)).getD (fr % cs.length)
  let s := cs.getD jj 0
  let x := mulF .fp32 .rne (xOrm r) (drawOf r st) s
  let ch := (firstIdx (cs.take (jj + 1)) (fpLt x.1)).getD jj
  (pairBytes (kept.getD (js.getD ch 0) (0, 0)) ++ toLE 4 s ++ toLE 4 (jj + 1),
    orFlags (v.map (·.2)) ||| qs.foldl (fun a q => a ||| q.2) 0 ||| fl ||| t.2.toNat ||| x.2.toNat)

/-- SAMPLE (R237): under greedy the spec gives no sum and no count, and both are free values (log 22). -/
def sampleRecord (r : Bytes) (st : Nat) (l : List (Nat × Nat)) (d : Dev) : Bytes × Nat × Dev :=
  let f := xFmt r
  let real := (l.take (xK r)).filter (fun p => !(f.isFloat && (decode f p.1).isNan))
  let kept := real.take (if xSel r = 0 then xK r else xSel r)
  let (v, d) := drawFree d
  if kept.isEmpty then
    (toLE 4 (qnan (if f.isFloat then f else .fp32)) ++ toLE 4 0xFFFFFFFF ++ zeros 8, 4, d)
  else if (xSub r).testBit 0 then
    (pairBytes (kept.headD (0, 0)) ++ toLE 8 v.toNat, orFlags [(toF32 f (kept.headD (0, 0)).1).2], d)
  else
    let (b, fl) := sampleDraw r st kept v.toNat
    (b, fl, d)

/-- Zero-fill a byte string to whole 16-byte units. -/
def pad16 (b : Bytes) : Bytes := b ++ zeros (ceilDiv b.length 16 * 16 - b.length)

/-- Send one frame of a step from its unit (R226). -/
def selSend (x st : Nat) (k : SelCtx) (op dst label word extra reply : Nat) (data : Bytes) (d : Dev) : Dev :=
  match unitEid d (x % 8) with
  | none => d
  | some src =>
    sendFrame { op := op, src := src, dst := dst, tc := xTc k.record, label := label,
                hdr := frameHdr (selBody st k.gen word extra x), data := pad16 data, xport := xportInner 0xFA (x % 8),
                furrow := none, direct := none, reply := reply, seq := none, org := .select x k.gen st } [] d

/-- Where R8 keeps the cycles of a context's flag word: SEL_CTXST shows one context at a time. -/
def ctxStOff (x : Nat) : Nat := 2 ^ 32 + x
/-- A step's flags enter its context's flag word (R243). -/
def ctxFlags (x m : Nat) (d : Dev) : Dev :=
  if m = 0 then d else stampFlags d.clk.now (ctxStOff x) 2 m { d with selFlags := tput d.selFlags x (tgetD d.selFlags x 0 ||| m) }

/-- The output of a step (R235): pieces of `per` records of `w` bytes each, an empty output as one frame without data. Of the flags,
those in `fresh` are not yet in the context's word. -/
def selOutput (x st w : Nat) (flags fresh : Nat) (out : Bytes) (d : Dev) : Dev :=
  match tget d.sel x with
  | none => d
  | some k =>
    let per := 131040 / w
    let n := max 1 (ceilDiv (out.length / w) per)
    let d := ctxFlags x fresh d
    let d := modStep x st (fun s => { s with phase := .out, left := n, flags := flags }) d
    if (unitEid d (x % 8)).isNone then stepFail x st 4 d
    else
      each (List.range n) (fun i d =>
        selSend x st k 7 (xOut k.record) x (flags * 2 ^ 28 + i * per) 0 0 ((out.drop (i * per * w)).take (per * w)) d) d

/-- Experts of one token (R238): the first `g` in selection order with their logits as FP32; NaN logits are never chosen. -/
def chooseExperts (r : Bytes) (row : Bytes) : List (Nat × Nat) :=
  let f := xFmt r
  let w := f.bytes
  let l := (List.range (xE r)).map (fun e => (leAt row (w * e) w, e))
  let l := l.filter (fun p => !(f.isFloat && (decode f p.1).isNan))
  ((sortBy (selLe f false) l).take (xG r)).map (fun p => (p.2, (toF32 f p.1).1))

/-- Sum of FP32 values in order. -/
def foldSum (orm : Nat) (l : List Nat) : Nat × Nat :=
  let (s, fl) := prefixSums orm 0 l
  (s.getLastD 0, fl)

/-- exp(l - m) in FP32. -/
def gateQ (orm m l : Nat) : Nat × Nat :=
  let a := subF .fp32 .rne orm l m
  let q := expF orm a.1
  (q.1, orFlags [a.2, q.2])

/-- Gate weights of one token, in ascending expert index, and the flags (R238). -/
def gateWeights (r : Bytes) (row : Bytes) : List (Nat × Nat) × Nat :=
  let f := xFmt r
  let ch := chooseExperts r row
  let m := (ch.headD (0, 0)).2
  let ch := sortBy (fun a b => decide (a.1 ≤ b.1)) ch
  let all := (List.range (xE r)).map (fun e => (e, (toF32 f (leAt row (f.bytes * e) f.bytes)).1))
  let qs := ch.map (fun p => (p.1, gateQ (xOrm r) m p.2))
  let sq := if xGate r = 0 then qs else all.map (fun p => (p.1, gateQ (xOrm r) m p.2))
  let (s, fl) := foldSum (xOrm r) (sq.map (fun p => p.2.1))
  let ws := qs.map (fun p => (p.1, divF .fp32 .rne (xOrm r) p.2.1 s))
  if ch.isEmpty then ([], 4)
  else (ws.map (fun p => (p.1, p.2.1)), sq.foldl (fun a p => a ||| p.2.2) fl ||| orFlags (ws.map (·.2.2)))

/-- Apply the cap (R239): tokens in ascending index, with the tokens each expert has taken. -/
def capTokens (cap : Nat) : List (Nat × List (Nat × Nat)) → Tab Nat → Tab (List (Nat × Nat))
  | [], _ => []
  | (t, ws) :: rest, n =>
    let ok := ws.filter (fun p => cap == 0 || decide (tgetD n p.1 0 < cap))
    let n := ok.foldl (fun n p => tput n p.1 (tgetD n p.1 0 + 1)) n
    (t, ok) :: capTokens cap rest n

/-- The choice position of an expert among a token's experts in selection order (R231). -/
def choicePos (r : Bytes) (row : Bytes) (e : Nat) : Nat := ((chooseExperts r row).findIdx? (fun p => p.1 == e)).getD 0

/-- Rows of a token frame: as many as its own frame and its answer's hold (R240, log 23). -/
def rowsPerFrame (r : Bytes) : Nat := 131040 / (16 + xD r * max (xAfmt r).bytes (xRfmt r).bytes)

/-- Gating of a MOE step (R238 to R240). -/
def moeGate (x st : Nat) (k : SelCtx) (s : SelStep) (d : Dev) : Dev :=
  let r := k.record
  let toks := s.els.map (fun p => (p.1 % elSpan, p.2))
  let ws := toks.map (fun p => (p.1, gateWeights r p.2))
  let kept := capTokens (xCap r) (sortBy (fun a b => decide (a.1 ≤ b.1)) (ws.map (fun p => (p.1, p.2.1)))) []
  let flags := ws.foldl (fun a p => a ||| p.2.2) 0
  let rowsOf := fun (e : Nat) => (kept.filter (fun p => p.2.any (fun q => q.1 == e))).map (·.1)
  let rowBytes := fun (e t : Nat) =>
    let row := ((toks.find? (fun p => p.1 == t)).map (·.2)).getD []
    toLE 4 t ++ toLE 1 (choicePos r row e) ++ zeros 11 ++ row.drop (xE r * (xFmt r).bytes)
  let per := rowsPerFrame r
  let frames := (List.range (xE r)).flatMap (fun e =>
    let l := rowsOf e
    (List.range (ceilDiv l.length per)).map (fun i => (e, (l.drop (i * per)).take per)))
  let d := ctxFlags x flags d
  let d := modStep x st (fun s => { s with phase := .rows, kept := kept, flags := flags, left := frames.length,
                                           disp := d.clk.swc.toNat }) d
  if frames.isEmpty then itemReady x st 0 .combine d
  else if (unitEid d (x % 8)).isNone then stepFail x st 4 d
  else
    each frames (fun p d =>
      let cells := ceilDiv (32 + p.2.length * (16 + xD r * (xRfmt r).bytes)) 512
      selSend x st k 8 (xExpert r p.1) p.1 (p.1 * 2 ^ 24) cells cells (p.2.flatMap (rowBytes p.1)) d) d

/-- The sum of one token (R241): fused, in ascending expert index, converted once. -/
def tokenSum (r : Bytes) (s : SelStep) (t : Nat) (ws : List (Nat × Nat)) : Bytes × Nat :=
  let f := xRfmt r
  let els := (List.range (xD r)).map (fun i =>
    let (a, fl) := ws.foldl (fun (a : Nat × Nat) w =>
      let o := (toF32 f (leAt (tgetD s.rows (256 * t + w.1) []) (f.bytes * i) f.bytes)).1
      let y := fmaF .fp32 .rne (xOrm r) w.2 o a.1
      (y.1, a.2 ||| y.2.toNat)) (0, 0)
    let y := (convert .fp32 (xOfmt r) .rne (xOrm r) false a).getD (a, 0)
    (toLE (xOfmt r).bytes y.1, fl ||| y.2.toNat))
  ((els.map (·.1)).flatten, els.foldl (fun a e => a ||| e.2) 0)

/-- Combine of a MOE step (R241). -/
def moeCombine (x st : Nat) (k : SelCtx) (s : SelStep) (d : Dev) : Dev :=
  let sums := s.kept.map (fun p => tokenSum k.record s p.1 p.2)
  let fresh := sums.foldl (fun a p => a ||| p.2) 0
  selOutput x st (xD k.record * (xOfmt k.record).bytes) (s.flags ||| fresh) fresh (sums.map (·.1)).flatten d

/-- The processing of a step of another op (R235 to R237). -/
def selProcess (x st : Nat) (k : SelCtx) (s : SelStep) (d : Dev) : Dev :=
  let r := k.record
  let f := xFmt r
  let merges := xOp r == 1 || (xOp r == 2 && !xPre r)
  if merges && !listsOk r s then stepFail x st 0x10 (setEvt oSelEvt 3 d)
  else
    let l := stepPairs r s
    match xOp r with
    | 2 =>
      let (b, fl, d) := sampleRecord r st (sortBy (selLe f false) l) d
      selOutput x st 16 fl fl b d
    | 3 => selOutput x st 8 0 0 ((l.filter (filterKeeps r)).flatMap pairBytes) d
    | 4 => selOutput x st 8 0 0 ((sortBy (selLe f (xAsc r)) l).flatMap pairBytes) d
    | _ => selOutput x st 8 0 0 (((sortBy (selLe f false) l).take (xK r)).flatMap pairBytes) d

/-- A Swath has come. -/
def swathCome (d : Dev) (due : Nat) : Bool := decide (subMod 48 d.clk.swc.toNat due < 2 ^ 47)

/-- SELECT_WORK_ITEM: the first work item of a context, once its Swath has come (R233). -/
def selectWork (x : Nat) (d : Dev) : Dev :=
  match tget d.sel x with
  | none => d
  | some k =>
    match k.queue with
    | [] => d
    | st :: rest =>
      match tget k.steps st with
      | none => d
      | some s =>
        let pop := modCtx x (fun k => { k with queue := rest })
        match s.phase with
        | .work due =>
          if !swathCome d due || xAllot k.record = 0 then d
          else
            let d := count 10 1 (workCost k.record s.els.length) {} (pop d)
            if xOp k.record = 5 then moeGate x st k s d else selProcess x st k s d
        | .combine due =>
          if !swathCome d due then d
          else moeCombine x st k s (count 10 1 (s.rows.length * xD k.record) {} (pop d))
        | _ => pop d

/-- A frame of a step has been released. -/
def selReleased (x gen st op : Nat) (d : Dev) : Dev :=
  match tget d.sel x with
  | none => d
  | some k =>
    match tget k.steps st with
    | none => d
    | some s =>
      if k.gen ≠ gen then d
      else
        let s := { s with left := s.left - 1, disp := if op = 8 then d.clk.swc.toNat else s.disp }
        let d := modStep x st (fun _ => s) d
        if op = 7 ∧ s.left = 0 then stepEnd x st (count 10 2 1 {} d) else d

/-- A frame of a step failed admission (R226, R242). -/
def selRefused (x gen st status : Nat) (d : Dev) : Dev :=
  match tget d.sel x with
  | none => d
  | some k => if k.gen = gen ∧ (tget k.steps st).isSome = true then stepFail x st status d else d

/-- A row of a COMBINE frame: held, or discarded and counted (R241). -/
def combineRow (x st e : Nat) (row : Bytes) (d : Dev) : Dev :=
  match (tget d.sel x).bind (fun k => tget k.steps st) with
  | none => count 10 4 1 {} d
  | some s =>
    let t := leAt row 0 4
    let key := 256 * t + e
    let keeps := (tgetD s.kept t []).any (fun p => p.1 == e)
    if !keeps then count 10 4 1 {} d
    else if (tget s.rows key).isSome then count 10 4 1 {} (setEvt oSelEvt 2 d)
    else if s.phase ≠ .rows then count 10 4 1 {} d
    else modStep x st (fun s => { s with rows := tput s.rows key (row.drop 16) }) d

/-- Every row a step kept has arrived: its combine becomes ready (R233). -/
def combineReady (x st : Nat) (d : Dev) : Dev :=
  match tget d.sel x with
  | none => d
  | some k =>
    match tget k.steps st with
    | none => d
    | some s =>
      if s.phase = .rows ∧ s.rows.length = (s.kept.map (fun p => p.2.length)).sum then
        itemReady x st (s.rows.length * xD k.record) .combine d
      else d

/-- COMBINE_ARRIVE: the first COMBINE frame at a Select endpoint (R225, R241). Where no open context gives the length of a row, the
frame counts as one row (log 21). -/
def combineArrive (d : Dev) : Dev :=
  match firstRx d (fun f => f.code == 0xFA && rxOp f == 9 && !selTakes f) with
  | none => d
  | some f =>
    let d := takeRx f d
    let x := selX f
    let st := selSt f
    if x % 8 ≠ f.idx then tally 13 0xFA (setEvt oSelEvt 5 d)
    else
      match tget d.sel x with
      | none => count 10 4 1 {} d
      | some k =>
        let r := k.record
        let w := 16 + xD r * (xRfmt r).bytes
        if xOp r ≠ 5 then count 10 4 1 {} d
        else if f.data.length % w ≠ 0 then tally 13 0xFA d
        else if k.gen ≠ beAt f.hdr 16 2 then count 10 4 (f.data.length / w) {} d
        else
          combineReady x st (each (List.range (f.data.length / w)) (fun i d =>
            combineRow x st (fWord f / 2 ^ 24) (slice f.data (w * i) w) d) d)

/-- COMB_WAIT_TIMEOUT (R242): a step whose rows are not all present after its last Swath fails. -/
def combTimeout (x : Nat) (d : Dev) : Dev :=
  match tget d.sel x with
  | none => d
  | some k =>
    match k.steps.find? (fun p => p.2.phase == .rows && p.2.left == 0
        && within (xWait k.record + 1) (2 ^ 47) (swathsSince d p.2.disp)) with
    | none => d
    | some (st, _) => stepFail x st 5 (setEvt oSelEvt 4 d)

/-- State code of SEL_CTXST. -/
def ctxState (d : Dev) (x : Nat) : Nat :=
  match tget d.sel x with
  | none => 0
  | some k => if k.closing then 2 else 1

/-- What the SEL registers read, other than as written (R244). -/
def selView (off : Nat) (d : Dev) : Option Nat :=
  let x := fld d 0x2C0010 0 10
  if off = 0x2C0000 then
    some (d.sel.length + 2 ^ 11 * ((List.range 8).map (fun u => if partOut d 7 u then 2 ^ u else 0)).sum)
  else if off = 0x2C0018 then
    some (4 * tgetD d.selFlags x 0 + match tget d.sel x with
      | none => 0
      | some k => ctxState d x + 2 ^ 16 * k.cur + 2 ^ 48 * k.gen)
  else if within 0x2C0100 0x2C0138 off && off % 8 == 0 then
    let u := (off - 0x2C0100) / 8
    some (allotUsed d u + 2 ^ 21 * memUsed d u)
  else none

/-- A write of SEL_CTXST clears the flags written 1 (R243, R244). -/
def writeCtxst (v : Nat) (d : Dev) : Dev :=
  let x := fld d 0x2C0010 0 10
  let f := tgetD d.selFlags x 0 &&& (15 - clearedFlags (ctxStOff x) 2 v d)
  { d with selFlags := if f = 0 then tdel d.selFlags x else tput d.selFlags x f }

end Sys2Proof.Machine
end

