-- ==== Sys2Proof/Machine/Gddr7.lean ====
section
/-! DEFINITION. GDDR7: layout, the inline code, reads and writes, remap, scrub, retraining, the CXL.mem window and bias (R327 to
R346). -/

namespace Sys2Proof.Machine

/-- A device serves no request in its retraining window (R19, R342). -/
def inWindow (d : Dev) (i : Nat) : Bool := d.mem.window.map (·.1) == some i

/-- The CXL.mem window in the flat map: first address and length (R343, R371). -/
def cxlWindow (d : Dev) : Nat × Nat :=
  (2 ^ 28 * fld d 0x440028 0 8, if d.boot.cxlUp && !d.boot.cxlProto then 0 else 2 ^ 28 * fld d 0x440028 8 8)

/-- The window block of a flat address. -/
def blockOf (d : Dev) (a : Nat) : Option Nat :=
  let (base, len) := cxlWindow d
  if base ≤ a ∧ a < base + len then some ((a - base) / 2 ^ 21) else none

/-- Window blocks a range of a device touches. -/
def blocksOf (d : Dev) (i off n : Nat) : List Nat :=
  if n = 0 then []
  else (List.range ((off + n - 1) / 512 - off / 512 + 1)).filterMap (fun k => blockOf d (flatOf i (512 * (off / 512 + k))))

/-- An access by the device itself meets a block in host bias (R249, R345). -/
def hostBias (d : Dev) (i off n : Nat) : Bool := (blocksOf d i off n).any (fun b => !d.mem.bias.contains b)

/-- D of Table 12.2 at the rate in force (R328). -/
def perSlot (d : Dev) : Nat := 640 * d.mem.rate / 99

/-- Sum of the six shares of a MEM_SHARE value. -/
def shareSum (v : Nat) : Nat := ((List.range 6).map (fun k => bits v (8 * k) 8)).sum

/-- A write of MEM_SHARE (R335): ignored whole when its shares sum to more than D. -/
def writeShare (v : Nat) (d : Dev) : Dev :=
  if perSlot d < shareSum v then setEvt oMemEvt 9 d else putReg 0x440010 (v % 2 ^ 48) d

/-- P1 in the flat map: 512 bytes a cell (R145). -/
def spillRange (d : Dev) : Nat × Nat := (2 ^ 20 * fld d 0x1C0008 32 32, 512 * fld d 0x1C0008 0 24)

/-- A write of MEM_CXLWIN (R343): a reserved size keeps the one in force (R10); every block is in host bias after it. -/
def writeCxlWin (v : Nat) (d : Dev) : Dev :=
  let base := bits v 0 8
  let size := if 64 < bits v 8 8 then fld d 0x440028 8 8 else bits v 8 8
  let (p, n) := spillRange d
  let meets := decide (0 < size) && decide (0 < n) && decide (2 ^ 28 * base < p + n) && decide (p < 2 ^ 28 * (base + size))
  if 170 < base + size ∨ meets = true ∨ d.boot.hdmCommit = true ∨ !d.mem.bias.isEmpty = true then setEvt oMemEvt 9 d
  else modMem (fun m => { m with bias := [] }) (putReg 0x440028 (base + 256 * size) d)

/-- A write of MEM_CFG: ignored once training has completed (R328). -/
def writeMemCfg (v : Nat) (d : Dev) : Dev :=
  if d.mem.booted then d else if within 28 36 (v % 64) then putReg 0x440000 (v % 64) d else d

/-- A row that must be remapped with no free entry is fenced (R339); with the list full the device is retired. -/
def fenceRow (i row : Nat) (d : Dev) : Dev :=
  let g := gddr d i
  if g.fenced.contains row then d
  else if g.fenced.length < 64 then setEvt oMemEvt 10 (modGddr i (fun g => { g with fenced := row :: g.fenced }) d)
  else defer (.retire 2 i false) d

/-- Lowest free remap entry. -/
def freeRemap (g : Gddr) : Option Nat := (List.range 1024).find? (fun k => (tget g.remap k).isNone)

/-- Entry `k` becomes valid in one step; with all 1,024 valid no further row can be remapped (R338, R340). -/
def remapValid (i k : Nat) (e : Remap) (d : Dev) : Dev :=
  let d := modGddr i (fun g => { g with remap := tput g.remap k { e with valid := true } }) d
  when ((List.range 1024).all (fun k => ((tget (gddr d i).remap k).map (·.valid)).getD false)) (setEvt oMemEvt 8) d

/-- Remap a row whose fault is lasting (R338): the copy begins. A spare row that fails is marked, and the row it served is
remapped afresh. `now` skips the copy, for entries restored at a reset (R403). -/
def remapRow (i row : Nat) (done : Bool) (d : Dev) : Dev :=
  let g := gddr d i
  let back := g.remap.find? (fun p => spareRow p.1 == row && p.2.valid)
  let (g, row) := match back with
    | some (k, e) => ({ g with remap := tput g.remap k { e with spareFailed := true } }, e.row)
    | none => (g, row)
  let d := modGddr i (fun _ => g) d
  if g.remap.any (fun p => p.2.row == row && !p.2.spareFailed) then d
  else
    match freeRemap g with
    | none => fenceRow i row d
    | some k =>
      let e : Remap := { row := row, valid := false, spareFailed := false }
      if done then remapValid i k e d else modGddr i (fun g => { g with remap := tput g.remap k e }) d

/-- Codewords with a block in a row. -/
def rowCws (row : Nat) (cws : List Nat) : List Nat := cws.filter (fun cw => (cwRows cw).contains row)

/-- REMAP_COPY_DONE (R340): the row's blocks have gone through the decoder, and the entry becomes valid in one step; what was
uncorrectable stays so. -/
def remapDone (i k : Nat) (d : Dev) : Dev :=
  match tget (gddr d i).remap k with
  | some e =>
    if e.valid then d
    else
      let met := (d.mem.errs.filter (fun x => x.dev == i)).map (·.cw)
      let (_, wrong, d) := readCws i 7 (rowCws e.row ((gddr d i).bad ++ met)).eraseDups d
      remapValid i k e (modGddr i (fun g => { g with mem := patched g.mem wrong }) d)
  | none => d

/-- The sixteen banks of a device have been refreshed now. -/
def refreshAll (banks : List Nat) (i : Nat) (d : Dev) : Dev :=
  modGddr i (fun g => { g with refreshed := banks.foldl (fun t b => tput t b d.clk.swc.toNat) g.refreshed }) d

/-- GDDR7_BOOT_TRAINING (R341): the devices that pass, at the rate set (R328), with an all-bank refresh at its end (R327). -/
def bootTraining (pass : BitVec 16) (d : Dev) : Dev :=
  if d.mem.booted then d
  else
    let d := each (List.range 16) (fun i d =>
      if pass.getLsbD i && !retired d 2 i then
        refreshAll (List.range 16) i (modGddr i (fun g => { g with trained := true, scrubAt := d.clk.now * groups }) d)
      else setEvt oMemEvt 6 (modGddr i (fun g => { g with failed := true }) d)) d
    modMem (fun m => { m with booted := true, rate := fld d 0x440000 0 6 }) d

/-- Cycles of a scrub pass (R336). -/
def scrubPass (d : Dev) : Nat := fld d 0x440018 0 8 * 3600 * 3300000000

/-- The scrub of a device runs (R336). -/
def scrubRuns (d : Dev) (g : Gddr) : Bool := flag d 0x440018 8 && g.trained && !g.failed

/-- A pass is more than 1% of its groups behind its schedule (R336). -/
def scrubLate (d : Dev) (g : Gddr) : Bool := decide (g.scrubAt + groups / 100 * scrubPass d < d.clk.now * groups)

/-- The schedule of a device's scrub at a Swath boundary (R336): one that falls behind is reported, one that does not run stands
still. -/
def scrubWatch (i : Nat) (d : Dev) : Dev :=
  let g := gddr d i
  if !g.trained then d
  else if !scrubRuns d g then modGddr i (fun g => { g with scrubAt := d.clk.now * groups }) d
  else if scrubLate d g = g.behind then d
  else when (scrubLate d g) (setEvt oMemEvt 4) (modGddr i (fun g => { g with behind := scrubLate d g }) d)

/-- PATROL_SCRUB_READ (R336, R337): the group that has fallen due is read and decoded, but for the codewords in fenced rows (R339); what
is corrected is written back. -/
def patrolRead (i : Nat) (d : Dev) : Dev :=
  let g := gddr d i
  if !scrubRuns d g || inWindow d i || decide (d.clk.now * groups < g.scrubAt) then d
  else
    let grp := g.scrub
    let d := modGddr i (fun g => { g with scrub := if grp + 1 = groups then 0 else grp + 1, scrubAt := g.scrubAt + scrubPass d }) d
    let cws := ((List.range 32).map (32 * grp + ·)).filter (fun cw => !cwFenced g cw)
    let d := each (cws.filter (fun cw => cw % 4 == 0)) (fun cw d => countBlocks 1 i (16 * cw) 64 6 d) d
    each cws (fun cw d => match readCw i 6 cw d with
      | (.wrong b true, d) => modGddr i (fun g => { g with mem := memWriteN g.mem (16 * cw) b }) d
      | (_, d) => d) d

/-- BANK_REFRESH (R328): it takes no data-pin time; one that falls due in the device's window is performed at its end (R342). -/
def bankRefresh (i bank : Nat) (d : Dev) : Dev :=
  if !(gddr d i).trained then d
  else if inWindow d i then modGddr i (fun g => { g with owed := if g.owed.contains bank then g.owed else g.owed ++ [bank] }) d
  else refreshAll [bank] i d

/-- Two flips have a block in common. -/
def flipsMeet (a b : Flip) : Bool := decide (a.first < b.first + b.count) && decide (b.first < a.first + a.count)

/-- Blocks a flip would change. -/
def flipChanges (d : Dev) (x : Flip) : List Nat :=
  ((List.range x.count).map (x.first + ·)).filter (fun b => d.mem.bias.contains b == x.toHost)

/-- BIAS_FLIP (R344). -/
def cmdBiasFlip (toHost : Bool) (c : Cmd) (e : Bytes) (d : Dev) : Res :=
  let x : Flip := { cmd := c, first := leAt e 16 2, count := leAt e 18 2, toHost := toHost }
  if !plainOk e [(16, 4)] || !within 1 8192 x.count || decide ((cxlWindow d).2 < 2 ^ 21 * (x.first + x.count)) then bad d
  else if !(d.mem.flips.any (fun p => flipsMeet p.2 x)) && (flipChanges d x).isEmpty then okRes d
  else .run (modMem (fun m => { m with nextId := m.nextId + 1, flips := tput m.flips m.nextId x }) d)

/-- A Forge address range in usable GDDR7: device and offset (R247, R329). -/
def gddrRange (a n : Nat) : Option (Nat × Nat) :=
  if a < 2 ^ 32 then none
  else
    let i := (a - 2 ^ 32) / 2 ^ 32
    let off := a % 2 ^ 32
    if i < 16 ∧ off + n ≤ dataSize then some (i, off) else none

/-- The ranges of Forge addresses a mover operation reads and writes. -/
def moverRanges : MoveOp → List (Nat × Nat)
  | .mov dst src n => [(src, n), (dst, n)]
  | .wld a pitch _ _ fmt sc _ =>
    (List.range 64).map (fun i => ((a + i * pitch) % 2 ^ 48, 64 * (Num.Fmt.ofCode fmt).bytes)) ++ (match sc with
      | some s => [(s, 64)]
      | none => [])
  | .rdr dst pitch rows => (List.range 64).map (fun i => ((dst + i * pitch) % 2 ^ 48, (rows.getD i []).length))

/-- The parts of them that lie in GDDR7: device, offset, length. -/
def moverGddr (op : MoveOp) : List (Nat × Nat × Nat) :=
  (moverRanges op).filterMap (fun p => (gddrRange p.1 p.2).map (fun q => (q.1, q.2, p.2)))

/-- A mover operation not yet executed touches a block of a flip. -/
def moverTouches (d : Dev) (x : Flip) (m : Mover) : Bool :=
  (moverGddr m.op).any (fun p => (blocksOf d p.1 p.2.1 p.2.2).any (fun b => decide (x.first ≤ b) && decide (b < x.first + x.count)))

/-- An accepted CXL.mem request touches a block of a flip. -/
def cxlTouches (x : Flip) (r : Nat × Option Bytes) : Bool :=
  decide (x.first ≤ r.1 / 2 ^ 21) && decide (r.1 / 2 ^ 21 < x.first + x.count)

/-- BIAS_FLIP_DRAINED (R344): the accesses a flip waits for have ended, and so have the flips before it on its blocks. -/
def flipDrained (id : Nat) (d : Dev) : Dev :=
  match tget d.mem.flips id with
  | none => d
  | some x =>
    let waits := d.mem.flips.any (fun p => decide (p.1 < id) && flipsMeet p.2 x)
      || (if x.toHost then d.forge.f.any (fun f => f.2.streams.any (fun s => s.2.movers.any (moverTouches d x)))
          else d.mem.cxlWait.any (cxlTouches x))
    if waits then d
    else
      let ch := flipChanges d x
      let now := fun (l : List Nat) => if x.toHost then l.filter (fun b => !ch.contains b) else ch ++ l
      let d := modMem (fun m => { m with flips := tdel m.flips id, bias := now m.bias }) d
      complete x.cmd 0 0 ch.length d

/-- Serve a CXL.mem read of 64 bytes (R345): the answer and whether it is poisoned; beyond the window it is unmapped, and the answer
is poisoned (log 31). -/
def cxlServeRead (dpa : Nat) (d : Dev) : Dev :=
  let (base, len) := cxlWindow d
  let a := base + dpa / 64 * 64
  let put := fun (b : Bytes) (p : Bool) (d : Dev) => modMem (fun m => { m with answer := m.answer ++ [(b, p)] }) d
  if len ≤ dpa then put (zeros 64) true d
  else
    let d := count 17 4 1 { priv := some 1, addr := some a } d
    let (i, off) := ofFlat a
    let (r, d) := gRead i off 64 4 d
    let biased := match blockOf d a with
      | some b => d.mem.bias.contains b
      | none => false
    if biased then put (r.getD (memReadN (gddr d i).mem off 64)) true (setEvt oMemEvt 5 d)
    else match r with
      | some b => put b false d
      | none => put (memReadN (gddr d i).mem off 64) true (cause 21 d)

/-- Serve a CXL.mem write from an address (R345): dropped on a block in device bias. -/
def cxlServeWrite (dpa : Nat) (b : Bytes) (d : Dev) : Dev :=
  let a := (cxlWindow d).1 + dpa
  if (match blockOf d a with
      | some k => d.mem.bias.contains k
      | none => false) then setEvt oMemEvt 5 d
  else
    let (i, off) := ofFlat a
    (gWrite i off 4 b d).2

/-- A CXL.mem request to a device in its retraining window waits for its end (R342). -/
def cxlHeld (dpa : Nat) (d : Dev) : Bool :=
  decide (dpa < (cxlWindow d).2) && inWindow d (ofFlat ((cxlWindow d).1 + dpa)).1

/-- CXL_MEM_READ of 64 bytes. -/
def cxlRead (dpa : Nat) (d : Dev) : Dev :=
  if !d.boot.hdmCommit then d
  else if cxlHeld dpa d then modMem (fun m => { m with cxlWait := m.cxlWait ++ [(dpa, none)] }) d
  else cxlServeRead dpa (modMem (fun m => { m with answer := [] }) d)

/-- CXL_MEM_WRITE from an address. -/
def cxlWrite (dpa : Nat) (b : Bytes) (d : Dev) : Dev :=
  if !d.boot.hdmCommit || b.isEmpty || decide (64 < b.length) || decide (dpa / 64 ≠ (dpa + b.length - 1) / 64)
      || decide ((cxlWindow d).2 ≤ dpa) then d
  else if cxlHeld dpa d then modMem (fun m => { m with cxlWait := m.cxlWait ++ [(dpa, some b)] }) d
  else cxlServeWrite dpa b d

/-- The end of a device's window (R342): the refreshes that fell due are performed, and the CXL.mem requests that waited are served in
the order they came. -/
def windowOver (i : Nat) (d : Dev) : Dev :=
  let d := if (gddr d i).owed.isEmpty then d
    else modGddr i (fun g => { g with owed := [] }) (refreshAll (gddr d i).owed i d)
  if d.mem.cxlWait.isEmpty then d
  else
    each d.mem.cxlWait (fun r d => match r.2 with
      | none => cxlServeRead r.1 d
      | some b => cxlServeWrite r.1 b d) (modMem (fun m => { m with answer := [], cxlWait := [] }) d)

/-- HDM_DECODER_COMMIT (R474): software programs decoder 0 and sets its Commit bit. -/
def hdmCommit (base size ways : Nat) (d : Dev) : Dev :=
  let ok := size == (cxlWindow d).2 && size ≠ 0 && base % 2 ^ 28 == 0 && ways == 0 && d.boot.cxlProto
  modBoot (fun b => { b with
    hdmBase := base, hdmSize := size, hdmCtl := setBits (setBits b.hdmCtl 4 4 ways) 9 1 1, hdmCommit := ok, hdmError := !ok }) d

/-- Offset of the HDM Decoder Capability in the CXL.cachemem range (R473): the third capability's pointer. -/
def hdmPtr : Nat := (Config.cxlCap 3).toNat / 16

/-- A word of the CXL.cachemem range (R473), laid out as the CXL 2.0 specification defines (log 43): the capability header array and
HDM decoder 0; none of the other capabilities. -/
def cxlcWord (o : Nat) (d : Dev) : Option Nat :=
  let b := d.boot
  if o = 0 then some 0x04110001
  else if o ≤ 16 then some ((match o / 4 with
    | 1 => 2
    | 2 => 4
    | 3 => 5
    | _ => 7) + 2 ^ 16 * (Config.cxlCap (o / 4)).toNat)
  else if o < hdmPtr then none
  else
    match o - hdmPtr with
    | 0x00 => some 0x10
    | 0x04 => some b.hdmGlob
    | 0x08 => some 0
    | 0x0C => some 0
    | 0x10 => some (b.hdmBase % 2 ^ 32)
    | 0x14 => some (b.hdmBase / 2 ^ 32 % 2 ^ 32)
    | 0x18 => some (b.hdmSize % 2 ^ 32)
    | 0x1C => some (b.hdmSize / 2 ^ 32 % 2 ^ 32)
    | 0x20 => some (b.hdmCtl + 2 ^ 10 * boolNat b.hdmCommit + 2 ^ 11 * boolNat b.hdmError)
    | 0x24 => some (b.hdmSkip % 2 ^ 32)
    | 0x28 => some (b.hdmSkip / 2 ^ 32)
    | _ => none

/-- A write of HDM decoder 0's control: setting Commit checks the decoder (R474), clearing it uncommits (log 43). -/
def hdmControl (v : Nat) (d : Dev) : Dev :=
  let c := v % 2 ^ 10 + 2 ^ 12 * bits v 12 1
  let was := d.boot.hdmCtl.testBit 9
  let d := modBoot (fun b => { b with hdmCtl := c }) d
  if v.testBit 9 then (if was then d else hdmCommit d.boot.hdmBase d.boot.hdmSize (bits v 4 4) d)
  else modBoot (fun b => { b with hdmCommit := false, hdmError := false }) d

/-- A write of a word of the CXL.cachemem range (R473, log 43): a decoder locked on commit keeps its fields. -/
def cxlcWrite (o v : Nat) (d : Dev) : Dev :=
  if o < hdmPtr ∨ (d.boot.hdmCommit = true ∧ d.boot.hdmCtl.testBit 8 = true ∧ hdmPtr + 16 ≤ o) then d
  else
    let f := fun (g : Boot → Boot) => modBoot g d
    match o - hdmPtr with
    | 0x04 => f (fun b => { b with hdmGlob := v % 4 })
    | 0x10 => f (fun b => { b with hdmBase := setBits b.hdmBase 0 32 (v / 2 ^ 28 * 2 ^ 28) })
    | 0x14 => f (fun b => { b with hdmBase := setBits b.hdmBase 32 32 v })
    | 0x18 => f (fun b => { b with hdmSize := setBits b.hdmSize 0 32 (v / 2 ^ 28 * 2 ^ 28) })
    | 0x1C => f (fun b => { b with hdmSize := setBits b.hdmSize 32 32 v })
    | 0x20 => hdmControl v d
    | 0x24 => f (fun b => { b with hdmSkip := setBits b.hdmSkip 0 32 (v / 2 ^ 28 * 2 ^ 28) })
    | 0x28 => f (fun b => { b with hdmSkip := setBits b.hdmSkip 32 32 v })
    | _ => d

/-- What the MEM registers read, other than as written (R346). -/
def memView (off : Nat) (d : Dev) : Option Nat :=
  let mask := fun (f : Gddr → Bool) => ((List.range 16).map (fun i => if f (gddr d i) then 2 ^ i else 0)).sum
  if off = 0x440008 then some (mask (·.trained) + 2 ^ 16 * mask (·.failed))
  else if off = 0x440028 then some (fld d off 0 8 + (cxlWindow d).2 / 2 ^ 28 * 256)
  else if off = 0x440048 then
    let g := gddr d (fld d 0x440040 0 4)
    let k := fld d 0x440040 4 11
    some (if k < 1024 then (match tget g.remap k with
        | some e => e.row + 2 ^ 21 * boolNat e.valid + 2 ^ 22 * boolNat (!e.valid) + 2 ^ 23 * boolNat e.spareFailed
        | none => 0)
      else (match g.fenced.reverse[k - 1024]? with
        | some r => r + 2 ^ 21
        | none => 0))
  else none

end Sys2Proof.Machine
end

