-- ==== Sys2Proof/Machine/Micro.lean ====
section
/-! DEFINITION. Micro-batches and the stash (R312 to R318). -/

namespace Sys2Proof.Machine

def modAdp (f : Adapters → Adapters) (d : Dev) : Dev := { d with adp := f d.adp }

/-- Size of FLM (R247), and the stash unit (R316). -/
def flmSize : Nat := 0xC00000
def unit64 : Nat := 65536

/-- Offset of ADP_STASH_f (Table 11.12). -/
def oStash (f : Nat) : Nat := 0x400100 + 16 * f

/-- Stash region in FLM, and overflow region as Forge addresses: start and length (R316). -/
def stashFlm (d : Dev) (f : Nat) : Nat × Nat := (unit64 * fld d (oStash f) 0 8, unit64 * fld d (oStash f) 8 8)
def stashOvf (d : Dev) (f : Nat) : Nat × Nat := (fld d (oStash f + 8) 0 48, unit64 * fld d (oStash f) 32 15)

/-- Two ranges have a byte in common. -/
def meets (a n b m : Nat) : Bool := decide (0 < n) && decide (0 < m) && decide (a < b + m) && decide (b < a + n)

def findMb (d : Dev) (slot id : Nat) : Option MicroBatch := d.adp.mbs.find? (fun m => m.slot == slot && m.id == id)

def modMb (slot id : Nat) (f : MicroBatch → MicroBatch) (d : Dev) : Dev :=
  modAdp (fun a => { a with mbs := a.mbs.map (fun m => if m.slot = slot ∧ m.id = id then f m else m) }) d

/-- Extents reserved on a Forge in one of its regions. -/
def extentsOf (d : Dev) (f : Nat) (ovf : Bool) : List Extent :=
  ((d.adp.mbs.filter (fun m => m.forge == f)).flatMap (fun m => m.ext.toList ++ m.old.map (·.1))).filter
    (fun e => e.ovf == ovf)

/-- First fit at the lowest address of a region (R316). -/
def firstFit (region : Nat × Nat) (used : List Extent) (units : Nat) : Option Nat :=
  let n := unit64 * units
  let ok := fun (b : Nat) => decide (region.1 ≤ b) && decide (b + n ≤ region.1 + region.2)
    && used.all (fun e => !meets b n e.base (unit64 * e.units))
  let c := (region.1 :: used.map (fun e => e.base + unit64 * e.units)).filter ok
  match c with
  | [] => none
  | x :: t => some (t.foldl min x)

/-- Place an extent: the FLM region first, then the overflow region (R316). -/
def placeExtent (d : Dev) (f units : Nat) : Option Extent :=
  match firstFit (stashFlm d f) (extentsOf d f false) units with
  | some b => some { ovf := false, base := b, units := units }
  | none => (firstFit (stashOvf d f) (extentsOf d f true) units).map (fun b => { ovf := true, base := b, units := units })

/-- More units than either region holds (R316). -/
def neverFits (d : Dev) (f units : Nat) : Bool :=
  decide ((stashFlm d f).2 < unit64 * units) && decide ((stashOvf d f).2 < unit64 * units)

/-- Micro-batches of a slot tagged with a version of a parity: the reference count of a bank (R313, R315). -/
def bankRefs (d : Dev) (slot par : Nat) : Nat :=
  (d.adp.mbs.filter (fun m => m.slot == slot && m.version % 2 == par)).length

/-- A micro-batch whose closing command and every earlier one have ended closes (R315). -/
def mbClosed (m : MicroBatch) : Bool := m.closed.any (fun c => m.live.all (fun s => decide (c ≤ s)))

/-- A command of a micro-batch has ended (R315, R317). -/
def mbEnded (slot id ser : Nat) (close : Bool) (d : Dev) : Dev :=
  let d := modMb slot id (fun m =>
    let old := (m.old.map (fun p => (p.1, p.2.filter (· ≠ ser)))).filter (fun p => !p.2.isEmpty)
    let m := { m with live := m.live.filter (· ≠ ser), past := ser :: m.past, old := old }
    { m with closed := if close then ser :: m.closed else m.closed }) d
  modAdp (fun a => { a with mbs := a.mbs.filter (fun m => !(m.slot == slot && m.id == id && mbClosed m)) }) d

/-- The stash of a micro-batch overruns (R317, R318). -/
def mbOverrun (slot id : Nat) (d : Dev) : Dev :=
  match findMb d slot id with
  | none => d
  | some m =>
    let d := setEvt oAdpEvt 0 (count 14 3 1 { masters := [mForge m.forge] } d)
    let d := if m.recompute then setEvt oAdpEvt 1 d else d
    modMb slot id (fun m =>
      let old := match m.ext with
        | some e => if m.live.isEmpty then m.old else m.old ++ [(e, m.live)]
        | none => m.old
      { m with dropped := true, recompute := true, failed := m.failed || m.recompute, ext := none, old := old }) d

/-- What the check of R317 says of a write. -/
inductive StashTest where
  | ok | fault | overrun | dropped
deriving DecidableEq, Repr

/-- Regions a write touches: FLM of its own Forge, or GDDR7 at a Forge address. -/
def inStash (d : Dev) (f : Nat) (flm : Bool) (a n : Nat) : Bool :=
  if flm then meets a n (stashFlm d f).1 (stashFlm d f).2
  else (List.range 16).any (fun k => meets a n (stashOvf d k).1 (stashOvf d k).2)

/-- The check of a write by a command of a Forge stream (R317). -/
def stashTest (d : Dev) (f : Nat) (mb : Option (Nat × Nat)) (flm : Bool) (a n : Nat) : StashTest :=
  if !inStash d f flm a n then .ok
  else
    match mb.bind (fun k => findMb d k.1 k.2) with
    | none => .fault
    | some m =>
      if m.dropped then .dropped
      else
        match m.ext with
        | some e => if e.ovf ≠ flm ∧ e.base ≤ a ∧ a + n ≤ e.base + unit64 * e.units then .ok else .overrun
        | none => .overrun

end Sys2Proof.Machine
end

