-- ==== Sys2Proof/Machine/Forge.lean ====
section
/-! DEFINITION. The Forge array: time, semaphores, writes in flight, commands and budgets, the issue of an instruction, faults and
debug halts (R245 to R264, R274 to R285, R299 to R302). -/

namespace Sys2Proof.Machine

def streamZero : Stream :=
  { pc := 0, queue := [], on := false, run := 0, limit := .cycle 0, next := 0, rep := none, wait := none, halted := false,
    ended := false, started := 0, movers := [], s := [], a := [], stride := [], v := [], t := [], flags := 0 }

def forgeZero (f : Nat) : Forge :=
  { streams := [], flm := memNew (16 + f), side := memNew (32 + f), imem0 := [], imem1 := [], bank := 0, swap := none, q := [],
    semOvf := false, ops := [], res := [], stat := [], pend := [], sends := [], sendFail := false, reads := [], inbox := [],
    handles := [], nextHandle := 0, frozen := 0, freeze := none, pair := none, ord := 0 }

def modForges (f : Forges → Forges) (d : Dev) : Dev := { d with forge := f d.forge }

/-- Forge `f`. -/
def forge (d : Dev) (f : Nat) : Forge := tgetD d.forge.f f (forgeZero f)
def modForge (f : Nat) (g : Forge → Forge) (d : Dev) : Dev :=
  modForges (fun x => { x with f := tput x.f f (g (tgetD x.f f (forgeZero f))) }) d

/-- Stream `st` of Forge `f`. -/
def strm (d : Dev) (f st : Nat) : Stream := tgetD (forge d f).streams st streamZero
def modStrm (f st : Nat) (g : Stream → Stream) (d : Dev) : Dev :=
  modForge f (fun x => { x with streams := tput x.streams st (g (tgetD x.streams st streamZero)) }) d

/-- The EID of a Forge (R268). -/
def forgeEid (d : Dev) (f : Nat) : Option Nat := (localEids d 1 f).head?

/-- A Forge is fenced: itself, either Anvil, or by the failure of its home device (R264, R341, R403). -/
def forgeFenced (d : Dev) (f : Nat) : Bool :=
  partOut d 4 f || partOut d 5 (2 * f) || partOut d 5 (2 * f + 1) || (gddr d f).failed

/-- Cycles of a Forge at an arithmetic cycle, frozen cycles not counted (R252). -/
def eff (x : Forge) (t : Nat) : Nat :=
  match x.freeze with
  | some a => min a t - x.frozen
  | none => t - x.frozen

def nowEff (d : Dev) (f : Nat) : Nat := eff (forge d f) d.clk.now

/-- Fields of a command (Table 9.3). -/
def cTag (b : Bytes) : Nat := leAt b 16 4
def cPc (b : Bytes) : Nat := leAt b 20 2 % 4096
def cRepeat (b : Bytes) : Nat := leAt b 22 2
def cBudget (b : Bytes) : Nat := leAt b 24 3
def cSwaths (b : Bytes) : Bool := (byteAt b 27).testBit 7
def cHome (b : Bytes) : Nat := leAt b 28 2
def cSem (b : Bytes) : Nat := byteAt b 30 % 64
def cSemG (b : Bytes) : Bool := (byteAt b 30).testBit 6
def cSemPost (b : Bytes) : Bool := (byteAt b 30).testBit 7

/-- A command carries no reserved encoding (R256); home is the LOAD stream's. -/
def cmdOk (st : Nat) (b : Bytes) : Bool :=
  decide (leAt b 20 2 < 4096) && cRepeat b ≠ 0 && byteAt b 27 % 128 == 0 && cBudget b ≠ 0
  && (!cSwaths b || decide (cBudget b < 65536)) && (st == 0 || cHome b == 0)
  && (cSemG b || decide (cSem b < 32)) && byteAt b 31 == 0

/-- Semaphore file and number of a command's end post. -/
def cPost (b : Bytes) : Nat × Nat := if cSemPost b then (if cSemG b then 2 else 1, cSem b) else (0, 0)

/-- A post becomes visible (R253): a sum above 65,535 saturates. -/
def semAdd (poster : Nat) (q : Option Nat) (num n : Nat) (d : Dev) : Dev :=
  let old := match q with
    | some f => tgetD (forge d f).q num 0
    | none => tgetD d.forge.g num 0
  let v := min 65535 (old + n)
  let d := match q with
    | some f => modForge f (fun x => { x with q := tput x.q num v }) d
    | none => modForges (fun x => { x with g := tput x.g num v }) d
  if 65535 < old + n then
    stamp (oForge (q.getD poster) + 8) 21 (modForge (q.getD poster) (fun x => { x with semOvf := true }) d)
  else d

/-- Put a write in flight. -/
def addPend (f st lat ser : Nat) (w : What) (d : Dev) : Dev :=
  modForge f (fun x => { x with
    pend := x.pend ++ [{ land := eff x d.clk.now + lat, st := st, ord := x.ord, ser := ser, what := w }] }) d

/-- A post issues now (R254): 3 cycles to a Q of the own Forge, 40 to a G or another Forge's Q. -/
def post (f target : Nat) (g : Bool) (num n : Nat) (d : Dev) : Dev :=
  if g then modForges (fun x => { x with late := x.late ++ [(d.clk.now + 40, .post f none num n)] }) d
  else if target = f then addPend f 0 3 0 (.post num n) d
  else modForges (fun x => { x with late := x.late ++ [(d.clk.now + 40, .post f (some target) num n)] }) d

/-- Post 1 to a named semaphore of a Forge: file 0 none, 1 Q, 2 G. -/
def postSem (f : Nat) (sem : Nat × Nat) (d : Dev) : Dev :=
  if sem.1 = 0 then d else post f f (sem.1 == 2) sem.2 1 d

/-- Free the inbox rows of a handle (R267): a position is reused when every row before it has been freed. -/
def freeRows (f h : Nat) (d : Dev) : Dev :=
  match tget (forge d f).handles h with
  | none => d
  | some k =>
    modForge f (fun x =>
      let b := tgetD x.inbox k.bind { wr := 0, ring := [] }
      let ring := b.ring.map (fun p => if p.2 = some h then (p.1, none) else p)
      { x with inbox := tput x.inbox k.bind { b with ring := ring.dropWhile (fun p => p.2.isNone) },
               handles := tput x.handles h { k with rows := 0 } }) d

/-- A command of a DISPATCH frame has ended (R267, R270); a refused template frees the rows and is reported (R266). -/
def handleEnded (f h ser : Nat) (refused : Bool) (d : Dev) : Dev :=
  match tget (forge d f).handles h with
  | none => d
  | some k =>
    let left := (k.cmds.getD []).filter (· ≠ ser)
    let d := modForge f (fun x => { x with handles := tput x.handles h { k with cmds := some left } }) d
    let d := if refused && !k.told then
        let d := freeRows f h (modForge f (fun x => { x with handles := tmod x.handles h (fun k => { k with told := true }) }) d)
        (match forgeEid d f with
         | some s => noticeFrom s k.src 1 [] d
         | none => d)
      else d
    if left.isEmpty then modForge f (fun x => { x with handles := tdel x.handles h }) (freeRows f h d) else d

/-- The first command of a stream ends with a status (R262, R263); OVERRUN or a fault does not close its micro-batch (R315). -/
def endCommand (f st status : Nat) (d : Dev) : Dev :=
  let s := strm d f st
  match s.queue with
  | [] => d
  | c :: rest =>
    let d := modStrm f st (fun s => { s with queue := rest, on := false, rep := none, wait := none, halted := false, ended := false }) d
    let d := when (status == 0x0C) (cause (1 + f)) d
    let d := if status = 0 then count 11 2 1 { masters := [mForge f, mStream f st] } d
      else if status = 0x12 then count 11 3 1 { masters := [mForge f, mStream f st] } d else d
    let d := match c.org with
      | .task k => complete k status 0 (cTag c.b) d
      | .binding h => handleEnded f h c.ser (status == 1) d
      | .enq _ _ => d
    let d := postSem f (cPost c.b) d
    match c.mb with
    | some (slot, id) => mbEnded slot id c.ser (c.close && status ≠ 0x12 && status ≠ 0x10 && status ≠ 0x0C) d
    | none => d

/-- Every command of a fenced Forge ends with CHECK_FAIL (R264). -/
def forgeFence (f : Nat) (d : Dev) : Dev :=
  each (List.range 6) (fun st d => each (strm d f st).queue (fun _ d => endCommand f st 0x11 d) d) d

/-- A stream fault (R264): recorded when no fault is held, and its command ends. -/
def faultStream (f st code : Nat) (d : Dev) : Dev :=
  let o := oForge f + 0x18
  let tag := match (strm d f st).queue with
    | c :: _ => cTag c.b
    | [] => 0
  let d := if flag d o 0 then d else stamp o 0 (putReg o (1 + 2 * st + 16 * code + 2 ^ 16 * tag) d)
  endCommand f st (if code = 3 then 0x0C else 0x10) d

/-- A fault of a write or mover operation of a command: its stream halts if that command still runs. -/
def faultSer (f st ser code : Nat) (d : Dev) : Dev :=
  match (strm d f st).queue with
  | c :: _ => if c.ser = ser ∧ (strm d f st).on then faultStream f st code d else d
  | [] => d

/-- The open micro-batch of a command by its serial number; a command that has ended may still have writes in flight. -/
def mbOfSer (d : Dev) (f ser : Nat) : Option (Nat × Nat) :=
  match d.adp.mbs.find? (fun m => m.forge == f && (m.live.contains ser || m.past.contains ser)) with
  | some m => some (m.slot, m.id)
  | none => none

/-- A stash overrun by a command (R317): it ends at once with STASH_OVERRUN. -/
def stashOverrun (f st ser : Nat) (key : Nat × Nat) (d : Dev) : Dev :=
  let d := mbOverrun key.1 key.2 d
  match (strm d f st).queue with
  | c :: _ => if c.ser = ser ∧ (strm d f st).on then endCommand f st 9 d else d
  | [] => d

/-- The stash check of a write (R317), in the cycle it would land: whether it is performed, and what else follows. -/
def stashGate (f st ser : Nat) (flm : Bool) (a n : Nat) (d : Dev) : Bool × Dev :=
  let mb := mbOfSer d f ser
  match stashTest d f mb flm a n with
  | .ok => (true, d)
  | .dropped => (false, d)
  | .fault => (false, faultSer f st ser 1 d)
  | .overrun => (false, match mb with
    | some k => stashOverrun f st ser k d
    | none => d)

/-- One write lands. -/
def landOne (f : Nat) (p : Pend) (d : Dev) : Dev :=
  let st := p.st
  match p.what with
  | .s r v => modStrm f st (fun s => { s with s := tput s.s r (v % 2 ^ 32) }) d
  | .a r v => modStrm f st (fun s => { s with a := tput s.a r (v % 2 ^ 48) }) d
  | .stride r v => modStrm f st (fun s => { s with stride := tput s.stride r (v % 2 ^ 32) }) d
  | .v r mask val =>
    modStrm f st (fun s =>
      let old := tgetD s.v r 0
      { s with v := tput s.v r ((old &&& (2 ^ 512 - 1 - mask)) ||| (val &&& mask)) }) d
  | .t r b => modStrm f st (fun s => { s with t := tput s.t r b }) d
  | .mem true a b => modForge f (fun x => { x with side := memWriteN x.side a b }) d
  | .mem false a b =>
    let (ok, d) := stashGate f st p.ser true a b.length d
    if ok then modForge f (fun x => { x with flm := memWriteN x.flm a b }) d else d
  | .flags m =>
    stampFlags (p.land + (forge d f).frozen) (oForge f + 0x30) (4 * st) m (modStrm f st (fun s => { s with flags := s.flags ||| m }) d)
  | .clear m =>
    let d := modStrm f st (fun s => { s with flags := s.flags &&& (15 - m % 16) }) d
    if st = 1 ∧ m.testBit 4 then modForge f (fun x => { x with sendFail := false }) d else d
  | .post q n => semAdd f (some f) q n d
  | .result an slot r => modForge f (fun x => { x with res := tput x.res (8 * an + slot) r }) d

/-- Order of landing (R279): by cycle; in one cycle clears of flags first (R286), then streams, then issue order. -/
def pendLe (a b : Pend) : Bool :=
  let k := fun (p : Pend) => match p.what with
    | .clear _ => 0
    | _ => 1
  if a.land ≠ b.land then decide (a.land < b.land)
  else if k a ≠ k b then decide (k a < k b)
  else if a.st ≠ b.st then decide (a.st < b.st) else decide (a.ord ≤ b.ord)

/-- Land every write of a Forge whose cycle has come. -/
def landAll (f : Nat) (d : Dev) : Dev :=
  let e := nowEff d f
  let l := (forge d f).pend.filter (fun p => decide (p.land ≤ e))
  let d := modForge f (fun x => { x with pend := x.pend.filter (fun p => !decide (p.land ≤ e)) }) d
  each (sortBy pendLe l) (landOne f) d

/-- What becomes visible on the arithmetic clock; the answer of a QD lands among the other writes of its Forge (R279). -/
def lateOne (p : Nat × Late) (d : Dev) : Dev :=
  match p.2 with
  | .post k q num n => semAdd k q num n d
  | .depth f st r v ord =>
    modForge f (fun x => { x with pend := x.pend ++ [{ land := eff x p.1, st := st, ord := ord, ser := 0, what := .s r v }] }) d

/-- Arithmetic cycle `t` has come (R5): writes land and posts become visible. -/
def tick (t : Nat) (d : Dev) : Dev :=
  let d := { d with clk := { d.clk with now := max d.clk.now t } }
  let now := d.clk.now
  let l := d.forge.late.filter (fun p => decide (p.1 ≤ now))
  let d := modForges (fun x => { x with late := x.late.filter (fun p => !decide (p.1 ≤ now)) }) d
  let d := each (sortBy (fun a b => decide (a.1 ≤ b.1)) l) lateOne d
  each (List.range 16) landAll d

/-- Where entries of one cycle stand among one another (R257): bindings, Forge enqueues by Forge and stream, TASKs by SQ. -/
def orgRank : CmdFrom → Nat
  | .binding _ => 0
  | .enq f st => 1 + 8 * f + st
  | .task c => 129 + c.sqn.getD 64

/-- Place a command behind the entries of earlier cycles and those of its own cycle that stand before it; the command that runs stays
first (R257). -/
def placeCmd (on : Bool) (c : FCmd) (q : List FCmd) : List FCmd :=
  let stays := fun (x : FCmd) => x.at_ ≠ c.at_ || decide (orgRank x.org ≤ orgRank c.org)
  let head := if on then q.take 1 else []
  let rest := if on then q.drop 1 else q
  let behind := (rest.reverse.takeWhile (fun x => !stays x)).reverse
  head ++ rest.take (rest.length - behind.length) ++ [c] ++ behind

/-- A command reaches a queue (R257). -/
def enqueueCmd (f st : Nat) (b : Bytes) (org : CmdFrom) (mb : Option (Nat × Nat)) (close : Bool) (d : Dev) : Dev :=
  let ser := d.forge.ser
  let d := modForges (fun x => { x with ser := ser + 1 }) d
  let c : FCmd := { b := b, ser := ser, org := org, at_ := d.clk.now, mb := mb, close := close }
  modStrm f st (fun s => { s with queue := placeCmd s.on c s.queue }) d

def queueFull (d : Dev) (f st : Nat) : Bool := decide (64 ≤ (strm d f st).queue.length)

/-- The loads at the start of a run (R256, R277, R314): they land in its first cycle, `lat` cycles from now. -/
def runLoads (f st lat : Nat) (c : FCmd) (run : Nat) (d : Dev) : Dev :=
  let put := fun (r v : Nat) (d : Dev) => addPend f st lat c.ser (.s r v) d
  let d := each (List.range 4) (fun i d => put i (leAt c.b (4 * i) 4) d) d
  let d := put 4 run d
  match c.mb.bind (fun k => findMb d k.1 k.2) with
  | none => d
  | some m =>
    let bank := match tget d.adp.slots m.slot with
      | some s => leAt s.record (8 + 4 * (m.version % 2)) 4
      | none => 0
    let ext := match m.ext with
      | some e => e.base
      | none => 0
    put 9 (boolNat m.recompute) (put 8 (ext / 2 ^ 32) (put 7 (ext % 2 ^ 32) (put 6 bank (put 5 m.version d))))

/-- G · bytes a LOAD command's budget covers (R261). -/
def homeLimit (d : Dev) (f : Nat) (b : Bytes) : Nat :=
  let g := fld d (oForge f) 0 8
  let m := cBudget b
  if cSwaths b then g * (m * d.clk.nsNow - 440 * ((m - 1) / (16 * 2 ^ d.clk.retrainNow) + 1))
  else g * (m / 6)

/-- r of R40: the window slots of a Forge's home device in the Swath in progress, its first ones. -/
def windowSlots (d : Dev) (f : Nat) : Nat :=
  let p := 2 ^ d.clk.retrainNow
  let on := fun (w : Nat) => w % p == 0 && w / p % 16 == f
  let w := d.clk.swc.toNat
  if on w then min 440 d.clk.nsNow else if 1 ≤ w ∧ on (w - 1) then 440 - d.clk.nsNow else 0

/-- The rest of a self-test slice of a Forge, from cycle `t` (R41). -/
def sliceLeft (d : Dev) (f t : Nat) : Nat :=
  match (forge d f).freeze with
  | some a => if (d.mem.window.map (·.1)) = some f then 0 else a + 1024 - max t a
  | none => 0

/-- Cycles still to come in the Swath for a stream (R40, R260): of 6 · N_s, less the window's and a slice's. -/
def cyclesLeft (d : Dev) (f t : Nat) : Nat :=
  d.clk.swStart + 6 * d.clk.nsNow - max t (d.clk.swStart + 6 * windowSlots d f) - sliceLeft d f t

/-- Cycles of a Forge in the Swath that no stream's command holds (R41, R260); none in a Swath of its retraining window. -/
def uncommitted (d : Dev) (f : Nat) : Nat :=
  if 0 < windowSlots d f then 0
  else
    let n := cyclesLeft d f d.clk.now
    ((List.range 6).map (fun st =>
      let s := strm d f st
      if !s.on then n
      else match s.limit with
        | .cycle e => n - (e - nowEff d f)
        | .swath _ => 0)).foldl min n

/-- Record a debug halt, unless one is held (R300, R301). -/
def recordHalt (f st why pc num file tag : Nat) (d : Dev) : Dev :=
  let o := oForge f + 0x28
  if flag d o 0 then d
  else stamp o 0 (putReg o (1 + 2 * st + 16 * why + 64 * pc + 2 ^ 18 * num + 2 ^ 24 * file + 2 ^ 32 * tag) d)

/-- A breakpoint triggers (R301). -/
def breakHere (f st : Nat) (c : FCmd) (d : Dev) : Dev :=
  let o := oForge f + 0x20
  let mode := fld d o 2 2
  let v := fld d o 32 32
  let hit := fld d o 4 3 == st && ((mode == 1 && (strm d f st).started == v) || (mode == 2 && cTag c.b == v))
  if !hit then d
  else
    let d := if flag d o 1 then each (List.range 6) (fun k d => modStrm f k (fun s => { s with halted := true }) d) d
      else modStrm f st (fun s => { s with halted := true }) d
    let d := recordHalt f st 1 (cPc c.b) 0 0 (cTag c.b) d
    postEvent 0x11 (toLE 1 f ++ toLE 1 st ++ toLE 2 (cPc c.b) ++ toLE 4 (cTag c.b)) d

/-- The first command of a stream starts now, with its budget's end (R260). -/
def startNow (f st : Nat) (c : FCmd) (lim : Limit) (d : Dev) : Dev :=
  let e := nowEff d f
  let d := modStrm f st (fun s => { s with on := true, ended := false, pc := cPc c.b, run := 0, limit := lim, next := e, rep := none,
                                           wait := none, started := s.started + 1 }) d
  breakHere f st c (landAll f (runLoads f st 0 c 0 d))

/-- IMEM_SWAP_APPLY: at a boundary, every stream at rest and no load of the inactive bank under way (R304). -/
def imemSwapApply (f : Nat) (d : Dev) : Dev :=
  let x := forge d f
  match x.swap with
  | none => d
  | some c =>
    let rest := (List.range 6).all (fun st => !(strm d f st).on && !(strm d f st).halted)
    let load := d.forge.loads.any (fun p => p.2.forge == f && p.2.bank ≠ x.bank)
    if d.clk.now = d.clk.swStart ∧ rest = true ∧ load = false then
      complete c 0 0 0 (modForge f (fun x => { x with bank := 1 - x.bank, swap := none }) d)
    else d

/-- FORGE_COMMAND_START (R260, R261): the command at the head of a queue starts, waits or is refused; a swap that is due comes before
any command starts (R304). -/
def commandStart (f st t : Nat) (d : Dev) : Dev :=
  let d := imemSwapApply f (tick t d)
  let s := strm d f st
  match s.queue with
  | [] => d
  | c :: _ =>
    if s.on || s.halted then d
    else
      let b := c.b
      let failed := match c.mb.bind (fun k => findMb d k.1 k.2) with
        | some m => m.failed
        | none => false
      if failed then endCommand f st 9 d
      else if cHome b ≠ 0 ∧ homeLimit d f b < 4096 * cHome b then endCommand f st 1 d
      else if cSwaths b then
        if d.clk.now = d.clk.swStart then startNow f st c (.swath ((d.clk.swc.toNat + cBudget b - 1) % 2 ^ 48)) d else d
      else if 6 * d.clk.nsNow < cBudget b then endCommand f st 1 d
      else if cBudget b ≤ cyclesLeft d f d.clk.now then startNow f st c (.cycle (nowEff d f + cBudget b)) d else d

/-- A running command's budget is used up at a cycle of its Forge (R262). -/
def spent (d : Dev) (s : Stream) (e : Nat) : Bool :=
  match s.limit with
  | .cycle l => decide (l ≤ e)
  | .swath w => within 1 (2 ^ 47) (subMod 48 d.clk.swc.toNat w)

/-- Nothing of a stream's command is still under way after END (R285). -/
def drained (d : Dev) (f st : Nat) : Bool := (strm d f st).movers.isEmpty && (st ≠ 1 || (forge d f).sends.isEmpty)

/-- A stream's mover queue or frame sender has emptied: its command may end in the cycle after (R285). -/
def notBefore (f st : Nat) (d : Dev) : Dev :=
  let e := nowEff d f
  modStrm f st (fun s => if s.ended then { s with next := max s.next (e + 1) } else s) d

/-- Its budget does not reach the cycle in which a command would end. -/
def endsLate (d : Dev) (s : Stream) : Bool :=
  match s.limit with
  | .cycle l => decide (l < s.next)
  | .swath _ => spent d s 0

/-- FORGE_COMMAND_END (R262, R285): in the cycle after END, or after its queues have emptied. -/
def commandEnd (f st t : Nat) (d : Dev) : Dev :=
  let d := tick t d
  let s := strm d f st
  if !(s.on && s.ended && drained d f st) || decide (nowEff d f < s.next) then d
  else endCommand f st (if endsLate d s then 0x12 else 0) d

/-- COMMAND_OVERRUN (R262). -/
def commandOverrun (f st t : Nat) (d : Dev) : Dev :=
  let d := tick t d
  let s := strm d f st
  if s.on && spent d s (nowEff d f) && !(s.ended && drained d f st && !endsLate d s) then endCommand f st 0x12 d else d

/-- Fields of an instruction word (Table 10.1). -/
def iOp (w : Nat) : Nat := bits w 56 8
def iDst (w : Nat) : Nat := bits w 50 6
def iSrc1 (w : Nat) : Nat := bits w 44 6
def iSrc2 (w : Nat) : Nat := bits w 38 6
def iMod (w : Nat) : Nat := bits w 32 6
def iImm (w : Nat) : Nat := bits w 0 32

/-- Modifier fields (R275). -/
def iRnd (w : Nat) : Nat := bits w 32 2
def iOrm (w : Nat) : Nat := bits w 34 2
def iSat (w : Nat) : Bool := bit w 36
def iX (w : Nat) : Bool := bit w 37
def iCond (w : Nat) : Nat := bits w 32 3

/-- Fault codes of Table 10.9. -/
def fENC : Nat := 8
def fREG : Nat := 9
def fFMT : Nat := 10
def fCTRL : Nat := 11
def fREP : Nat := 12
def fALIGN : Nat := 13
def fTILE : Nat := 14
def fMEM : Nat := 15
def fSEM : Nat := 16
def fPC : Nat := 17
def fARG : Nat := 18
def fLEN : Nat := 19

/-- Masks of the fields of a word. -/
def mDst : Nat := 63 * 2 ^ 50
def mSrc1 : Nat := 63 * 2 ^ 44
def mSrc2 : Nat := 63 * 2 ^ 38
def mImm : Nat := 2 ^ 32 - 1
def mBits (lo n : Nat) : Nat := (2 ^ n - 1) * 2 ^ lo

/-- An instruction about to issue: Forge, stream, cycle, word, stream as it stands, repeat index. -/
structure Fetch where
  f : Nat
  st : Nat
  e : Nat
  w : Nat
  s : Stream
  j : Nat
deriving DecidableEq, Repr

/-- What an instruction does when it issues: results with their latencies, interval, next pc, and the rest. -/
structure Eff where
  out : List (Nat × What) := []
  intv : Nat := 1
  pc : Option Nat := none
  act : Dev → Dev := fun d => d

/-- An instruction: the fields it uses, the registers it names, the registers it reads (Table 10.11), and its effect. -/
structure Ins where
  /-- Bits of the word it uses besides the opcode (R276). -/
  used : Nat
  /-- Register numbers with the size of their file. -/
  regs : List (Nat × Nat) := []
  /-- Registers and result slots read: file and number (R300). -/
  reads : List (Nat × Nat) := []
  /-- The effect, or the fault that prevents it (R299). -/
  run : Except Nat Eff

/-- A word of the active bank (R245). -/
def fetchWord (x : Forge) (pc : Nat) : Nat := tgetD (if x.bank = 0 then x.imem0 else x.imem1) pc 0

/-- The instruction a stream issues in this cycle, if it issues one (R252, R260, R279, R280). -/
def fetchNow (f st : Nat) (d : Dev) : Option Fetch :=
  let x := forge d f
  let s := strm d f st
  let e := nowEff d f
  if s.on && !s.ended && s.wait.isNone && !s.halted && x.freeze.isNone && e == s.next && !spent d s e then
    some { f := f, st := st, e := e, w := fetchWord x s.pc, s := s, j := match s.rep with
      | some (_, _, j) => j
      | none => 0 }
  else none

/-- A pending write to a register or result slot read (R300). -/
def pendingOn (d : Dev) (x : Fetch) (r : Nat × Nat) : Bool :=
  let hit := fun (p : Pend) => match p.what with
    | .s n _ => p.st == x.st && r == (0, n)
    | .a n _ => p.st == x.st && r == (1, n)
    | .stride n _ => p.st == x.st && r == (1, n)
    | .v n _ _ => p.st == x.st && r == (2, n)
    | .t n _ => p.st == x.st && r == (3, n)
    | .result an k _ => r == (4, 8 * an + k)
    | _ => false
  (forge d x.f).pend.any hit
  || d.forge.late.any (fun p => match p.2 with
    | .depth f st n _ _ => f == x.f && st == x.st && r == (0, n)
    | _ => false)

/-- The hazard audit halts a stream (R300); a result slot is shown by its number in its own Anvil (R292). -/
def hazardHalt (x : Fetch) (r : Nat × Nat) (d : Dev) : Dev :=
  let tag := match x.s.queue with
    | c :: _ => cTag c.b
    | [] => 0
  let d := modStrm x.f x.st (fun s => { s with halted := true }) d
  let num := if r.1 = 4 then r.2 % 8 else r.2
  let d := recordHalt x.f x.st 2 x.s.pc num r.1 tag d
  postEvent 0x10 (toLE 1 x.f ++ toLE 1 x.st ++ toLE 2 x.s.pc ++ toLE 1 r.1 ++ toLE 1 num ++ toLE 4 tag) d

/-- The serial number of a stream's running command. -/
def serOf (s : Stream) : Nat :=
  match s.queue with
  | c :: _ => c.ser
  | [] => 0

/-- Signed value of a stride, and an address moved by it (R278). -/
def addStride (a stride : Nat) : Nat := wrap 48 ((a : Int) + signed 32 stride)

/-- The stream goes on after an issue (R279, R282): next cycle, pc, repeat, increments. -/
def advanceStrm (x : Fetch) (y : Eff) (d : Dev) : Dev :=
  let d := match x.s.rep with
    | some (_, mask, _) =>
      each ((List.range 16).filter mask.testBit) (fun i d =>
        addPend x.f x.st 1 (serOf x.s) (.a i (addStride (tgetD x.s.a i 0) (tgetD x.s.stride i 0))) d) d
    | none => d
  modStrm x.f x.st (fun s =>
    match x.s.rep with
    | some (n, mask, j) =>
      if j + 1 < n then { s with next := x.e + y.intv, rep := some (n, mask, j + 1) }
      else { s with next := x.e + y.intv, rep := none, pc := y.pc.getD (x.s.pc + 1) }
    | none => { s with next := x.e + y.intv, pc := y.pc.getD (x.s.pc + 1) }) d

/-- Issue the instruction: its writes go in flight, the stream goes on, the rest of its effect follows. Passing index 4,095 faults
(R286). -/
def perform (x : Fetch) (y : Eff) (d : Dev) : Dev :=
  let d := count 11 1 1 { masters := [mForge x.f, mStream x.f x.st] } d
  let d := modForge x.f (fun g => { g with ord := g.ord + 1 }) d
  let d := each y.out (fun p d => addPend x.f x.st p.1 (serOf x.s) p.2 d) d
  let d := y.act (advanceStrm x y d)
  let s := strm d x.f x.st
  if s.on && !s.ended && decide (4095 < s.pc) then faultStream x.f x.st fPC d else d

/-- An instruction of opcode `op`, of the streams `sts`, issues in the cycle that has come: checked (R276), audited (R300),
performed. A stream that does not issue it in that cycle is left as it is. -/
def issue (op : Nat) (sts : List Nat) (mk : Fetch → Dev → Ins) (f st : Nat) (d : Dev) : Dev :=
  match fetchNow f st d with
  | none => d
  | some x =>
    if iOp x.w ≠ op then d
    else if !sts.contains st then faultStream f st fENC d
    else
      let i := mk x d
      if x.w &&& (2 ^ 56 - 1 - i.used) ≠ 0 then faultStream f st fENC d
      else if i.regs.any (fun r => decide (r.2 ≤ r.1)) then faultStream f st fREG d
      else
        match if flag d (oForge f + 0x20) 0 then i.reads.find? (pendingOn d x) else none with
        | some r => hazardHalt x r d
        | none =>
          match i.run with
          | .error c => faultStream f st c d
          | .ok y => perform x y d

/-- The instruction issues at cycle `t`. -/
def instr (op : Nat) (sts : List Nat) (mk : Fetch → Dev → Ins) (f st t : Nat) (d : Dev) : Dev := issue op sts mk f st (tick t d)

/-- Reads of a stream's registers as they stand. -/
def rS (x : Fetch) (r : Nat) : Nat := tgetD x.s.s r 0
def rA (x : Fetch) (r : Nat) : Nat := tgetD x.s.a r 0
def rV (x : Fetch) (r : Nat) : Nat := tgetD x.s.v r 0

/-- SEMAPHORE_WAIT_SATISFIED and WAIT: the count of a semaphore. -/
def semCount (d : Dev) (f : Nat) (g : Bool) (num : Nat) : Nat :=
  if g then tgetD d.forge.g num 0 else tgetD (forge d f).q num 0

/-- Another held WAIT on the semaphore comes first and is covered (R254): ascending Forge for a G semaphore, then stream. -/
def servedBefore (d : Dev) (f st : Nat) (g : Bool) (num : Nat) : Bool :=
  let c := semCount d f g num
  let ahead := fun (k i : Nat) => match (strm d k i).wait with
    | some (g', m, n, _) => g' == g && m == num && decide (n ≤ c) && (forge d k).freeze.isNone && (strm d k i).on
        && !spent d (strm d k i) (nowEff d k)
    | none => false
  (List.range 6).any (fun i => decide (i < st) && ahead f i)
  || (g && (List.range f).any (fun k => (List.range 6).any (fun i => ahead k i)))

/-- Take `n` from a semaphore. -/
def semTake (f : Nat) (g : Bool) (num n : Nat) (d : Dev) : Dev :=
  if g then modForges (fun x => { x with g := tput x.g num (tgetD x.g num 0 - n) }) d
  else modForge f (fun x => { x with q := tput x.q num (tgetD x.q num 0 - n) }) d

/-- SEMAPHORE_WAIT_SATISFIED (R253, R254, R280); a debug halt does not stop a WAIT already issued (R302). -/
def waitSatisfied (f st t : Nat) (d : Dev) : Dev :=
  let d := tick t d
  let s := strm d f st
  match s.wait with
  | none => d
  | some (g, num, n, from_) =>
    let e := nowEff d f
    if s.on && (forge d f).freeze.isNone && !spent d s e && decide (n ≤ semCount d f g num)
        && !servedBefore d f st g num then
      let d := count 11 4 (e - from_) { masters := [mForge f, mStream f st] } d
      modStrm f st (fun s => { s with wait := none, next := e + 1 }) (semTake f g num n d)
    else d

/-- Every stream of a Forge is IDLE (Tables 9.8, 9.9): none runs, waits or is halted. -/
def forgeIdle (d : Dev) (f : Nat) : Bool :=
  (List.range 6).all (fun st => (strm d f st).queue.isEmpty && !(strm d f st).on && !(strm d f st).halted)

/-- FORGE_QSEM_WRITE and FORGE_GSEM_WRITE (R255, Table 9.9). -/
def writeQsem (f n v : Nat) (d : Dev) : Dev :=
  if forgeIdle d f then modForge f (fun x => { x with q := tput x.q n (v % 65536) }) d else d
def writeGsem (n v : Nat) (d : Dev) : Dev :=
  if (List.range 16).all (forgeIdle d) then modForges (fun x => { x with g := tput x.g n (v % 65536) }) d else d

/-- A write of FORGE_DBG (R301, R302): the count of commands starts again, and streams named resume. -/
def writeDbg (f v : Nat) (d : Dev) : Dev :=
  let o := oForge f + 0x20
  match regOf o with
  | none => d
  | some r =>
    let d := putReg o (writeFlds (rg d o) v r.flds) d
    let d := each (List.range 6) (fun st d => modStrm f st (fun s => { s with started := 0 }) d) d
    let e := nowEff d f
    each ((List.range 6).filter (fun st => v.testBit (8 + st))) (fun st d =>
      modStrm f st (fun s => if s.halted then { s with halted := false, next := max s.next e } else s) d) d

/-- State code of a stream (Table 9.8). -/
def strmState (d : Dev) (f st : Nat) : Nat :=
  let s := strm d f st
  if s.halted then 4
  else if s.on then (if (forge d f).freeze.isSome then 5 else if s.wait.isSome then 3 else 2)
  else if s.queue.isEmpty then 0 else 1

/-- A freeze of a Forge begins and ends (R252). -/
def freezeForge (f at_ : Nat) (d : Dev) : Dev :=
  modForge f (fun x => if x.freeze.isSome then x else { x with freeze := some at_ }) d

def thawForge (f n : Nat) (d : Dev) : Dev :=
  let d := count 11 5 n { masters := [mForge f] } d
  modForge f (fun x => match x.freeze with
    | some _ => { x with freeze := none, frozen := x.frozen + n }
    | none => x) d

/-- RETRAIN_WINDOW_START (R40): at slot 0 of a Swath whose SWC is a multiple of P. -/
def windowStart (d : Dev) : Dev :=
  let p := 2 ^ d.clk.retrainNow
  let w := d.clk.swc.toNat
  if w % p ≠ 0 ∨ d.clk.slot ≠ 0 ∨ d.mem.window.isSome = true then d
  else
    let i := w / p % 16
    freezeForge i d.clk.swStart (tick d.clk.swStart (modMem (fun m => { m with window := some (i, d.clk.swStart) }) d))

/-- The cycle at which a window that began at cycle `a` ends (R40): 440 window slots later, an added slot not counted; none while
the rest of it lies in the coming Swath. -/
def windowStop (d : Dev) (a : Nat) : Option Nat :=
  if 440 ≤ d.clk.nsNow then some (a + 2640)
  else if a = d.clk.swStart then none
  else some (d.clk.swStart + 6 * (440 - d.clk.nsNow))

/-- RETRAIN_WINDOW_END (R342): at the end of the window; margins that do not pass are reported. The Forge offers no cycle in a slot
added between the two Swaths of its window (R40). -/
def windowEnd (pass : Bool) (d : Dev) : Dev :=
  match d.mem.window.bind (fun w => (windowStop d w.2).map (fun e => (w.1, w.2, e))) with
  | none => d
  | some (i, a, e) =>
    let d := tick e d
    let d := windowOver i (thawForge i (e - a) (modMem (fun m => { m with window := none }) d))
    if pass then d else scoreEvent 2 2 i (setEvt oMemEvt 7 d)

/-- What the registers of a Forge read, other than as written (R272, R305). -/
def forgeView (f o : Nat) (d : Dev) : Option Nat :=
  let x := forge d f
  if o = 0x08 then
    some (((List.range 6).map (fun i => strmState d f i * 2 ^ (3 * i))).sum + 2 ^ 18 * boolNat (forgeFenced d f)
      + 2 ^ 19 * x.bank + 2 ^ 20 * boolNat x.swap.isSome + 2 ^ 21 * boolNat x.semOvf)
  else if o = 0x10 then some (((List.range 6).map (fun i => (strm d f i).queue.length * 2 ^ (7 * i))).sum)
  else if o = 0x30 then
    some (((List.range 6).map (fun i => (strm d f i).flags * 2 ^ (4 * i))).sum + 2 ^ 24 * boolNat x.sendFail)
  else if within 0x400 0x47C o && o % 4 == 0 then some (tgetD x.q ((o - 0x400) / 4) 0)
  else if f = 0 && within 0x800 0x8FC o && o % 4 == 0 then some (tgetD d.forge.g ((o - 0x800) / 4) 0)
  else none

/-- Writes of FORGE_STAT and FORGE_FLG: their W1C bits. -/
def writeForgeStat (f v : Nat) (d : Dev) : Dev :=
  if v.testBit 21 then modForge f (fun x => { x with semOvf := false }) d else d
def writeForgeFlg (f v : Nat) (d : Dev) : Dev :=
  let d := each (List.range 6) (fun i d => modStrm f i (fun s => { s with flags := s.flags &&& (15 - bits v (4 * i) 4) }) d) d
  if v.testBit 24 then modForge f (fun x => { x with sendFail := false }) d else d

end Sys2Proof.Machine
end

