-- ==== Sys2Proof/Machine/Scalar.lean ====
section
/-! DEFINITION. The instructions every stream executes (R282, R286, Table 10.4), and the memories an instruction reaches. -/

namespace Sys2Proof.Machine

/-- FLM or Temper side memory of the own Forge: the memory and the offset in it (R247). -/
def localMem (a n : Nat) : Option (Bool × Nat) :=
  if a + n ≤ flmSize then some (false, a)
  else if 0x1000000 ≤ a ∧ a + n ≤ 0x1040000 then some (true, a - 0x1000000)
  else none

/-- An access that must lie in FLM or side memory, aligned: the memory and offset, or the fault (R248, R286, R287; log 24). -/
def localAt (a n al : Nat) : Except Nat (Bool × Nat) :=
  if a % al ≠ 0 then .error fALIGN
  else match localMem a n with
    | some p => .ok p
    | none => .error (if (gddrRange a n).isSome then fMEM else 1)

/-- An access that must lie in FLM. -/
def flmAt (a n al : Nat) : Except Nat Nat :=
  match localAt a n al with
  | .ok (false, o) => .ok o
  | .ok (true, _) => .error fMEM
  | .error c => .error c

/-- Bytes of FLM or of side memory as they stand. -/
def readLocal (d : Dev) (f : Nat) (side : Bool) (o n : Nat) : Bytes :=
  memReadN (if side then (forge d f).side else (forge d f).flm) o n

/-- The second operand of the register-or-immediate form: value, bits used, registers. -/
def op2 (x : Fetch) : Nat := if iX x.w then iImm x.w else rS x (iSrc2 x.w)
def used2 (x : Fetch) : Nat := mBits 37 1 ||| (if iX x.w then mImm else mSrc2)
def regs2 (x : Fetch) : List (Nat × Nat) := if iX x.w then [] else [(iSrc2 x.w, 32)]
def reads2 (x : Fetch) : List (Nat × Nat) := if iX x.w then [] else [(0, iSrc2 x.w)]

/-- Flags an operation sets, landing with its result. -/
def flagOut (lat : Nat) (fl : Num.Flags) : List (Nat × What) := if fl = 0 then [] else [(lat, .flags fl.toNat)]

/-- A scalar operation of two operands. -/
def scalar2 (extra : Nat) (g : Fetch → Nat → Nat → Nat × Num.Flags) (x : Fetch) : Ins :=
  let r := g x (rS x (iSrc1 x.w)) (op2 x)
  { used := mDst ||| mSrc1 ||| used2 x ||| extra, regs := (iDst x.w, 32) :: (iSrc1 x.w, 32) :: regs2 x,
    reads := (0, iSrc1 x.w) :: reads2 x, run := .ok { out := (1, .s (iDst x.w) r.1) :: flagOut 1 r.2 } }

def nopIns (_ : Fetch) (_ : Dev) : Ins := { used := 0, run := .ok {} }

/-- END (R285, Table 10.3): the next run starts in the cycle after it, or the command comes to its end. -/
def endIns (x : Fetch) (_ : Dev) : Ins :=
  { used := 0, run := .ok { act := fun d =>
      match x.s.queue with
      | [] => d
      | c :: _ =>
        if x.s.run + 1 < cRepeat c.b then
          modStrm x.f x.st (fun s => { s with pc := cPc c.b, run := s.run + 1 }) (runLoads x.f x.st 1 c (x.s.run + 1) d)
        else modStrm x.f x.st (fun s => { s with ended := true, pc := x.s.pc }) d } }

/-- REP (R282). -/
def repIns (x : Fetch) (d : Dev) : Ins :=
  let n := bits x.w 0 16
  let nextOp := iOp (fetchWord (forge d x.f) (x.s.pc + 1))
  { used := mImm,
    run := if n = 0 ∨ nextOp = 1 ∨ nextOp = 2 ∨ nextOp = 3 then .error fREP
      else .ok { act := modStrm x.f x.st (fun s => { s with rep := some (n, bits x.w 16 16, 0) }) } }

/-- Conditions of R275, 0 to 5. -/
def condS (c a b : Nat) : Bool :=
  match c with
  | 0 => a == b
  | 1 => a != b
  | 2 => decide (signed 32 a < signed 32 b)
  | 3 => decide (signed 32 b ≤ signed 32 a)
  | 4 => decide (a < b)
  | _ => decide (b ≤ a)

/-- BR: condition 6 is always, 7 reserved. -/
def brIns (x : Fetch) (_ : Dev) : Ins :=
  let c := iCond x.w
  let taken := c == 6 || condS c (rS x (iSrc1 x.w)) (rS x (iSrc2 x.w))
  { used := mSrc1 ||| mSrc2 ||| mBits 32 3 ||| mBits 0 12, regs := [(iSrc1 x.w, 32), (iSrc2 x.w, 32)],
    reads := if c = 6 then [] else [(0, iSrc1 x.w), (0, iSrc2 x.w)],
    run := if c = 7 then .error fCTRL
      else .ok (if taken then { intv := 2, pc := some (bits x.w 0 12) } else {}) }

def moviIns (x : Fetch) (_ : Dev) : Ins :=
  { used := mDst ||| mImm, regs := [(iDst x.w, 32)], run := .ok { out := [(1, .s (iDst x.w) (iImm x.w))] } }

def addIns (x : Fetch) (_ : Dev) : Ins := scalar2 (mBits 36 1) (fun x a b => Num.addI .int32 (iSat x.w) a b) x
def subIns (x : Fetch) (_ : Dev) : Ins := scalar2 (mBits 36 1) (fun x a b => Num.subI .int32 (iSat x.w) a b) x
def andIns (x : Fetch) (_ : Dev) : Ins := scalar2 0 (fun _ a b => (a &&& b, 0)) x
def orIns (x : Fetch) (_ : Dev) : Ins := scalar2 0 (fun _ a b => (a ||| b, 0)) x
def xorIns (x : Fetch) (_ : Dev) : Ins := scalar2 0 (fun _ a b => (a ^^^ b, 0)) x
def shlIns (x : Fetch) (_ : Dev) : Ins := scalar2 0 (fun _ a b => (a * 2 ^ (b % 32) % 2 ^ 32, 0)) x
def shrIns (x : Fetch) (_ : Dev) : Ins := scalar2 0 (fun _ a b => (a / 2 ^ (b % 32), 0)) x
def sraIns (x : Fetch) (_ : Dev) : Ins := scalar2 0 (fun _ a b => (wrap 32 (signed 32 a / 2 ^ (b % 32)), 0)) x

/-- SETC: conditions 6 and 7 are reserved. -/
def setcIns (x : Fetch) (_ : Dev) : Ins :=
  let i := scalar2 (mBits 32 3) (fun x a b => (boolNat (condS (iCond x.w) a b), 0)) x
  if 6 ≤ iCond x.w then { i with run := .error fCTRL } else i

def asetIns (x : Fetch) (_ : Dev) : Ins :=
  { used := mDst ||| mSrc1 ||| mSrc2, regs := [(iDst x.w, 16), (iSrc1 x.w, 32), (iSrc2 x.w, 32)],
    reads := [(0, iSrc1 x.w), (0, iSrc2 x.w)],
    run := .ok { out := [(1, .a (iDst x.w) (rS x (iSrc1 x.w) + 2 ^ 32 * (rS x (iSrc2 x.w) % 2 ^ 16)))] } }

def aaddIns (x : Fetch) (_ : Dev) : Ins :=
  { used := mDst ||| mSrc1 ||| used2 x, regs := (iDst x.w, 16) :: (iSrc1 x.w, 16) :: regs2 x,
    reads := (1, iSrc1 x.w) :: reads2 x,
    run := .ok { out := [(1, .a (iDst x.w) (addStride (rA x (iSrc1 x.w)) (op2 x)))] } }

def astrIns (x : Fetch) (_ : Dev) : Ins :=
  let i := iX x.w
  { used := mDst ||| mBits 37 1 ||| (if i then mImm else mSrc1),
    regs := (iDst x.w, 16) :: (if i then [] else [(iSrc1 x.w, 32)]), reads := if i then [] else [(0, iSrc1 x.w)],
    run := .ok { out := [(1, .stride (iDst x.w) (if i then iImm x.w else rS x (iSrc1 x.w)))] } }

def agetIns (x : Fetch) (_ : Dev) : Ins :=
  let a := rA x (iSrc1 x.w)
  { used := mDst ||| mSrc1 ||| mBits 0 1, regs := [(iDst x.w, 32), (iSrc1 x.w, 16)], reads := [(1, iSrc1 x.w)],
    run := .ok { out := [(1, .s (iDst x.w) (if bit x.w 0 then a / 2 ^ 32 else a % 2 ^ 32))] } }

def ldsIns (x : Fetch) (d : Dev) : Ins :=
  { used := mDst ||| mSrc1, regs := [(iDst x.w, 32), (iSrc1 x.w, 16)], reads := [(1, iSrc1 x.w)],
    run := match localAt (rA x (iSrc1 x.w)) 4 4 with
      | .ok (m, o) => .ok { out := [(8, .s (iDst x.w) (leNat (readLocal d x.f m o 4)))] }
      | .error c => .error c }

def stsIns (x : Fetch) (_ : Dev) : Ins :=
  { used := mSrc1 ||| mSrc2, regs := [(iSrc1 x.w, 16), (iSrc2 x.w, 32)], reads := [(1, iSrc1 x.w), (0, iSrc2 x.w)],
    run := match localAt (rA x (iSrc1 x.w)) 4 4 with
      | .ok (m, o) => .ok { out := [(2, .mem m o (toLE 4 (rS x (iSrc2 x.w))))] }
      | .error c => .error c }

/-- POST (R254, R286): src1 is a semaphore number. -/
def postIns (x : Fetch) (_ : Dev) : Ins :=
  let g := iX x.w
  let n := bits x.w 0 16
  { used := mSrc1 ||| mBits 37 1 ||| mBits 0 (if g then 16 else 20),
    run := if n = 0 ∨ (!g && decide (31 < iSrc1 x.w)) = true then .error fSEM
      else .ok { act := post x.f (bits x.w 16 4) g (iSrc1 x.w) n } }

/-- WAIT (R253, R280, R286): a Q semaphore of another Forge faults (log 25). -/
def waitIns (x : Fetch) (_ : Dev) : Ins :=
  let g := iX x.w
  let n := bits x.w 0 16
  let num := iSrc1 x.w
  { used := mSrc1 ||| mBits 37 1 ||| mBits 0 (if g then 16 else 20),
    run := if n = 0 ∨ (!g && decide (31 < num)) = true ∨ (!g && bits x.w 16 4 != 0) = true then .error fSEM
      else .ok { act := fun d =>
        if n ≤ semCount d x.f g num && !servedBefore d x.f x.st g num then semTake x.f g num n d
        else modStrm x.f x.st (fun s => { s with wait := some (g, num, n, x.e) }) d } }

/-- A command enqueued by a Forge (R257, R264): a fenced Forge refuses it, with no completion to show it. -/
def enqFrom (f from_ k st : Nat) (b : Bytes) (d : Dev) : Dev :=
  let d := enqueueCmd k st b (.enq f from_) none false d
  if forgeFenced d k then forgeFence k d else d

/-- ENQ (R257, R258, R286). -/
def enqIns (x : Fetch) (d : Dev) : Ins :=
  let k := bits x.w 0 4
  let st := bits x.w 4 3
  { used := mDst ||| mSrc1 ||| mBits 0 7, regs := [(iDst x.w, 32), (iSrc1 x.w, 16)], reads := [(1, iSrc1 x.w)],
    run := if 5 < st then .error fSEM
      else match flmAt (rA x (iSrc1 x.w)) 32 32 with
        | .error c => .error c
        | .ok o =>
          let b := readLocal d x.f false o 32
          if !cmdOk st b then .ok { out := [(3, .s (iDst x.w) 0x10)] }
          else if queueFull d k st then .ok { out := [(3, .s (iDst x.w) 3)] }
          else .ok { out := [(3, .s (iDst x.w) 0)], act := enqFrom x.f x.st k st b } }

/-- QD (R259, R286). -/
def qdIns (x : Fetch) (d : Dev) : Ins :=
  let k := bits x.w 0 4
  let st := bits x.w 4 3
  let n := (strm d k st).queue.length
  { used := mDst ||| mBits 0 7, regs := [(iDst x.w, 32)],
    run := if 5 < st then .error fSEM
      else if k = x.f then .ok { out := [(3, .s (iDst x.w) n)] }
      else .ok { act := fun d => modForges (fun y => { y with
        late := y.late ++ [(d.clk.now + 40, Late.depth x.f x.st (iDst x.w) n (forge d x.f).ord)] }) d } }

/-- ID: selection 3 is reserved (log 26). -/
def idIns (x : Fetch) (d : Dev) : Ins :=
  let v := match bits x.w 0 2 with
    | 0 => x.st
    | 1 => x.f
    | _ => d.clk.swc.toNat % 2 ^ 32
  { used := mDst ||| mBits 0 2, regs := [(iDst x.w, 32)],
    run := if bits x.w 0 2 = 3 then .error fENC else .ok { out := [(1, .s (iDst x.w) v)] } }

/-- FLG (R269, R286). -/
def flgIns (x : Fetch) (d : Dev) : Ins :=
  let sf := if x.st = 1 then boolNat (forge d x.f).sendFail else 0
  { used := mDst ||| mBits 0 5, regs := [(iDst x.w, 32)],
    run := .ok { out := [(1, .s (iDst x.w) (x.s.flags + 16 * sf)), (1, .clear (bits x.w 0 5))] } }

/-- Opcodes with a meaning (Tables 10.4 to 10.8); those of TLD and MMA the manual does not print (log 27). -/
def opDefined (op : Nat) : Bool :=
  within 0 0x0D op || within 0x10 0x15 op || within 0x18 0x1D op || within 0x20 0x30 op || op == 0x40 || op == 0x41
  || within 0x50 0x52 op || within 0x70 0x73 op || op == Config.opTld.toNat || op == Config.opMma.toNat

/-- The NOP_INSTRUCTION row: NOP issues; an undefined opcode is fetched and raises ENC (R276). -/
def nopRow (f st t : Nat) (d : Dev) : Dev :=
  let d := tick t d
  match fetchNow f st d with
  | none => d
  | some x => if opDefined (iOp x.w) then issue 0 (List.range 6) nopIns f st d else faultStream f st fENC d

end Sys2Proof.Machine
end

