-- ==== Sys2Proof/Machine/Tinker.lean ====
section
/-! DEFINITION. TINKER's vector instructions (R287 to R289, Table 10.5). -/

namespace Sys2Proof.Machine

open Sys2Proof.Num (Fmt)

/-- Lanes of `w` bits of a 512-bit value, lane 0 lowest (Table 10.2), and back. -/
def lanes (w v : Nat) : List Nat := (List.range (512 / w)).map (fun i => bits v (w * i) w)
def packLanes (w : Nat) : List Nat → Nat
  | [] => 0
  | x :: t => x % 2 ^ w + 2 ^ w * packLanes w t

def allOnes512 : Nat := 2 ^ 512 - 1

/-- A whole vector register written with a latency. -/
def vOut (lat r v : Nat) : List (Nat × What) := [(lat, .v r allOnes512 v)]

/-- Format field of a vector instruction. -/
def iFmt (w : Nat) : Nat := bits w 0 3

/-- Lane results gathered: the register value and the flags of every lane (R190). -/
def gatherLanes (w : Nat) (l : List (Nat × Num.Flags)) : Nat × Num.Flags :=
  (packLanes w (l.map (·.1)), l.foldl (fun a p => a ||| p.2) 0)

/-- VLD and VST. -/
def vldIns (x : Fetch) (d : Dev) : Ins :=
  { used := mDst ||| mSrc1, regs := [(iDst x.w, 32), (iSrc1 x.w, 16)], reads := [(1, iSrc1 x.w)],
    run := match localAt (rA x (iSrc1 x.w)) 64 64 with
      | .ok (m, o) => .ok { out := vOut 8 (iDst x.w) (leNat (readLocal d x.f m o 64)) }
      | .error c => .error c }

def vstIns (x : Fetch) (_ : Dev) : Ins :=
  { used := mSrc1 ||| mSrc2, regs := [(iSrc1 x.w, 16), (iSrc2 x.w, 32)], reads := [(1, iSrc1 x.w), (2, iSrc2 x.w)],
    run := match localAt (rA x (iSrc1 x.w)) 64 64 with
      | .ok (m, o) => .ok { out := [(2, .mem m o (toLE 64 (rV x (iSrc2 x.w))))] }
      | .error c => .error c }

def vbcIns (x : Fetch) (_ : Dev) : Ins :=
  let w := (Fmt.ofCode (iFmt x.w)).bits
  { used := mDst ||| mSrc1 ||| mBits 0 3, regs := [(iDst x.w, 32), (iSrc1 x.w, 32)], reads := [(0, iSrc1 x.w)],
    run := if iFmt x.w = 7 then .error fFMT
      else .ok { out := vOut 2 (iDst x.w) (packLanes w (List.replicate (512 / w) (rS x (iSrc1 x.w)))) } }

/-- RND of an instruction without SR. -/
def rndOf (w : Nat) : Num.Rnd := if iRnd w = 1 then .rtz else .rne

/-- A floating-point lane operation: formats 0 and 1 (Table 10.5). -/
def vFloat (third : Bool) (g : Fmt → Num.Rnd → Nat → Nat → Nat → Nat → Nat × Num.Flags) (x : Fetch) : Ins :=
  let f := Fmt.ofCode (iFmt x.w)
  let w := f.bits
  let l := (lanes w (rV x (iSrc1 x.w))).zip ((lanes w (rV x (iSrc2 x.w))).zip (lanes w (rV x (iDst x.w))))
  let r := gatherLanes w (l.map (fun p => g f (rndOf x.w) (iOrm x.w) p.1 p.2.1 p.2.2))
  let lat := if iFmt x.w = 0 then 5 else 4
  { used := mDst ||| mSrc1 ||| mSrc2 ||| mBits 0 3 ||| mBits 32 4,
    regs := [(iDst x.w, 32), (iSrc1 x.w, 32), (iSrc2 x.w, 32)],
    reads := [(2, iSrc1 x.w), (2, iSrc2 x.w)] ++ (if third then [(2, iDst x.w)] else []),
    run := if 1 < iFmt x.w then .error fFMT
      else if 1 < iRnd x.w ∨ 1 < iOrm x.w then .error fCTRL
      else .ok { out := vOut lat (iDst x.w) r.1 ++ flagOut lat r.2 } }

def vaddIns (x : Fetch) (_ : Dev) : Ins := vFloat false (fun f r o a b _ => Num.addF f r o a b) x
def vsubIns (x : Fetch) (_ : Dev) : Ins := vFloat false (fun f r o a b _ => Num.subF f r o a b) x
def vmulIns (x : Fetch) (_ : Dev) : Ins := vFloat false (fun f r o a b _ => Num.mulF f r o a b) x
def vfmaIns (x : Fetch) (_ : Dev) : Ins := vFloat true (fun f r o a b c => Num.fmaF f r o a b c) x

/-- An integer lane operation: formats 3 to 6. -/
def vInt (extra : Nat) (bad : Bool) (g : Fmt → Nat → Nat → Nat × Num.Flags) (x : Fetch) : Ins :=
  let f := Fmt.ofCode (iFmt x.w)
  let w := f.bits
  let r := gatherLanes w (((lanes w (rV x (iSrc1 x.w))).zip (lanes w (rV x (iSrc2 x.w)))).map (fun p => g f p.1 p.2))
  { used := mDst ||| mSrc1 ||| mSrc2 ||| mBits 0 3 ||| extra, regs := [(iDst x.w, 32), (iSrc1 x.w, 32), (iSrc2 x.w, 32)],
    reads := [(2, iSrc1 x.w), (2, iSrc2 x.w)],
    run := if !within 3 6 (iFmt x.w) then .error fFMT
      else if bad then .error fCTRL
      else .ok { out := vOut 2 (iDst x.w) r.1 ++ flagOut 2 r.2 } }

def viaddIns (x : Fetch) (_ : Dev) : Ins := vInt (mBits 36 1) false (fun f a b => Num.addI f (iSat x.w) a b) x
def visubIns (x : Fetch) (_ : Dev) : Ins := vInt (mBits 36 1) false (fun f a b => Num.subI f (iSat x.w) a b) x
def viminIns (x : Fetch) (_ : Dev) : Ins := vInt 0 false (fun f a b => (Num.minmax f false a b, 0)) x
def vimaxIns (x : Fetch) (_ : Dev) : Ins := vInt 0 false (fun f a b => (Num.minmax f true a b, 0)) x

/-- A lane comparison: 0 EQ, 1 NE, 2 LT, 3 GE, 6 LE, 7 GT, by the format's signedness. -/
def condV (c : Nat) (f : Fmt) (a b : Nat) : Bool :=
  let i := Num.toInt f a
  let k := Num.toInt f b
  match c with
  | 0 => i == k
  | 1 => i != k
  | 2 => decide (i < k)
  | 3 => decide (k ≤ i)
  | 6 => decide (i ≤ k)
  | _ => decide (k < i)

def vicmpIns (x : Fetch) (_ : Dev) : Ins :=
  let c := iCond x.w
  vInt (mBits 32 3) (c == 4 || c == 5) (fun f a b => (if condV c f a b then 2 ^ f.bits - 1 else 0, 0)) x

/-- A bitwise operation over 512 bits. -/
def vBits (third : Bool) (g : Nat → Nat → Nat → Nat) (x : Fetch) : Ins :=
  { used := mDst ||| mSrc1 ||| mSrc2, regs := [(iDst x.w, 32), (iSrc1 x.w, 32), (iSrc2 x.w, 32)],
    reads := [(2, iSrc1 x.w), (2, iSrc2 x.w)] ++ (if third then [(2, iDst x.w)] else []),
    run := .ok { out := vOut 2 (iDst x.w) (g (rV x (iSrc1 x.w)) (rV x (iSrc2 x.w)) (rV x (iDst x.w))) } }

def vandIns (x : Fetch) (_ : Dev) : Ins := vBits false (fun a b _ => a &&& b) x
def vorIns (x : Fetch) (_ : Dev) : Ins := vBits false (fun a b _ => a ||| b) x
def vxorIns (x : Fetch) (_ : Dev) : Ins := vBits false (fun a b _ => a ^^^ b) x
def vselIns (x : Fetch) (_ : Dev) : Ins := vBits true (fun m a b => (m &&& a) ||| ((allOnes512 - m) &&& b)) x

/-- Rounding of VCVT for a destination lane (R289). -/
def cvtRnd (x : Fetch) (lane : Nat) : Num.Rnd :=
  match iRnd x.w with
  | 0 => .rne
  | 1 => .rtz
  | _ =>
    let k := rS x (iSrc2 x.w + 1) * 2 ^ 32 + rS x (iSrc2 x.w)
    let c := bits x.w 8 24 * 2 ^ 32 + x.j * 2 ^ 8 + lane
    Num.sr (BitVec.ofNat 64 k) (BitVec.ofNat 64 c)

/-- VCVT (R288, R289). -/
def vcvtIns (x : Fetch) (_ : Dev) : Ins :=
  let s := Fmt.ofCode (bits x.w 0 3)
  let t := Fmt.ofCode (bits x.w 3 3)
  let p := bits x.w 6 2
  let ws := s.bits
  let wd := t.bits
  let wide := max ws wd
  let r := wide / min ws wd
  let n := 512 / wide
  let sr := iRnd x.w == 2
  let narrow := decide (wd < ws)
  let src := lanes ws (rV x (iSrc1 x.w))
  let src := if ws < wd then (src.drop (p * n)).take n else src
  let lane0 := if narrow then p * n else 0
  let res := (List.range n).map (fun i =>
    (Num.convert s t (cvtRnd x (lane0 + i)) (iOrm x.w) (iSat x.w) (src.getD i 0)).getD (0, 0))
  let g := gatherLanes wd res
  let mask := if narrow then mBits (lane0 * wd) (n * wd) else allOnes512
  { used := mDst ||| mSrc1 ||| mImm ||| mBits 32 5 ||| (if sr then mSrc2 else 0),
    regs := [(iDst x.w, 32), (iSrc1 x.w, 32)] ++ (if sr then [(iSrc2 x.w, 31)] else []),
    reads := (2, iSrc1 x.w) :: (if sr then [(0, iSrc2 x.w), (0, iSrc2 x.w + 1)] else []),
    run := if sr ∧ iSrc2 x.w % 2 = 1 then .error fREG
      else if s = .e8s ∨ t = .e8s ∨ r ≤ p then .error fFMT
      else if iRnd x.w = 3 ∨ 1 < iOrm x.w ∨ (sr && t.isInt) = true then .error fCTRL
      else .ok { out := (3, .v (iDst x.w) mask (g.1 * 2 ^ (lane0 * wd))) :: flagOut 3 g.2 } }

end Sys2Proof.Machine
end

