-- ==== Sys2Proof/Machine/Mover.lean ====
section
/-! DEFINITION. Forge addresses, the movers of LOAD and STORE, and the frame sender's instruction (R247 to R251, R284, R285, R290
to R294). -/

namespace Sys2Proof.Machine

open Sys2Proof.Num (Fmt)

/-- What a range of Forge addresses names (Table 9.2). -/
inductive Place where
  | flm (o : Nat)
  | side (o : Nat)
  | gddr (i o : Nat)
deriving DecidableEq, Repr

def placeOf (a n : Nat) : Option Place :=
  match localMem a n with
  | some (false, o) => some (.flm o)
  | some (true, o) => some (.side o)
  | none => (gddrRange a n).map (fun p => .gddr p.1 p.2)

/-- Request class of a Forge's access to a device (R250, R251). -/
def forgeCls (f i : Nat) : Nat := if f = i then 0 else 3

/-- Read a place: none when a codeword is uncorrectable. -/
def readPlace (f cls n : Nat) (p : Place) (d : Dev) : Option Bytes × Dev :=
  match p with
  | .flm o => (some (memReadN (forge d f).flm o n), d)
  | .side o => (some (memReadN (forge d f).side o n), d)
  | .gddr i o => gRead i o n cls d

/-- Write a place: false where a GDDR7 write is not performed (R333, R339, R341). -/
def writePlace (f cls : Nat) (b : Bytes) (p : Place) (d : Dev) : Bool × Dev :=
  match p with
  | .flm o => (true, modForge f (fun x => { x with flm := memWriteN x.flm o b }) d)
  | .side o => (true, modForge f (fun x => { x with side := memWriteN x.side o b }) d)
  | .gddr i o => gWrite i o cls b d

/-- The place lies in a block in host bias (R249). -/
def placeBias (d : Dev) (n : Nat) : Place → Bool
  | .gddr i o => hostBias d i o n
  | _ => false

/-- An operation's semaphore sub-field at bit `lo`: file 0 none, 1 Q, 2 G, and number (R290). -/
def semField (w lo : Nat) : Nat × Nat :=
  if bit w (lo + 7) then (if bit w (lo + 6) then 2 else 1, bits w lo 6) else (0, 0)

/-- A Q number above 31 is not valid (R286). -/
def semBad (s : Nat × Nat) : Bool := s.1 == 1 && decide (31 < s.2)

/-- An operation enters its stream's mover queue (R284). -/
def enterMover (x : Fetch) (op : MoveOp) (sem : Nat × Nat) : Eff :=
  { act := modStrm x.f x.st (fun s => { s with movers := s.movers ++ [{ op := op, ser := serOf x.s, sem := sem }] }) }

/-- Source and destination memories open to MOV (R290). -/
def movOpen (st : Nat) (src dst : Place) : Bool :=
  if st = 0 then
    (match src with
     | .side _ => false
     | _ => true) && (match dst with
     | .gddr _ _ => false
     | _ => true)
  else
    (match src with
     | .gddr _ _ => false
     | _ => true) && (match dst with
     | .side _ => false
     | _ => true)

/-- MOV (R290). -/
def movIns (x : Fetch) (_ : Dev) : Ins :=
  let n := rS x (iSrc2 x.w)
  let src := rA x (iSrc1 x.w)
  let dst := rA x (iDst x.w)
  let sem := semField x.w 0
  { used := mDst ||| mSrc1 ||| mSrc2 ||| mBits 0 8, regs := [(iDst x.w, 16), (iSrc1 x.w, 16), (iSrc2 x.w, 32)],
    reads := [(1, iDst x.w), (1, iSrc1 x.w), (0, iSrc2 x.w)],
    run := if n % 64 ≠ 0 ∨ n < 64 ∨ 2 ^ 24 < n then .error fLEN
      else if src % 64 ≠ 0 ∨ dst % 64 ≠ 0 then .error fALIGN
      else if semBad sem then .error fSEM
      else
        match placeOf src n, placeOf dst n with
        | some p, some q => if movOpen x.st p q then .ok (enterMover x (.mov dst src n) sem) else .error fMEM
        | _, _ => .error 1 }

/-- Source formats of WLD: the format stored, and the slots taken (R291). -/
def wldFmt (fmt : Nat) : Option Bool :=
  match Fmt.ofCode fmt with
  | .fp16 => some false
  | .int8 => some false
  | .uint8 => some false
  | .fp32 => some true
  | .bf16 => some true
  | _ => none

/-- Addresses of the rows of a tile. -/
def rowAddr (a pitch i : Nat) : Nat := (a + i * pitch) % 2 ^ 48

/-- The worst place of a tile's rows: fault ADDR, fault MEM, or none. -/
def rowsBad (rows : List (Option Place)) (open_ : Place → Bool) : Option Nat :=
  if rows.any (fun p => p.isNone) then some 1
  else if rows.any (fun p => match p with
    | some q => !open_ q
    | none => false) then some fMEM
  else none

/-- Open to the weight stream: GDDR7 and FLM. -/
def notSide : Place → Bool
  | .side _ => false
  | _ => true

/-- WLD (R291). -/
def wldIns (x : Fetch) (_ : Dev) : Ins :=
  let w := x.w
  let a := rA x (iSrc1 w)
  let pitch := rS x (iDst w)
  let slot := bits w 0 4
  let fmt := bits w 5 3
  let scaled := bit w 8
  let sc := rA x (iSrc2 w)
  let sem := semField w 10
  let n := 64 * (Fmt.ofCode fmt).bytes
  let rows := (List.range 64).map (fun r => placeOf (rowAddr a pitch r) n)
  let rows := if scaled then rows ++ [placeOf sc 64] else rows
  { used := mDst ||| mSrc1 ||| mBits 0 18 ||| (if scaled then mSrc2 else 0),
    regs := [(iDst w, 32), (iSrc1 w, 16)] ++ (if scaled then [(iSrc2 w, 16)] else []),
    reads := [(0, iDst w), (1, iSrc1 w)] ++ (if scaled then [(1, iSrc2 w)] else []),
    run := match wldFmt fmt with
      | none => .error fFMT
      | some wide =>
        if wide ∧ slot % 2 = 1 then .error fFMT
        else if pitch % 64 ≠ 0 then .error fLEN
        else if a % 64 ≠ 0 ∨ (scaled = true ∧ sc % 64 ≠ 0) then .error fALIGN
        else if semBad sem then .error fSEM
        else
          match rowsBad rows notSide with
          | some c => .error c
          | none => .ok (enterMover x (.wld a pitch slot (bits w 4 1) fmt (if scaled then some sc else none) (bit w 9)) sem) }

def resZero : ResSlot := { c := List.replicate 4096 0, sa := zeros 64, sb := zeros 64 }
def opZero : OpSlot := { data := zeros 8192, scale := zeros 64 }

/-- A result slot of an Anvil. -/
def resSlot (d : Dev) (f an k : Nat) : ResSlot := tgetD (forge d f).res (8 * an + k) resZero

/-- One output element of a result slot (R187, R292). -/
def drainElem (fmt : Fmt) (rnd : Num.Rnd) (orm v sa sb : Nat) : Nat × Num.Flags :=
  Num.encode fmt rnd orm (Num.scaleVal (Num.decode .fp32 v) (signed 8 sa + signed 8 sb))

/-- The rows RDR writes, and their flags. -/
def drainRows (r : ResSlot) (fmt : Fmt) (rnd : Num.Rnd) (orm : Nat) (colMajor : Bool) : List Bytes × Num.Flags :=
  let el := fun (i j : Nat) => drainElem fmt rnd orm (r.c.getD (64 * i + j) 0) (byteAt r.sa i) (byteAt r.sb j)
  let rows := (List.range 64).map (fun i => (List.range 64).map (fun j => if colMajor then el j i else el i j))
  (rows.map (fun row => (row.map (fun e => toLE fmt.bytes e.1)).flatten),
   rows.foldl (fun m row => row.foldl (fun m e => m ||| e.2) m) 0)

/-- RDR (R292): the slot is read at issue; its flags land one cycle later (log 28). -/
def rdrIns (x : Fetch) (d : Dev) : Ins :=
  let w := x.w
  let a := rA x (iSrc1 w)
  let pitch := rS x (iSrc2 w)
  let k := bits w 0 3
  let an := bits w 3 1
  let fmt := bits w 4 3
  let f := Fmt.ofCode fmt
  let sem := semField w 8
  let rows := (List.range 64).map (fun r => placeOf (rowAddr a pitch r) (64 * f.bytes))
  { used := mSrc1 ||| mSrc2 ||| mBits 0 16 ||| mBits 32 4, regs := [(iSrc1 w, 16), (iSrc2 w, 32)],
    reads := [(1, iSrc1 w), (0, iSrc2 w), (4, 8 * an + k)],
    run := if 2 < fmt then .error fFMT
      else if 1 < iRnd w ∨ 1 < iOrm w then .error fCTRL
      else if pitch % 64 ≠ 0 then .error fLEN
      else if a % 64 ≠ 0 then .error fALIGN
      else if semBad sem then .error fSEM
      else
        match rowsBad rows (fun p => match p with
          | .flm _ => true
          | _ => false) with
        | some c => .error c
        | none =>
          let r := drainRows (resSlot d x.f an k) f (rndOf w) (iOrm w) (bit w 7)
          let e := enterMover x (.rdr a pitch r.1) sem
          .ok { e with out := flagOut 1 r.2 } }

/-- A mover instruction issues only while its stream's queue has room (R280, R284). -/
def moverIssue (op st' : Nat) (mk : Fetch → Dev → Ins) (f st : Nat) (d : Dev) : Dev :=
  if 16 ≤ (strm d f st).movers.length then d else issue op [st'] mk f st d

def moverRow (op st' : Nat) (mk : Fetch → Dev → Ins) (f st t : Nat) (d : Dev) : Dev := moverIssue op st' mk f st (tick t d)

/-- MOV: opcode 0x40 on LOAD, 0x50 on STORE (Table 10.6). -/
def movRow (f st t : Nat) (d : Dev) : Dev :=
  let d := tick t d
  match fetchNow f st d with
  | some x => if iOp x.w = 0x50 then moverIssue 0x50 1 movIns f st d else moverIssue 0x40 0 movIns f st d
  | none => d

/-- What a mover operation comes to: it completes, or a fault keeps it from completing. -/
inductive Moved where
  | ok (d : Dev)
  | fault (code : Nat) (d : Dev)

/-- A write that is not performed is answered as an uncorrectable read (R333, R339): fault ECC. -/
def wrote (r : Bool × Dev) : Moved := if r.1 then .ok r.2 else .fault 3 r.2

/-- Write bytes at a Forge address for a command, under the stash check (R317). -/
def moveWrite (f st ser a : Nat) (b : Bytes) (d : Dev) : Moved :=
  match placeOf a b.length with
  | none => .fault 1 d
  | some p =>
    if placeBias d b.length p then .fault 2 d
    else
      match p with
      | .side _ => wrote (writePlace f 0 b p d)
      | .flm o =>
        if stashTest d f (mbOfSer d f ser) true a b.length = .fault then .fault 1 d
        else
          let (ok, d) := stashGate f st ser true o b.length d
          if ok then wrote (writePlace f 0 b p d) else .ok d
      | .gddr i _ =>
        if stashTest d f (mbOfSer d f ser) false a b.length = .fault then .fault 1 d
        else
          let (ok, d) := stashGate f st ser false a b.length d
          if ok then wrote (writePlace f (forgeCls f i) b p d) else .ok d

/-- What a mover read of GDDR7 counts (R454): bytes of block 11, and of block 12 those of the weight stream path that go into
operand buffers (R250). -/
def countRead (f st : Nat) (operand : Bool) (a n : Nat) (p : Place) (d : Dev) : Dev :=
  match p with
  | .gddr i _ =>
    let at_ : Attr := { masters := [mForge f, mStream f st], addr := some a }
    when (operand && i == f) (count 12 3 n at_) (count 11 6 n at_ d)
  | _ => d

/-- What a Forge reads of a region an IMG_READ is still writing is undefined (R22): free values. -/
def pagingFree (d : Dev) (a : Nat) (b : Bytes) : Bytes × Dev :=
  let l := (d.fal.reads.map (·.2)).filter (fun r => r.forge && decide (r.dst < a + b.length) && decide (a < r.dst + r.len))
  if l.isEmpty then (b, d)
  else
    let (x, d) := freeBytes b.length d
    ((List.range b.length).map (fun k =>
      if l.any (fun r => decide (r.dst ≤ a + k) && decide (a + k < r.dst + r.len)) then x.getD k 0 else b.getD k 0), d)

/-- Read bytes at a Forge address for a mover. -/
def moveRead (f st : Nat) (operand : Bool) (a n : Nat) (d : Dev) : Except Nat Bytes × Dev :=
  match placeOf a n with
  | none => (.error 1, d)
  | some p =>
    if placeBias d n p then (.error 2, d)
    else
      match readPlace f (match p with
        | .gddr i _ => forgeCls f i
        | _ => 0) n p d with
      | (some b, d) =>
        let (b, d) := pagingFree d a b
        (.ok b, countRead f st operand a n p d)
      | (none, d) => (.error 3, d)

/-- Read rows at a pitch. -/
def moveRows (f st a pitch n : Nat) : Nat → Nat → Dev → Except Nat (List Bytes) × Dev
  | 0, _, d => (.ok [], d)
  | k + 1, i, d =>
    match moveRead f st true (rowAddr a pitch i) n d with
    | (.error c, d) => (.error c, d)
    | (.ok b, d) =>
      match moveRows f st a pitch n k (i + 1) d with
      | (.ok l, d) => (.ok (b :: l), d)
      | (.error c, d) => (.error c, d)

/-- An element as an operand slot holds it (R187, R291). -/
def wldElem (fmt : Fmt) (wide : Bool) (v : Nat) : Bytes :=
  let to_ : Fmt := if wide then .fp32 else .fp16
  toLE to_.bytes ((Num.convert fmt to_ .rne 0 false v).getD (v, 0)).1

/-- A tile of 64 rows as slot bytes, row-major, transposed if asked. -/
def wldTile (fmt : Fmt) (wide tr : Bool) (rows : List Bytes) : Bytes :=
  let e := fmt.bytes
  ((List.range 64).map (fun r => ((List.range 64).map (fun c =>
    let (i, j) := if tr then (c, r) else (r, c)
    wldElem fmt wide (leAt (rows.getD i []) (e * j) e))).flatten)).flatten

/-- A mover operation executes (R284). -/
def execMover (f st : Nat) (m : Mover) (d : Dev) : Moved :=
  match m.op with
  | .mov dst src n =>
    (match moveRead f st false src n d with
     | (.error c, d) => .fault c d
     | (.ok b, d) => moveWrite f st m.ser dst b d)
  | .wld a pitch slot an fmt sc tr =>
    let fm := Fmt.ofCode fmt
    let wide := (wldFmt fmt).getD false
    (match moveRows f st a pitch (64 * fm.bytes) 64 0 d with
     | (.error c, d) => .fault c d
     | (.ok rows, d) =>
       match (match sc with
         | none => (Except.ok (zeros 64), d)
         | some s => moveRead f st true s 64 d) with
       | (.error c, d) => .fault c d
       | (.ok scale, d) =>
         let b := wldTile fm wide tr rows
         let put := fun (k : Nat) (x : Bytes) (d : Dev) =>
           modForge f (fun g => { g with ops := tput g.ops (16 * an + k) { data := x, scale := scale } }) d
         let d := put slot (b.take 8192) d
         .ok (if wide then put (slot + 1) (b.drop 8192) d else d))
  | .rdr dst pitch rows =>
    (List.range 64).foldl (fun (r : Moved) i => match r with
      | .fault c d => .fault c d
      | .ok d => moveWrite f st m.ser (rowAddr dst pitch i) (rows.getD i []) d) (.ok d)

/-- A mover moves no data while its Forge is frozen (R252), nor to or from a device in its retraining window (R19, R342). -/
def moverHeld (d : Dev) (f : Nat) (m : Mover) : Bool :=
  (forge d f).freeze.isSome || (moverGddr m.op).any (fun p => inWindow d p.1)

/-- MOVER_COMPLETE: the operation at the head of a mover queue executes and posts (R284, R285). -/
def moverComplete (f st t : Nat) (d : Dev) : Dev :=
  let d := tick t d
  let s := strm d f st
  match s.movers with
  | [] => d
  | m :: rest =>
    if moverHeld d f m then d
    else
    let e := nowEff d f
    let full := decide (16 ≤ s.movers.length)
    let d := modStrm f st (fun s => { s with movers := rest, next := if full ∧ s.next < e then e else s.next }) d
    let d := if rest.isEmpty then notBefore f st d else d
    match execMover f st m d with
    | .ok d => postSem f m.sem d
    | .fault 3 d => faultSer f st m.ser 3 (modStrm f st (fun s => { s with movers := [] }) d)
    | .fault c d => faultSer f st m.ser c d

/-- The open join a chunk send names: of this Forge's EID, lowest rank first (R294). -/
def joinOf (d : Dev) (f cid : Nat) : Option (Nat × Join) :=
  match forgeEid d f with
  | none => none
  | some eid =>
    let l := d.cru.joins.filter (fun p => p.2.eid == eid && p.2.cid == cid)
    l.foldl (fun b p => match b with
      | none => some p
      | some q => if p.2.rank < q.2.rank then some p else some q) none

/-- Chunks of a join, and the data bytes of one (R193). -/
def joinElems (j : Join) : Nat := chunkElems j.cc (elemW j.op j.fmt)
def joinChunks (j : Join) : Nat := ceilDiv j.count (joinElems j)
def joinBytes (j : Join) (c : Nat) : Nat := elemsOf j.count (joinElems j) c * elemW j.op j.fmt

/-- A send handed to the frame sender. -/
def pushSend (x : Fetch) (s : FSend) : Eff :=
  { act := modForge x.f (fun g => { g with sends := g.sends ++ [s] }) }

def sendZero (x : Fetch) : FSend :=
  { addr := rA x (iSrc1 x.w), len := 0, cells := bits x.w 0 8 + 1, op := 0, dst := 0, tc := bits x.w 34 3, label := 0, body := [],
    land := 0, chunk := none, sem := semField x.w 8, ser := serOf x.s,
    tag := (match x.s.queue with
      | c :: _ => cTag c.b
      | [] => 0), started := false }

/-- SEND_FULL, then an unaligned or unreadable region (R268, R290). -/
def sendRegion (x : Fetch) (d : Dev) (n : Nat) : Option Nat :=
  if 16 ≤ (forge d x.f).sends.length then some 4
  else match flmAt (rA x (iSrc1 x.w)) n 64 with
    | .error c => some c
    | .ok _ => none

/-- Kind 0 of SEND (R294). -/
def sendPlain (x : Fetch) (d : Dev) : Except Nat Eff :=
  let v := rS x (iSrc2 x.w)
  let op := bits v 24 4
  let s := sendZero x
  if bits v 28 4 ≠ 0 ∨ ¬ [0, 1, 3, 6].contains op then .error fARG
  else
    match sendRegion x d (512 * s.cells) with
    | some c => .error c
    | none => .ok (pushSend x { s with len := 512 * s.cells - 32, op := op, dst := v % 2 ^ 24, label := bits x.w 16 16,
                                       land := if op = 1 then rA x (iDst x.w) else 0 })

/-- Kind 1: a COMBINE on a reply handle (R270, R294). -/
def sendReplyKind (x : Fetch) (d : Dev) : Except Nat Eff :=
  let n := rS x (iDst x.w)
  let s := sendZero x
  match (forge d x.f).handles.find? (fun p => p.2.num == rS x (iSrc2 x.w) && p.2.cmds.isSome) with
  | none => .error fARG
  | some (id, h) =>
    if n % 16 ≠ 0 then .error fLEN
    else if s.cells ≠ ceilDiv (32 + n) 512 then .error fARG
    else if h.cells < s.cells then .error 5
    else
      match sendRegion x d n with
      | some c => .error c
      | none =>
        let body := toBE 4 h.step ++ toBE 2 h.gen ++ toBE 4 (h.expert * 2 ^ 24) ++ zeros 8 ++ toBE 2 h.ctx
        let e := pushSend x { s with len := n, op := 9, dst := h.src, label := h.expert, body := body }
        .ok { e with act := fun d => e.act (modForge x.f (fun g => { g with
          handles := tput g.handles id { h with cells := h.cells - s.cells } }) d) }

/-- Kind 2: a chunk of a join (R271, R294). -/
def sendChunk (x : Fetch) (d : Dev) : Except Nat Eff :=
  let c := rS x (iSrc2 x.w)
  let s := sendZero x
  match joinOf d x.f (rS x (iDst x.w)) with
  | none => .error fARG
  | some (id, j) =>
    if joinChunks j ≤ c then .error fARG
    else
      let n := joinBytes j c
      if s.cells ≠ ceilDiv (32 + n) 512 then .error fARG
      else
        match sendRegion x d (ceilDiv n 16 * 16) with
        | some k => .error k
        | none => .ok (pushSend x { s with len := n, op := 4, dst := j.attach + c % j.s, label := j.cid % 65536,
                                           chunk := some (id, c) })

/-- SEND (R293, R294). -/
def sendIns (x : Fetch) (d : Dev) : Ins :=
  let w := x.w
  let kind := bits w 32 2
  let read := bits (rS x (iSrc2 w)) 24 4 == 1
  let dstA := kind == 0 && read
  let dstS := kind == 1 || kind == 2
  { used := mSrc1 ||| mSrc2 ||| mBits 32 5 ||| mBits 0 16 ||| (if kind = 0 ∨ kind = 3 then mBits 16 16 else 0)
      ||| (if dstA || dstS || kind == 3 then mDst else 0),
    regs := [(iSrc1 w, 16), (iSrc2 w, 32)] ++ (if dstA then [(iDst w, 16)] else if dstS then [(iDst w, 32)] else []),
    reads := [(1, iSrc1 w), (0, iSrc2 w)] ++ (if dstA then [(1, iDst w)] else if dstS then [(0, iDst w)] else []),
    run := if semBad (semField w 8) then .error fSEM
      else if kind = 0 then sendPlain x d
      else if kind = 1 then sendReplyKind x d
      else if kind = 2 then sendChunk x d
      else .error fARG }

end Sys2Proof.Machine
end

