-- ==== Sys2Proof/Machine/Joins.lean ====
section
/-! DEFINITION. Members of collectives: joins, chunks and results (R203 to R206, R219, R220, R222). -/

namespace Sys2Proof.Machine

/-- The check value of member data (R222). -/
def memberCheck (d : Dev) (b : Bytes) : Nat := if cruProtect d = 1 then crc32c b else 0

/-- Header bytes 12 to 31 of a member's chunk (R203, R207). -/
def memberBody (d : Dev) (j : Join) (c : Nat) (b : Bytes) : Bytes :=
  chunkBody j.cid j.gen 0 0 c (digestOf j.op j.fmt j.alg j.count j.p j.gen) (memberCheck d b) j.rank

/-- The fields of COLL_JOIN (Table 14.10). -/
def joinFields (e : Bytes) : Join :=
  { cmd := { chan := .own, tag := 0, reqNo := 0, ret := [], att := [] }, cid := leAt e 16 4, gen := leAt e 20 2, rank := leAt e 22 2,
    op := byteAt e 24, fmt := byteAt e 25 % 8, cc := byteAt e 25 / 8 % 8 + 1, alg := byteAt e 25 / 64, p := leAt e 26 2 + 1,
    count := leAt e 28 4 + 1, d := leAt e 32 2, attach := leAt e 34 3, s := 2 ^ (byteAt e 37 % 4), eid := 0,
    forge := if (byteAt e 56).testBit 0 then some (byteAt e 56 / 2 % 16) else none, src := leAt e 40 8, res := leAt e 48 8,
    perChunk := (byteAt e 37).testBit 2,
    sem := if (byteAt e 37).testBit 3 then (if (byteAt e 37).testBit 4 then 2 else 1, byteAt e 39, byteAt e 38) else (0, 0, 0),
    tc := byteAt e 57, next := 0, got := [], flags := 0 }

/-- The checks of a COLL_JOIN (R11, R173, R185, R203, R386, R465). -/
def joinOk (c : Cmd) (e : Bytes) : Bool :=
  let j := joinFields e
  let host := match c.chan with
    | .sq _ => j.src % 64 == 0 && (if j.forge.isSome then forgeAddrOk j.res else j.res % 64 == 0)
    | _ => j.src == 0 && j.res == 0 && j.forge.isSome
  plainOk e [(16, 42)] && decide (j.op < 8) && opFmtOk j.op j.fmt && decide (j.alg < 3) && j.d ≠ 0
  && decide (byteAt e 37 < 32) && decide (byteAt e 38 < 64) && decide (byteAt e 39 < 16) && decide (byteAt e 56 < 32)
  && decide (j.tc < 8) && (j.sem.1 ≠ 1 || decide (byteAt e 38 < 32)) && host && decide (joinChunks j ≤ 2 ^ 24)

/-- COLL_JOIN (R203). -/
def cmdCollJoin (c : Cmd) (e : Bytes) (d : Dev) : Res :=
  if !joinOk c e then bad d
  else
    let j := joinFields e
    let eid := match j.forge with
      | some f => forgeEid d f
      | none => c.sqn.bind (sqEid d)
    match eid with
    | none => .done 4 0 0 d
    | some x =>
      if d.cru.joins.any (fun p => p.2.cid == j.cid && p.2.gen == j.gen && p.2.rank == j.rank) then busyRes d
      else
        .run (modCru (fun u => { u with nextId := u.nextId + 1,
                                        joins := tput u.joins u.nextId { j with cmd := c, eid := x } }) d)

/-- The frame of a join's chunk that a Forge's sender has given to be sent. -/
def sendsChunk (d : Dev) (id f : Nat) : Bool :=
  match (forge d f).sends with
  | s :: _ => s.started && (match s.chunk with
    | some (k, _) => k == id
    | none => false)
  | [] => false

/-- A join ends (R205, R218): no more of its member's chunks are sent; one that waits in a Forge's sender is refused. -/
def closeJoin (id status rank : Nat) (d : Dev) : Dev :=
  match tget d.cru.joins id with
  | none => d
  | some j =>
    let d := modSw (fun w => { w with tx := w.tx.filter (fun p => match p.2.fr.org, p.2.adm with
      | .member k _, none => k != id
      | _, _ => true) }) d
    let mine := d.sw.tx.filter (fun p => match p.2.fr.org, p.2.adm with
      | .forge f _ _ _ _, none => sendsChunk d id f
      | _, _ => false)
    let d := each mine (fun p d => defer (.refused p.2.fr status 0) (modSw (fun w => { w with tx := tdel w.tx p.1 }) d)) d
    complete j.cmd status 0 (j.flags + 2 ^ 16 * rank) (modCru (fun u => { u with joins := tdel u.joins id }) d)

/-- Chunk `c` may be sent under the pacing rule (R206). -/
def paced (j : Join) (c : Nat) : Bool := decide (c < j.d) || j.got.contains (c - j.d)

/-- MEMBER_CHUNK_SEND: the next chunk of a join whose source is in host memory (R204, R206). -/
def memberChunkSend (id : Nat) (d : Dev) : Dev :=
  match tget d.cru.joins id with
  | none => d
  | some j =>
    let c := j.next
    if j.src = 0 ∨ joinChunks j ≤ c ∨ paced j c = false then d
    else
      let n := joinBytes j c
      let b := hostRead d (j.src + c * joinElems j * elemW j.op j.fmt) n
      let fr := ownFrame d 4 j.eid (j.attach + c % j.s) (eidXport d j.eid) (memberBody d j c b) (fit b (ceilDiv n 16 * 16)) (.member id c)
      let d := modCru (fun u => { u with joins := tput u.joins id { j with next := c + 1 } }) d
      sendFrame { fr with label := j.cid % 65536, tc := j.tc } [] d

/-- Result chunks a join waits for (R205, R216). -/
def joinTotal (j : Join) : Nat := if j.op = 6 then j.p else joinChunks j

/-- Bytes of a result chunk, and where they go (R205). -/
def resultBytes (j : Join) (c : Nat) : Nat := if j.op = 6 then j.count * elemW j.op j.fmt else joinBytes j c
def resultAddr (j : Join) (c : Nat) : Nat :=
  j.res + (if j.op = 6 then c * j.count * elemW j.op j.fmt else c * joinElems j * elemW j.op j.fmt)

/-- Write bytes a frame carries at a Forge address (R248, R249, R265, R333): 0, or the status its sender is told, and nothing is
written. -/
def frameWrite (f a : Nat) (b : Bytes) (d : Dev) : Nat × Dev :=
  match placeOf a b.length with
  | none => (0x10, d)
  | some p =>
    if placeBias d b.length p then (0x10, d)
    else
      match p with
      | p =>
        let (ok, d) := writePlace f 3 b p d
        (if ok then 0 else 0x0C, d)

/-- The entry of a result chunk, when there is room for it (R205, R378). -/
def chunkEntry (j : Join) (c : Nat) (d : Dev) : Dev :=
  match j.cmd.chan with
  | .sq q =>
    let k := cqOf d q
    if cqFree d k then writeCq k (cqEntry j.cmd.tag 0 0 c q false true) d
    else modCq k (fun r => { r with lost := (r.lost + 1) % 2 ^ 32 }) d
  | _ => d

/-- A result fails its check at the member device (R222, R223): the join ends with CHECK_FAIL, nodes of the collective here abort, and
the bank that sent it, when it is one of this device, is tested (log 121). -/
def memberFail (id : Nat) (f : RxFrame) (j : Join) (d : Dev) : Dev :=
  let bank := (tget d.tab.ept f.src).bind (fun e => if e.isLocal && !e.mcast && e.kind == 2 then some e.idx else none)
  let d := match bank with
    | some b => bankFail b d
    | none => count 9 5 1 {} (setEvt oCruEvt 1 d)
  let l := d.cru.nodes.filter (fun p => p.2.cid == j.cid && p.2.gen == j.gen)
  each l (fun p d => nodeAbort p.1 0x11 0 none d) (closeJoin id 0x11 0 d)

/-- COLL_RESULT_MEMBER_ARRIVE: the first waiting result of kind 0b00 at a HOSTQ or FORGE endpoint (R205, R220, R222). -/
def memberResult (d : Dev) : Dev :=
  match firstRx d (fun f => (f.code == 0xF8 || f.code == 0xFB) && rxOp f == 5) with
  | none => d
  | some f =>
    let c := fWord f % 2 ^ 24
    let mine := d.cru.joins.filter (fun p => p.2.eid == f.dst && p.2.cid == fCid f && p.2.gen == fGen f)
    if mine.any (fun p => p.2.rank == fTail f && p.2.forge.isSome
        && (gddrRange (resultAddr p.2 c) (resultBytes p.2 c)).any (fun q => inWindow d q.1)) then d else
    let d := takeRx f d
    if f.code = 0xFB ∧ forgeFenced d f.idx = true then gather f.src 4 0 [] (tally 13 0xFB d)
    else if fWord f / 2 ^ 26 % 4 ≠ 0 then tally 13 f.code d
    else if mine.isEmpty then noticeFrom f.dst f.src 8 (slice f.hdr 12 14) (tally 13 f.code d)
    else
      match mine.find? (fun p => p.2.rank == fTail f) with
      | none => tally 13 f.code d
      | some (id, j) =>
        let n := resultBytes j c
        if joinTotal j ≤ c ∨ j.got.contains c = true ∨ f.data.length < n then tally 13 f.code d
        else
          let b := slice f.data 0 n
          if cruProtect d = 1 ∧ crc32c b ≠ beAt f.hdr 26 4 then memberFail id f j d
          else
            match (match j.forge with
              | some k => frameWrite k (resultAddr j c) b d
              | none => (0, hostWrite (resultAddr j c) b d)) with
            | (w + 1, d) => noticeFrom f.dst f.src (w + 1) (slice f.hdr 12 14) (tally 13 f.code d)
            | (0, d) =>
              let k : Join := { j with got := c :: j.got, flags := j.flags ||| (fWord f / 2 ^ 28) }
              let d := modCru (fun u => { u with joins := tput u.joins id k }) d
              let d := match j.sem with
                | (0, _, _) => d
                | (1, k, s) => post k k false s 1 d
                | (_, k, s) => post k k true s 1 d
              let d := if j.perChunk then chunkEntry j c d else d
              if j.got.length + 1 = joinTotal j then closeJoin id 0 0 d else d

/-- A NOTICE of an abort closes the open join it names (R218): the status and the rank it carries. Other NOTICEs, BUSY of R209
among them, leave the join open. -/
def noticeJoin (f : RxFrame) (d : Dev) : Dev :=
  let l := d.cru.joins.filter (fun p => p.2.eid == f.dst && p.2.cid == fCid f && p.2.gen == fGen f)
  if [6, 7, 8, 0x0E, 0x11].contains (beAt f.hdr 26 2) then
    each l (fun p d => closeJoin p.1 (beAt f.hdr 26 2) (beAt f.hdr 28 2) d) d
  else d

/-- NOTICE_RECEIVE at a HOSTQ EID (R379, R218). -/
def noticeReceive (d : Dev) : Dev :=
  match firstRx d (fun f => f.code == 0xF8 && rxOp f == 0xA) with
  | none => d
  | some f => noticeEvent f (noticeJoin f (takeAck f (takeRx f d)))

/-- COLL_ABORT (R219). -/
def cmdCollAbort (_ : Cmd) (e : Bytes) (d : Dev) : Res :=
  let cid := leAt e 16 4
  let gen := leAt e 20 2
  let status := byteAt e 22
  if !plainOk e [(16, 7)] || (status ≠ 7 && status ≠ 0xE) then bad d
  else
    let nodes := d.cru.nodes.filter (fun p => p.2.cid == cid && p.2.gen == gen)
    let joins := d.cru.joins.filter (fun p => p.2.cid == cid && p.2.gen == gen)
    if nodes.isEmpty && joins.isEmpty then
      (if d.cru.tombs.any (fun t => t.cid == cid && t.gen == gen) then okRes d else .done 8 0 0 d)
    else
      let d := each nodes (fun p d => nodeAbort p.1 status 0 none d) d
      okRes (each joins (fun p d => closeJoin p.1 status 0 d) d)

end Sys2Proof.Machine
end

