-- ==== Sys2Proof/Machine/Anvil.lean ====
section
/-! DEFINITION. The Anvils: tile descriptors and tile multiplication under the four flows (R186, R295 to R297, R306 to R308). -/

namespace Sys2Proof.Machine

open Sys2Proof.Num (Fmt)

/-- TLD (R295). -/
def tldIns (x : Fetch) (d : Dev) : Ins :=
  { used := mDst ||| mSrc1, regs := [(iDst x.w, 8), (iSrc1 x.w, 16)], reads := [(1, iSrc1 x.w)],
    run := match flmAt (rA x (iSrc1 x.w)) 16 16 with
      | .error c => .error c
      | .ok o => .ok { out := [(8, .t (iDst x.w) (readLocal d x.f false o 16))] } }

/-- A tile descriptor (Table 10.7). -/
structure TileDesc where
  statAddr : Nat
  statPitch : Nat
  strmPitch : Nat
  statSlot : Nat
  statSrc : Bool
  strmSlot : Nat
  strmSrc : Bool
  res : Nat
  fp32 : Bool
  flow : Nat
  load : Bool
  step : Nat

def tileDesc (b : Bytes) : TileDesc :=
  { statAddr := leAt b 0 6, statPitch := leAt b 6 2, strmPitch := leAt b 8 2, statSlot := byteAt b 10 % 16,
    statSrc := (byteAt b 10).testBit 4, strmSlot := byteAt b 11 % 16, strmSrc := (byteAt b 11).testBit 4, res := byteAt b 12 % 8,
    fp32 := (byteAt b 12).testBit 3, flow := byteAt b 12 / 16 % 4, load := (byteAt b 12).testBit 6, step := byteAt b 13 % 16 }

/-- A reserved field of a descriptor is 0. -/
def tileResv (b : Bytes) : Bool :=
  decide (byteAt b 10 < 32) && decide (byteAt b 11 < 32) && decide (byteAt b 12 < 128) && decide (byteAt b 13 < 16)
  && byteAt b 14 == 0 && byteAt b 15 == 0

def rT (x : Fetch) (r : Nat) : Bytes := fit (tgetD x.s.t r (zeros 16)) 16

/-- Streaming slot of a repeat (R296). -/
def strmSlotOf (x : Fetch) (t : TileDesc) : Nat := (t.strmSlot + x.j * t.step) % 16

/-- Element width of a tile. -/
def tileE (t : TileDesc) : Nat := if t.fp32 then 4 else 2

/-- A tile in FLM: fault, or nothing (R248, R295). -/
def flmTileBad (a pitch e : Nat) : Option Nat :=
  if pitch % 64 ≠ 0 then some fLEN
  else rowsBad ((List.range 64).map (fun r => placeOf (rowAddr a pitch r) (64 * e))) (fun p => match p with
    | .flm _ => true
    | _ => false)

/-- What an MMA checks at issue, the pairing of flow 3 apart (R295, R296). -/
def mmaBad (x : Fetch) : Option Nat :=
  let b := rT x (iSrc1 x.w)
  let t := tileDesc b
  if iRnd x.w ≠ 0 ∨ 1 < iOrm x.w then some fCTRL
  else if !tileResv b then some fTILE
  else if t.fp32 && ((!t.strmSrc && strmSlotOf x t % 2 == 1) || (t.load && !t.statSrc && t.statSlot % 2 == 1)) then some fTILE
  else
    match (if t.strmSrc then flmTileBad (rA x (iSrc2 x.w)) t.strmPitch (tileE t) else none) with
    | some c => some c
    | none => if t.load && t.statSrc && x.j == 0 then flmTileBad t.statAddr t.statPitch (tileE t) else none

/-- The fields an MMA uses. -/
def mmaUsed : Nat := mSrc1 ||| mSrc2 ||| mBits 32 4 ||| mBits 37 1

/-- Registers and slots an MMA reads (R297): the accumulator when it goes on from an earlier instruction's. -/
def mmaReads (x : Fetch) : List (Nat × Nat) :=
  let t := tileDesc (rT x (iSrc1 x.w))
  (3, iSrc1 x.w) :: (if t.strmSrc then [(1, iSrc2 x.w)] else [])
    ++ (if iX x.w && x.j == 0 then [(4, 8 * (x.st - 3) + t.res)] else [])

/-- The fields a pair must have in common (R307). -/
def pairFields (x : Fetch) : Bool × Bool × Nat × Nat × Nat × Nat :=
  let t := tileDesc (rT x (iSrc1 x.w))
  (t.fp32, t.strmSrc, t.strmSlot, t.step, t.strmPitch, if t.strmSrc then rA x (iSrc2 x.w) else 0)

/-- The other Anvil issues a flow-3 MMA in the same cycle, with the same shared tile (R307). -/
def partnerOk (x : Fetch) (d : Dev) : Bool :=
  if (forge d x.f).pair = some (x.e, x.st) then true
  else
    match fetchNow x.f (7 - x.st) d with
    | none => false
    | some y =>
      let t := tileDesc (rT y (iSrc1 y.w))
      iOp y.w == Config.opMma.toNat && y.w &&& (2 ^ 56 - 1 - mmaUsed) == 0 && decide (iSrc1 y.w < 8) && decide (iSrc2 y.w < 16)
      && (mmaBad y).isNone && t.flow == 3 && decide (pairFields x = pairFields y)
      && !(flag d (oForge x.f + 0x20) 0 && (mmaReads y).any (pendingOn d y))

/-- A tile's bytes and scale row from operand slots of an Anvil. -/
def slotTile (d : Dev) (f an k : Nat) (fp32 : Bool) : OpSlot :=
  let g := fun (i : Nat) => tgetD (forge d f).ops (16 * an + i) opZero
  if fp32 then { data := (g k).data ++ (g (k + 1)).data, scale := (g k).scale } else g k

/-- A tile's bytes from FLM; it contributes scales of 0 (R296). -/
def flmTile (d : Dev) (f a pitch e : Nat) : OpSlot :=
  { data := ((List.range 64).map (fun r => memReadN (forge d f).flm (rowAddr a pitch r) (64 * e))).flatten, scale := zeros 64 }

/-- The streaming tile of a repeat; under flow 3 it is ANVIL-L's (R307). -/
def strmTile (x : Fetch) (t : TileDesc) (d : Dev) : OpSlot :=
  if t.strmSrc then flmTile d x.f (rA x (iSrc2 x.w)) t.strmPitch (tileE t)
  else slotTile d x.f (if t.flow = 3 then 0 else x.st - 3) (strmSlotOf x t) t.fp32

/-- The stationary tile after the load of repeat 0 (Table 10.7). -/
def statTile (x : Fetch) (t : TileDesc) (d : Dev) : OpSlot :=
  if t.load ∧ x.j = 0 then
    (if t.statSrc then flmTile d x.f t.statAddr t.statPitch (tileE t) else slotTile d x.f (x.st - 3) t.statSlot t.fp32)
  else tgetD (forge d x.f).stat (x.st - 3) { data := zeros (4096 * tileE t), scale := zeros 64 }

/-- An element of a tile. -/
def tileAt (t : OpSlot) (e i j : Nat) : Nat := leAt t.data (e * (64 * i + j)) e

/-- One output element: a chain of fused multiply-adds, `k` ascending (R186). -/
def mmaElem (f : Fmt) (orm : Nat) (l r : List Nat) (c : Nat) : Nat × Num.Flags :=
  (l.zip r).foldl (fun a p =>
    let s := Num.fma (Num.decode f p.1) (Num.decode f p.2) (Num.decode .fp32 a.1)
    let q := Num.encode .fp32 .rne orm s.1
    (q.1, a.2 ||| s.2 ||| q.2)) (c, 0)

/-- Rows of the left operand and columns of the right one (R296, Table 11.1). -/
def mmaRows (x : Fetch) (t : TileDesc) (p s : OpSlot) : List (List Nat) × List (List Nat) × Bytes × Bytes :=
  let e := tileE t
  let row := fun (m : OpSlot) => (List.range 64).map (fun i => (List.range 64).map (fun k => tileAt m e i k))
  let col := fun (m : OpSlot) => (List.range 64).map (fun j => (List.range 64).map (fun k => tileAt m e k j))
  if t.flow = 0 then (row p, col s, p.scale, s.scale)
  else if t.flow = 1 then (row s, col p, s.scale, p.scale)
  else if t.flow = 2 then (row s, row p, s.scale, p.scale)
  else if x.st = 3 then (row s, col p, s.scale, p.scale)
  else (col p, col s, p.scale, s.scale)

/-- The result slot a repeat goes on from: the one before it in the same REP, else the slot as it stands (R296, R297). -/
def accSlot (x : Fetch) (t : TileDesc) (d : Dev) : ResSlot :=
  let an := x.st - 3
  let last := ((forge d x.f).pend.filterMap (fun p => match p.what with
    | .result a k r => if a = an ∧ k = t.res ∧ p.st = x.st then some r else none
    | _ => none)).getLast?
  if x.j = 0 then resSlot d x.f an t.res else last.getD (resSlot d x.f an t.res)

/-- The result of a repeat and its flags. -/
def mmaResult (x : Fetch) (t : TileDesc) (p s : OpSlot) (d : Dev) : ResSlot × Num.Flags :=
  let (l, r, sa, sb) := mmaRows x t p s
  let fresh := x.j == 0 && !iX x.w
  let old := accSlot x t d
  let f : Fmt := if t.fp32 then .fp32 else .fp16
  let els := ((l.zip (List.range 64)).map (fun li => (r.zip (List.range 64)).map (fun rj =>
    mmaElem f (iOrm x.w) li.1 rj.1 (if fresh then 0 else old.c.getD (64 * li.2 + rj.2) 0)))).flatten
  ({ c := els.map (·.1), sa := if fresh then sa else old.sa, sb := if fresh then sb else old.sb },
   els.foldl (fun m e => m ||| e.2) 0)

/-- Accumulators the manual does not state: the array holds a tile of the other format (log 29); the scale rows are those of R308. -/
def mmaFree (x : Fetch) (t : TileDesc) (p s : OpSlot) (d : Dev) : ResSlot × Num.Flags :=
  let fresh := x.j == 0 && !iX x.w
  let (_, _, sa, sb) := mmaRows x t p s
  let old := if fresh then { resZero with sa := sa, sb := sb } else accSlot x t d
  ({ old with c := (List.range 4096).map (fun i => (Config.freeValue (d.free + i)).toNat % 2 ^ 32) },
   (Config.freeValue (d.free + 4096)).setWidth 4)

/-- MMA (R296, R306, R307). -/
def mmaIns (x : Fetch) (d : Dev) : Ins :=
  let t := tileDesc (rT x (iSrc1 x.w))
  let an := x.st - 3
  { used := mmaUsed, regs := [(iSrc1 x.w, 8), (iSrc2 x.w, 16)], reads := mmaReads x,
    run := match mmaBad x with
      | some c => .error c
      | none =>
        if t.flow = 3 ∧ partnerOk x d = false then .error fTILE
        else
          let p := statTile x t d
          let known := decide (p.data.length = 4096 * tileE t)
          let r := if known then mmaResult x t p (strmTile x t d) d else mmaFree x t p (strmTile x t d) d
          let lat := if t.fp32 then 272 else 80
          .ok { out := (lat, .result an t.res r.1) :: flagOut lat r.2, intv := if t.fp32 then 256 else 64,
                act := fun d =>
                  let d := count 12 (if t.fp32 then 2 else 1) 1 { masters := [mStream x.f x.st], addr := if t.strmSrc then some (rA x (iSrc2 x.w)) else none } d
                  let d := if known then d else { d with free := d.free + 4097 }
                  modForge x.f (fun g => { g with stat := tput g.stat an p,
                                                  pair := if t.flow = 3 then some (x.e, 7 - x.st) else g.pair }) d } }

end Sys2Proof.Machine
end

