-- ==== Sys2Proof/Machine/Temper.lean ====
section
/-! DEFINITION. The Temper: row normalisation and soft-maximum, forward and backward (R298, R323 to R325). -/

namespace Sys2Proof.Machine

open Sys2Proof.Num (Fmt)

/-- An FP32 pattern with the flags gathered on the way to it. -/
abbrev FV := Nat × Num.Flags

def fv (a : Nat) : FV := (a, 0)

/-- An operation of two FP32 operands, rounded once by RNE (R323). -/
def fv2 (op : Fmt → Num.Rnd → Nat → Nat → Nat → Nat × Num.Flags) (orm : Nat) (a b : FV) : FV :=
  let r := op .fp32 .rne orm a.1 b.1
  (r.1, a.2 ||| b.2 ||| r.2)

def fvAdd : Nat → FV → FV → FV := fv2 Num.addF
def fvSub : Nat → FV → FV → FV := fv2 Num.subF
def fvMul : Nat → FV → FV → FV := fv2 Num.mulF
def fvDiv : Nat → FV → FV → FV := fv2 Num.divF
def fvSqrt (orm : Nat) (a : FV) : FV :=
  let r := Num.sqrtF .fp32 orm a.1
  (r.1, a.2 ||| r.2)
def fvExp (orm : Nat) (a : FV) : FV :=
  let r := Num.expF orm a.1
  (r.1, a.2 ||| r.2)

/-- FP32 of a natural number, and 1.0. -/
def fp32Of (n : Nat) : Nat := (Num.encode .fp32 .rne 0 (Num.ofIntVal n)).1
def fpOne : Nat := 0x3F800000

/-- Pairs added in order, one level of the tree. -/
def pairUp (orm : Nat) : List FV → List FV
  | a :: b :: t => fvAdd orm a b :: pairUp orm t
  | l => l

/-- Σ16 (R323): 16 lanes folded in ascending order from +0, then a fixed tree. -/
def sum16v (orm : Nat) (l : List FV) : FV :=
  let lanes := (List.range 16).map (fun k =>
    ((l.zip (List.range l.length)).filter (fun p => p.2 % 16 == k)).foldl (fun a p => fvAdd orm a p.1) (fv 0))
  let t := pairUp orm (pairUp orm (pairUp orm (pairUp orm lanes)))
  match t with
  | [] => fv 0
  | a :: _ => a

/-- Elements of a row, widened exactly to FP32. -/
def tempRow (f : Fmt) (n : Nat) (b : Bytes) : List FV :=
  (List.range n).map (fun i => fv ((Num.convert f .fp32 .rne 0 false (leAt b (f.bytes * i) f.bytes)).getD (0, 0)).1)

/-- A row as written: converted once (R298), with every flag gathered. -/
def outRow (f : Fmt) (orm : Nat) (l : List FV) : Bytes × Num.Flags :=
  let r := l.map (fun a =>
    let q := (Num.convert .fp32 f .rne orm false a.1).getD (0, 0)
    (toLE f.bytes q.1, a.2 ||| q.2))
  ((r.map (·.1)).flatten, r.foldl (fun m p => m ||| p.2) 0)

def flagsOf (l : List FV) : Num.Flags := l.foldl (fun m p => m ||| p.2) 0

/-- TNORM (Table 11.6): the row, and the statistics. -/
def tnormRow (orm n : Nat) (uncentred : Bool) (eps : Nat) (x : List FV) : List FV × FV × FV :=
  let len := fv (fp32Of n)
  let mu := if uncentred then fv 0 else fvDiv orm (sum16v orm x) len
  let dd := if uncentred then x else x.map (fun a => fvSub orm a mu)
  let var := fvDiv orm (sum16v orm (dd.map (fun a => fvMul orm a a))) len
  let rs := fvDiv orm (fv fpOne) (fvSqrt orm (fvAdd orm var (fv eps)))
  (dd.map (fun a => fvMul orm a rs), mu, rs)

/-- TSMAX (Table 11.6). -/
def tsmaxRow (orm : Nat) (x : List FV) : List FV × FV × FV :=
  let m := match x with
    | [] => fv 0
    | a :: t => t.foldl (fun m b => (Num.minmaxF .fp32 true m.1 b.1, 0)) a
  let e := x.map (fun a => fvExp orm (fvSub orm a m))
  let s := sum16v orm e
  (e.map (fun a => fvDiv orm a s), m, s)

/-- TNORMB (Table 11.7). -/
def tnormbRow (orm n : Nat) (uncentred : Bool) (st0 st1 : Nat) (g x : List FV) : List FV :=
  let len := fv (fp32Of n)
  let mu := if uncentred then fv 0 else fv st0
  let rs := fv st1
  let h := x.map (fun a => fvMul orm (fvSub orm a mu) rs)
  let a := if uncentred then fv 0 else fvDiv orm (sum16v orm g) len
  let c := fvDiv orm (sum16v orm ((g.zip h).map (fun p => fvMul orm p.1 p.2))) len
  (g.zip h).map (fun p => fvMul orm rs (fvSub orm (fvSub orm p.1 a) (fvMul orm p.2 c)))

/-- TSMAXB (Table 11.7). -/
def tsmaxbRow (orm : Nat) (recompute : Bool) (st0 st1 : Nat) (g x : List FV) : List FV :=
  let y := if recompute then x.map (fun a => fvDiv orm (fvExp orm (fvSub orm a (fv st0))) (fv st1)) else x
  let q := sum16v orm ((g.zip y).map (fun p => fvMul orm p.1 p.2))
  (g.zip y).map (fun p => fvMul orm p.2 (fvSub orm p.1 q))

/-- Fields of a Temper instruction (R298). -/
def tmIn (w : Nat) : Nat := bits w 15 3
def tmOut (w : Nat) : Nat := bits w 18 3
def tmVar (w : Nat) : Bool := bit w 21

/-- Statistics row of a repeat: its offset in side memory (R298, R323). -/
def statRow (x : Fetch) : Nat := 8 * ((bits x.w 0 15 + x.j) % 32768)

/-- What every Temper instruction checks, and the offsets of its rows. -/
def temperRows (x : Fetch) (back : Bool) : Except Nat (Nat × Nat × Nat) :=
  let w := x.w
  let n := rS x (iSrc2 w)
  let fi := Fmt.ofCode (tmIn w)
  let fo := Fmt.ofCode (tmOut w)
  if 2 < tmIn w ∨ 2 < tmOut w then .error fFMT
  else if iRnd w = 3 ∨ 1 < iOrm w then .error fCTRL
  else if n % 16 ≠ 0 ∨ n < 16 ∨ 16384 < n then .error fLEN
  else
    match flmAt (rA x (iSrc1 w)) (n * fi.bytes) 1, flmAt (rA x (iDst w)) (n * fo.bytes) 1,
        (if back then flmAt (rA x (iSrc1 w + 1)) (n * fi.bytes) 1 else .ok 0) with
    | .ok a, .ok o, .ok b => .ok (a, o, b)
    | .error c, _, _ => .error c
    | _, .error c, _ => .error c
    | _, _, .error c => .error c

def temperIns (eps back noVar : Bool) (run : Fetch → Dev → Nat → Nat → List (Nat × What) × Num.Flags) (x : Fetch) (d : Dev) : Ins :=
  let w := x.w
  let n := rS x (iSrc2 w)
  let c := ceilDiv n 16
  { used := mDst ||| mSrc1 ||| mSrc2 ||| mBits 32 4 ||| mBits 0 (if noVar then 21 else 22),
    regs := [(iDst w, 16), (iSrc1 w + (if back then 1 else 0), 16), (iSrc2 w + (if eps then 1 else 0), 32)],
    reads := [(1, iDst w), (1, iSrc1 w), (0, iSrc2 w)] ++ (if back then [(1, iSrc1 w + 1)] else [])
      ++ (if eps then [(0, iSrc2 w + 1)] else []),
    run := match temperRows x back with
      | .error c => .error c
      | .ok (a, o, b) =>
        let r := run x d a b
        .ok { out := (r.1.map (fun p => (12 + c, match p.2 with
                | .mem false _ y => .mem false o y
                | z => z))) ++ flagOut (12 + c) r.2, intv := c,
              act := count 13 (if back then 2 else 1) 1 { masters := [mForge x.f] } } }

/-- The input row at an FLM offset. -/
def inRow (x : Fetch) (d : Dev) (a : Nat) : List FV :=
  let f := Fmt.ofCode (tmIn x.w)
  let n := rS x (iSrc2 x.w)
  tempRow f n (readLocal d x.f false a (n * f.bytes))

/-- A forward instruction's writes: the row, then the statistics row. -/
def fwdOut (x : Fetch) (r : List FV × FV × FV) : List (Nat × What) × Num.Flags :=
  let o := outRow (Fmt.ofCode (tmOut x.w)) (iOrm x.w) r.1
  ([(0, .mem false 0 o.1), (0, .mem true (statRow x) (toLE 4 r.2.1.1 ++ toLE 4 r.2.2.1))], o.2 ||| r.2.1.2 ||| r.2.2.2)

def backOut (x : Fetch) (l : List FV) : List (Nat × What) × Num.Flags :=
  let o := outRow (Fmt.ofCode (tmOut x.w)) (iOrm x.w) l
  ([(0, .mem false 0 o.1)], o.2)

/-- The statistics row as it stands at issue. -/
def statVals (x : Fetch) (d : Dev) : Nat × Nat :=
  let b := readLocal d x.f true (statRow x) 8
  (leAt b 0 4, leAt b 4 4)

def tnormIns (x : Fetch) (d : Dev) : Ins :=
  temperIns true false false (fun x d a _ =>
    fwdOut x (tnormRow (iOrm x.w) (rS x (iSrc2 x.w)) (tmVar x.w) (rS x (iSrc2 x.w + 1)) (inRow x d a))) x d

def tsmaxIns (x : Fetch) (d : Dev) : Ins :=
  temperIns false false true (fun x d a _ => fwdOut x (tsmaxRow (iOrm x.w) (inRow x d a))) x d

def tnormbIns (x : Fetch) (d : Dev) : Ins :=
  temperIns true true false (fun x d a b =>
    let s := statVals x d
    backOut x (tnormbRow (iOrm x.w) (rS x (iSrc2 x.w)) (tmVar x.w) s.1 s.2 (inRow x d a) (inRow x d b))) x d

def tsmaxbIns (x : Fetch) (d : Dev) : Ins :=
  temperIns false true false (fun x d a b =>
    let s := statVals x d
    backOut x (tsmaxbRow (iOrm x.w) (tmVar x.w) s.1 s.2 (inRow x d a) (inRow x d b))) x d

end Sys2Proof.Machine
end

