-- ==== Sys2Proof/Machine/FFrames.lean ====
section
/-! DEFINITION. Frames in and out of a Forge endpoint, and its bindings (R265 to R271, R273). -/

namespace Sys2Proof.Machine

/-- The chunk at the head of the sender may go (R271). -/
def chunkMayGo (d : Dev) (s : FSend) : Bool :=
  match s.chunk with
  | none => true
  | some (id, c) => (match tget d.cru.joins id with
    | some j => paced j c
    | none => true)

/-- The frame of a send, its data as FLM holds it (R268, R270, R271, R293, R294). -/
def sendOf (d : Dev) (f eid : Nat) (s : FSend) : Frame :=
  let read := fun (n : Nat) => memReadN (forge d f).flm s.addr n
  let kind0 := s.body.isEmpty && s.chunk.isNone
  let region := read (32 + s.len)
  let body := match s.chunk with
    | some (id, c) => (match tget d.cru.joins id with
      | some j => memberBody d j c (read s.len)
      | none => zeros 20)
    | none => if kind0 then slice region 12 20 else s.body
  let n := ceilDiv s.len 16 * 16
  let data := if kind0 then region.drop 32 else read n
  { op := s.op, src := eid, dst := s.dst, tc := s.tc, label := s.label, hdr := frameHdr body, data := data, xport := eidXport d eid,
    furrow := none, direct := none, reply := if s.op = 1 then beAt body 10 4 else 0, seq := none,
    org := .forge f 1 s.tag s.sem.1 s.sem.2 }

/-- The send at the head leaves the sender: its semaphore is posted (R268, R269). -/
def sendGone (f : Nat) (d : Dev) : Dev :=
  match (forge d f).sends with
  | [] => d
  | s :: rest =>
    let d := modForge f (fun x => { x with sends := rest }) d
    postSem f s.sem (if rest.isEmpty then notBefore f 1 d else d)

/-- A send has released its last cell; a READ_REQ now waits for its answer (R294). -/
def sendReleased (f : Nat) (fr : Frame) (d : Dev) : Dev :=
  match (forge d f).sends with
  | [] => d
  | s :: _ =>
    let b := fr.hdr
    let sem := if (byteAt b 20).testBit 7 then (if (byteAt b 20).testBit 6 then 2 else 1, byteAt b 21 % 64) else (0, 0)
    let r : FRead := { dst := s.dst, addr := s.land, sem := sem }
    sendGone f (if s.op = 1 then modForge f (fun x => { x with reads := x.reads ++ [r] }) d else d)

/-- A send was refused, or its join is gone: send-fail, the event and the post (R269). -/
def sendRefused (f : Nat) (d : Dev) : Dev :=
  match (forge d f).sends with
  | [] => d
  | s :: _ =>
    let d := stamp (oForge f + 0x30) 24 (modForge f (fun x => { x with sendFail := true }) d)
    sendGone f (postEvent 0xF (toLE 1 f ++ toLE 4 s.tag) d)

/-- FRAME_SENDER_POST: the send at the head is admitted, sends in the order of issue (R268, R271). -/
def frameSenderPost (f t : Nat) (d : Dev) : Dev :=
  let d := tick t d
  match (forge d f).sends with
  | [] => d
  | s :: rest =>
    if s.started || !chunkMayGo d s then d
    else
      let gone := match s.chunk with
        | some (id, _) => (tget d.cru.joins id).isNone
        | none => false
      match forgeEid d f with
      | none => sendRefused f d
      | some eid =>
        if gone then sendRefused f d
        else
          let fr := sendOf d f eid s
          sendFrame fr [] (modForge f (fun x => { x with sends := { s with started := true } :: rest }) d)

/-- A DISPATCH frame that has not found its rows stands before a frame in its input buffer (R267). -/
def behindDispatch (d : Dev) (f : RxFrame) : Bool :=
  d.sw.rx.any (fun x => x.code == 0xFB && x.idx == f.idx && x.vc == f.vc && rxOp x == 8 && x.claim == .none && decide (x.ord < f.ord))
  || d.sw.reasm.any (fun r => r.code == 0xFB && r.idx == f.idx && r.key.getD 2 0 == f.vc && r.claim == .none && decide (r.ord < f.ord)
      && (r.cells.find? (fun c => c.1 == 0)).any (fun c => byteAt c.2.2 1 == 8))

/-- A frame waiting at a Forge endpoint with an op. -/
def firstForge (d : Dev) (op : Nat) : Option RxFrame :=
  firstRx d (fun f => f.code == 0xFB && rxOp f == op && (!sequenced op || f.accepted) && !behindDispatch d f)

/-- A Forge address in a device in its retraining window: the access waits (R19, R342). -/
def addrHeld (d : Dev) (a n : Nat) : Bool := (gddrRange a n).any (fun p => inWindow d p.1)

/-- A frame to a fenced Forge (R264). -/
def forgeDrop (f : RxFrame) (d : Dev) : Dev := gather f.src 4 0 [] (tally 13 0xFB d)

/-- The NOTICE to the source of a frame discarded at a Forge. -/
def forgeNotice (f : RxFrame) (status : Nat) (d : Dev) : Dev :=
  noticeFrom f.dst f.src status (slice f.hdr 12 14) (tally 13 0xFB d)

/-- Post the semaphore a frame header names in bytes 20 and 21 (Table 9.5); a Q number above 31 names none (log 30). -/
def hdrSem (h : Bytes) : Nat × Nat :=
  if (byteAt h 20).testBit 7 then
    (if (byteAt h 20).testBit 6 then (2, byteAt h 21 % 64) else if byteAt h 21 % 64 < 32 then (1, byteAt h 21 % 64) else (0, 0))
  else (0, 0)

/-- FORGE_WRITE_FRAME (R265, R394). -/
def forgeWriteFrame (d : Dev) : Dev :=
  match firstForge d 3 with
  | none => d
  | some f =>
    if addrHeld d (beAt f.hdr 12 8) f.data.length then d else
    match seqTest d f.src f.dst (rxSeq f) with
    | .accept =>
      let d := seqAccept f.src f.dst (rxSeq f) (takeRx f d)
      let a := beAt f.hdr 12 8
      if forgeFenced d f.idx then forgeDrop f d
      else if 2 ^ 48 ≤ a then forgeNotice f 0x10 d
      else
        match frameWrite f.idx a f.data d with
        | (0, d) => postSem f.idx (hdrSem f.hdr) d
        | (w + 1, d) => forgeNotice f (w + 1) d
    | t => seqReject f t d

/-- FORGE_READ_REQ (R265, R332): the answer echoes the request's header bytes 12 to 31. -/
def forgeReadReq (d : Dev) : Dev :=
  match firstForge d 1 with
  | none => d
  | some f =>
    let a := beAt f.hdr 12 8
    let cells := beAt f.hdr 22 4
    let n := 512 * cells - 32
    if addrHeld d a n then d else
    let d := takeAck f (takeRx f d)
    if forgeFenced d f.idx then forgeDrop f d
    else if 2 ^ 48 ≤ a ∨ cells = 0 ∨ 256 < cells then forgeNotice f 0x10 d
    else
      match placeOf a n with
      | none => forgeNotice f 0x10 d
      | some p =>
        if placeBias d n p then forgeNotice f 0x10 d
        else
          match readPlace f.idx 3 n p d with
          | (none, d) => forgeNotice f 0x0C d
          | (some b, d) => sendFrame (ownFrame d 2 f.dst f.src (eidXport d f.dst) (slice f.hdr 12 20) b .plain) [] d

/-- FORGE_READ_RSP: it answers the oldest READ_REQ this Forge sent to its source (R265, R294). -/
def forgeReadRsp (d : Dev) : Dev :=
  match firstForge d 2 with
  | none => d
  | some f =>
    if ((forge d f.idx).reads.find? (fun r => r.dst == f.src)).any (fun r => addrHeld d r.addr f.data.length) then d else
    let d := takeAck f (takeRx f d)
    if forgeFenced d f.idx then forgeDrop f d
    else
      match (forge d f.idx).reads.find? (fun r => r.dst == f.src) with
      | none => tally 13 0xFB d
      | some r =>
        let d := modForge f.idx (fun x => { x with reads := x.reads.erase r }) d
        match frameWrite f.idx r.addr f.data d with
        | (0, d) => postSem f.idx r.sem d
        | (w + 1, d) => forgeNotice f (w + 1) d

/-- FORGE_NOTICE_RECEIVE (R265, R269, R218): recorded against the join it names, else against a send. -/
def forgeNoticeReceive (d : Dev) : Dev :=
  match firstForge d 0xA with
  | none => d
  | some f =>
    let d := takeAck f (takeRx f d)
    if forgeFenced d f.idx then forgeDrop f d
    else if d.cru.joins.any (fun p => p.2.eid == f.dst && p.2.cid == fCid f && p.2.gen == fGen f) then noticeJoin f d
    else stamp (oForge f.idx + 0x30) 24 (modForge f.idx (fun x => { x with sendFail := true }) d)

/-- A word of a binding (Table 9.10). -/
def bindOff (f i w : Nat) : Nat := oForge f + 0x1000 + 32 * i + 8 * w
def bindWord (d : Dev) (f i w : Nat) : Nat := rg d (bindOff f i w)

/-- The template of a binding as a command for a stream (R266, R273). -/
def bindCmd (d : Dev) (f i st : Nat) (s0 s1 s2 s3 : Nat) : Bytes :=
  let w2 := bindWord d f i 2
  let w3 := bindWord d f i 3
  toLE 4 s0 ++ toLE 4 s1 ++ toLE 4 s2 ++ toLE 4 s3 ++ toLE 4 s2 ++ toLE 2 (bits w2 0 16) ++ toLE 2 (bits w2 16 16)
    ++ toLE 4 (bits w2 32 32) ++ toLE 2 (if st = 0 then bits w3 0 16 else 0) ++ toLE 2 (bits w3 16 16)

/-- Row size in bytes, ring size in rows, and the ring's first byte. -/
def bindRow (d : Dev) (f i : Nat) : Nat := 16 * bits (bindWord d f i 1) 16 16
def bindMax (d : Dev) (f i : Nat) : Nat := bits (bindWord d f i 1) 0 13
def bindInbox (d : Dev) (f i : Nat) : Nat := bits (bindWord d f i 0) 32 24

/-- The checks of R273 on an entry made valid. -/
def bindOk (d : Dev) (f i : Nat) : Bool :=
  let m := bits (bindWord d f i 0) 18 6
  let b := bindCmd d f i 0 0 0 0 0
  m ≠ 0 && cmdOk 0 b && cSwaths b && bindInbox d f i % 64 == 0 && within 1 4096 (bindMax d f i)
  && within 32 (16 * 4097) (bindRow d f i) && decide (bindInbox d f i + bindMax d f i * bindRow d f i ≤ flmSize)

/-- FORGE_BIND_WRITE (R273). -/
def bindWrite (f i w v : Nat) (d : Dev) : Dev :=
  let o := bindOff f i w
  match regOf o with
  | none => d
  | some r =>
    let valid := (bindWord d f i 0).testBit 24
    if valid && !(w == 0 && !v.testBit 24) then d
    else
      let d := putReg o (writeFlds (rg d o) v r.flds) d
      if w = 0 ∧ v.testBit 24 = true ∧ bindOk d f i = false then
        let d := putFld o 24 1 0 d
        let k := oForge f + 0x18
        if flag d k 0 then d else stamp k 0 (putReg k (1 + 16 * 6) d)
      else d

/-- The binding a DISPATCH frame matches (R266). -/
def bindFor (d : Dev) (f : RxFrame) : Option Nat :=
  (List.range 256).find? (fun i =>
    let w := bindWord d f.idx i 0
    w.testBit 24 && bits w 0 10 == beAt f.hdr 30 2 && bits w 10 8 == byteAt f.hdr 18)

/-- The template of a handle is enqueued, unless a stream of its mask is full (R266). -/
def handleEnqueue (f h : Nat) (d : Dev) : Bool × Dev :=
  match tget (forge d f).handles h with
  | none => (true, d)
  | some k =>
    let sts := (List.range 6).filter (fun st => (bits (bindWord d f k.bind 0) 18 6).testBit st)
    if sts.any (queueFull d f) then (false, d)
    else
      let ser := d.forge.ser
      let d := modForge f (fun x => { x with
        handles := tput x.handles h { k with cmds := some ((List.range sts.length).map (ser + ·)) } }) d
      let d := each sts (fun st d => enqueueCmd f st (bindCmd d f k.bind st k.first k.rows k.step k.num) (.binding h) none false d) d
      (true, if forgeFenced d f then forgeFence f d else d)

/-- Waiting enqueues of a Forge, in the order their frames completed (R266). -/
def enqueueWaiting (f : Nat) (d : Dev) : Dev :=
  (((forge d f).handles.filter (fun p => p.2.cmds.isNone)).foldl (fun (a : Bool × Dev) p =>
    if a.1 then handleEnqueue f p.1 a.2 else a) (true, d)).2

/-- A DISPATCH frame is matched at its first cell (R266, R267): refused, or rows of an inbox; none while too few rows are free. -/
def dispatchClaim (f : RxFrame) (d : Dev) : Option (Claim × Dev) :=
  let k := f.idx
  if forgeFenced d k then some (.refused, forgeDrop f d)
  else
    match bindFor d f with
    | none => some (.refused, forgeNotice f 0x10 d)
    | some i =>
      let rb := bindRow d k i
      let n := (512 * beAt f.hdr 2 2 - 32) / rb
      let top := bindMax d k i
      if top < n then some (.refused, forgeNotice f 0x10 d)
      else
        let b := tgetD (forge d k).inbox i { wr := 0, ring := [] }
        if top < b.ring.length + n then none
        else
          let h := (forge d k).nextHandle
          let new := (List.range n).map (fun j => ((b.wr + j) % top, some h))
          let d := modForge k (fun x => { x with
            nextHandle := h + 1, inbox := tput x.inbox i { wr := (b.wr + n) % top, ring := b.ring ++ new } }) d
          some (.rows i h b.wr n (bindInbox d k i) rb top 0, d)

/-- Write frame data from byte `o` on into the rows of a claim (R266). -/
def rowsWrite (k start n base rb top o : Nat) (b : Bytes) (d : Dev) : Dev :=
  let e := min (o + b.length) (n * rb)
  each ((List.range n).filter (fun j => decide (o < rb * (j + 1)) && decide (rb * j < e))) (fun j d =>
    let lo := max o (rb * j)
    let x := slice b (lo - o) (min e (rb * (j + 1)) - lo)
    modForge k (fun g => { g with flm := memWriteN g.flm (base + rb * ((start + j) % top) + (lo - rb * j)) x }) d) d

/-- The data bytes of a cell of a frame, and where they begin in its data: the first cell holds the header. -/
def cellData (c : Nat × Bool × Bytes) : Nat × Bytes := if c.1 = 0 then (0, c.2.2.drop 32) else (512 * c.1 - 32, c.2.2)

/-- A DISPATCH frame being gathered, as far as its header goes. -/
def reasmFrame (r : Reasm) : Option RxFrame :=
  match r.cells.find? (fun c => c.1 == 0) with
  | some c =>
    if r.code = 0xFB ∧ byteAt c.2.2 1 = 8 then
      some { code := r.code, idx := r.idx, src := r.key.getD 0 0, dst := r.key.getD 1 0, tc := r.key.getD 3 0, vc := r.key.getD 2 0,
             dl := r.dl, k := r.cells.length, late := r.late, hdr := c.2.2.take 32, data := [], accepted := false, ord := r.ord,
             claim := r.claim }
    else none
  | none => none

/-- The DISPATCH frames at a Forge that have not been matched, in the order their first cells came. -/
def unclaimed (d : Dev) (k : Nat) : List RxFrame :=
  sortBy (fun a b => decide (a.ord ≤ b.ord))
    ((d.sw.rx.filter (fun f => f.code == 0xFB && rxOp f == 8) ++ d.sw.reasm.filterMap reasmFrame).filter
      (fun f => f.idx == k && f.claim == .none))

/-- Note what a frame has come to. -/
def setClaim (f : RxFrame) (c : Claim) (d : Dev) : Dev :=
  modSw (fun s => { s with
    rx := s.rx.map (fun x => if x = f then { x with claim := c } else x),
    reasm := s.reasm.map (fun r => if (reasmFrame r).any (fun x => decide (x = f)) then { r with claim := c } else r) }) d

/-- Cells of a matched frame that have come are written, and leave the input buffer (R266). -/
def cellsIn (k : Nat) (r : Reasm) (d : Dev) : Dev :=
  match r.claim with
  | .rows b h st n base rb top w =>
    let d := each ((r.cells.drop w).map cellData) (fun c d => rowsWrite k st n base rb top c.1 c.2 d) d
    modSw (fun s => { s with reasm := s.reasm.map (fun x =>
      if x.key == r.key then { x with claim := .rows b h st n base rb top r.cells.length } else x) }) d
  | _ => d

/-- The DISPATCH frames at a Forge move on (R266, R267): the first unmatched one is matched, and those behind it while rows last; what
has come of the matched ones is written. -/
def dispatchGo (k : Nat) (d : Dev) : Dev :=
  let d := ((unclaimed d k).foldl (fun (a : Bool × Dev) f =>
    if a.1 then (match dispatchClaim f a.2 with
      | some (c, d) => (true, setClaim f c d)
      | none => (false, a.2)) else a) (true, d)).2
  each (d.sw.reasm.filter (fun r => r.code == 0xFB && r.idx == k)) (cellsIn k) d

/-- Rows of a binding's inbox are freed for a holder: all, or those not among the first `m` (R266, R267). -/
def releaseRows (k bind h m : Nat) (to_ : Option Nat) (d : Dev) : Dev :=
  modForge k (fun x =>
    let b := tgetD x.inbox bind { wr := 0, ring := [] }
    let ring := (b.ring.foldl (fun (a : Nat × List (Nat × Option Nat)) p =>
      if p.2 = some h then (a.1 + 1, a.2 ++ [(p.1, if a.1 < m then to_ else none)]) else (a.1, a.2 ++ [p])) (0, [])).2
    { x with inbox := tput x.inbox bind { b with ring := ring.dropWhile (fun p => p.2.isNone) } }) d

/-- A matched DISPATCH frame is whole (R266): its length is checked, its last cells are written, the rows beyond it are freed, and its
template is enqueued. -/
def dispatchEnd (f : RxFrame) (d : Dev) : Dev :=
  let k := f.idx
  match f.claim with
  | .rows i h st n base rb top w =>
    let d := takeAck f (takeRx f d)
    let d := rowsWrite k st n base rb top (if w = 0 then 0 else 512 * w - 32) (if w = 0 then f.data else f.data.drop (512 * w - 32)) d
    if forgeFenced d k then forgeDrop f (releaseRows k i h 0 none d)
    else if f.data.length % rb ≠ 0 then forgeNotice f 0x10 (releaseRows k i h 0 none d)
    else
      let m := min n (f.data.length / rb)
      let g := (forge d k).nextHandle
      let d := releaseRows k i h m (some g) d
      let (v, d) := drawFree d
      let hd : Handle := { num := v.toNat % 2 ^ 32, bind := i, src := f.src, step := beAt f.hdr 12 4, gen := beAt f.hdr 16 2,
                           expert := byteAt f.hdr 18, ctx := beAt f.hdr 30 2, cells := beAt f.hdr 22 4, rows := m,
                           first := base + rb * (st % top), told := false, cmds := none }
      enqueueWaiting k (modForge k (fun x => { x with nextHandle := g + 1, handles := tput x.handles g hd }) d)
  | _ => takeRx f d

/-- DISPATCH_INBOX_RESERVE: the frames at the head of a Forge's buffer take rows if enough are free (R267). -/
def inboxReserve (k : Nat) (d : Dev) : Dev := dispatchGo k d

/-- DISPATCH_ARRIVE: the first whole DISPATCH frame that has been matched, or can be (R266). -/
def dispatchArrive (d : Dev) : Dev :=
  let d := each ((d.sw.rx.filter (fun f => f.code == 0xFB && rxOp f == 8)).map (·.idx)).eraseDups dispatchGo d
  match firstRx d (fun f => f.code == 0xFB && rxOp f == 8 && f.claim ≠ .none) with
  | none => d
  | some f => dispatchEnd f d

end Sys2Proof.Machine
end

