-- ==== Sys2Proof/Machine/FTask.lean ====
section
/-! DEFINITION. TASK, IMEM_LOAD and IMEM_SWAP (R257, R258, R264, R303, R304, R312, R313, R318). -/

namespace Sys2Proof.Machine

/-- A TASK's command enters the queue, in its micro-batch if it has one. -/
def taskIn (c : Cmd) (f st : Nat) (b : Bytes) (mb : Option (Nat × Nat)) (close : Bool) (d : Dev) : Res :=
  let ser := d.forge.ser
  let d := match mb with
    | some (slot, id) => modMb slot id (fun m => { m with live := m.live ++ [ser] }) d
    | none => d
  .run (enqueueCmd f st b (.task c) mb close d)

/-- A full queue: QUEUE_FULL for a no-wait TASK, else it waits (R258). -/
def taskFull (nowait : Bool) (d : Dev) : Res := if nowait then .done 3 0 0 d else .wait d

/-- The FWD TASK of a key that holds nothing opens a micro-batch (R313, R316). -/
def mbOpen (d : Dev) (f slot id units : Nat) : Option Dev :=
  let ext := if units = 0 then some none else (placeExtent d f units).map some
  match ext, tget d.adp.slots slot with
  | some x, some s =>
    if 4096 ≤ d.adp.mbs.length then none
    else
      let m : MicroBatch := { slot := slot, id := id, forge := f, version := s.version, units := units, ext := x, old := [],
                              backward := false, recompute := false, again := false, failed := false, dropped := false,
                              live := [], closed := [], past := [] }
      some (modAdp (fun a => { a with mbs := a.mbs ++ [m] }) d)
  | _, _ => none

/-- A BWD TASK joins a micro-batch (R312); the first one of a RECOMPUTE micro-batch reserves a new extent (R318). -/
def mbBackward (d : Dev) (f : Nat) (m : MicroBatch) (units : Nat) : Option Dev :=
  let go := fun (g : MicroBatch → MicroBatch) => some (modMb m.slot m.id (fun m => g { m with backward := true }) d)
  if m.recompute && !m.again then
    if units = 0 then go (fun m => { m with again := true, dropped := false, units := 0 })
    else
      match placeExtent d f units with
      | none => none
      | some x => go (fun m => { m with again := true, dropped := false, units := units, ext := some x })
  else go (fun m => m)

/-- TASK (R257, R312). -/
def cmdTask (c : Cmd) (e : Bytes) (d : Dev) : Res :=
  let b := slice e 16 32
  let f := byteAt e 48 % 16
  let st := byteAt e 48 / 16
  let phase := byteAt e 49 % 4
  let close := (byteAt e 49).testBit 2
  let slot := leAt e 50 2
  let id := leAt e 52 4
  let units := leAt e 56 2
  let nowait := (byteAt e 1).testBit 0
  if !bodyOk e [(16, 42)] || decide (1 < byteAt e 1) || decide (5 < st) || decide (7 < byteAt e 49) || phase == 3
      || decide (4095 < slot) || !cmdOk st b || (phase == 0 && !allZero (slice e 49 9)) then bad d
  else if forgeFenced d f then .done 0x11 0 0 d
  else if phase = 0 then
    if queueFull d f st then taskFull nowait d else taskIn c f st b none false d
  else
    let hosted := match tget d.adp.slots slot with
      | some s => byteAt s.record 2 % 16 == f
      | none => false
    if !hosted then bad d
    else
      match findMb d slot id with
      | none =>
        if phase = 2 then bad d
        else if neverFits d f units then .done 1 0 0 d
        else if queueFull d f st then taskFull nowait d
        else
          (match mbOpen d f slot id units with
           | some d => taskIn c f st b (some (slot, id)) close d
           | none => .wait (waitSwath c d))
      | some m =>
        if phase = 1 then
          if m.backward || (units ≠ 0 && units ≠ m.units) then bad d
          else if queueFull d f st then taskFull nowait d
          else taskIn c f st b (some (slot, id)) close d
        else if m.recompute && !m.again && neverFits d f units then .done 1 0 0 d
        else if queueFull d f st then taskFull nowait d
        else
          match mbBackward d f m units with
          | some d => taskIn c f st b (some (slot, id)) close d
          | none => .wait (waitSwath c d)

/-- IMEM_LOAD (R303). -/
def cmdImemLoad (c : Cmd) (e : Bytes) (d : Dev) : Res :=
  let first := leAt e 24 2
  let n := leAt e 26 2
  let f := byteAt e 28 % 16
  let bank := byteAt e 28 / 16
  if !plainOk e [(16, 13)] || decide (31 < byteAt e 28) || n == 0 || decide (4096 < first + n) then bad d
  else
    match image c (leAt e 16 8) (8 * n) d with
    | none => bad d
    | some b =>
      if forgeFenced d f then .done 0x11 0 0 d
      else if (forge d f).bank = bank ∨ (forge d f).swap.isSome = true then .done 0xA 0 0 d
      else
        let l : ImemLoad := { cmd := c, forge := f, bank := bank, first := first,
                              words := (List.range n).map (fun i => leAt b (8 * i) 8) }
        .run (modForges (fun x => { x with nextId := x.nextId + 1, loads := tput x.loads x.nextId l }) d)

/-- Words into a bank from an index. -/
def putWords (t : Tab Nat) : Nat → List Nat → Tab Nat
  | _, [] => t
  | i, w :: rest => putWords (tput t i w) (i + 1) rest

/-- IMEM_LOAD_DONE (R303). -/
def imemDone (id : Nat) (d : Dev) : Dev :=
  match tget d.forge.loads id with
  | none => d
  | some l =>
    let d := modForges (fun x => { x with loads := tdel x.loads id }) d
    let d := modForge l.forge (fun x =>
      if l.bank = 0 then { x with imem0 := putWords x.imem0 l.first l.words }
      else { x with imem1 := putWords x.imem1 l.first l.words }) d
    complete l.cmd 0 0 0 d

/-- IMEM_SWAP (R304). -/
def cmdImemSwap (c : Cmd) (e : Bytes) (d : Dev) : Res :=
  let f := byteAt e 16
  if !plainOk e [(16, 1)] || decide (15 < f) then bad d
  else if forgeFenced d f then .done 0x11 0 0 d
  else if (forge d f).swap.isSome then busyRes d
  else .run (modForge f (fun x => { x with swap := some c }) d)

end Sys2Proof.Machine
end

