-- ==== Sys2Proof/Machine/Slots.lean ====
section
/-! DEFINITION. Adapter slots: the record, the layout of banks, master copy and state, and the conversion of a master copy to a
bank (R309, R310, R322). -/

namespace Sys2Proof.Machine

/-- Fields of a slot record (Table 11.3). -/
def sSlot (r : Bytes) : Nat := leAt r 0 2
def sForge (r : Bytes) : Nat := byteAt r 2 % 16
def sOpt (r : Bytes) : Nat := byteAt r 3 % 4
def sRnd (r : Bytes) : Nat := byteAt r 3 / 4 % 4
def sOrm (r : Bytes) : Nat := byteAt r 3 / 16 % 4
def sD (r : Bytes) : Nat := leAt r 4 2
def sR (r : Bytes) : Nat := leAt r 6 2
def sBank (r : Bytes) (i : Nat) : Nat := leAt r (8 + 4 * i) 4
def sMaster (r : Bytes) : Nat := leAt r 16 8
def sState (r : Bytes) : Nat := leAt r 24 8
def sSeed (r : Bytes) : Nat := leAt r 32 8
def sWd (r : Bytes) : Nat := leAt r 40 4
def sB1 (r : Bytes) : Nat := leAt r 44 4
def sB2 (r : Bytes) : Nat := leAt r 48 4
def sEps (r : Bytes) : Nat := leAt r 52 4

/-- r_p, and the bytes of a bank, a master copy and the state (R310). -/
def sRp (r : Bytes) : Nat := 64 * ceilDiv (sR r) 64
def bankBytes (r : Bytes) : Nat := 8 * sD r * sRp r
def masterBytes (r : Bytes) : Nat := 8 * sD r * sR r
def stateBytes (r : Bytes) : Nat := masterBytes r * (if sOpt r = 1 then 1 else if sOpt r = 2 then 2 else 0)

/-- A range in usable GDDR7 (R311). -/
def inGddr (a n : Nat) : Bool := (gddrRange a n).isSome

/-- A bank lies in FLM apart from another range. -/
def bankClear (r : Bytes) (a n : Nat) : Bool := !meets (sBank r 0) (bankBytes r) a n && !meets (sBank r 1) (bankBytes r) a n

/-- The checks of DEFINE (R309, R311). -/
def adpRecOk (d : Dev) (r : Bytes) : Bool :=
  let n := bankBytes r
  let o := sOpt r
  decide (sSlot r < 4096) && decide (byteAt r 2 < 16) && decide (byteAt r 3 < 64) && o ≠ 3 && (sRnd r == 0 || sRnd r == 2)
  && decide (sOrm r < 2) && within 64 16384 (sD r) && sD r % 64 == 0 && within 1 256 (sR r)
  && sBank r 0 % 64 == 0 && sBank r 1 % 64 == 0 && decide (sBank r 0 + n ≤ flmSize) && decide (sBank r 1 + n ≤ flmSize)
  && !meets (sBank r 0) n (sBank r 1) n && forgeAddrOk (sMaster r) && forgeAddrOk (sState r)
  && inGddr (sMaster r) (masterBytes r) && (if o = 0 then sState r == 0 else inGddr (sState r) (stateBytes r))
  && (o ≠ 0 || sB1 r == 0) && (o == 2 || (sB2 r == 0 && sEps r == 0)) && allZero (slice r 56 8)
  && bankClear r (stashFlm d (sForge r)).1 (stashFlm d (sForge r)).2
  && d.adp.slots.all (fun p => p.1 == sSlot r || sForge p.2.record ≠ sForge r
      || (bankClear r (sBank p.2.record 0) (bankBytes p.2.record) && bankClear r (sBank p.2.record 1) (bankBytes p.2.record)))

/-- Rounding of a master element to FP16 (R322): update count, matrix, element. -/
def bankRnd (r : Bytes) (t mtx e : Nat) : Num.Rnd :=
  if sRnd r = 2 then Num.sr (BitVec.ofNat 64 (sSeed r)) (BitVec.ofNat 64 (t * 2 ^ 32 + mtx * 2 ^ 30 + e)) else .rne

/-- The FP16 values of a matrix, with every flag. -/
def bankVals (r : Bytes) (t mtx : Nat) (w : List Nat) : List (Nat × Num.Flags) :=
  (w.zip (List.range w.length)).map (fun p => (Num.convert .fp32 .fp16 (bankRnd r t mtx p.2) (sOrm r) false p.1).getD (0, 0))

/-- A matrix of rows × columns, padded: element (i, j) from `g`. -/
def matBytes (rows cols : Nat) (g : Nat → Nat → Nat) : Bytes :=
  ((List.range rows).map (fun i => ((List.range cols).map (fun j => toLE 2 (g i j))).flatten)).flatten

/-- The bytes of a bank for a master copy of FP32 values, A then B (R310, R322), and the flags of the conversion. -/
def bankOf (r : Bytes) (t : Nat) (w : List Nat) : Bytes × Num.Flags :=
  let dd := sD r
  let k := sR r
  let rp := sRp r
  let a := bankVals r t 0 (w.take (dd * k))
  let b := bankVals r t 1 (w.drop (dd * k))
  let ga := fun (i c : Nat) => if c < k then (a.getD (i * k + c) (0, 0)).1 else 0
  let gb := fun (i c : Nat) => if i < k then (b.getD (i * dd + c) (0, 0)).1 else 0
  (matBytes dd rp ga ++ matBytes rp dd (fun i j => ga j i) ++ matBytes rp dd gb ++ matBytes dd rp (fun i j => gb j i),
   (a ++ b).foldl (fun m p => m ||| p.2) 0)

/-- FP32 values of bytes. -/
def fp32s (b : Bytes) : List Nat := (List.range (b.length / 4)).map (fun i => leAt b (4 * i) 4)
def fp32Bytes (l : List Nat) : Bytes := (l.map (toLE 4)).flatten

/-- GDDR7 of a Forge address for the adapter unit or the Fallow controller (R345): the bytes, or the status. -/
def gAddrRead (cls a n : Nat) (d : Dev) : Except Nat Bytes × Dev :=
  if n = 0 then (.ok [], d)
  else
    match gddrRange a n with
    | none => (.error 0x10, d)
    | some (i, o) =>
      if hostBias d i o n then (.error 0x10, d)
      else
        match gRead i o n cls d with
        | (some b, d) => (.ok b, d)
        | (none, d) => (.error 0x0C, d)

def gAddrWrite (cls a : Nat) (b : Bytes) (d : Dev) : Nat × Dev :=
  if b.isEmpty then (0, d)
  else
    match gddrRange a b.length with
    | none => (0x10, d)
    | some (i, o) =>
      if hostBias d i o b.length then (0x10, d)
      else
        let (ok, d) := gWrite i o cls b d
        (if ok then 0 else 0x0C, d)

/-- A slot as CHECKPOINT and COPY write it (R365): header, master copy, state, bank of the current version. -/
def slotImage (s : Slot) (d : Dev) : Except Nat Bytes × Dev :=
  let r := s.record
  let hd := fit r 64 ++ toLE 4 s.version ++ toLE 4 s.t ++ toLE 4 s.p1 ++ toLE 4 s.p2 ++ zeros 48
  match gAddrRead 1 (sMaster r) (masterBytes r) d with
  | (.error c, d) => (.error c, d)
  | (.ok m, d) =>
    match gAddrRead 1 (sState r) (stateBytes r) d with
    | (.error c, d) => (.error c, d)
    | (.ok st, d) =>
      (.ok (hd ++ m ++ st ++ memReadN (forge d (sForge r)).flm (sBank r (s.version % 2)) (bankBytes r)), d)

/-- Bytes of a slot's image. -/
def slotImageBytes (r : Bytes) : Nat := 128 + masterBytes r + stateBytes r + bankBytes r

end Sys2Proof.Machine
end

