-- ==== Sys2Proof/Machine/Fallow.lean ====
section
/-! DEFINITION. The Fallow store: media, LUN operations, erases and the commit sequence (R347 to R357, R361, R363, R364, R367). -/

namespace Sys2Proof.Machine

def modFal (f : Fallow → Fallow) (d : Dev) : Dev := { d with fal := f d.fal }

/-- The store after a module reset: the media and what a format counted stay (R414). -/
def fallowReset (f : Fallow) : Fallow := { fallowZero with blks := f.blks, base := f.base }

/-- Geometry, zeros while there is none. -/
def fgeom (d : Dev) : FGeom := d.fal.geom.getD { page := 0, ppb := 0, blocks := 0, luns := 0 }

/-- Fields of a block address (R350). -/
def bCh (b : Nat) : Nat := b % 32
def bCe (b : Nat) : Nat := b / 32 % 8
def bLun (b : Nat) : Nat := b / 256 % 4
def bNo (b : Nat) : Nat := b / 1024
def lunOf (b : Nat) : Nat := b % 1024

/-- A block; an unlisted one is free. -/
def fblk (d : Dev) (b : Nat) : FBlk := tgetD d.fal.blks b { st := .free, erases := d.fal.base, pages := [], bad := [], reads := 0 }
def setBlk (b : Nat) (x : FBlk) (d : Dev) : Dev := modFal (fun f => { f with blks := tput f.blks b x }) d

/-- A block address of the store. -/
def blkIn (d : Dev) (b : Nat) : Bool :=
  let g := fgeom d
  d.fal.targets.contains (bCh b, bCe b) && decide (bLun b < g.luns) && decide (bNo b < g.blocks) && decide (b < 2 ^ 28)

/-- Blocks of a channel, in ascending address. -/
def chBlks (d : Dev) (ch : Nat) : List Nat :=
  let g := fgeom d
  let ces := (List.range 8).filter (fun ce => d.fal.targets.contains (ch, ce))
  (List.range g.blocks).flatMap (fun n => (List.range g.luns).flatMap (fun l => ces.map (fun ce => ch + 32 * ce + 256 * l + 1024 * n)))

def chTotal (d : Dev) (ch : Nat) : Nat :=
  let g := fgeom d
  (d.fal.targets.filter (fun t => t.1 == ch)).length * g.luns * g.blocks

/-- Channels in use: those with a used target (R348). -/
def chansNow (d : Dev) : List Nat := (List.range 32).filter (fun ch => d.fal.targets.any (fun t => t.1 == ch))

/-- Root blocks of a channel (Commit): the lowest-numbered good blocks among 0 to 63 of LUN 0 of its lowest chip enable. -/
def rootBlks (d : Dev) (ch : Nat) : List Nat :=
  match (List.range 8).find? (fun ce => d.fal.targets.contains (ch, ce)) with
  | none => []
  | some ce =>
    let l := (List.range (min 64 (fgeom d).blocks)).map (fun n => ch + 32 * ce + 1024 * n)
    (l.filter (fun b => (fblk d b).st = .free ∨ (fblk d b).st = .root)).take (if d.fal.chans.length = 1 then 4 else 2)

/-- Pairs of root blocks: channel, first, second. -/
def rootPairs (d : Dev) : List (Nat × Nat × Nat) :=
  d.fal.chans.flatMap (fun ch => match rootBlks d ch with
    | [a, b] => [(ch, a, b)]
    | [a, b, x, y] => [(ch, a, b), (ch, x, y)]
    | _ => [])

/-- Blocks of a channel that are neither free nor erased for use. -/
def chTaken (d : Dev) (ch : Nat) : Nat := (d.fal.blks.filter (fun p => bCh p.1 == ch && decide (p.2.st ≠ .free))).length
def chFree (d : Dev) (ch : Nat) : Nat := chTotal d ch - chTaken d ch

/-- Some channel's free blocks have reached its reserve (R355). -/
def spareLow (d : Dev) : Bool := d.fal.chans.any (fun ch => decide (chFree d ch ≤ tgetD d.fal.reserve ch 0))

def spareTest (d : Dev) : Dev := when (spareLow d) (setEvt oFalEvt 3) d

/-- The free block with the lowest erase count on a channel (Table 13.4); data leaves the reserve alone (R355). -/
def freeBlk (d : Dev) (ch : Nat) (data : Bool) : Option Nat :=
  if data && decide (chFree d ch ≤ tgetD d.fal.reserve ch 0) then none
  else
    let roots := rootBlks d ch
    let l := (chBlks d ch).filter (fun b => (fblk d b).st = .free && !roots.contains b)
    l.foldl (fun m b => match m with
      | none => some b
      | some x => if (fblk d b).erases < (fblk d x).erases then some b else some x) none

/-- Take a block for use. -/
def takeBlk (ch : Nat) (data : Bool) (d : Dev) : Option Nat × Dev :=
  match freeBlk d ch data with
  | none => (none, setEvt oFalEvt 3 d)
  | some b => (some b, spareTest (setBlk b { fblk d b with st := .used } d))

/-- A block on the first of some channels that has one. -/
def takeAny (data : Bool) : List Nat → Dev → Option Nat × Dev
  | [], d => (none, d)
  | ch :: t, d =>
    match takeBlk ch data d with
    | (some b, d) => (some b, d)
    | (none, d) => takeAny data t d

/-- A stripe: one block on every channel in use (R351); none when a channel has no block. -/
def takeStripe (data : Bool) (d : Dev) : Option (List Nat) × Dev :=
  if data ∧ d.fal.chans.any (fun ch => (freeBlk d ch true).isNone) then (none, setEvt oFalEvt 3 d)
  else
    d.fal.chans.foldl (fun (r : Option (List Nat) × Dev) ch => match r with
      | (none, d) => (none, d)
      | (some l, d) => (match takeBlk ch data d with
        | (some b, d) => (some (l ++ [b]), d)
        | (none, d) => (none, d))) (some [], d)

def lunZero : Lun := { wait := [], run := none, since8 := 0 }
def lun (d : Dev) (l : Nat) : Lun := tgetD d.fal.luns l lunZero
def modLun (l : Nat) (f : Lun → Lun) (d : Dev) : Dev := modFal (fun x => { x with luns := tput x.luns l (f (tgetD x.luns l lunZero)) }) d

def jobBlk : FJob → Nat
  | .prog b _ _ _ => b
  | .read _ b _ _ _ _ => b
  | .erase b _ => b

/-- Operations waiting or running everywhere. -/
def allOps (d : Dev) : List LunOp := d.fal.luns.flatMap (fun p => p.2.wait ++ p.2.run.toList)

/-- An operation joins its LUN's queue (R361). -/
def pushOp (cls : Nat) (job : FJob) (d : Dev) : Dev :=
  let o : LunOp := { cls := cls, ord := d.fal.nextId, job := job }
  modLun (lunOf (jobBlk job)) (fun l => { l with wait := l.wait ++ [o] }) (modFal (fun f => { f with nextId := f.nextId + 1 }) d)

/-- Programs of a block that wait or run. -/
def progsOf (d : Dev) (b : Nat) : Nat :=
  ((allOps d).filter (fun o => match o.job with
    | .prog x _ _ _ => x == b
    | _ => false)).length

/-- A block is in a batch of erases and not yet erased (R357). -/
def erasing (d : Dev) (b : Nat) : Bool := d.fal.batches.any (fun p => p.2.left.contains b)

/-- The next page of a block to be programmed (R350); one that is being erased begins again at page 0. -/
def nextPage (d : Dev) (b : Nat) : Nat := (if erasing d b then 0 else (fblk d b).pages.length) + progsOf d b

def progPage (cls b : Nat) (p : FPage) (own : FOwner) (d : Dev) : Dev := pushOp cls (.prog b (nextPage d b) p own) d

/-- The active root block of a pair: the one being erased takes the place of the full one (Commit). -/
def activeRoot (d : Dev) (a b : Nat) : Nat :=
  if erasing d a then a else if erasing d b then b else if (fgeom d).ppb ≤ nextPage d a then b else a

/-- The pair whose active root block takes the notes of a batch (R357): for a root block, that of the partner channel of R363, or the
other pair of a store of one channel. -/
def notePair (d : Dev) (l : List Nat) : Option (Nat × Nat × Nat) :=
  let ps := rootPairs d
  match ps.find? (fun p => l.contains p.2.1 || l.contains p.2.2) with
  | none => ps.head?
  | some p =>
    let w := d.fal.chans.length
    let ch := d.fal.chans.getD ((d.fal.chans.idxOf p.1 + ceilDiv w 2) % w) 0
    (ps.find? (fun q => decide (q ≠ p) && (w == 1 || q.1 == ch))).or (ps.find? (fun q => decide (q ≠ p)))

/-- Program a page of a pair; when it fills the block, the erase of the other begins with its note (Commit, R357). The fuel is the number
of pairs that notes may fill in turn. -/
def progRootN : Nat → Nat → Nat → FPage → FOwner → Dev → Dev
  | 0, _, _, _, _, d => d
  | n + 1, a, b, p, own, d =>
    let r := activeRoot d a b
    let o := if r = a then b else a
    let d := progPage 1 r p own (setBlk r { fblk d r with st := .root } d)
    if nextPage d r ≠ (fgeom d).ppb ∨ (fblk d o).pages.isEmpty = true ∨ erasing d o = true then d
    else
      match notePair d [o] with
      | none => d
      | some (_, x, y) =>
        let id := d.fal.nextId
        progRootN n x y (.note [o]) (.note id)
          (modFal (fun f => { f with nextId := id + 1, batches := tput f.batches id { left := [o], blks := [o], noted := false } }) d)

def progRoot (a b : Nat) (p : FPage) (own : FOwner) (d : Dev) : Dev := progRootN 64 a b p own d

/-- Health events of a NAND block (R353, Table 15.2). -/
def nandEvent (b : Nat) (d : Dev) : Dev := scoreEvent 7 9 b d

/-- A block of the store is retired (R355): its pages are moved when its turn comes. -/
def retireBlk (b : Nat) (d : Dev) : Dev :=
  if (fblk d b).st = .bad then d
  else
    let keep := !(fblk d b).pages.isEmpty && decide ((fblk d b).st = .used)
    let d := setBlk b { fblk d b with st := .bad } (setEvt oFalEvt 2 d)
    spareTest (modFal (fun f => { f with retiredSince := true,
                                         reloc := if keep && !f.reloc.contains b then f.reloc ++ [b] else f.reloc }) d)

/-- Blocks that must stay: named by the catalogue, an open version, a read or a commit, or with an operation (R354, R360). -/
def namedBlks (d : Dev) : List Nat :=
  let f := d.fal
  let man := fun (m : Manifest) => m.stripes.flatten
  f.cat.ids.flatMap (fun p => man p.2.1 ++ [p.2.2 / 4096]) ++ f.cat.pages.map (·.1) ++ f.opens.flatMap (fun o => o.stripes.flatten)
    ++ f.reads.flatMap (fun p => man p.2.man)
    ++ f.commits.flatMap (fun c => c.mans.flatMap man ++ (match c.cat with
      | some k => k.ids.flatMap (fun p => [p.2.2 / 4096]) ++ k.pages.map (·.1)
      | none => []))
    ++ f.batches.flatMap (fun p => p.2.left) ++ (allOps d).map (fun o => jobBlk o.job)

/-- A batch of erases begins with its note (R357). -/
def startBatch (l : List Nat) (d : Dev) : Dev :=
  match l, notePair d l with
  | [], _ => d
  | _, none => d
  | l, some (_, a, b) =>
    let id := d.fal.nextId
    let x : EraseBatch := { left := l, blks := l, noted := false }
    progRoot a b (.note l) (.note id) (modFal (fun f => { f with nextId := id + 1, batches := tput f.batches id x }) d)

/-- Lists of at most 512. -/
def batchesOf : Nat → List Nat → List (List Nat)
  | 0, _ => []
  | n + 1, l => if l.isEmpty then [] else l.take 512 :: batchesOf n (l.drop 512)

/-- Blocks no longer needed are erased and become free (R357, R363). -/
def freeGarbage (d : Dev) : Dev :=
  let keep := namedBlks d
  let l := (d.fal.blks.filter (fun p => decide (p.2.st = .used) && !keep.contains p.1)).map (·.1)
  each (batchesOf (l.length + 1) l) startBatch d

/-- Place of data page `q` of an image (R351): block and page. -/
def placeData (w ppb : Nat) (stripes : List (List Nat)) (q : Nat) : Nat × Nat :=
  ((stripes.getD (q / (w * ppb)) []).getD (q % w) 0, q / w % ppb)

/-- A codeword of a page, decoded (Table 13.3): its kind, index, image ID and version, page index, and, for image data, its 4,096 bytes.
The spec gives the other kinds no byte layout: their content stands decoded in the page. -/
structure Codeword where
  kind : Nat
  index : Nat
  id : Nat
  ver : Nat
  page : Nat
  data : Bytes
deriving DecidableEq, Repr

/-- Codeword `k` of a page (R352). -/
def codeword (p : FPage) (k : Nat) : Codeword :=
  match p with
  | .image id ver q x => { kind := 1, index := k, id := id, ver := ver, page := q, data := fit (slice x (4096 * k) 4096) 4096 }
  | .manifest m => { kind := 2, index := k, id := m.id, ver := m.ver, page := 0, data := [] }
  | .catalogue _ => { kind := 3, index := k, id := 0, ver := 0, page := 0, data := [] }
  | .record _ => { kind := 4, index := k, id := 0, ver := 0, page := 0, data := [] }
  | .note _ => { kind := 5, index := k, id := 0, ver := 0, page := 0, data := [] }
  | .finished _ => { kind := 5, index := k, id := 0, ver := 0, page := 0, data := [] }

/-- The 4,112 bytes before the parity of a codeword that carries data (Table 13.3). -/
def codewordBytes (c : Codeword) : Bytes := toLE 1 c.kind ++ toLE 1 c.index ++ zeros 2 ++ toLE 4 c.id ++ toLE 4 c.ver ++ toLE 4 c.page ++ c.data

/-- Codewords of a page. -/
def cwsOfPage (d : Dev) : Nat := (fgeom d).page / 4096

/-- A codeword does not decode. -/
def flashLost (d : Dev) (b page k : Nat) : Bool := (tget (fblk d b).bad (8 * page + k)).isSome

/-- Some codeword of a page does not decode. -/
def pageLost (d : Dev) (b page : Nat) : Bool := (List.range (cwsOfPage d)).any (flashLost d b page)

/-- The bytes of a committed image as the media hold them; none when a codeword of it does not decode (R353). -/
def imageBytes (d : Dev) (m : Manifest) : Option Bytes :=
  let part := fun (q : Nat) =>
    let (b, p) := placeData m.w m.ppb m.stripes q
    let n := min (m.p / 4096) (ceilDiv (m.len - q * m.p) 4096)
    match tget (fblk d b).pages p with
    | some x => if (List.range n).any (flashLost d b p) then none else some (((List.range n).map (fun k => (codeword x k).data)).flatten)
    | none => none
  let l := (List.range (ceilDiv m.len m.p)).map part
  if l.any (·.isNone) then none else some ((l.map (·.getD [])).flatten.take m.len)

/-- Give data pages to be programmed, taking stripes as needed (R351): pages done, stripes, whether all were placed. -/
def placePages (cls id ver : Nat) (own : FOwner) : List Bytes → Nat → List (List Nat) → Dev → Nat × List (List Nat) × Bool × Dev
  | [], q, st, d => (q, st, true, d)
  | x :: rest, q, st, d =>
    let w := d.fal.chans.length
    let ppb := (fgeom d).ppb
    let go := fun (st : List (List Nat)) (d : Dev) =>
      let (b, _) := placeData w ppb st q
      placePages cls id ver own rest (q + 1) st (progPage cls b (.image id ver q x) own d)
    if q / (w * ppb) < st.length then go st d
    else
      match takeStripe true d with
      | (some s, d) => go (st ++ [s]) d
      | (none, d) => (q, st, false, d)

/-- The block table (R356). -/
def blockTable (d : Dev) : Tab (BlkState × Nat) := tmap (fun b => (b.st, b.erases)) d.fal.blks

/-- Cycles of an hour of module time (R399). -/
def hourCycles : Nat := 3600 * 3300000000

/-- The block table is due (R356). -/
def tableDue (d : Dev) : Bool := d.fal.retiredSince || decide (hourCycles ≤ d.clk.now - d.fal.tableAt)

def setCommit (c : FCommit) (d : Dev) : Dev := modFal (fun f => { f with commits := c :: f.commits.drop 1 }) d
def dropCommit (d : Dev) : Dev := modFal (fun f => { f with commits := f.commits.drop 1 }) d

/-- A manifest of this store. -/
def newManifest (d : Dev) (id ver len : Nat) (ckpt : Bool) (all : Bytes) (st : List (List Nat)) : Manifest :=
  { id := id, ver := ver, rev := 0, ckpt := ckpt, len := len, p := (fgeom d).page, ppb := (fgeom d).ppb, w := d.fal.chans.length,
    crc := crc32c (all.take len), stripes := st, seq := 0 }

def openOf (d : Dev) (id : Nat) : Option OpenVer := d.fal.opens.find? (fun o => o.id == id)
def dropOpen (id : Nat) (d : Dev) : Dev := modFal (fun f => { f with opens := f.opens.filter (fun o => o.id ≠ id) }) d

/-- A page padded with zeros. -/
def padPages (p : Nat) (b : Bytes) : List Bytes := (chunks p b).map (fun x => fit x p)

/-- Slots a CHECKPOINT reads, one at a time, none of them while an update of it applies (R23, R365). -/
def readSlots : List Nat → Bytes → Dev → Except Nat (List Nat × Bytes) × Dev
  | [], img, d => (.ok ([], img), d)
  | s :: rest, img, d =>
    match tget d.adp.slots s with
    | none => (.error 0x10, d)
    | some x =>
      if (match x.upd with
          | some u => u.applying
          | none => false) then (.ok (s :: rest, img), d)
      else
        match slotImage x d with
        | (.error c, d) => (.error c, d)
        | (.ok b, d) => readSlots rest (img ++ b) d

/-- What a step of the engine comes to: it goes on at once, waits, or the commit has ended. -/
inductive Adv where
  | more (d : Dev)
  | hold (d : Dev)

/-- The answer of a replica to the source (R366). -/
def replicaAnswer (r : ReplIn) (status : Nat) (d : Dev) : Dev :=
  let body := toBE 4 r.id ++ zeros 6 ++ toBE 4 r.ver ++ toBE 2 status ++ zeros 4
  sendFrame (ownFrame d 0xC r.dst r.src (eidXport d r.dst) body [] .plain) []
    (modFal (fun f => { f with replIn := f.replIn.filter (fun x => x ≠ r) }) d)

/-- A commit ends for a replica's source. -/
def replicaCommitted (id ver status : Nat) (d : Dev) : Dev :=
  each (d.fal.replIn.filter (fun r => r.id == id && r.ver == ver)) (fun r d => replicaAnswer r status d) d

/-- A commit at the head of the queue ends: its completion, and the answer where it is a replica's (R359, R366). -/
def commitEnd (c : FCommit) (status : Nat) (d : Dev) : Dev :=
  let d := complete c.cmd status 0 (d.fal.seq % 2 ^ 32) (dropCommit d)
  if c.kind = .write then replicaCommitted c.id c.ver status d else d

/-- The commit cannot find a block (log 34). -/
def commitFull (c : FCommit) (d : Dev) : Dev := freeGarbage (commitEnd c 2 d)

/-- Replace a block in stripes. -/
def substBlk (old new : Nat) (st : List (List Nat)) : List (List Nat) := st.map (fun l => l.map (fun b => if b = old then new else b))

/-- Step 1 of R363: the data pages still unprogrammed. -/
def commitData (c : FCommit) (d : Dev) : Adv :=
  let next := fun (c : FCommit) (n : Nat) (d : Dev) => Adv.more (setCommit { c with step := 1, left := n } d)
  match c.kind with
  | .write =>
    (match openOf d c.id with
     | none =>
       let held := match tget d.fal.cat.ids c.id with
         | some (m, _) => m.ver == c.ver
         | none => false
       .more (commitEnd c (if held then 0 else 0x10) d)
     | some o =>
       match placePages 5 c.id c.ver (.commit c.no) (padPages (fgeom d).page o.held) o.pages o.stripes d with
       | (q, st, true, d) =>
         let m := newManifest d c.id c.ver c.len false o.all st
         let o' : OpenVer := { o with held := [], pages := q, stripes := st }
         let d := modFal (fun f => { f with opens := f.opens.map (fun x => if x.id = c.id then o' else x) }) d
         next { c with mans := [m] } (q - o.pages) d
       | (_, _, false, d) => .more (commitFull c d))
  | .ckpt slots img reps =>
    (match readSlots slots img d with
     | (.error s, d) => .more (complete c.cmd s 0 0 (dropCommit (when (s == 0x0C) (cause 20) d)))
     | (.ok ([], img), d) =>
       (match placePages 5 c.id c.ver (.commit c.no) (padPages (fgeom d).page img) 0 [] d with
        | (q, st, true, d) => next { c with kind := .ckpt [] img reps, mans := [newManifest d c.id c.ver img.length true img st],
                                            len := img.length } q d
        | (_, _, false, d) => .more (commitFull c d))
     | (.ok (rest, img), d) => .hold (setCommit { c with kind := .ckpt rest img reps } d))
  | .reloc old new =>
    let hit := fun (m : Manifest) => m.stripes.any (fun l => l.contains old)
    let ms := d.fal.cat.ids.filterMap (fun p =>
      if hit p.2.1 then some { p.2.1 with rev := p.2.1.rev + 1, stripes := substBlk old new p.2.1.stripes } else none)
    let x := fblk d old
    next { c with mans := ms } x.pages.length (each x.pages (fun p d => progPage 8 new p.2 (.commit c.no) d)
      (setBlk new { fblk d new with bad := tmap (fun _ => true) x.bad } d))
  | .delete =>
    (match tget d.fal.cat.ids c.id with
     | some (m, _) =>
       if m.ver = c.ver then next c 0 d
       else .more (commitEnd c (if c.ver < m.ver then 0 else 0x10) d)
     | none => .more (commitEnd c 0 d))
  | .table => next c 0 d
  | .format => next c 0 d

/-- The catalogue a commit makes current, its manifests from page 0 of block `b` (R359, R363). -/
def commitCat (c : FCommit) (b : Nat) (d : Dev) : Catalogue :=
  let ids := match c.kind with
    | .format => []
    | .delete => tdel d.fal.cat.ids c.id
    | .reloc old new => tmap (fun e => (e.1, if e.2 / 4096 = old then 4096 * new + e.2 % 4096 else e.2)) d.fal.cat.ids
    | _ => d.fal.cat.ids
  let ids := (c.mans.zip (List.range c.mans.length)).foldl (fun t p => 
    tput t p.1.id ({ p.1 with seq := if p.1.rev = 0 then d.fal.top + 1 else p.1.seq }, 4096 * b + p.2)) ids
  { ids := ids, table := if tableDue d then some (blockTable d) else d.fal.cat.table, pages := [(b, c.mans.length)] }

/-- Channels of the two record copies of sequence s (R363). -/
def copyChans (d : Dev) (s : Nat) : List Nat :=
  let l := d.fal.chans
  let w := l.length
  let pick := fun (i : Nat) (avoid : List Nat) =>
    ((List.range w).map (fun k => l.getD ((i + k) % w) 0)).find? (fun ch => (chansNow d).contains ch && !avoid.contains ch)
  match pick (s % w) [] with
  | none => []
  | some a => a :: (pick ((s + ceilDiv w 2) % w) [a]).toList

/-- Program the copies of the record of commit `n` (R363). -/
def progRecord (n : Nat) (r : CommitRec) (d : Dev) : Nat × Dev :=
  let pairs := rootPairs d
  let l := if d.fal.chans.length = 1 then pairs
    else (copyChans d r.s).filterMap (fun ch => pairs.find? (fun p => p.1 == ch))
  (l.length, each l (fun p d => progRoot p.2.1 p.2.2 (.record r) (.commit n) d) d)

/-- Data of an open version still in the LUNs' queues. -/
def dataBusy (d : Dev) (id ver : Nat) : Bool :=
  (allOps d).any (fun o => match o.job with
    | .prog _ _ (.image i v _ _) _ => i == id && v == ver
    | _ => false)

/-- A commit programs the manifest of an IMG_WRITE or a CHECKPOINT, which leaves the reserve alone (R355). -/
def newImage (c : FCommit) : Bool :=
  match c.kind with
  | .write => true
  | .ckpt _ _ _ => true
  | _ => false

/-- The commit at the head goes one step on (R363). -/
def commitOne (d : Dev) : Adv :=
  match d.fal.commits with
  | [] => .hold d
  | c :: _ =>
    if c.step = 0 then commitData c d
    else if c.left ≠ 0 then .hold d
    else if c.step = 1 then
      if dataBusy d c.id c.ver then .hold d
      else
        match takeAny (newImage c) (d.fal.chans.drop ((d.fal.top + 1) % d.fal.chans.length) ++ d.fal.chans) d with
        | (none, d) => .more (commitFull c d)
        | (some b, d) =>
          let cat := commitCat c b d
          .more (setCommit { c with step := 2, left := c.mans.length, cat := some cat }
            (each c.mans (fun m d => progPage 3 b (.manifest m) (.commit c.no) d) d))
    else if c.step = 2 then
      match c.cat with
      | some k =>
        let b := (k.pages.headD (0, 0)).1
        .more (setCommit { c with step := 3, left := 1 } (progPage 3 b (.catalogue k) (.commit c.no) d))
      | none => .hold d
    else if c.step = 3 then
      match c.cat with
      | some k =>
        let s := d.fal.top + 1
        let r : CommitRec := { s := s, geom := fgeom d, w := d.fal.chans.length, chans := d.fal.chans, cat := k }
        let (n, d) := progRecord c.no r (modFal (fun f => { f with top := s }) d)
        .hold (setCommit { c with step := 4, left := n, seq := s } d)
      | none => .hold d
    else .hold d

/-- The engine runs until the head of the queue waits; the fuel covers every step of every commit. -/
def commitRun : Nat → Dev → Dev
  | 0, d => d
  | n + 1, d =>
    match commitOne d with
    | .more d => commitRun n d
    | .hold d => d

def commitGo (d : Dev) : Dev := commitRun (5 * d.fal.commits.length + 1) d

/-- A commit joins the queue (R363). -/
def addCommit (cmd : Cmd) (kind : FKind) (id ver len : Nat) (d : Dev) : Dev :=
  let c : FCommit := { no := d.fal.nextId, cmd := cmd, kind := kind, id := id, ver := ver, len := len, step := 0, left := 0, mans := [], cat := none, seq := 0 }
  commitGo (modFal (fun f => { f with nextId := f.nextId + 1, commits := f.commits ++ [c] }) d)

/-- Class of a waiting operation (Table 13.6); an IMG_READ's follows its priority. -/
def opCls (d : Dev) (o : LunOp) : Nat :=
  match o.job with
  | .read n _ _ _ _ _ => (match tget d.fal.reads n with
    | some r => (match r.prio with
      | 0 => 2 | 1 => 4 | 2 => 6 | _ => 7)
    | none => 7)
  | _ => o.cls

/-- An operation may begin: a page is programmed when every page before it is (R350) and the block's erase is done; a root block is erased
once its partner's last page is programmed (Commit). -/
def opTurn (d : Dev) (o : LunOp) : Bool :=
  match o.job with
  | .prog b page _ _ => page == (fblk d b).pages.length && !erasing d b
  | .erase b _ => !(rootPairs d).any (fun p =>
      (p.2.1 == b && nextPage d p.2.2 == (fgeom d).ppb && decide (progsOf d p.2.2 ≠ 0))
      || (p.2.2 == b && nextPage d p.2.1 == (fgeom d).ppb && decide (progsOf d p.2.1 ≠ 0)))
  | .read _ _ _ _ _ _ => true

/-- The operation a LUN serves next (R361). -/
def nextOp (d : Dev) (l : Lun) : Option LunOp :=
  let turn := l.wait.filter (opTurn d)
  let best := fun (ops : List LunOp) => ops.foldl (fun (m : Option LunOp) o => match m with
    | none => some o
    | some x => if opCls d o < opCls d x ∨ (opCls d o = opCls d x ∧ o.ord < x.ord) then some o else some x) none
  let low := best (turn.filter (fun o => opCls d o == 8))
  if 31 ≤ l.since8 ∧ low.isSome = true then low else best turn

/-- A page has been read (R354, Table 13.4). -/
def pageRead (b : Nat) (d : Dev) : Dev :=
  let x := fblk d b
  let d := setBlk b { x with reads := x.reads + 1 } d
  if fld d 0x480008 20 20 ≤ x.reads + 1 && x.st = .used && !d.fal.reloc.contains b then modFal (fun f => { f with reloc := f.reloc ++ [b] }) d else d

/-- Levels of the personality table in use (R349). -/
def persLevels (d : Dev) : Nat :=
  match d.fal.pers with
  | some b => byteAt b 6
  | none => 0

/-- A codeword is read (R353): decoded hard at the default level, then after the reread at each table level in turn, until one succeeds.
The answer is the bits corrected, none when every level has failed; a heavy correction or a failure is reported. -/
def decodeCw (nand : List NandErr) (b page k : Nat) (d : Dev) : Option Nat × Dev :=
  let key := 8 * page + k
  let old := tget (fblk d b).bad key
  let levels := persLevels d
  let tries : List (Option Nat) :=
    if old = some true then List.replicate (levels + 1) none
    else
      match nand.find? (fun e => e.page == page && e.cw == k) with
      | some e => (e.tries ++ List.replicate levels none).take (levels + 1)
      | none => if old.isSome then List.replicate (levels + 1) none else [some 0]
  let used := (tries.takeWhile (·.isNone)).length
  let got := (tries.getD used none)
  let d := count 16 1 1 { addr := some b } d
  let d := when (decide (0 < min used levels)) (count 16 3 (min used levels) { addr := some b }) d
  match got with
  | some n =>
    let d := when old.isSome (setBlk b { fblk d b with bad := tdel (fblk d b).bad key }) d
    (some n, when (decide (fld d 0x480008 0 10 < n)) (fun d => nandEvent b (setEvt oFalEvt 0 d)) d)
  | none =>
    let d := when old.isNone (setBlk b { fblk d b with bad := tput (fblk d b).bad key false }) d
    (none, nandEvent b (setEvt oFalEvt 1 d))

/-- Bytes `off` to `off + len` of a page, from the codewords of a list: those of one that is lost are undefined (R360). The second value
says whether every codeword decoded. -/
def readSpan (nand : List NandErr) (b page off len : Nat) : List Nat → Dev → Bytes × Bool × Dev
  | [], d => ([], true, d)
  | k :: t, d =>
    let lo := max off (4096 * k)
    let hi := min (off + len) (4096 * (k + 1))
    let p := tget (fblk d b).pages page
    let (got, d) := decodeCw nand b page k d
    let (y, ok, d) := match got, p with
      | some _, some p => (slice (codeword p k).data (lo - 4096 * k) (hi - lo), true, d)
      | _, _ => (let (y, d) := freeBytes (hi - lo) d; (y, false, d))
    let (rest, all, d) := readSpan nand b page off len t d
    (y ++ rest, ok && all, d)

/-- The codewords that hold bytes `off` to `off + len` of a page. -/
def cwsAt (off len : Nat) : List Nat := (List.range (ceilDiv (off + len) 4096)).filter (fun k => decide (off < 4096 * (k + 1)))

/-- Part of an IMG_READ is read and written to its destination (R360, R353). -/
def readPart (n b page off len dst : Nat) (nand : List NandErr) (d : Dev) : Dev :=
  match tget d.fal.reads n with
  | none => d
  | some r =>
    let (data, good, d) := readSpan nand b page off len (cwsAt off len) (pageRead b d)
    let (w, d) := if r.forge then gAddrWrite 1 dst data d else (0, hostWrite dst data d)
    let st := max r.status (max w (if good then 0 else 0x0C))
    modFal (fun f => { f with reads := tput f.reads n { r with left := r.left - 1, status := st } }) d

/-- LUN_OPERATION_START (R361): a read is carried out, a program or an erase begins. -/
def lunStart (l : Nat) (nand : List NandErr) (d : Dev) : Dev :=
  let x := lun d l
  if x.run.isSome then d
  else
    match nextOp d x with
    | none => d
    | some o =>
      let c := opCls d o
      let d := modLun l (fun x => { x with wait := x.wait.erase o, since8 := if c = 8 then 0 else x.since8 + 1 }) d
      match o.job with
      | .read n b page off len dst => readPart n b page off len dst nand d
      | _ => modLun l (fun x => { x with run := some o }) d

/-- A program of an owner is done. -/
def ownerDone (own : FOwner) (d : Dev) : Dev :=
  match own with
  | .write n => modFal (fun f => { f with writes := tmod f.writes n (fun w => { w with left := w.left - 1 }) }) d
  | .commit n => modFal (fun f => { f with commits := f.commits.map (fun c => if c.no = n then { c with left := c.left - 1 } else c) }) d
  | .note n =>
    (match tget d.fal.batches n with
     | none => d
     | some b => each b.left (fun k d => pushOp 8 (.erase k n) d)
         (modFal (fun f => { f with batches := tput f.batches n { b with noted := true } }) d))
  | .done => d
  | .rewrite => d

/-- A page of an owner finds no block (R358, R363): the write or the commit ends with BUSY. -/
def ownerFull (own : FOwner) (d : Dev) : Dev :=
  match own with
  | .write n =>
    (match tget d.fal.writes n with
     | none => d
     | some w => complete w.cmd 2 0 (((openOf d w.id).map (fun o => o.written / 4096)).getD 0)
         (modFal (fun f => { f with writes := tdel f.writes n }) d))
  | .commit n =>
    (match d.fal.commits with
     | c :: _ => if c.no = n then commitFull c d else d
     | [] => d)
  | _ => ownerDone own d

/-- FLASH_PROGRAM_DONE (R358, R363). -/
def programDone (l : Nat) (d : Dev) : Dev :=
  match (lun d l).run with
  | some { job := .prog b page p own, .. } =>
    let d := modLun l (fun x => { x with run := none }) d
    let x := fblk d b
    let d := setBlk b { x with pages := tput x.pages page p } d
    commitGo (ownerDone own (count 16 2 ((fgeom d).page / 4096) { addr := some b } d))
  | _ => d

/-- An erase of a batch has reported (R357): the done note follows the last. -/
def batchEnd (b n : Nat) (d : Dev) : Dev :=
  match tget d.fal.batches n with
  | none => d
  | some x =>
    let left := x.left.filter (· ≠ b)
    if left.isEmpty then
      let d := modFal (fun f => { f with batches := tdel f.batches n }) d
      match notePair d x.blks with
      | some (_, a, c) => progRoot a c (.finished x.blks) .done d
      | none => d
    else modFal (fun f => { f with batches := tput f.batches n { x with left := left } }) d

/-- FLASH_ERASE_DONE (R357). -/
def eraseDone (l : Nat) (d : Dev) : Dev :=
  match (lun d l).run with
  | some { job := .erase b n, .. } =>
    let d := modLun l (fun x => { x with run := none }) d
    let d := setBlk b { st := .free, erases := (fblk d b).erases + 1, pages := [], bad := [], reads := 0 } d
    commitGo (batchEnd b n (count 16 4 1 { addr := some b } d))
  | _ => d

/-- Every place that names a block names its replacement (R355). -/
def renameBlk (old new : Nat) (d : Dev) : Dev :=
  let man := fun (m : Manifest) => { m with stripes := substBlk old new m.stripes }
  modFal (fun f => { f with
    opens := f.opens.map (fun o => { o with stripes := substBlk old new o.stripes }),
    commits := f.commits.map (fun c =>
      let k := c.cat.map (fun k => { k with
        ids := tmap (fun e => (man e.1, if e.2 / 4096 = old then 4096 * new + e.2 % 4096 else e.2)) k.ids,
        pages := k.pages.map (fun p => (if p.1 = old then new else p.1, p.2)) })
      let kind := match c.kind with
        | .reloc a b => FKind.reloc a (if b = old then new else b)
        | x => x
      { c with mans := c.mans.map man, cat := k, kind := kind }) }) d

/-- Programs that wait for a block, taken out of their queue. -/
def takeProgs (l b : Nat) (d : Dev) : List LunOp × Dev :=
  let mine := fun (o : LunOp) => match o.job with
    | .prog x _ _ _ => x == b
    | _ => false
  ((lun d l).wait.filter mine, modLun l (fun x => { x with wait := x.wait.filter (fun o => !mine o) }) d)

/-- A block failed while `o` was programmed (R355): retired, and its pages, that one and those that waited go to a replacement. -/
def replaceBlk (l b : Nat) (o : LunOp) (d : Dev) : Dev :=
  let (ops, d) := takeProgs l b d
  let root := decide ((fblk d b).st = .root)
  let old := fblk d b
  let d := retireBlk b d
  let again := fun (new : Nat) (d : Dev) => each (o :: ops) (fun o d => match o.job with
    | .prog _ _ p own => progPage o.cls new p own d
    | _ => d) d
  if root then
    let mine := (rootPairs d).filter (fun p => p.1 == bCh b)
    match (mine.find? (fun p => progsOf d p.2.1 + progsOf d p.2.2 == 0)).or mine.head? with
    | some (_, x, y) => (let new := activeRoot d x y; again new (setBlk new { fblk d new with st := .root } d))
    | none => d
  else
    match takeBlk (bCh b) false d with
    | (some new, d) =>
      let d := renameBlk b new d
      let d := modFal (fun f => { f with reloc := f.reloc.filter (· ≠ b) }) d
      again new (each old.pages (fun p d => progPage 5 new p.2 .rewrite d)
        (setBlk new { fblk d new with bad := tmap (fun _ => true) old.bad } d))
    | (none, d) => each (o :: ops) (fun o d => match o.job with
      | .prog _ _ _ own => ownerFull own d
      | _ => d) d

/-- FLASH_PROGRAM_FAIL: a program or an erase reports failure (R355). -/
def programFail (l : Nat) (d : Dev) : Dev :=
  match (lun d l).run with
  | none => d
  | some o =>
    let d := modLun l (fun x => { x with run := none }) d
    match o.job with
    | .prog b _ _ _ => commitGo (replaceBlk l b o d)
    | .erase b n => commitGo (batchEnd b n (retireBlk b d))
    | _ => d

/-- The pages of a pair of root blocks that decode. -/
def rootPages (d : Dev) (p : Nat × Nat × Nat) : List FPage :=
  [p.2.1, p.2.2].flatMap (fun b => ((fblk d b).pages.filter (fun q => !flashLost d b q.1 0)).map (·.2))

/-- Records of the root blocks with where they lie: pair and record (R364). -/
def rootRecords (d : Dev) : List (Nat × CommitRec) :=
  let ps := rootPairs d
  (ps.zip (List.range ps.length)).flatMap (fun p =>
    (rootPages d p.1).filterMap (fun q => match q with
      | .record r => some (p.2, r)
      | _ => none))

/-- A record is complete: identical copies in two pairs (R364). -/
def recComplete (l : List (Nat × CommitRec)) (r : CommitRec) : Bool :=
  ((l.filter (fun p => decide (p.2 = r))).map (·.1)).eraseDups.length ≥ 2

/-- A record's catalogue can be read. -/
def catReadable (d : Dev) (r : CommitRec) : Bool :=
  r.cat.pages.all (fun p => match tget (fblk d p.1).pages p.2 with
    | some (.catalogue c) => decide (c = r.cat) && !pageLost d p.1 p.2
    | _ => false)

/-- Erase notes with no done note (R357). -/
def suspects (d : Dev) : List Nat :=
  let ps := (rootPairs d).flatMap (rootPages d)
  let fin := ps.filterMap (fun q => match q with
    | .finished l => some l
    | _ => none)
  (ps.flatMap (fun q => match q with
    | .note l => if fin.contains l then [] else l
    | _ => [])).eraseDups

/-- ⌈3% of good blocks⌉ of every channel (Table 13.4). -/
def reserves (d : Dev) : Tab Nat :=
  d.fal.chans.map (fun ch =>
    let bad := (d.fal.blks.filter (fun p => bCh p.1 == ch && decide (p.2.st = .bad))).length
    (ch, ceilDiv (3 * (chTotal d ch - bad)) 100))

/-- A block at boot: its erase count from the block table (R356), its read count (R354). -/
def bootBlk (table : Option (Tab (BlkState × Nat))) (half b : Nat) (x : FBlk) : FBlk :=
  { x with erases := ((table.bind (fun t => tget t b)).map (·.2)).getD x.erases
           reads := if x.st = .used ∨ x.st = .root then half else x.reads }

/-- The store is adopted at boot (R354, R357, R364, R367). -/
def falBoot (d : Dev) : Dev :=
  let d := modFal (fun f => { f with chans := chansNow d }) d
  let l := rootRecords d
  let top := l.foldl (fun m p => max m p.2.s) 0
  let whole := sortBy (fun a b => decide (b.s ≤ a.s)) ((l.filter (fun p => recComplete l p.2)).map (·.2)).eraseDups
  let d := modFal (fun f => { f with top := top }) d
  match whole.find? (catReadable d) with
  | none => modFal (fun f => { f with mode := .blank }) d
  | some r =>
    let d := when (decide (whole.head? ≠ some r)) (setEvt oFalEvt 5) d
    if r.geom ≠ fgeom d then setEvt oFalEvt 6 (modFal (fun f => { f with mode := .mismatch, seq := r.s }) d)
    else
      let half := fld d 0x480008 20 20 / 2
      let d := modFal (fun f => { f with mode := .ready, seq := r.s, cat := r.cat, chans := r.chans, tableAt := d.clk.now,
                                         blks := f.blks.map (fun p => (p.1, bootBlk r.cat.table half p.1 p.2)) }) d
      let d := modFal (fun f => { f with reserve := reserves d }) d
      let sus := suspects d
      let d := when (!sus.isEmpty) (setEvt oFalEvt 4) d
      let roots := sus.filter (fun b => decide ((fblk d b).st = .root))
      let d := each (sus.filter (fun b => decide ((fblk d b).st = .free))) (fun b d => setBlk b { fblk d b with st := .used } d) d
      freeGarbage (each roots (fun b d => startBatch [b] d) d)

/-- Geometry limits of Table 13.2. -/
def flashOk (t : FlashTarget) : Bool :=
  t.paramOk && within 4096 32768 t.pageBytes && t.pageBytes % 4096 == 0 && decide (448 * (t.pageBytes / 4096) ≤ t.spareBytes)
  && within 64 4096 t.pagesPerBlock && within 1 262144 t.blocksPerLun && within 1 4 t.lunsPerTarget
  && decide (t.pageBytes * t.pagesPerBlock * t.blocksPerLun * t.lunsPerTarget ≤ 512 * 2 ^ 30)

def targetGeom (t : FlashTarget) : FGeom :=
  { page := t.pageBytes, ppb := t.pagesPerBlock, blocks := t.blocksPerLun, luns := t.lunsPerTarget }

/-- Discovery (R348, R497): the first target with a good parameter page sets the geometry. -/
def falDiscover (ts : List FlashTarget) (d : Dev) : Dev :=
  let ts := sortBy (fun a b => decide (8 * a.channel + a.ce ≤ 8 * b.channel + b.ce)) ts
  match ts.find? (·.paramOk) with
  | none => when (!ts.isEmpty) (setEvt oFalEvt 7) (modFal (fun f => { f with mode := .absent }) d)
  | some t0 =>
    let g := targetGeom t0
    let fit_ := ts.filter (fun t => flashOk t && decide (targetGeom t = g))
    let rates := (List.range 32).filterMap (fun ch =>
      let l := fit_.filter (fun t => t.channel == ch)
      if l.isEmpty || l.any (fun t => t.rate.isNone) then none
      else some (ch, l.foldl (fun m t => min m (t.rate.getD 0)) 3600))
    let used := fit_.filter (fun t => (tget rates t.channel).isSome)
    let d := when (decide (used.length < ts.length)) (setEvt oFalEvt 7) d
    if used.isEmpty then modFal (fun f => { f with mode := .absent }) d
    else falBoot (modFal (fun f => { f with mode := .discovering, geom := some g, rate := rates,
                                            targets := used.map (fun t => (t.channel, t.ce)),
                                            marks := used.flatMap (fun t => t.marked.map (fun k => t.channel + 32 * t.ce + 256 * k)) }) d)

end Sys2Proof.Machine
end

