-- ==== Sys2Proof/Machine/Images.lean ====
section
/-! DEFINITION. Images: reads, writes, commits, checkpoints, replicas, upkeep and the format of the store (R349, R353 to R368). -/

namespace Sys2Proof.Machine

/-- The health manager's or the store's own command: it has no completion. -/
def ownCmd : Cmd := { chan := .own, tag := 0, reqNo := 0, ret := [], att := [] }

/-- R362: what a command of the store comes to in each state. -/
def falGate (d : Dev) (go : Res) : Res :=
  match d.fal.mode with
  | .discovering => .wait d
  | .formatting => .wait d
  | .ready => go
  | _ => bad d

/-- Reserved image IDs. -/
def imgIdOk (id : Nat) : Bool := id ≠ 0 && decide (id < 0xFFFFFF00)

/-- No image is longer (R391). -/
def imgMax : Nat := 2 ^ 44 - 4096

/-- The address of a store command (R358, R360, R386, R465): a Forge address in a GDDR7 window, or a host address. -/
def falAddrOk (c : Cmd) (isForge : Bool) (a n : Nat) : Bool :=
  if isForge then forgeAddrOk a && (gddrRange a n).isSome else c.sqn.isSome && a % 64 == 0

/-- Written length of the open version of an ID, in 4 KiB units. -/
def writtenOf (d : Dev) (id : Nat) : Nat :=
  match openOf d id with
  | some o => o.written / 4096
  | none => 0

/-- Low 32 bits of the current commit sequence. -/
def seqLow (d : Dev) : Nat := d.fal.seq % 2 ^ 32

/-- The parts of a byte range of an image: page, first byte in it, length, place in the range. -/
def partsOf (m : Manifest) (off len : Nat) : List (Nat × Nat × Nat × Nat) :=
  if len = 0 ∨ m.p = 0 then []
  else
    (List.range ((off + len - 1) / m.p - off / m.p + 1)).map (fun k =>
      let q := off / m.p + k
      let lo := max off (q * m.p)
      let hi := min (off + len) ((q + 1) * m.p)
      (q, lo - q * m.p, hi - lo, lo - off))

/-- A committed image is read whole (R353, R366, R409): none when a codeword of it is lost. -/
def readImage (m : Manifest) (d : Dev) : Option Bytes × Dev :=
  (imageBytes d m, each (partsOf m 0 m.len) (fun p d =>
    let (b, page) := placeData m.w m.ppb m.stripes p.1
    each (cwsAt p.2.1 p.2.2.1) (fun k d => (decodeCw [] b page k d).2) (pageRead b d)) d)

/-- IMG_READ (R360). -/
def cmdImgRead (c : Cmd) (e : Bytes) (d : Dev) : Res :=
  let ver := leAt e 20 4
  let off := leAt e 24 8
  let len := leAt e 32 8
  let a := leAt e 40 8
  let fl := byteAt e 48
  let isForge := fl.testBit 2
  if !plainOk e [(16, 33)] || decide (7 < fl) || !falAddrOk c isForge a len || !imgIdOk (leAt e 16 4) then bad d
  else
    falGate d (match tget d.fal.cat.ids (leAt e 16 4) with
      | none => bad d
      | some (m, _) =>
        if (ver ≠ 0 ∧ m.ver ≠ ver) ∨ m.len < off + len then bad d
        else
          let id := d.fal.nextId
          let ps := partsOf m off len
          let r : ImgRead := { cmd := c, man := m, forge := isForge, dst := a, len := len, prio := fl % 4, since := d.clk.swc.toNat, left := ps.length,
                               status := 0 }
          let d := modFal (fun f => { f with nextId := id + 1, reads := tput f.reads id r }) d
          .run (each ps (fun p d =>
            let (b, page) := placeData m.w m.ppb m.stripes p.1
            pushOp 7 (.read id b page p.2.1 p.2.2.1 (a + p.2.2.2)) d) d))

/-- IMG_READ_DONE (R360): after the last byte. -/
def imgReadDone (id : Nat) (d : Dev) : Dev :=
  match tget d.fal.reads id with
  | none => d
  | some r =>
    if r.left ≠ 0 then d
    else
      let d := when (r.status == 0x0C) (cause 20) d
      complete r.cmd r.status 0 0 (freeGarbage (modFal (fun f => { f with reads := tdel f.reads id }) d))

/-- IMG_READ_AGEING (R361). -/
def imgReadAgeing (id : Nat) (d : Dev) : Dev :=
  match tget d.fal.reads id with
  | none => d
  | some r =>
    if r.prio ≠ 0 ∧ r.since + 64 * fld d 0x480000 0 8 ≤ d.clk.swc.toNat then
      modFal (fun f => { f with reads := tput f.reads id { r with prio := r.prio - 1, since := d.clk.swc.toNat } }) d
    else d

/-- Bytes added to an open version: full pages go to be programmed, the rest is held (R358). -/
def extendOpen (c : Cmd) (o : OpenVer) (data : Bytes) (d : Dev) : Res :=
  let p := (fgeom d).page
  let all := o.held ++ data
  let full := all.length / p
  let n := d.fal.nextId
  let pages := (List.range full).map (fun i => slice all (i * p) p)
  let (q, st, ok, d) := placePages 5 o.id o.ver (.write n) pages o.pages o.stripes d
  let put := fun (x : OpenVer) (d : Dev) =>
    modFal (fun f => { f with opens := f.opens.map (fun y => if y.id = o.id then x else y) }) d
  if ok then
    let d := put { o with written := o.written + data.length, held := all.drop (full * p), pages := q, stripes := st,
                          all := o.all ++ data } d
    let w : ImgWrite := { cmd := c, id := o.id, ver := o.ver, left := full }
    .run (modFal (fun f => { f with nextId := max f.nextId (n + 1), writes := tput f.writes n w }) d)
  else
    let got := if o.pages < q then q * p else o.written
    let d := put { o with written := got, held := if o.pages < q then [] else o.held, pages := q, stripes := st,
                          all := (o.all ++ data).take got } d
    .done 2 0 (got / 4096) d

/-- Table 13.5: a write of `len` bytes at `off`, its bytes read on demand from a place in the source. -/
def imgPut (c : Cmd) (id ver off len : Nat) (get : Nat → Nat → Dev → Except Nat Bytes × Dev) (d : Dev) : Res :=
  let go := fun (o : OpenVer) (d : Dev) =>
    match get (o.written - off) (off + len - o.written) d with
    | (.error s, d) => .done s 0 (o.written / 4096) d
    | (.ok b, d) => extendOpen c o b d
  let fresh := fun (_ : Unit) =>
    match openOf d id with
    | none =>
      if off ≠ 0 then bad d
      else if 64 ≤ d.fal.opens.length then .wait d
      else
        let o : OpenVer := { id := id, ver := ver, written := 0, held := [], pages := 0, stripes := [], all := [] }
        go o (modFal (fun f => { f with opens := f.opens ++ [o] }) d)
    | some o =>
      if o.ver ≠ ver then .done 2 0 (o.written / 4096) d
      else if off + len ≤ o.written then .done 0 0 (o.written / 4096) d
      else if off ≤ o.written then go o d
      else .done 0x10 0 (o.written / 4096) d
  match tget d.fal.cat.ids id with
  | none => fresh ()
  | some (m, _) =>
    if m.ver = ver ∧ off + len ≤ 4096 * ceilDiv m.len 4096 then .done 0 0 (writtenOf d id) d
    else if ver ≤ m.ver then .done 0x10 0 (writtenOf d id) d
    else fresh ()

/-- IMG_WRITE (R358). -/
def cmdImgWrite (c : Cmd) (e : Bytes) (d : Dev) : Res :=
  let id := leAt e 16 4
  let ver := leAt e 20 4
  let off := leAt e 24 8
  let len := leAt e 32 8
  let a := leAt e 40 8
  let isForge := byteAt e 48 == 4
  if !plainOk e [(16, 33)] || (byteAt e 48 ≠ 0 && byteAt e 48 ≠ 4) || !imgIdOk id || ver == 0 || off % 4096 ≠ 0 || len % 4096 ≠ 0
      || len == 0 || decide (imgMax < off + len) || !falAddrOk c isForge a len then bad d
  else
    falGate d (imgPut c id ver off len (fun o n d =>
      if isForge then gAddrRead 1 (a + o) n d else (.ok (hostRead d (a + o) n), d)) d)

/-- Written length a completed write reports: of the open version, or of the version committed meanwhile. -/
def writtenNow (d : Dev) (id ver : Nat) : Nat :=
  match openOf d id with
  | some o => if o.ver = ver then o.written / 4096 else 0
  | none => (match tget d.fal.cat.ids id with
    | some (m, _) => if m.ver = ver then ceilDiv m.len 4096 else 0
    | none => 0)

/-- IMG_WRITE_DONE (R358): every full page has been programmed. -/
def imgWriteDone (n : Nat) (d : Dev) : Dev :=
  match tget d.fal.writes n with
  | none => d
  | some w =>
    if w.left ≠ 0 then d
    else complete w.cmd 0 0 (writtenNow d w.id w.ver) (modFal (fun f => { f with writes := tdel f.writes n }) d)

/-- What IMG_COMMIT comes to (R359). -/
def imgCommitTo (c : Cmd) (id ver len : Nat) (d : Dev) : Res :=
  if (match tget d.fal.cat.ids id with
      | some (m, _) => m.ver == ver
      | none => false) then .done 0 0 (seqLow d) d
  else
    match openOf d id with
    | some o =>
      if o.ver = ver ∧ o.written < len + 4096 ∧ len ≤ o.written then .run (addCommit c .write id ver len d)
      else .done 0x10 0 (seqLow d) d
    | none => .done 0x10 0 (seqLow d) d

/-- IMG_COMMIT (R359). -/
def cmdImgCommit (c : Cmd) (e : Bytes) (d : Dev) : Res :=
  let id := leAt e 16 4
  let ver := leAt e 20 4
  let len := leAt e 24 8
  if !plainOk e [(16, 16)] || !imgIdOk id || ver == 0 || decide (imgMax < len) then bad d
  else falGate d (imgCommitTo c id ver len d)

/-- IMG_DELETE (R359). -/
def cmdImgDelete (c : Cmd) (e : Bytes) (d : Dev) : Res :=
  let id := leAt e 16 4
  let ver := leAt e 20 4
  if !plainOk e [(16, 8)] || !imgIdOk id || ver == 0 then bad d
  else
    falGate d (
      let d := match openOf d id with
        | some o => if o.ver ≤ ver then freeGarbage (dropOpen id d) else d
        | none => d
      match tget d.fal.cat.ids id with
      | none => .done 0 0 (seqLow d) d
      | some (m, _) =>
        if m.ver = ver then .run (addCommit c .delete id ver 0 d)
        else if ver < m.ver then .done 0 0 (seqLow d) d
        else .done 0x10 0 (seqLow d) d)

/-- Frames of an image on a Furrow (R366): number, data, header bytes 12 to 31. -/
def imageFrames (id ver : Nat) (b : Bytes) : List (Bytes × Bytes) :=
  let l := chunks 32768 b
  let n := l.length
  (l.zip (List.range n)).map (fun p =>
    let x := fit p.1 (16 * ceilDiv p.1.length 16)
    let last := p.2 + 1 = n
    (toBE 4 id ++ toBE 2 (if last then x.length - p.1.length else 0) ++ toBE 4 p.2 ++ toBE 4 ver ++ toBE 4 (crc32c x)
      ++ toBE 2 (if last then 1 else 0), x))

/-- The ACTIVE Furrow entry from an EID here to an EID elsewhere. -/
def furrowFrom (d : Dev) (fid src : Nat) : Option Furrow :=
  match tget d.tab.furrows fid with
  | some f => if f.state = .active ∧ f.src = src then some f else none
  | none => none

/-- The device's MGMT EID. -/
def mgmtEid (d : Dev) : Option Nat := (localEids d 5 0).head?

/-- Send an image over a Furrow from the MGMT endpoint (R366, R411). -/
def sendImage (fid src dst id ver : Nat) (b : Bytes) (mid : Nat) (d : Dev) : Dev :=
  each (imageFrames id ver b) (fun p d =>
    sendFrame { ownFrame d 0 src dst (eidXport d src) p.1 p.2 (.mgmt mid) with furrow := some fid } [] d) d

/-- A replication ends when every replica has a status (R366). -/
def replCheck (n : Nat) (d : Dev) : Dev :=
  match tget d.fal.repls n with
  | none => d
  | some r =>
    if r.reps.any (fun p => p.2.2.isNone) then d
    else
      let st := ((r.reps.find? (fun p => p.2.2 ≠ some 0)).map (fun p => p.2.2.getD 7)).getD 0
      let mask := ((r.reps.zip (List.range r.reps.length)).map (fun p => if p.1.2.2 = some 0 then 2 ^ p.2 else 0)).sum
      let d := when (st ≠ 0) (setEvt oFalEvt 8) d
      complete r.cmd st 0 mask (modFal (fun f => { f with repls := tdel f.repls n }) d)

/-- Set the status of a replica, if it has none. -/
def replStatus (n : Nat) (who : Nat × Nat × Option Nat → Bool) (st : Nat) (d : Dev) : Dev :=
  replCheck n (modFal (fun f => { f with repls := tmod f.repls n (fun r =>
    { r with reps := r.reps.map (fun p => if who p && p.2.2.isNone then (p.1, p.2.1, some st) else p) }) }) d)

/-- Replication of a committed image (R366); a Furrow that cannot carry it leaves its replica unreachable. -/
def replicate (c : Cmd) (id ver : Nat) (furrows : List Nat) (d : Dev) : Dev :=
  match tget d.fal.cat.ids id, mgmtEid d with
  | some (m, _), some src =>
    let n := d.fal.nextId
    let reps := furrows.map (fun k => match furrowFrom d k src with
      | some f => (k, f.dst, none)
      | none => (k, 0, some 7))
    let r : Repl := { cmd := c, id := id, ver := ver, reps := reps, since := d.clk.swc.toNat, src := src }
    (match readImage m d with
     | (none, d) => complete c 0x0C 0 0 (cause 20 (setEvt oFalEvt 8 d))
     | (some b, d) =>
       let d := modFal (fun f => { f with nextId := n + 1, repls := tput f.repls n r }) d
       replCheck n (each reps (fun p d => if p.2.2.isNone then sendImage p.1 src p.2.1 id ver b n d else d) d))
  | _, _ => complete c (if furrows.isEmpty then 0 else 7) 0 0 (when (!furrows.isEmpty) (setEvt oFalEvt 8) d)

/-- CHECKPOINT (R365, R366). -/
def cmdCheckpoint (c : Cmd) (e : Bytes) (d : Dev) : Res :=
  let id := leAt e 16 4
  let ver := leAt e 20 4
  let n := leAt e 32 2
  let k := byteAt e 34
  let reps := (List.range k).map (fun i => leAt e (36 + 4 * i) 4)
  if !plainOk e [(16, 19), (36, 12)] || !imgIdOk id || ver == 0 || !within 1 4096 n || decide (3 < k)
      || !allZero (slice e (36 + 4 * k) (12 - 4 * k)) then bad d
  else
    match image c (leAt e 24 8) (2 * n) d with
    | none => bad d
    | some b =>
      let slots := (List.range n).map (fun i => leAt b (2 * i) 2)
      falGate d (
        if (match tget d.fal.cat.ids id with
            | some (m, _) => m.ver == ver
            | none => false) then (if reps.isEmpty then okRes d else .run (replicate c id ver reps d))
        else
          let recs := slots.map (fun s => tget d.adp.slots s)
          if recs.any (·.isNone) then bad d
          else if imgMax < (recs.map (fun r => match r with
              | some s => slotImageBytes s.record
              | none => 0)).sum then bad d
          else .run (addCommit c (.ckpt slots [] reps) id ver 0 d))

/-- COMMIT_RECORD_PROGRAMMED: both copies of the record at the head have succeeded, and the commit is current (R363). -/
def recordProgrammed (d : Dev) : Dev :=
  match d.fal.commits with
  | [] => d
  | c :: _ =>
    match c.cat with
    | none => d
    | some k =>
      if c.step ≠ 4 ∨ c.left ≠ 0 then d
      else
        let badAll := d.fal.blks.all (fun p => decide (p.2.st ≠ .bad) || (match k.table with
          | some t => (tget t p.1).map (·.1) == some .bad
          | none => false))
        let fresh := tableDue d && k.table.isSome
        let d := modFal (fun f => { f with cat := k, seq := c.seq, retiredSince := f.retiredSince && !badAll,
                                           tableAt := if fresh then d.clk.now else f.tableAt }) (dropCommit d)
        let ok := fun (d : Dev) => complete c.cmd 0 0 (c.seq % 2 ^ 32) d
        let d := match c.kind with
          | .write => replicaCommitted c.id c.ver 0 (ok (match openOf d c.id with
              | some o => if o.ver = c.ver then dropOpen c.id d else d
              | none => d))
          | .delete => ok d
          | .ckpt _ _ reps => if reps.isEmpty then complete c.cmd 0 0 0 d else replicate c.cmd c.id c.ver reps d
          | .reloc a _ => modFal (fun f => { f with reloc := f.reloc.filter (· ≠ a) }) d
          | .table => d
          | .format => modFal (fun f => { f with mode := .ready }) d
        commitGo (freeGarbage d)

/-- RETENTION_PATROL: a programmed page is read; a block of the store in which a codeword needs more corrections than FAL_THR.refresh is
to be relocated (R353, Table 13.4). -/
def patrolPage (b page : Nat) (nand : List NandErr) (d : Dev) : Dev :=
  if d.fal.mode ≠ .ready ∨ (tget (fblk d b).pages page).isNone = true then d
  else
    each (List.range (cwsOfPage d)) (fun k d =>
      let (got, d) := decodeCw nand b page k d
      match got with
      | some n =>
        when (decide (fld d 0x480008 10 10 < n) && decide ((fblk d b).st = .used) && !d.fal.reloc.contains b)
          (modFal (fun f => { f with reloc := f.reloc ++ [b] })) d
      | none => d) (pageRead b d)

/-- Every programmed page of a block is read and decoded (R354). -/
def readBlock (b : Nat) (nand : List NandErr) (d : Dev) : Dev :=
  each (fblk d b).pages (fun p d => each (List.range (cwsOfPage d)) (fun k d => (decodeCw nand b p.1 k d).2) (pageRead b d)) d

/-- Static wear levelling applies to a block: the in-use block with the lowest count of its channel, the spread too large. -/
def wearDue (d : Dev) (b : Nat) : Bool :=
  let good := (d.fal.blks.filter (fun p => bCh p.1 == bCh b && decide (p.2.st ≠ .bad))).map (·.2)
  let hi := good.foldl (fun m x => max m x.erases) d.fal.base
  let low := good.all (fun x => decide (x.st ≠ .used) || decide ((fblk d b).erases ≤ x.erases))
  decide ((fblk d b).st = .used) && low && decide (fld d 0x480008 40 16 + (fblk d b).erases < hi)

/-- The free block of a channel with the highest erase count. -/
def wornBlk (d : Dev) (ch : Nat) : Option Nat :=
  let roots := rootBlks d ch
  ((chBlks d ch).filter (fun b => decide ((fblk d b).st = .free) && !roots.contains b)).foldl (fun m b => match m with
    | none => some b
    | some x => if (fblk d x).erases < (fblk d b).erases then some b else some x) none

/-- RELOCATION of a block that is due for it (R353 to R355, Table 13.4); a block of an open version waits. -/
def relocation (b : Nat) (nand : List NandErr) (d : Dev) : Dev :=
  let listed := d.fal.reloc.contains b
  let wear := wearDue d b
  let busy := d.fal.opens.any (fun o => o.stripes.any (fun l => l.contains b)) || (allOps d).any (fun o => jobBlk o.job == b)
    || d.fal.commits.any (fun c => match c.kind with
      | .reloc a n => a == b || n == b
      | _ => false)
  if d.fal.mode ≠ .ready ∨ (listed = false ∧ wear = false) ∨ busy = true then d
  else
    let pick := if listed then takeBlk (bCh b) false d
      else (match wornBlk d (bCh b) with
        | some n => (some n, spareTest (setBlk n { fblk d n with st := .used } d))
        | none => (none, d))
    match pick with
    | (some n, d) => addCommit ownCmd (.reloc b n) 0 0 0 (readBlock b nand d)
    | (none, d) => d

/-- BLOCK_TABLE_WRITE (R356): a catalogue with the block table, when it is due and no commit would carry it. -/
def blockTableWrite (d : Dev) : Dev :=
  if d.fal.mode = .ready ∧ tableDue d = true ∧ d.fal.commits.isEmpty = true then addCommit ownCmd .table 0 0 0 d else d

/-- Take a sequenced frame of an internal endpoint as delivered (R394). -/
def takeSequenced (f : RxFrame) (d : Dev) : Option Dev :=
  match seqTest d f.src f.dst (rxSeq f) with
  | .accept => some (seqAccept f.src f.dst (rxSeq f) (takeRx f d))
  | _ => none

/-- A frame came from an ACTIVE Furrow entry that ends at the management core (R366). -/
def fromFurrow (d : Dev) (f : RxFrame) : Bool :=
  f.vc == 5 && d.tab.furrows.any (fun p => decide (p.2.state = .active) && p.2.last && p.2.outHop == 0xFC && p.2.src == f.src
    && p.2.dst == f.dst)

/-- The record of a replication at this replica, with its status so far. -/
def replInOf (d : Dev) (f : RxFrame) : ReplIn :=
  let id := beAt f.hdr 12 4
  let ver := beAt f.hdr 22 4
  (d.fal.replIn.find? (fun r => r.src == f.src && r.dst == f.dst && r.id == id && r.ver == ver)).getD
    { src := f.src, dst := f.dst, id := id, ver := ver, status := 0 }

def setReplIn (old new : ReplIn) (d : Dev) : Dev :=
  modFal (fun x => { x with replIn := new :: x.replIn.filter (fun r => r ≠ old) }) d

/-- The last frame of a replication: the commit, or the answer (R366). -/
def replicaLast (r : ReplIn) (len : Nat) (d : Dev) : Dev :=
  if r.status ≠ 0 then replicaAnswer r r.status d
  else if imgIdOk r.id = false ∨ d.fal.mode ≠ .ready then replicaAnswer r 0x10 d
  else
    match imgCommitTo ownCmd r.id r.ver len d with
    | .done s _ _ d => replicaAnswer r s d
    | .wait d => d
    | .run d => d

/-- REPLICA_FRAME_RECEIVE (R366). -/
def replicaFrame (d : Dev) : Dev :=
  match firstRx d (fun f => f.code == 0xFC && rxOp f == 0 && f.accepted && beAt f.hdr 22 4 ≠ 0) with
  | none => d
  | some f =>
    if !fromFurrow d f then tally 16 0 (takeRx f d)
    else
      let r := replInOf d f
      let no := beAt f.hdr 18 4
      let last := (beAt f.hdr 30 2).testBit 0
      let x := fit f.data (4096 * ceilDiv f.data.length 4096)
      let res : Res :=
        if crc32c f.data ≠ beAt f.hdr 26 4 then .done 0x11 0 0 d
        else if d.fal.mode ≠ .ready ∨ imgIdOk r.id = false then .done 0x10 0 0 d
        else imgPut ownCmd r.id r.ver (32768 * no) x.length (fun o n d => (.ok (slice x o n), d)) d
      let next := fun (status : Nat) (d : Dev) =>
        match takeSequenced f d with
        | none => takeRx f d
        | some d =>
          let r2 := if r.status = 0 then { r with status := status } else r
          let d := setReplIn r r2 d
          if last then replicaLast r2 (32768 * no + f.data.length - beAt f.hdr 16 2) d else d
      match res with
      | .wait _ => d
      | .done s _ _ d => next s d
      | .run d => next 0 d

/-- REPLICA_ANSWER_RECEIVE (R366). -/
def replicaAnswerReceive (d : Dev) : Dev :=
  match firstRx d (fun f => f.code == 0xFC && rxOp f == 0xC && fCode f == 0) with
  | none => d
  | some f =>
    let d := takeRx f d
    match d.fal.repls.find? (fun p => p.2.id == fCid f && p.2.ver == beAt f.hdr 22 4 && p.2.src == f.dst
        && p.2.reps.any (fun q => q.2.1 == f.src && q.2.2.isNone)) with
    | none => d
    | some (n, _) => replStatus n (fun q => q.2.1 == f.src) (beAt f.hdr 26 2 % 256) d

/-- REPLICA_TIMEOUT (R366). -/
def replicaTimeout (n : Nat) (d : Dev) : Dev :=
  match tget d.fal.repls n with
  | none => d
  | some r =>
    if r.since + 1024 * fld d 0x480000 16 8 ≤ d.clk.swc.toNat then replStatus n (fun _ => true) 7 d else d

/-- A command of the store is in progress (R368). -/
def falBusy (d : Dev) : Bool :=
  let f := d.fal
  !f.reads.isEmpty || !f.writes.isEmpty || !f.repls.isEmpty || f.commits.any (fun c => match c.kind with
    | .write => true
    | .delete => true
    | .ckpt _ _ _ => true
    | _ => false)

/-- FAL_FORMAT (R368): every good block is erased, then an empty catalogue is committed with sequence 1. -/
def falFormat (v : Nat) (d : Dev) : Dev :=
  let open_ := d.fal.mode = .blank ∨ d.fal.mode = .ready ∨ d.fal.mode = .mismatch
  if bits v 8 8 ≠ 0xA5 ∨ v % 2 = 0 ∨ ¬ open_ ∨ falBusy d = true then setEvt oFalEvt 9 d
  else
    let factory := decide (d.fal.mode = .blank)
    let d := modFal (fun f => { f with
      mode := .formatting, base := f.base + 1, chans := chansNow d, cat := { ids := [], table := none, pages := [] }, seq := 0,
      top := 0, luns := [], opens := [], commits := [], batches := [], replIn := [], reloc := [], retiredSince := true,
      blks := tmap (fun b => if b.st = .bad then { b with pages := [] }
        else { st := .free, erases := b.erases + 1, pages := [], bad := [], reads := 0 }) f.blks }) d
    let d := when factory (each d.fal.marks (fun b d => setBlk b { fblk d b with st := .bad } d)) d
    let d := modFal (fun f => { f with reserve := reserves d }) d
    addCommit ownCmd .format 0 0 0 d

/-- Bytes of usable GDDR7 from a flat address (R330): none when a codeword is uncorrectable or it lies beyond the end. -/
def flatRead (cls : Nat) : Nat → Nat → Dev → Option Bytes × Dev
  | _, 0, d => (some [], d)
  | a, n + 1, d =>
    let (i, o) := ofFlat a
    if dataSize < o + 64 then (none, d)
    else
      match gRead i o 64 cls d with
      | (none, d) => (none, d)
      | (some b, d) =>
        match flatRead cls (a + 64) n d with
        | (some t, d) => (some (b ++ t), d)
        | (none, d) => (none, d)

/-- A personality table is accepted (R349). -/
def persOk (b : Bytes) (units : Nat) : Bool :=
  let l := byteAt b 6
  within 1 15 l && units == l + 1 && leAt b (8 + 64 * l) 4 == crc32c (slice b 0 (8 + 64 * l)) && slice b 0 6 == fit Config.readId 6
  && (List.range (16 * l)).all (fun k => decide (byteAt b (8 + 4 * k) < 5))

/-- A write of FAL_PERS (R349). -/
def falPersLoad (v : Nat) (d : Dev) : Dev :=
  let d := match regOf 0x480038 with
    | some r => putReg 0x480038 (writeFlds (rg d 0x480038) v r.flds) d
    | none => d
  if !v.testBit 50 then d
  else
    let a := fld d 0x480038 0 36
    let n := fld d 0x480038 36 14
    let (b, d) := if a % 64 = 0 then flatRead 1 a n d else (none, d)
    match b with
    | some b =>
      if persOk b n then modFal (fun f => { f with pers := some b, reject := false }) d
      else modFal (fun f => { f with reject := true }) d
    | none => modFal (fun f => { f with reject := true }) d

def falCode : FalMode → Nat
  | .absent => 0
  | .discovering => 1
  | .blank => 2
  | .ready => 3
  | .mismatch => 4
  | .formatting => 5

/-- What the FAL registers read, other than as written (Tables 13.9, 13.10). -/
def falView (off : Nat) (d : Dev) : Option Nat :=
  let f := d.fal
  let total := ((chansNow d).map (chTotal d)).sum
  let count_ := fun (p : BlkState → Bool) => (f.blks.filter (fun b => p b.2.st)).length
  let badN := count_ (fun s => decide (s = .bad))
  match off with
  | 0x480010 => some (falCode f.mode + 8 * (chansNow d).length + 512 * f.targets.length + 2 ^ 18 * f.chans.length
      + 2 ^ 24 * f.opens.length + 2 ^ 31 * f.cat.ids.length)
  | 0x480018 => some f.seq
  | 0x480020 => some (total - badN + 2 ^ 32 * (total - count_ (fun s => decide (s ≠ .free))))
  | 0x480028 => some ((f.reserve.map (·.2)).sum + 2 ^ 32 * badN)
  | 0x480038 => some (rg d off % 2 ^ 50 + 2 ^ 51 * boolNat f.pers.isSome + 2 ^ 52 * boolNat f.reject)
  | _ => none

end Sys2Proof.Machine
end

