-- ==== Sys2Proof/Machine/Adapter.lean ====
section
/-! DEFINITION. The adapter unit: DEFINE, STEP, CLEAR, the optimisers and the ADP registers (R309 to R311, R319 to R322, R326). -/

namespace Sys2Proof.Machine

/-- Where R8 keeps the cycles of a slot's flag word: ADP_SLOTST shows one slot at a time. -/
def slotStOff (k : Nat) : Nat := 2 ^ 33 + k

def setSlot (k : Nat) (s : Slot) (d : Dev) : Dev := modAdp (fun a => { a with slots := tput a.slots k s }) d

/-- Write a bank of a slot (R310). -/
def putBank (r : Bytes) (ver : Nat) (b : Bytes) (d : Dev) : Dev :=
  modForge (sForge r) (fun g => { g with flm := memWriteN g.flm (sBank r (ver % 2)) b }) d

/-- Define a slot that holds nothing (Table 11.4): the status, and the state. -/
def defineSlot (r : Bytes) (d : Dev) : Nat × Dev :=
  match gAddrRead 2 (sMaster r) (masterBytes r) d with
  | (.error c, d) => (c, d)
  | (.ok m, d) =>
    match gAddrWrite 2 (sState r) (zeros (stateBytes r)) d with
    | (0, d) =>
      let (b, fl) := bankOf r 0 (fp32s m)
      let s : Slot := { record := r, version := 0, t := 0, p1 := 0x3F800000, p2 := 0x3F800000, flags := fl.toNat, upd := none }
      (0, setSlot (sSlot r) s (putBank r 1 (zeros (bankBytes r)) (putBank r 0 b d)))
    | (c, d) => (c, d)

/-- ADAPTER_UPDATE DEFINE (R309, R311). -/
def cmdAdapterDefine (c : Cmd) (e : Bytes) (d : Dev) : Res :=
  if !plainOk e [(32, 8)] then bad d
  else
    match image c (leAt e 32 8) 64 d with
    | none => bad d
    | some r =>
      match tget d.adp.slots (sSlot r) with
      | some s => if s.record = r then .done 0 0 s.version d else .done 2 0 s.version d
      | none =>
        if !adpRecOk d r then bad d
        else
          let (st, d) := defineSlot r d
          .done st 0 0 d

/-- The newest version of a slot (R319). -/
def newestOf (s : Slot) : Nat := (s.version + (if s.upd.isSome then 1 else 0)) % 2 ^ 32

/-- ADAPTER_UPDATE STEP (R319). -/
def cmdAdapterStep (c : Cmd) (e : Bytes) (d : Dev) : Res :=
  let k := leAt e 16 2
  let vb := leAt e 24 4
  let g := leAt e 32 8
  if !plainOk e [(16, 3), (20, 8), (32, 8)] || decide (4095 < k) || !forgeAddrOk g then bad d
  else
    match tget d.adp.slots k with
    | none => bad d
    | some s =>
      if !inGddr g (masterBytes s.record) then .done 0x10 0 s.version d
      else if newestOf s = vb then
        (if s.upd.isSome then .wait d
         else
           let u : Update := { cmd := c, grad := g, gs := byteAt e 18, lr := leAt e 20 4, applying := false, began := 0 }
           .run (setSlot k { s with upd := some u } d))
      else if newestOf s = (vb + 1) % 2 ^ 32 then .done 0 0 s.version d
      else .done 0x10 0 s.version d

/-- ADAPTER_UPDATE CLEAR (R311). -/
def cmdAdapterClear (_ : Cmd) (e : Bytes) (d : Dev) : Res :=
  let k := leAt e 16 2
  if !plainOk e [(16, 2)] || decide (4095 < k) then bad d
  else
    match tget d.adp.slots k with
    | none => okRes d
    | some s =>
      if bankRefs d k 0 = 0 ∧ bankRefs d k 1 = 0 ∧ s.upd.isNone = true then
        .done 0 0 s.version (modAdp (fun a => { a with slots := tdel a.slots k }) d)
      else .done 2 0 s.version d

/-! Every operation of an update is rounded once by RNE under ORM 0b00 (R321). -/

def avAdd : FV → FV → FV := fvAdd 0
def avSub : FV → FV → FV := fvSub 0
def avMul : FV → FV → FV := fvMul 0
def avDiv : FV → FV → FV := fvDiv 0
def avSqrt : FV → FV := fvSqrt 0

/-- What an update forms once: k1, k2, c1, c2 and the powers p1, p2 (R321). -/
structure OptK where
  k1 : FV
  k2 : FV
  c1 : FV
  c2 : FV
  p1 : FV
  p2 : FV

def optK (s : Slot) : OptK :=
  let one : FV := (0x3F800000, 0)
  let b1 : FV := (sB1 s.record, 0)
  let b2 : FV := (sB2 s.record, 0)
  let p1 := avMul (s.p1, 0) b1
  let p2 := avMul (s.p2, 0) b2
  { k1 := avSub one b1, k2 := avSub one b2, c1 := avSub one p1, c2 := avSub one p2, p1 := p1, p2 := p2 }

/-- One element of an update (R321): w, m, v after it, and its flags. -/
def optElem (r : Bytes) (k : OptK) (lr gs w m v g : Nat) : Nat × Nat × Nat × Num.Flags :=
  let g : FV := Num.encode .fp32 .rne 0 (Num.scaleVal (Num.decode .fp32 g) (signed 8 gs))
  let lr : FV := (lr, 0)
  let w : FV := (w, 0)
  let decay := avMul (sWd r, 0) w
  let b1 : FV := (sB1 r, 0)
  match sOpt r with
  | 0 =>
    let x := avSub w (avMul lr (avAdd g decay))
    (x.1, m, v, x.2)
  | 1 =>
    let m' := avAdd (avMul b1 (m, 0)) g
    let x := avSub w (avMul lr (avAdd m' decay))
    (x.1, m'.1, v, x.2)
  | _ =>
    let m' := avAdd (avMul b1 (m, 0)) (avMul k.k1 g)
    let v' := avAdd (avMul (sB2 r, 0) (v, 0)) (avMul k.k2 (avMul g g))
    let x := avSub w (avMul lr (avAdd (avDiv (avDiv m' k.c1) (avAdd (avSqrt (avDiv v' k.c2)) (sEps r, 0))) decay))
    (x.1, m'.1, v'.1, x.2)

/-- An update of every element, A then B: new master copy, new state, flags. -/
def optAll (s : Slot) (u : Update) (w m v g : List Nat) : List Nat × List Nat × List Nat × Num.Flags :=
  let k := optK s
  let l := (List.range w.length).map (fun i =>
    optElem s.record k u.lr u.gs (w.getD i 0) (m.getD i 0) (v.getD i 0) (g.getD i 0))
  let once := if sOpt s.record = 2 then k.c1.2 ||| k.c2.2 ||| k.k1.2 ||| k.k2.2 else k.p1.2 ||| k.p2.2
  (l.map (·.1), l.map (·.2.1), l.map (·.2.2.1), l.foldl (fun f x => f ||| x.2.2.2) once)

/-- The update ends without effect on version and bank: after an uncorrectable read master copy and state are undefined (Table
12.3). -/
def updateFail (k : Nat) (s : Slot) (u : Update) (st : Nat) (d : Dev) : Dev :=
  let r := s.record
  let d := setSlot k { s with upd := none } d
  let d := if st = 0x0C then
      let (a, d) := freeBytes (masterBytes r) d
      let (b, d) := freeBytes (stateBytes r) d
      cause 19 (gAddrWrite 2 (sState r) b (gAddrWrite 2 (sMaster r) a d).2).2
    else d
  complete u.cmd st 0 s.version d

/-- The range lies in a block in host bias (R345). -/
def biasAt (d : Dev) (a n : Nat) : Bool :=
  match gddrRange a n with
  | some (i, o) => hostBias d i o n
  | none => false

/-- The three reads of an update. -/
def updateReads (s : Slot) (u : Update) (d : Dev) : Except Nat (Bytes × Bytes × Bytes) × Dev :=
  let r := s.record
  match gAddrRead 2 u.grad (masterBytes r) d with
  | (.error c, d) => (.error c, d)
  | (.ok g, d) =>
    match gAddrRead 2 (sMaster r) (masterBytes r) d with
    | (.error c, d) => (.error c, d)
    | (.ok w, d) =>
      match gAddrRead 2 (sState r) (stateBytes r) d with
      | (.error c, d) => (.error c, d)
      | (.ok st, d) => (.ok (g, w, st), d)

/-- The update computes and writes (R320, R321, R322). -/
def updateApply (k : Nat) (s : Slot) (u : Update) (d : Dev) : Dev :=
  let r := s.record
  let n := masterBytes r
  if biasAt d u.grad n || biasAt d (sMaster r) n || biasAt d (sState r) (stateBytes r) then updateFail k s u 0x10 d
  else
    match updateReads s u d with
    | (.error c, d) => updateFail k s u c d
    | (.ok (g, w, st), d) =>
      let (w, m, v, fl) := optAll s u (fp32s w) (fp32s (slice st 0 n)) (fp32s (slice st n n)) (fp32s g)
      let st' := match sOpt r with
        | 0 => []
        | 1 => fp32Bytes m
        | _ => fp32Bytes m ++ fp32Bytes v
      match gAddrWrite 2 (sMaster r) (fp32Bytes w) d with
      | (0, d) =>
        (match gAddrWrite 2 (sState r) st' d with
         | (0, d) =>
           let (b, fb) := bankOf r s.t w
           let kk := optK s
           let x : Slot := { s with p1 := kk.p1.1, p2 := kk.p2.1, flags := s.flags ||| (fl ||| fb).toNat,
                                    upd := some { u with applying := true, began := d.clk.swc.toNat } }
           count 14 1 1 { masters := [mForge (sForge r)] } (stampFlags d.clk.now (slotStOff k) 60 (fl ||| fb).toNat
             (setSlot k x (putBank r (s.version + 1) b d)))
         | (c, d) => updateFail k s u c d)
      | (c, d) => updateFail k s u c d

/-- UPDATE_APPLY_START: at a boundary, the target bank unreferenced (R320). -/
def updateStart (k : Nat) (d : Dev) : Dev :=
  match tget d.adp.slots k with
  | none => d
  | some s =>
    match s.upd with
    | none => d
    | some u =>
      if u.applying || decide (d.clk.now ≠ d.clk.swStart) then d
      else if bankRefs d k ((s.version + 1) % 2) ≠ 0 then
        countOnce 20 k 14 2 { masters := [mForge (sForge s.record)] } (setEvt oAdpEvt 2 d)
      else updateApply k s u d

/-- UPDATE_APPLY_DONE: at the first boundary after the last write (R320). -/
def updateDone (k : Nat) (d : Dev) : Dev :=
  match tget d.adp.slots k with
  | none => d
  | some s =>
    match s.upd with
    | none => d
    | some u =>
      if !u.applying || decide (d.clk.now ≠ d.clk.swStart) || u.began == d.clk.swc.toNat then d
      else
        let v := (s.version + 1) % 2 ^ 32
        commitGo (complete u.cmd 0 0 v (setSlot k { s with version := v, t := (s.t + 1) % 2 ^ 32, upd := none } d))

/-- Banks of the slots a Forge hosts lie clear of a range of its FLM. -/
def banksClear (d : Dev) (f a n : Nat) : Bool :=
  d.adp.slots.all (fun p => sForge p.2.record ≠ f || bankClear p.2.record a n)

/-- A write of a word of ADP_STASH_f (R326). -/
def writeStash (f w v : Nat) (d : Dev) : Dev :=
  if d.adp.mbs.any (fun m => m.forge == f) then setEvt oAdpEvt 3 d
  else
    let off := oStash f + 8 * w
    match regOf off with
    | none => d
    | some r =>
      let old := rg d off
      let keep (ok : Bool) (lo n : Nat) (d : Dev) : Dev :=
        if ok then d else putReg off (setBits (rg d off) lo n (bits old lo n)) d
      let d2 := putReg off (writeFlds old v r.flds) d
      let (a, len) := stashFlm d2 f
      let (b, m) := stashOvf d2 f
      let flmOk := decide (a + len ≤ flmSize) && banksClear d2 f a len
      let ovfOk := decide (b % unit64 = 0) && ((b == 0 && m == 0) || (gddrRange b m).isSome)
      if w = 0 then keep ovfOk 32 15 (keep flmOk 0 16 d2) else keep ovfOk 0 48 d2

/-- What the ADP registers read, other than as written (R326). -/
def adpView (off : Nat) (d : Dev) : Option Nat :=
  if off = 0x400000 then
    some (d.adp.slots.length + 2 ^ 13 * d.adp.mbs.length + 2 ^ 26 * (d.adp.slots.filter (fun p => p.2.upd.isSome)).length)
  else if off = 0x400010 then
    let k := fld d 0x400008 0 12
    match tget d.adp.slots k with
    | some s => some (s.version + 2 ^ 32 * bankRefs d k 0 + 2 ^ 45 * bankRefs d k 1 + 2 ^ 58 * boolNat s.upd.isSome + 2 ^ 59
        + 2 ^ 60 * s.flags)
    | none => some 0
  else none

/-- A write of ADP_SLOTST clears flags of the slot shown (R8, Table 11.10). -/
def writeSlotst (v : Nat) (d : Dev) : Dev :=
  let k := fld d 0x400008 0 12
  match tget d.adp.slots k with
  | some s => setSlot k { s with flags := s.flags &&& (15 - clearedFlags (slotStOff k) 60 v d) } d
  | none => d

end Sys2Proof.Machine
end

