-- ==== Sys2Proof/Machine/Health.lean ====
section
/-! DEFINITION. Parts, self-tests, retirement, membership and the HLT registers (R398 to R405, R417, R420, R421, R424). -/

namespace Sys2Proof.Machine

/-- Part indices of Table 15.1. -/
def partIdxOk (kind idx : Nat) : Bool :=
  match kind with
  | 0 => decide (idx < 512)
  | 1 => decide (idx < 64)
  | 2 => decide (idx < 16)
  | 3 => decide (idx % 2 ^ 24 < 2 ^ 21) && decide (idx < 2 ^ 28)
  | 4 => decide (idx < 16)
  | 5 => decide (idx < 32)
  | 6 => decide (idx < 8)
  | 7 => decide (idx < 8)
  | 8 => decide (idx < 1024)
  | 9 => decide (idx < 2 ^ 28)
  | _ => false

/-- Blocks of a NAND die. -/
def dieBlks (d : Dev) (die : Nat) : List Nat :=
  ((List.range (fgeom d).blocks).map (fun n => die + 1024 * n)).filter (blkIn d)

/-- The part is retired (R403); NAND retirements stand in the block table. -/
def partRetired (d : Dev) (kind idx : Nat) : Bool :=
  match kind with
  | 8 => !(dieBlks d idx).isEmpty && (dieBlks d idx).all (fun b => decide ((fblk d b).st = .bad))
  | 9 => decide ((fblk d idx).st = .bad)
  | _ => retired d kind idx

/-- A retired lane's sub-port retrains (Table 4.17, R134). -/
def retireLane (idx : Nat) (d : Dev) : Dev :=
  let p := idx / 8
  let lp := 4 * p + (idx % 8) / fullLanes d (4 * p)
  let d' := modSub lp (fun s => { s with lock := false }) d
  match (sub d lp).state with
  | .service => enterHold lp .lane d'
  | .hold => modSub lp (fun s => { s with cause := .lane, unreach := false }) d'
  | .aligning => modSub lp (fun s => { s with state := .training }) d'
  | .down => d'
  | _ => d

/-- The last column of Table 15.4. -/
def retireAct (kind idx : Nat) (d : Dev) : Dev :=
  match kind with
  | 0 => retireLane idx d
  | 2 => forgeFence idx (setEvt oMemEvt 6 (modGddr idx (fun g => { g with failed := true }) d))
  | 3 => remapRow (idx / 2 ^ 24) (idx % 2 ^ 24) false d
  | 4 => forgeFence idx d
  | 5 => forgeFence (idx / 2) d
  | 7 => selectFence idx d
  | 8 => each (dieBlks d idx) retireBlk d
  | 9 => retireBlk idx d
  | _ => d

/-- Retire a part (R403): its action, its entry in the retirement log, PART_RETIRED. -/
def retirePart (kind idx : Nat) (byScore : Bool) (d : Dev) : Dev :=
  if partRetired d kind idx then d
  else
    let d := if 8 ≤ kind then d else { d with nv := { d.nv with log := d.nv.log ++ [(kind, idx)] } }
    postEvent 0x102 (toLE 1 kind ++ toLE 4 idx ++ toLE 1 (boolNat byScore)) (retireAct kind idx d)

/-- The retirement log is applied before the first use of the parts it names (R403). -/
def applyLog (d : Dev) : Dev :=
  each d.nv.log (fun p d => match p.1 with
    | 2 => modGddr p.2 (fun g => { g with failed := true }) d
    | 3 => remapRow (p.2 / 2 ^ 24) (p.2 % 2 ^ 24) true d
    | _ => d) d

/-- SELFTEST (R404). -/
def cmdSelftest (c : Cmd) (e : Bytes) (d : Dev) : Res :=
  let kind := byteAt e 16
  let idx := leAt e 20 4
  if !plainOk e [(16, 1), (20, 4)] || !partIdxOk kind idx then bad d
  else if partRetired d kind idx then .done 0 0 2 d
  else .run (orderTest kind idx 0 [c] d)

/-- The window of Table 15.4 stands open for a part's self-test (R401). -/
def testWindow (d : Dev) (kind idx : Nat) : Bool :=
  match kind with
  | 2 => (d.mem.window.map (·.1)) == some idx
  | 6 => decide (16 ≤ bankFree d idx)
  | 7 => decide (allotUsed d idx + 1024 ≤ 48 * d.clk.nsNow)
  | 4 | 5 => decide (1024 ≤ uncommitted d (if kind = 4 then idx else idx / 2))
  | _ => true

/-- The Forge whose cycles a self-test slice takes (R41). -/
def sliceForge (kind idx : Nat) : Option Nat :=
  match kind with
  | 4 => some idx
  | 5 => some (idx / 2)
  | _ => none

/-- SELFTEST_RUN (R401): a pending self-test runs in its window; a slice freezes its Forge (R41, R252). -/
def selftestRun (kind idx : Nat) (d : Dev) : Dev :=
  if d.hlt.tests.any (fun t => t.kind == kind && t.idx == idx && !t.running) && testWindow d kind idx then
    let d := modHlt (fun h => { h with tests := h.tests.map (fun t =>
      if t.kind = kind ∧ t.idx = idx then { t with running := true } else t) }) (count 19 2 1 {} d)
    match sliceForge kind idx with
    | some f => freezeForge f d.clk.now d
    | none => d
  else d

/-- The end of a self-test slice: 1,024 cycles after it began (R41). -/
def sliceEnd (kind idx : Nat) (d : Dev) : Dev :=
  match sliceForge kind idx with
  | none => d
  | some f =>
    match (forge d f).freeze with
    | some a => if (d.mem.window.map (·.1)) = some f then d else thawForge f 1024 (tick (a + 1024) d)
    | none => d

/-- SELFTEST_DONE (R402, R404): the verdict; on calibration defaults a lane passes at margins of 0 (R432). -/
def selftestDone (kind idx : Nat) (pass : Bool) (failed : List Nat) (d : Dev) : Dev :=
  match d.hlt.tests.find? (fun t => t.kind == kind && t.idx == idx && t.running) with
  | none => d
  | some t =>
    let pass := pass || (d.boot.calDefaults && decide (kind < 2))
    let d := sliceEnd kind idx (modHlt (fun h => { h with tests := h.tests.filter (fun x => !(x.kind == kind && x.idx == idx)) }) d)
    let v := boolNat (!pass)
    let d := postEvent 0x101 (toLE 1 kind ++ toLE 4 idx ++ toLE 1 v ++ toLE 1 t.cause) d
    let d := if pass then d
      else
        let d := if kind = 1 then each failed (fun i d => retirePart 0 (8 * idx + i) false d) d else d
        retirePart kind idx false d
    defer (.tested kind idx pass) (each t.waiters (fun c d => complete c 0 0 v d) d)

/-- HOURLY_SCORE_DECAY (R399, R400, R422): at a whole hour of module time. -/
def scoreDecay (d : Dev) : Dev :=
  if d.clk.now / hourCycles ≤ d.hlt.hour then d
  else
    let h := d.hlt.hour + 1
    let ls := levels d
    let fix := fun (p : Nat × Nat) =>
      let s := p.1 / 2
      (s, (ls.map (fun l => if p.2.testBit l.1 && decide (l.2 ≤ s) then 2 ^ l.1 else 0)).sum)
    let keep := fun (row : Nat) => (row == 3 && h % 24 ≠ 0) || (row == 4 && h % 720 ≠ 0)
    modHlt (fun x => { x with hour := h, scores := tmap fix x.scores, rates := x.rates.filter (fun p => keep (p.1 / 2 ^ 40)) }) d

/-- Score of a part. -/
def scoreOf (d : Dev) (kind idx : Nat) : Nat := (tgetD d.hlt.scores (partKey kind idx) (0, 0)).1

/-- SUSPECT_HOURLY_TEST (R400). -/
def suspectTest (kind idx : Nat) (d : Dev) : Dev :=
  if fld d 0x500008 16 16 ≤ scoreOf d kind idx ∧ partRetired d kind idx = false then orderTest kind idx 2 [] d else d

/-- A write of HLT_THR whose thresholds do not ascend strictly is ignored whole (R400). -/
def writeThr (v : Nat) (d : Dev) : Dev :=
  if bits v 0 16 < bits v 16 16 ∧ bits v 16 16 < bits v 32 16 then putReg 0x500008 (v % 2 ^ 48) d else d

/-- The EID of MEMBER_SET. -/
def memberEid (e : Bytes) : Nat := leAt e 16 3

def memberOk (e : Bytes) : Bool := plainOk e [(16, 3)]

/-- MEMBER_SET FENCE (R420). -/
def cmdMemberFence (e : Bytes) (d : Dev) : Res :=
  let x := memberEid e
  if !memberOk e || reservedEid x then bad d
  else if d.hlt.eids.contains x then okRes d
  else if 4096 ≤ d.hlt.eids.length then busyRes d
  else okRes (fenceNodes x (modHlt (fun h => { h with eids := x :: h.eids }) d))

/-- MEMBER_SET UNFENCE (R420). -/
def cmdMemberUnfence (e : Bytes) (d : Dev) : Res :=
  let x := memberEid e
  if !memberOk e || reservedEid x then bad d
  else okRes (modHlt (fun h => { h with eids := h.eids.filter (· ≠ x) }) d)

/-- MEMBER_SET FORGET (R396). -/
def cmdMemberForget (e : Bytes) (d : Dev) : Res :=
  let x := memberEid e
  if !memberOk e || reservedEid x then bad d else okRes (forgetPairs x d)

/-- MEMBER_SET READY (R417). -/
def cmdMemberReady (e : Bytes) (d : Dev) : Res :=
  if !memberOk e || memberEid e ≠ 0 then bad d else okRes (modHlt (fun h => { h with ready := true }) d)

/-- Functions with a cause that lasts: fenced parts, sequences running, the store and the host link down (Table 15.11). -/
def lastingCauses (d : Dev) : List Nat :=
  let seq := fun (k : Nat) => d.hlt.seqs.filter (fun s => s.kind == k && s.step ≠ 0)
  (if (seq 1).isEmpty && (seq 7).isEmpty then [] else [0])
    ++ ((List.range 16).filter (forgeFenced d)).map (· + 1)
    ++ (if (List.range 8).any (partOut d 6) then [17] else [])
    ++ (if (List.range 8).any (partOut d 7) then [18] else [])
    ++ (if d.boot.step6 && decide (d.fal.mode ≠ .ready) && decide (d.fal.mode ≠ .formatting) then [20] else [])
    ++ (if d.boot.cxlUp || d.boot.hostDown then [] else [21])

/-- The Swath that ends is counted for every function (R421). -/
def countShares (d : Dev) : Dev :=
  let l := d.hlt.causes ++ lastingCauses d
  modHlt (fun h => { h with causes := [], share := (List.range 22).map (fun k =>
    let (t, u) := tgetD h.share k (0, 0)
    (k, (t + 1) % 2 ^ 48, (if l.contains k then u + 1 else u) % 2 ^ 48)) }) d

/-- What the HLT registers read, other than as written (R424). -/
def hltView (off : Nat) (d : Dev) : Option Nat :=
  let h := d.hlt
  match off with
  | 0x500018 => some (boolNat h.ready + 2 * h.seqs.length + 64 * h.mgmtResets + rg d off)
  | 0x500028 =>
    let k := fld d 0x500020 0 8
    let i := fld d 0x500020 8 32
    some (if !partIdxOk k i then 0
      else
        let s := scoreOf d k i
        let lv := ((levels d).filter (fun l => decide (l.2 ≤ s))).length
        s + 2 ^ 16 * lv + 2 ^ 18 * boolNat (h.tests.any (fun t => t.kind == k && t.idx == i))
          + 2 ^ 19 * boolNat (partRetired d k i) + 2 ^ 20 * boolNat (h.fenced.contains (k, i)))
  | 0x500038 => some (tgetD h.share (fld d 0x500030 0 5) (0, 0)).1
  | 0x500040 => some (tgetD h.share (fld d 0x500030 0 5) (0, 0)).2
  | _ => none

end Sys2Proof.Machine
end

