-- ==== Sys2Proof/Machine/Recover.lean ====
section
/-! DEFINITION. Recovery sequences, restoring and copying adapter state (R406 to R412, R418). -/

namespace Sys2Proof.Machine

/-- A slot as an image holds it (R365). -/
structure SlotPart where
  recd : Bytes
  ver : Nat
  t : Nat
  p1 : Nat
  p2 : Nat
  master : Bytes
  state : Bytes
  bank : Bytes

/-- The slots of an image from a position; the fuel covers its length. -/
def parseSlots : Nat → Bytes → List SlotPart
  | 0, _ => []
  | n + 1, b =>
    if b.length < 128 then []
    else
      let r := slice b 0 64
      let m := masterBytes r
      let s := stateBytes r
      let k := bankBytes r
      if b.length < slotImageBytes r then []
      else
        { recd := r, ver := leAt b 64 4, t := leAt b 68 4, p1 := leAt b 72 4, p2 := leAt b 76 4, master := slice b 128 m,
          state := slice b (128 + m) s, bank := slice b (128 + m + s) k } :: parseSlots n (b.drop (slotImageBytes r))

def slotsOf (b : Bytes) : List SlotPart := parseSlots (b.length / 128 + 1) b

/-- Install slots as step 2 of RESTORE does (R409): the number defined, or the status of a failing access. -/
def installSlots : List SlotPart → Nat → Dev → Except Nat Nat × Dev
  | [], n, d => (.ok n, d)
  | p :: rest, n, d =>
    let k := sSlot p.recd
    if (tget d.adp.slots k).isSome then installSlots rest n d
    else
      match gAddrWrite 2 (sMaster p.recd) p.master d with
      | (0, d) =>
        (match gAddrWrite 2 (sState p.recd) p.state d with
         | (0, d) =>
           let s : Slot := { record := p.recd, version := p.ver, t := p.t, p1 := p.p1, p2 := p.p2, flags := 0, upd := none }
           installSlots rest (n + 1)
             (setSlot k s (putBank p.recd (p.ver + 1) (zeros (bankBytes p.recd)) (putBank p.recd p.ver p.bank d)))
         | (c, d) => (.error c, d))
      | (c, d) => (.error c, d)

/-- The part a sequence holds (R406). -/
def seqPart (s : RecSeq) : Option (Nat × Nat) :=
  match s.kind with
  | 1 => some (1, s.arg)
  | 2 => some (4, s.arg)
  | 3 => some (6, s.arg)
  | 4 => some (7, s.arg)
  | _ => none

/-- A part it needs is held by another running sequence (R406). -/
def seqHeld (d : Dev) (s : RecSeq) : Bool :=
  match seqPart s with
  | none => false
  | some p => d.hlt.seqs.any (fun x => x.id ≠ s.id && x.step ≠ 0 && seqPart x == some p)

def findSeq (d : Dev) (id : Nat) : Option RecSeq := d.hlt.seqs.find? (fun s => s.id == id)
def modSeq (id : Nat) (f : RecSeq → RecSeq) (d : Dev) : Dev :=
  modHlt (fun h => { h with seqs := h.seqs.map (fun s => if s.id = id then f s else s) }) d

/-- A step runs (Table 17.3), and the sequence waits in step `n`. -/
def seqAt (id n : Nat) (d : Dev) : Dev := modSeq id (fun s => { s with step := n, since := d.clk.swc.toNat }) (count 19 3 1 {} d)

def unfencePart (p : Nat × Nat) (d : Dev) : Dev := modHlt (fun h => { h with fenced := h.fenced.filter (· ≠ p) }) d
def fencePart (p : Nat × Nat) (d : Dev) : Dev :=
  modHlt (fun h => { h with fenced := if h.fenced.contains p then h.fenced else p :: h.fenced }) d

/-- A sequence completes (R406, R408). -/
def finishSeq (id status result : Nat) (d : Dev) : Dev :=
  match findSeq d id with
  | none => d
  | some s =>
    let d := modHlt (fun h => { h with seqs := h.seqs.filter (fun x => x.id ≠ id),
                                       outcomes := ((id, s.kind, s.arg, status, result) :: h.outcomes).take 1024 }) d
    let d := match seqPart s with
      | some p => unfencePart p d
      | none => d
    complete s.cmd status 0 result (postEvent 0x103 (toLE 4 id ++ toLE 1 s.kind ++ toLE 1 status ++ toLE 1 s.restarts) d)

/-- PORT, steps 1 to 3 (Table 15.6). -/
def portSeq (id p : Nat) (d : Dev) : Dev :=
  let v := fun (d : Dev) (on : Nat) => setBits (rg d (oPortCfg p)) 0 1 on
  let d := putPortCfg p (v d 0) (seqAt id 1 d)
  let d := putPortCfg p (v d 1) (seqAt id 3 (seqAt id 2 d))
  laterSteps (seqAt id 4 d)

/-- What FORGE keeps and clears (Table 15.6, steps 2 to 4). -/
def clearForge (f : Nat) (d : Dev) : Dev :=
  let d := each (List.range 6) (fun st d => each (strm d f st).queue (fun _ d => endCommand f st 0x0E d) d) d
  let mine := fun (t : Tx) => match t.fr.org with
    | .forge k _ _ _ _ => k == f
    | _ => false
  let d := each (d.sw.tx.filter (fun p => mine p.2)) (fun p d => match p.2.resv with
    | some r => unreserve r (delTx p.1 d)
    | none => delTx p.1 d) d
  let d := modAdp (fun a => { a with mbs := a.mbs.filter (fun m => m.forge ≠ f) }) d
  modForge f (fun x => { x with
    streams := tmap (fun s => { streamZero with queue := s.queue, started := s.started, next := s.next }) x.streams,
    q := [], pend := [], sends := [], sendFail := false, reads := [], inbox := [], handles := [] }) d

/-- FORGE (Table 15.6): steps 1 to 4; the self-test is step 5. -/
def forgeSeq (id f : Nat) (d : Dev) : Dev :=
  if retired d 4 f || retired d 5 (2 * f) || retired d 5 (2 * f + 1) || (gddr d f).failed then finishSeq id 0x11 0 d
  else
    let d := fencePart (4, f) (seqAt id 1 d)
    let d := clearForge f (seqAt id 4 (seqAt id 3 (seqAt id 2 d)))
    orderTest 4 f 1 [] (seqAt id 5 (postEvent 0x105 [6] (modBoot (fun b => { b with lastReset := 6 }) d)))

/-- BANK (Table 15.6): steps 1 and 2; the self-test is step 3. -/
def bankSeq (id j : Nat) (d : Dev) : Dev :=
  if retired d 6 j then finishSeq id 0x11 0 d
  else
    let d := seqAt id 2 (fencePart (6, j) (seqAt id 1 d))
    let d := each (d.cru.nodes.filter (fun p => p.2.banks.contains j)) (fun p d => nodeAbort p.1 0x0E 0 none d) d
    orderTest 6 j 1 [] (seqAt id 3 d)

/-- UNIT (Table 15.6): step 1; the self-test is step 2. -/
def unitSeq (id u : Nat) (d : Dev) : Dev :=
  if retired d 7 u then finishSeq id 0x11 0 d
  else orderTest 7 u 1 [] (seqAt id 2 (selectFence u (fencePart (7, u) (seqAt id 1 d))))

/-- How a run of RESTORE or COPY comes out: done, or a fault restarts it. -/
inductive Run where
  | over_ (status result : Nat) (d : Dev)
  | fault (step : Nat) (d : Dev)

/-- A slot already stands as stored (R409). -/
def slotSame (s : Slot) (p : SlotPart) : Bool := s.record == p.recd && s.version == p.ver && s.t == p.t

/-- RESTORE (R409). -/
def restoreRun (id arg : Nat) (d : Dev) : Run :=
  match tget d.fal.cat.ids (arg % 2 ^ 32) with
  | none => .over_ 0x10 0 d
  | some (m, _) =>
    if m.ver ≠ arg / 2 ^ 32 ∨ m.ckpt = false then .over_ 0x10 0 d
    else
      match readImage m d with
      | (none, d) => .fault 1 (cause 20 d)
      | (some b, d) =>
        let ps := slotsOf b
        if ps.any (fun p => forgeFenced d (sForge p.recd)) then .over_ 0x11 0 d
        else if ps.any (fun p => match tget d.adp.slots (sSlot p.recd) with
            | some s => !slotSame s p
            | none => false) then .over_ 2 0 d
        else if ps.any (fun p => biasAt d (sMaster p.recd) (masterBytes p.recd) || biasAt d (sState p.recd) (stateBytes p.recd)) then
          .over_ 0x10 0 d
        else
          match installSlots ps 0 (seqAt id 2 d) with
          | (.ok n, d) => .over_ 0 n d
          | (.error _, d) => .fault 2 d

/-- Slot list bytes, filled with the last slot to a multiple of 16 bytes (log 38). -/
def slotList (l : List Nat) : Bytes :=
  let n := 8 * ceilDiv l.length 8
  ((l ++ List.replicate (n - l.length) (l.getLastD 0)).map (toLE 2)).flatten

/-- The slots a list names, the filling dropped. -/
def dropRepeats : List Nat → List Nat
  | a :: b :: t => if a = b then dropRepeats (b :: t) else a :: b :: t
  | l => l

def slotsIn (b : Bytes) : List Nat :=
  (dropRepeats ((List.range (b.length / 2)).map (fun i => leAt b (2 * i) 2)).reverse).reverse

/-- COPY, steps 1 and 2 (R411). -/
def copySeq (id : Nat) (s : RecSeq) (d : Dev) : Run :=
  if s.slots.any (fun k => (tget d.adp.slots k).isSome) then .over_ 2 0 d
  else
    match mgmtEid d with
    | none => .over_ 4 0 d
    | some src =>
      let d := modSeq id (fun s => { s with got := [] }) (seqAt id 2 (seqAt id 1 d))
      let body := toBE 4 s.furrow.1 ++ toBE 2 s.furrow.2 ++ toBE 4 0x10000000 ++ toBE 4 id
      let d := seqAt id 3 d
      .over_ 0xFF 0 (sendFrame (ownFrame d 0xC src s.srcEid (eidXport d src) body (slotList s.slots) (.mgmt (2 ^ 41 + id))) [] d)

/-- REJOIN, step 1, then its waits (R418). -/
def rejoinWait (id : Nat) (d : Dev) : Dev :=
  let up := (allSubs d).all (fun lp => !enabled d lp || isEdge d lp || (sub d lp).state == .service || (sub d lp).state == .down)
  if !up then d
  else if !aligned d then modSeq id (fun s => { s with step := 3 }) d
  else
    let d := modHlt (fun h => { h with ready := true }) (seqAt id 4 d)
    let m := ((findSeq d id).bind (·.mode)).getD 0
    finishSeq id 0 0 (markDevice 0x1C0000 (writeMode m (seqAt id 5 d)))

def rejoinSeq (id : Nat) (s : RecSeq) (d : Dev) : Dev :=
  let d := modSeq id (fun x => { x with mode := some (s.mode.getD d.bpm.mode) }) (seqAt id 1 d)
  rejoinWait id (seqAt id 2 (markDevice 0x1C0000 (writeMode 2 d)))

/-- A sequence runs from step 1; a fault met at once restarts it, and after 8 restarts it ends with CHECK_FAIL (R407). -/
def seqStart : Nat → Nat → Dev → Dev
  | 0, id, d => finishSeq id 0x11 0 d
  | n + 1, id, d =>
    match findSeq d id with
    | none => d
    | some s =>
      if seqHeld d s then d
      else
        let run := fun (r : Run) => match r with
          | .over_ st res d => if st = 0xFF then d else finishSeq id st res d
          | .fault k d =>
            if 8 ≤ s.restarts then finishSeq id 0x11 0 d
            else seqStart n id (modSeq id (fun x => { x with restarts := s.restarts + 1 })
              (postEvent 0x104 (toLE 4 id ++ toLE 1 s.kind ++ toLE 1 k) d))
        match s.kind with
        | 1 => portSeq id s.arg d
        | 2 => forgeSeq id s.arg d
        | 3 => bankSeq id s.arg d
        | 4 => unitSeq id s.arg d
        | 5 => run (restoreRun id s.arg (seqAt id 1 d))
        | 6 => run (copySeq id s d)
        | _ => rejoinSeq id s d

/-- A fault falls in a running sequence (R407). -/
def seqFault (id : Nat) (d : Dev) : Dev :=
  match findSeq d id with
  | none => d
  | some s =>
    if 8 ≤ s.restarts then finishSeq id 0x11 0 d
    else seqStart 9 id (modSeq id (fun x => { x with restarts := s.restarts + 1 })
      (postEvent 0x104 (toLE 4 id ++ toLE 1 s.kind ++ toLE 1 s.step) d))

/-- A part a running sequence uses (R407). -/
def seqUses (s : RecSeq) (kind idx : Nat) : Bool :=
  match s.kind with
  | 1 => (kind == 0 && idx / 8 == s.arg) || (kind == 1 && idx == s.arg)
  | 2 => (kind == 4 && idx == s.arg) || (kind == 5 && idx / 2 == s.arg)
  | 3 => kind == 6 && idx == s.arg
  | 4 => kind == 7 && idx == s.arg
  | 6 =>
    let at_ := fun (a : Nat) => match gddrRange a 1 with
      | some (i, _) => (kind == 2 && idx == i) || (kind == 3 && idx / 2 ^ 24 == i)
      | none => false
    (slotsOf (s.got.drop 32)).any (fun p => at_ (sMaster p.recd) || at_ (sState p.recd))
  | _ => false

/-- A fault on a part restarts the sequences that use it (R407). -/
def partFault (kind idx : Nat) (d : Dev) : Dev :=
  each (d.hlt.seqs.filter (fun s => s.step ≠ 0 && seqUses s kind idx)) (fun s d => seqFault s.id d) d

/-- A verdict that a sequence waits for (Table 15.6). -/
def partTested (kind idx : Nat) (pass : Bool) (d : Dev) : Dev :=
  each (d.hlt.seqs.filter (fun s => s.step ≠ 0 && decide (2 ≤ s.kind) && seqPart s == some (kind, idx))) (fun s d =>
    finishSeq s.id (if pass then 0 else 0x11) 0 d) d

/-- RECOVERY_WAIT_SATISFIED (R406, R408, R418): a sequence goes on if what it waits for has come. -/
def seqWait (id : Nat) (d : Dev) : Dev :=
  match findSeq d id with
  | none => d
  | some s =>
    if s.step = 0 then seqStart 9 id d
    else
      match s.kind with
      | 1 =>
        if (subsOf d s.arg).all (fun lp => (sub d lp).state == .service) then finishSeq id 0 0 d
        else if 16384 ≤ swathsSince d s.since then finishSeq id 4 0 d else d
      | 7 => rejoinWait id d
      | _ => d

/-- The copy record (Table 15.7). -/
def copyRecOk (r : Bytes) : Bool :=
  decide (byteAt r 3 < 2) && within 1 4096 (leAt r 10 2) && decide (16 ≤ leAt r 12 2) && allZero (slice r 14 2)
  && leAt r 16 8 % 64 == 0 && allZero (slice r 24 40) && !reservedEid (leAt r 0 3)

/-- The sequence a RECOVER names, if its argument is good (R406, R408, R410). -/
def newSeq (c : Cmd) (id kind arg : Nat) (d : Dev) : Option RecSeq :=
  let s : RecSeq := { id := id, kind := kind, arg := arg, step := 0, restarts := 0, cmd := c, since := 0, mode := none,
                      slots := [], got := [], sole := false, silence := 0, srcEid := 0, furrow := (0, 0) }
  match kind with
  | 1 => if arg < 64 then some s else none
  | 2 => if arg < 16 then some s else none
  | 3 => if arg < 8 then some s else none
  | 4 => if arg < 8 then some s else none
  | 5 => some s
  | 6 =>
    (match image c arg 64 d with
     | none => none
     | some r =>
       if !copyRecOk r then none
       else
         match image c (leAt r 16 8) (2 * leAt r 10 2) d with
         | none => none
         | some b =>
           let l := (List.range (leAt r 10 2)).map (fun i => leAt b (2 * i) 2)
           if l.any (fun k => decide (4095 < k)) then none
           else some { s with slots := l, sole := (byteAt r 3).testBit 0, silence := leAt r 12 2, srcEid := leAt r 0 3,
                              furrow := (leAt r 4 4, leAt r 8 2) })
  | 7 => if arg = 0 then some s else none
  | _ => none

/-- RECOVER (R406). -/
def cmdRecover (c : Cmd) (e : Bytes) (d : Dev) : Res :=
  let id := leAt e 16 4
  let kind := byteAt e 20
  let arg := leAt e 24 8
  if !plainOk e [(16, 5), (24, 8)] || decide (0xFFFF0000 ≤ id) || !within 1 7 kind then bad d
  else
    match d.hlt.outcomes.find? (fun o => o.1 == id) with
    | some (_, k, a, st, res) => if k = kind ∧ a = arg then .done st 0 res d else bad d
    | none =>
      match findSeq d id with
      | some s => if s.kind = kind ∧ s.arg = arg then .wait d else bad d
      | none =>
        match newSeq c id kind arg d with
        | none => bad d
        | some s =>
          if 16 ≤ d.hlt.seqs.length then .wait d
          else .run (seqStart 9 id (modHlt (fun h => { h with seqs := h.seqs ++ [s] }) d))

/-- The newest CHECKPOINT image of the catalogue that holds every listed slot (R411, R412). -/
def newestHolding (d : Dev) (slots : List Nat) : Option Manifest :=
  let ok := fun (m : Manifest) => m.ckpt && (match imageBytes d m with
    | some b => (let l := (slotsOf b).map (fun p => sSlot p.recd); slots.all l.contains)
    | none => false)
  ((d.fal.cat.ids.map (·.2.1)).filter ok).foldl (fun (b : Option Manifest) m => match b with
    | none => some m
    | some x => if x.seq < m.seq then some m else some x) none

/-- The copy header (R411): sequence, ID and version. -/
def copyHeader (m : Option Manifest) : Bytes :=
  match m with
  | some m => toLE 8 m.seq ++ toLE 4 m.id ++ toLE 4 m.ver ++ zeros 16
  | none => zeros 32

/-- The answer to a COPY_REQ that is not served, in the form of R366's answer with the recovery ID (log 39). -/
def copyRefuse (f : RxFrame) (status : Nat) (d : Dev) : Dev :=
  let body := toBE 4 (beAt f.hdr 22 4) ++ zeros 10 ++ toBE 2 status ++ zeros 4
  sendFrame (ownFrame d 0xC f.dst f.src (eidXport d f.dst) body [] .plain) [] d

/-- COPY_REQ_RECEIVE (R411): the source serves the first waiting request; a slot whose update is applying holds it (R23). -/
def copyReqReceive (d : Dev) : Dev :=
  match firstRx d (fun f => f.code == 0xFC && rxOp f == 0xC && fCode f == 0x10) with
  | none => d
  | some f =>
    let fid := fCid f
    let slots := slotsIn f.data
    let ok := match furrowFrom d fid f.dst with
      | some w => w.gen == fGen f && w.dst == f.src
      | none => false
    if !ok || some f.dst ≠ mgmtEid d || slots.isEmpty || slots.any (fun k => (tget d.adp.slots k).isNone) then
      copyRefuse f 0x10 (takeRx f d)
    else
      match readSlots slots (copyHeader (newestHolding d slots)) d with
      | (.ok ([], b), d) => sendImage fid f.dst f.src (beAt f.hdr 22 4) 0 b (2 ^ 40) (takeRx f d)
      | (.ok _, _) => d
      | (.error s, d) => copyRefuse f s (takeRx f d)

/-- Where the parts of a copy go: first byte in the stream, length, Forge address (R411). -/
def copySegs : Nat → Nat → Bytes → List (Nat × Nat × Nat)
  | 0, _, _ => []
  | n + 1, pos, b =>
    if b.length < pos + 64 then []
    else
      let r := slice b pos 64
      (pos + 128, masterBytes r, sMaster r) :: (pos + 128 + masterBytes r, stateBytes r, sState r)
        :: copySegs n (pos + slotImageBytes r) b

/-- Write the bytes of a copy from `lo` on to the addresses of the stored records (R411, step 4): 0, or a failing status. -/
def copyWrite (b : Bytes) (lo : Nat) (d : Dev) : Nat × Dev :=
  (copySegs (b.length / 128 + 1) 32 b).foldl (fun (r : Nat × Dev) s =>
    let from_ := max lo s.1
    let to_ := min b.length (s.1 + s.2.1)
    if r.1 ≠ 0 ∨ to_ ≤ from_ then r else gAddrWrite 2 (s.2.2 + (from_ - s.1)) (slice b from_ (to_ - from_)) r.2) (0, d)

/-- After the last frame (R411, step 5). -/
def copyLast (s : RecSeq) (b : Bytes) (d : Dev) : Dev :=
  let ps := slotsOf (b.drop 32)
  if ps.map (fun p => sSlot p.recd) ≠ s.slots then seqFault s.id d
  else
    match installSlots ps 0 (seqAt s.id 5 d) with
    | (.ok _, d) => finishSeq s.id 0 s.slots.length d
    | (.error 0x10, d) => finishSeq s.id 0x10 0 d
    | (.error _, d) => seqFault s.id d

/-- COPY_FRAME_RECEIVE (R411, R412). -/
def copyFrameReceive (d : Dev) : Dev :=
  match firstRx d (fun f => f.code == 0xFC && rxOp f == 0 && f.accepted && beAt f.hdr 22 4 == 0) with
  | none => d
  | some f =>
    match d.hlt.seqs.find? (fun s => s.kind == 6 && s.id == fCid f && s.step == 3 && s.srcEid == f.src) with
    | none => tally 16 0 (takeRx f d)
    | some s =>
      if !fromFurrow d f then tally 16 0 (takeRx f d)
      else
        match takeSequenced f d with
        | none => takeRx f d
        | some d =>
          let d := modSeq s.id (fun x => { x with since := d.clk.swc.toNat }) d
          if crc32c f.data ≠ beAt f.hdr 26 4 then seqFault s.id d
          else if 32768 * beAt f.hdr 18 4 ≠ s.got.length then d
          else
            let b := s.got ++ f.data.take (f.data.length - beAt f.hdr 16 2)
            let d := modSeq s.id (fun x => { x with got := b }) d
            match copyWrite b s.got.length d with
            | (0, d) => if (beAt f.hdr 30 2).testBit 0 then copyLast s b d else d
            | (0x10, d) => finishSeq s.id 0x10 0 d
            | (_, d) => seqFault s.id d

/-- The source of a COPY is lost (R412). -/
def copyLost (s : RecSeq) (d : Dev) : Dev :=
  if !s.sole then finishSeq s.id 7 0 d
  else
    let own := match newestHolding d s.slots with
      | some m => (m.seq, m.id, m.ver)
      | none => (0, 0, 0)
    let hdr := if 32 ≤ s.got.length then (leAt s.got 0 8, leAt s.got 8 4, leAt s.got 12 4) else (0, 0, 0)
    let (q, i, v) := if own.1 < hdr.1 then hdr else own
    finishSeq s.id 0x0B (q % 2 ^ 32) (postEvent 0x107 (toLE 4 s.id ++ toLE 8 q ++ toLE 4 i ++ toLE 4 v) d)

/-- COPY_SILENCE_TIMEOUT (R412). -/
def copySilence (id : Nat) (d : Dev) : Dev :=
  match findSeq d id with
  | some s => if s.kind = 6 ∧ s.step = 3 ∧ s.silence < swathsSince d s.since then copyLost s d else d
  | none => d

/-- MGMT_NOTICE_RECEIVE (R412): a NOTICE from the source, or about the request to it, with PATH_DEAD or PEER_UNREACHABLE. -/
def mgmtNotice (d : Dev) : Dev :=
  match firstRx d (fun f => f.code == 0xFC && rxOp f == 0xA) with
  | none => d
  | some f =>
    let d := takeRx f d
    let st := beAt f.hdr 26 2 % 256
    if st ≠ 4 ∧ st ≠ 7 then d
    else
      each (d.hlt.seqs.filter (fun s => s.kind == 6 && s.step == 3
        && (s.srcEid == f.src || (s.furrow.1 == fCid f && s.id == beAt f.hdr 22 4)))) (fun s d => copyLost s d) d

/-- The source refuses a COPY (R411): the sequence ends with the status it gives (log 39). -/
def copyRefused (f : RxFrame) (d : Dev) : Dev :=
  match d.hlt.seqs.find? (fun s => s.kind == 6 && s.id == fCid f && s.step == 3 && s.srcEid == f.src) with
  | some s => finishSeq s.id (beAt f.hdr 26 2 % 256) 0 d
  | none => d

/-- REPLICA_ANSWER_RECEIVE (R366, R411): an answer to a replication, or of a source that refuses a copy. -/
def answerReceive (d : Dev) : Dev :=
  match firstRx d (fun f => f.code == 0xFC && rxOp f == 0xC && fCode f == 0) with
  | none => d
  | some f => if beAt f.hdr 22 4 = 0 then copyRefused f (takeRx f d) else replicaAnswerReceive d

/-- A frame of the management core was refused at admission (R366, R412). -/
def mgmtRefused (n : Nat) (fr : Frame) (d : Dev) : Dev :=
  if 2 ^ 41 ≤ n then
    match findSeq d (n - 2 ^ 41) with
    | some s => copyLost s d
    | none => d
  else if 2 ^ 40 ≤ n then d
  else replStatus n (fun p => some p.1 == fr.furrow) 7 d

end Sys2Proof.Machine
end

