-- ==== Sys2Proof/Machine/Secure.lean ====
section
/-! DEFINITION. Firmware images, the calibration record, authority records, fuses and attestation (R430 to R447, R450). -/

namespace Sys2Proof.Machine

def modFuse (f : Fuses → Fuses) (d : Dev) : Dev := { d with nv := { d.nv with fuse := f d.nv.fuse } }

/-- Header, reserved and zero bytes of a firmware image, and its payload in the slot (Table 16.6, step 1 of R437). -/
def fwPayload (b : Bytes) : Nat := leAt b 16 4

def fwFormOk (b : Bytes) : Bool :=
  leAt b 0 4 == 0x43464B57 && leAt b 4 2 == 1 && decide (leAt b 6 2 < 2) && decide (byteAt b 12 ≤ 128)
  && decide (byteAt b 13 < 2) && decide (byteAt b 14 < 2) && byteAt b 15 == 0
  && within 4096 (4 * 2 ^ 20) (fwPayload b) && fwPayload b % 4096 == 0
  && allZero (slice b 68 188) && allZero (slice b 644 124) && allZero (slice b 816 16) && allZero (slice b 17440 3040)

/-- Steps 3 to 6 of R437 with the named key slots: the first that fails, or 0. The signed message is bytes 0 to 831. -/
def keySteps (d : Dev) (b : Bytes) (rsa slh : Nat) : Nat :=
  let rk := slice b 256 512
  let sk := slice b 768 64
  let m := slice b 0 832
  if d.nv.fuse.revoked.getLsbD rsa || d.nv.fuse.revoked.getLsbD (2 + slh) then 3
  else if Config.sha384 rk ≠ d.nv.fuse.keyHash.getD rsa [] ∨ Config.sha384 sk ≠ d.nv.fuse.keyHash.getD (2 + slh) [] then 4
  else if !Config.rsaVerify rk m (slice b 832 384) then 5
  else if !Config.slhVerify sk m (slice b 1216 16224) then 6
  else 0

/-- R437: the first step a firmware image fails, or 0. -/
def fwCheck (d : Dev) (b : Bytes) : Nat :=
  if !fwFormOk b then 1
  else if byteAt b 12 < d.nv.fuse.svn then 2
  else
    match keySteps d b (byteAt b 13) (byteAt b 14) with
    | 0 => if Config.sha384 (slice b 20480 (fwPayload b)) ≠ slice b 20 48 then 7 else 0
    | k => k

/-- Both signatures are verified for everything that reaches them (R437, Table 17.3). -/
def countVerify (step : Nat) (d : Dev) : Dev := if step = 0 ∨ 5 ≤ step then count 18 1 2 {} d else d

def slotOf (d : Dev) (k : Nat) : Bytes := if k = 0 then d.nv.slotA else d.nv.slotB
def putSlot (k : Nat) (b : Bytes) (d : Dev) : Dev :=
  { d with nv := if k = 0 then { d.nv with slotA := b } else { d.nv with slotB := b } }

def fwGen (b : Bytes) : Nat := leAt b 8 4

/-- A slot is checked, and rejected with its step (R437). -/
def checkSlot (k : Nat) (d : Dev) : Dev :=
  let s := fwCheck d (slotOf d k)
  let d := countVerify s d
  if s = 0 then d else postEvent 0x202 (toLE 1 k ++ toLE 1 s) (setEvt oSecEvt 1 d)

/-- The slot the boot ROM boots (R438). -/
def bootSlot (d : Dev) : Option Nat :=
  match fwCheck d d.nv.slotA, fwCheck d d.nv.slotB with
  | 0, 0 => some (if fwGen d.nv.slotA < fwGen d.nv.slotB then 1 else 0)
  | 0, _ => some 0
  | _, 0 => some 1
  | _, _ => none

/-- Why a calibration record is not accepted: the causes of CAL_DEFAULTS, or 0 (R431, R432). -/
def calCause (d : Dev) (b : Bytes) : Nat :=
  if leAt b 0 4 ≠ 1 then 1
  else if leAt b 4 4 ≠ 14528 then 2
  else if leAt b 8 8 ≠ d.nv.fuse.serial.toNat then 3
  else if crc32c (slice b 0 14524) ≠ leAt b 14524 4 then 4
  else 0

/-- Reserved bytes of the record (Table 16.4). -/
def calZero (b : Bytes) : Bool :=
  allZero (slice b 16 48)
  && (List.range 512).all (fun l => byteAt b (64 + 16 * l + 9) == 0 && leAt b (64 + 16 * l + 14) 2 == 0)
  && allZero (slice b 14404 12) && allZero (slice b 14512 12)

/-- The offset of a thermal diode in 1/16 °C: of the record as loaded, or 0 (R432, R448). -/
def diodeOffset (d : Dev) (i : Nat) : Int := if d.boot.calRec.isEmpty then 0 else signed 16 (leAt d.boot.calRec (14416 + 2 * i) 2)

/-- A fresh nonce (R442). -/
def newNonce (d : Dev) : Dev := modBoot (fun b => { b with nonce := Config.random b.draws, draws := b.draws + 1 }) d

/-- SEC_FUSE (Table 16.11). -/
def secFuse (d : Dev) : Nat := d.nv.fuse.svn + 2 ^ 8 * d.nv.fuse.revoked.toNat + 2 ^ 12 * boolNat d.nv.fuse.debugOff

/-- The record a CAL_WRITE names (R433, R465): host memory, or in band a Forge address. -/
def calRecord (c : Cmd) (e : Bytes) (d : Dev) : Except Nat Bytes × Dev :=
  let a := leAt e 16 8
  let n := leAt e 24 4
  match c.chan with
  | .inband _ => if forgeAddrOk a then gAddrRead 1 a n d else (.error 0x10, d)
  | _ => (if a % 64 = 0 then .ok (hostRead d a n) else .error 0x10, d)

/-- What every CAL_WRITE does first: its body, its turn, its record (R433). -/
def withRecord (c : Cmd) (e : Bytes) (lenOk : Nat → Bool) (d : Dev) (go : Bytes → Dev → Res) : Res :=
  if !plainOk e [(16, 12)] || !lenOk (leAt e 24 4) then bad d
  else if d.boot.calBusy.isSome then .wait d
  else
    match calRecord c e d with
    | (.error s, d) => .done s 0 0 d
    | (.ok b, d) => go b d

/-- CAL_WRITE mode 0 (R434): after its checks the stored record is erased, and the write goes on. -/
def cmdCalCalibration (c : Cmd) (e : Bytes) (d : Dev) : Res :=
  withRecord c e (· == 14528) d (fun b d =>
    if calCause d b ≠ 0 || !calZero b then bad d
    else .run (modBoot (fun x => { x with calBusy := some (c, 0, b, 0) }) { d with nv := { d.nv with cal := [] } }))

/-- CAL_WRITE mode 1 (R439): after its checks the inactive slot, or in recovery mode slot A, is erased, and the write goes on. -/
def cmdCalFirmware (c : Cmd) (e : Bytes) (d : Dev) : Res :=
  withRecord c e (within 20480 (8 * 2 ^ 20)) d (fun b d =>
    let s := if b.length ≠ 20480 + fwPayload b then 1 else fwCheck d b
    let d := countVerify s d
    if 3 ≤ s ∧ s ≤ 6 then .done 0x0F 0 0 (setEvt oSecEvt 2 d)
    else if s ≠ 0 || (!d.boot.recovery && decide (fwGen b ≤ d.boot.fwGen)) then bad d
    else
      let k := if d.boot.recovery then 0 else 1 - d.boot.fwSlot
      .run (modBoot (fun x => { x with calBusy := some (c, 1, b, k) }) (putSlot k [] d)))

/-- The write of a calibration record or a firmware image has been read back (R434, R439). -/
def calFinish (d : Dev) : Dev :=
  match d.boot.calBusy with
  | none => d
  | some (c, m, b, k) =>
    let d := modBoot (fun x => { x with calBusy := none }) d
    if m = 0 then
      let crc := leAt b 14524 4
      complete c 0 0 crc (postEvent 0x201 (toLE 4 crc) { d with nv := { d.nv with cal := b } })
    else
      let d := countVerify 0 (putSlot k b d)
      complete c 0 0 (fwGen b) (postEvent 0x203 (toLE 1 k ++ toLE 4 (fwGen b)) d)

/-- The checks of an authority record (R442): 0, 0x10 for its form, or 0x100 + the step that fails, 0 for the nonce. -/
def authCheck (d : Dev) (kind lim : Nat) (b : Bytes) : Nat :=
  if leAt b 0 4 ≠ kind ∨ leAt b 4 8 ≠ d.nv.fuse.serial.toNat ∨ leAt b 46 2 ≠ 0 ∨ !allZero (slice b 52 204)
      ∨ 1 < byteAt b 44 ∨ 1 < byteAt b 45 ∨ lim ≤ leAt b 48 4 ∨ !allZero (slice b 644 124) ∨ !allZero (slice b 816 16) then 0x10
  else if leAt b 12 32 ≠ d.boot.nonce.toNat then 0x100
  else
    match keySteps d b (byteAt b 44) (byteAt b 45) with
    | 0 => 0
    | k => 0x100 + k

/-- Modes 2 and 3 with a record that has been read (R442): the nonce is replaced at completion, whatever the status. -/
def authRun (kind lim : Nat) (b : Bytes) (d : Dev) (go : Dev → Res) : Res :=
  let s := authCheck d kind lim b
  let d := when (s = 0 || decide (0x105 ≤ s)) (countVerify 0) d
  if s = 0x10 then bad (newNonce d)
  else if 0x100 ≤ s then
    .done 0x0F 0 0 (newNonce (postEvent 0x207 (toLE 1 kind ++ toLE 1 (s - 0x100)) (setEvt oSecEvt 2 d)))
  else go (newNonce d)

/-- CAL_WRITE mode 2 (R443). -/
def cmdCalFuse (c : Cmd) (e : Bytes) (d : Dev) : Res :=
  match withRecord c e (· == 17440) d (fun b d => authRun 2 16 b d (fun d =>
    let m := leAt b 48 4
    let r := d.nv.fuse.revoked ||| BitVec.ofNat 4 m
    if m.testBit (byteAt b 44) || m.testBit (2 + byteAt b 45) || r.toNat % 4 == 3 || r.toNat / 4 == 3 then bad d
    else
      let d := postEvent 0x205 (toLE 1 r.toNat) (modFuse (fun f => { f with revoked := r }) d)
      .done 0 0 (secFuse d) d)) with
  | .done s t r d' => if d'.boot.draws = d.boot.draws then .done s t r (newNonce d') else .done s t r d'
  | x => x

/-- CAL_WRITE mode 3 (R444). -/
def cmdCalDebug (c : Cmd) (e : Bytes) (d : Dev) : Res :=
  match withRecord c e (· == 17440) d (fun b d =>
    if d.nv.fuse.debugOff then .done 0x0F 0 0 d
    else authRun 3 8 b d (fun d =>
      let s := d.boot.scope ||| BitVec.ofNat 3 (leAt b 48 4)
      .done 0 0 s.toNat (postEvent 0x206 (toLE 4 s.toNat) (setEvt oSecEvt 3 (modBoot (fun x => { x with scope := s }) d))))) with
  | .done s t r d' => if d'.boot.draws = d.boot.draws then .done s t r (newNonce d') else .done s t r d'
  | x => x

/-- SVN_ADVANCED (R441): once step 8 has completed on a fabric link, or step 7 on a module with no fabric port enabled. -/
def svnAdvance (d : Dev) : Dev :=
  let fabric := (List.range 64).any (fun p => flag d (oPortCfg p) 0 && !flag d (oPortCfg p) 1)
  if d.boot.commitSvn && decide (d.nv.fuse.svn < d.boot.fwSvn)
      && (fabricService d none || (!fabric && d.boot.step7)) then
    postEvent 0x204 (toLE 1 d.boot.fwSvn) (modFuse (fun f => { f with svn := d.boot.fwSvn }) d)
  else d

/-- Measurement `i` of R446. -/
def measure (d : Dev) (i : Nat) : Bytes :=
  match i with
  | 1 => Config.sha384 Config.bootRom
  | 2 => Config.sha384 d.boot.bootMsg
  | 3 => if d.boot.calDefaults then zeros 48 else Config.sha384 d.boot.calRec
  | 4 => Config.sha384 (toLE 4 (secFuse d % 2 ^ 32))
  | _ => Config.sha384 (toLE 4 d.boot.scope.toNat)

def measurements (d : Dev) : Bytes := ((List.range 5).map (fun i => measure d (i + 1))).flatten

/-- An SPDM ERROR response with its error code. -/
def spdmError (v code : Nat) : Bytes := toLE 1 v ++ [0x7F] ++ toLE 1 code ++ [0]

def answerSpdm (b : Bytes) (d : Dev) : Dev := modBoot (fun x => { x with spdmOut := b }) d

/-- GET_SECOND_SIG and GET_SECOND_CERT (R447), the payload of a vendor-defined request; `msg` is what may be signed. -/
def spdmVendor (req : Bytes) (msg : Option Bytes) (d : Dev) : Bytes :=
  let v := byteAt req 0
  match byteAt req 11 with
  | 1 => (match msg with
    | some m => Config.spdmReply req (Config.sign 1 m)
    | none => spdmError v 4)
  | 2 =>
    let o := leAt req 12 2
    Config.spdmReply req ((d.nv.chainSlh.drop o).take (leAt req 14 2))
  | _ => spdmError v 1

/-- A response that carries an RSA signature: the message it signs is kept for the second one (R447). -/
def spdmSigned (req : Bytes) (d : Dev) : Bytes := Config.spdmReply req (measurements d)

/-- A request outside a session (Table 16.9). -/
def spdmPlain (req : Bytes) (d : Dev) : Dev :=
  let v := byteAt req 0
  let keep := if d.boot.spdmOpen then d.boot.spdmMsg else none
  let d := modBoot (fun x => { x with spdmOpen := false }) d
  let m := spdmSigned req d
  let signed_ := fun (d : Dev) => answerSpdm (m ++ Config.sign 0 m) (modBoot (fun x => { x with spdmMsg := some m, spdmOpen := true }) d)
  match byteAt req 1 with
  | 0x81 | 0x82 => answerSpdm (Config.spdmReply req d.nv.chainRsa) d
  | 0x83 => signed_ d
  | 0x84 | 0xE1 | 0xE3 => answerSpdm (Config.spdmReply req []) d
  | 0xE0 => if (byteAt req 2).testBit 0 then signed_ d else answerSpdm m d
  | 0xE4 =>
    (match (List.range 4).find? (fun k => (tget d.boot.sessions k).isNone) with
     | none => answerSpdm (spdmError v 5) d
     | some k => answerSpdm (m ++ Config.sign 0 m) (modBoot (fun x => { x with sessions := tput x.sessions k m }) d))
  | 0xFE => answerSpdm (spdmVendor req keep d) d
  | _ => answerSpdm (spdmError v 7) d

/-- A request inside session `k`. -/
def spdmSession (k : Nat) (req : Bytes) (d : Dev) : Dev :=
  let v := byteAt req 0
  match tget d.boot.sessions k with
  | none => d
  | some m =>
    match byteAt req 1 with
    | 0xE0 | 0xE5 | 0xE8 | 0xE9 => answerSpdm (Config.spdmReply req (measurements d)) d
    | 0xEC => answerSpdm (Config.spdmReply req []) (modBoot (fun x => { x with sessions := tdel x.sessions k }) d)
    | 0xFE => answerSpdm (spdmVendor req (some m) d) d
    | _ => answerSpdm (spdmError v 7) d

/-- SPDM_REQUEST (R445): a request whose first byte is 0 belongs to the session its second byte names. -/
def spdmRequest (req : Bytes) (d : Dev) : Dev :=
  if d.boot.stage < 5 ∨ d.boot.recovery = true ∨ 32768 < req.length then d
  else
    let d := count 18 2 1 {} d
    if byteAt req 0 = 0 then spdmSession (byteAt req 1) (req.drop 2) d else spdmPlain req d

/-- What the SEC registers read, other than as written (R450). -/
def secView (off : Nat) (d : Dev) : Option Nat :=
  let b := d.boot
  if off = 0x4C0000 then
    some (b.stage + 2 ^ 4 * b.fwSlot + 2 ^ 5 * boolNat b.recovery + 2 ^ 6 * boolNat b.calDefaults + 2 ^ 8 * b.fwGen + 2 ^ 40 * b.fwSvn)
  else if off = 0x4C0008 then some d.nv.fuse.serial.toNat
  else if off = 0x4C0010 then some (secFuse d)
  else if 0x4C0020 ≤ off ∧ off < 0x4C0040 then some (bits b.nonce.toNat (64 * ((off - 0x4C0020) / 8)) 64)
  else if off = 0x4C0040 then some b.scope.toNat
  else if off = 0x4C0048 then some (wrap 8 b.tj + 2 ^ 8 * b.diode + rg d off)
  else none

end Sys2Proof.Machine
end

