-- ==== Sys2Proof/Machine/Boot.lean ====
section
/-! DEFINITION. Module power, resets, start-up and thermal protection (R405, R413 to R416, R425 to R429, R437, R438, R441, R448,
R449, R471, R472, R487 to R489). -/

namespace Sys2Proof.Machine

/-- The GDDR7 devices and the Forges whose contents a module reset leaves undefined (Table 15.9). -/
def lostGddr (d : Dev) : Tab Gddr := (List.range 16).map (fun i => (i, { gddrZero i with mem := memUndef (gddr d i).mem }))
def lostForge (d : Dev) : Tab Forge :=
  (List.range 16).map (fun f => (f, { forgeZero f with flm := memUndef (forge d f).flm, side := memUndef (forge d f).side }))

/-- A module reset of kind 1, 2 or 3 (R413 to R415): in-flight work and tables are gone, nothing completes, the retirement log is
applied before its parts are used, and start-up waits for its first step. -/
def moduleReset (kind : Nat) (d : Dev) : Dev :=
  let z := devReset
  let boot := { z.boot with
    power := d.boot.power, groups := d.boot.groups, carrier := d.boot.carrier, perst := d.boot.perst,
    nonce := Config.random d.boot.draws, draws := d.boot.draws + 1, lastReset := kind, modReset := kind, hostDown := decide (kind = 2) }
  applyLog { z with
    regs := nodeReset d.nv.fuse.serial, force := nodeReset d.nv.fuse.serial,
    ring := { z.ring with mem := d.ring.mem }, mem := { z.mem with devs := lostGddr d },
    forge := { z.forge with f := lostForge d }, fal := fallowReset d.fal,
    tel := { z.tel with mgmt := memUndef d.tel.mgmt }, boot := boot, nv := d.nv, free := d.free }

/-- Reset release, step 1 of Table 16.1: entry into ON and PERST# high, whichever is later (R425, R489). -/
def release (d : Dev) : Dev :=
  if d.boot.perst ∧ d.boot.stage = 0 then modBoot (fun b => { b with stage := 1 }) d else d

/-- MODULE_RESET: PERST# is low through a reset of kind 2 (R489). -/
def resetNow (kind : Nat) (d : Dev) : Dev :=
  if kind = 2 then moduleReset 2 (modBoot (fun b => { b with perst := false }) d) else release (moduleReset kind d)

/-- PERST_RELEASE. -/
def perstRelease (d : Dev) : Dev := release (modBoot (fun b => { b with perst := true }) d)

/-- INPUT_POWER_RISE (Table 19.4). -/
def powerRise (d : Dev) : Dev :=
  if d.boot.power = .off then modBoot (fun b => { b with power := .sequencing, groups := 0 }) d else d

/-- RAIL_SEQUENCING (R488, R489): group 6 rises only with a flash carrier; the module enters ON and starts a reset of kind 1. -/
def railsUp (carrier : Bool) (d : Dev) : Dev :=
  if d.boot.power = .sequencing then
    resetNow 1 (modBoot (fun b => { b with power := .on, carrier := carrier, groups := if carrier then 6 else 5 }) d)
  else d

/-- INPUT_POWER_LOSS (R487): a tripped module does not leave its state so. -/
def powerLoss (d : Dev) : Dev :=
  if d.boot.power = .on ∨ d.boot.power = .sequencing then modBoot (fun b => { b with power := .off, groups := 0 }) d else d

/-- TRIP_EXIT (R487). -/
def tripExit (d : Dev) : Dev := if d.boot.power = .tripped then modBoot (fun b => { b with power := .off }) d else d

/-- Tj of each diode in 1/16 °C: its reading with its offset applied (R448). -/
def tjs (temps : List Int) (d : Dev) : List Int := (List.range 16).map (fun i => temps.getD i 0 + diodeOffset d i)

/-- THERMAL_TRIP (R448, R487). -/
def thermalTrip (temps : List Int) (d : Dev) : Dev :=
  if (tjs temps d).any (fun t => decide (16 * 110 ≤ t)) && d.boot.power ≠ .off then
    modBoot (fun b => { b with power := .tripped, groups := 0 }) d
  else d

/-- The hottest diode, the lowest of equal ones, and its Tj in 1/16 °C. -/
def hottest (l : List Int) : Nat × Int :=
  (List.range l.length).foldl (fun m i => if m.2 < l.getD i 0 then (i, l.getD i 0) else m) (0, l.getD 0 0)

/-- THERMAL_WARN (R448): the readings now. -/
def thermalWarn (temps : List Int) (d : Dev) : Dev :=
  let l := tjs temps d
  let (i, t) := hottest l
  let tc := t / 16
  let d := modBoot (fun b => { b with tj := tc, diode := i }) d
  if 16 * 100 ≤ t ∧ d.boot.warnArmed = true then
    postEvent 0x208 (toLE 1 i ++ toLE 1 (wrap 8 tc)) (setEvt oSecTherm 12 (modBoot (fun b => { b with warnArmed := false }) d))
  else if t < 16 * 95 then modBoot (fun b => { b with warnArmed := true }) d
  else d

/-- Step 5 of Table 16.1 has completed: discovery and port training begin (R425, R426). -/
def step5 (d : Dev) : Dev :=
  let d := modBoot (fun b => { b with stage := 5 }) d
  if d.boot.recovery then d else modFal (fun f => { f with mode := .discovering }) d

/-- Step 5 is due: step 4 has completed, or the device is in recovery mode. -/
def step5Due (d : Dev) : Bool := d.boot.stage == 4 || (d.boot.recovery && decide (d.boot.stage < 5))

/-- Step 5 completes as soon as it has begun when the link is in L0 already. -/
def tryStep5 (d : Dev) : Dev := if step5Due d && d.boot.cxlUp then laterSteps (step5 d) else d

/-- FIRMWARE_VERIFY (R437, R438, R428). -/
def firmwareVerify (d : Dev) : Dev :=
  if d.boot.stage ≠ 1 ∨ d.boot.recovery = true then d
  else
    let pick := bootSlot d
    let d := checkSlot 1 (checkSlot 0 d)
    match pick with
    | none => tryStep5 (modBoot (fun b => { b with recovery := true }) d)
    | some k =>
      let i := slotOf d k
      modBoot (fun b => { b with stage := 2, fwSlot := k, fwGen := fwGen i, fwSvn := byteAt i 12,
                                 commitSvn := (byteAt i 6).testBit 0, bootMsg := slice i 0 832 }) d

/-- CAL_RECORD_LOAD (R432). -/
def calLoad (d : Dev) : Dev :=
  if d.boot.stage ≠ 2 then d
  else
    let b := slice d.nv.cal 0 14528
    let d := modBoot (fun x => { x with stage := 3 }) d
    match calCause d b with
    | 0 => modBoot (fun x => { x with calRec := b }) d
    | c =>
      let d := modBoot (fun x => { x with calDefaults := true }) d
      let d := each (List.range 64) (fun p d => putFld (oPortCfg p) 4 1 1 d) (putFld 0x440000 0 6 28 d)
      postEvent 0x200 (toLE 1 c) (setEvt oSecEvt 0 d)

/-- GDDR7_BOOT_TRAINING, step 4 (R341). -/
def memTraining (pass : BitVec 16) (d : Dev) : Dev :=
  if d.boot.stage ≠ 3 then d else tryStep5 (modBoot (fun b => { b with stage := 4 }) (bootTraining pass d))

/-- CXL_LINK_UP (R426, R470, R371). -/
def cxlLinkUp (width speed : Nat) (proto : Bool) (d : Dev) : Dev :=
  if d.boot.stage = 0 then d
  else tryStep5 (modBoot (fun b => { b with cxlUp := true, hostDown := false, cxlWidth := width, cxlSpeed := speed, cxlProto := proto }) d)

/-- HOSTLESS_TIMEOUT (R472): the management core enables every port as Ollet Link; the boot ROM of recovery mode does not. -/
def hostlessTimeout (d : Dev) : Dev :=
  if !step5Due d || d.boot.cxlUp then d
  else
    let d := modBoot (fun b => { b with hostless := true }) (step5 d)
    if d.boot.recovery then d
    else laterSteps (each (List.range 64) (fun p d => putPortCfg p (1 + 16 * laneRate d (4 * p)) d) d)

/-- CONFIG_REQUEST (R426): answered with retry status until step 5 completes and the link is in L0. -/
def configRequest (d : Dev) : Dev :=
  if d.boot.stage < 5 ∨ d.boot.cxlUp = false then modBoot (fun b => { b with cfgRetry := b.cfgRetry + 1 }) d else d

/-- FALLOW_DISCOVERY, step 6 (R348, R427); without a carrier no target answers. -/
def discovery (ts : List FlashTarget) (d : Dev) : Dev :=
  if d.boot.stage < 5 ∨ d.boot.recovery = true ∨ d.boot.step6 = true then d
  else startupDone (modBoot (fun b => { b with step6 := true, stage := max b.stage 6 })
    (falDiscover (if d.boot.carrier then ts else []) d))

/-- A command that a management core reset cuts off writes no completion (Table 15.9): its reservation is given back. -/
def dropCmd (c : Cmd) (d : Dev) : Dev :=
  match c.chan with
  | .sq q =>
    sqSettle q (modCq (cqOf d q) (fun x => { x with reserved := x.reserved - 1 })
      (modSq q (fun s => { s with busy := s.busy.erase c.tag }) d))
  | .inband e => modTel (fun t => { t with busy := t.busy.erase (e, c.tag) }) d
  | .own => d

/-- A reset of the management core (R405, R414): MGMT_CORE_RESET, MGMT_WATCHDOG_EXPIRY and GLB_RESET.mgmt. -/
def mgmtReset (d : Dev) : Dev :=
  let d := each (d.hlt.seqs.map (·.cmd) ++ d.hlt.tests.flatMap (·.waiters)) dropCmd d
  let d := modHlt (fun h => { h with scores := [], tests := [], seqs := [], mgmtResets := min 255 (h.mgmtResets + 1) }) d
  postEvent 0x105 [5] (modBoot (fun b => { b with lastReset := 5, spdmMsg := none, spdmOpen := false, sessions := [] }) d)

/-- A join whose source or result address is in host memory (R416). -/
def hostJoin (j : Join) : Bool := j.cmd.sqn.isSome && (j.forge.isNone || j.src ≠ 0)

/-- Every block goes to host bias, at once or when the accesses already issued to it have ended (R416): then a flip of the device's own
waits for BIAS_FLIP_DRAINED. -/
def linkHostBias (d : Dev) : Dev :=
  let x : Flip := { cmd := ownCmd, first := 0, count := 8192, toHost := true }
  if d.mem.flips.isEmpty && !d.forge.f.any (fun f => f.2.streams.any (fun s => s.2.movers.any (moverTouches d x))) then
    modMem (fun m => { m with bias := [] }) d
  else modMem (fun m => { m with nextId := m.nextId + 1, flips := tput m.flips m.nextId x }) d

/-- HOST_LINK_RESET (R416): rings disabled and emptied, completions discarded, host joins ended, blocks in host bias. -/
def hostLinkReset (d : Dev) : Dev :=
  let d := each (List.range 64) (fun q d => if sqOn d q then sqSettle q (dropWaiting q (putFld (oSqCtl q) 11 1 0 d)) else d) d
  let d := each (List.range 64) (fun c d => putFld (oCqCtl c) 12 1 0 d) (putFld oEqCtl 12 1 0 d)
  let d := each (d.ring.sqs.flatMap (fun p => p.2.bufs.map (·.1))) dropCmd d
  let d := modRing (fun r => { r with
    sqs := tmap (fun s => { s with head := 0, tail := 0, waiting := none, bufs := [], held := false }) r.sqs,
    cqs := tmap (fun c => { c with wr := 0, rd := 0, armed := false }) r.cqs,
    eq := { r.eq with wr := 0, rd := 0, armed := false } }) d
  let d := putFld 0x581008 11 1 0 d
  let ends := (d.cru.joins.filter (fun p => hostJoin p.2))
  let d := each ends (fun p d =>
    each (d.cru.nodes.filter (fun n => n.2.cid == p.2.cid && n.2.gen == p.2.gen)) (fun n d => nodeAbort n.1 0x0E 0 none d)
      (closeJoin p.1 0x0E 0 d)) d
  modBoot (fun b => { b with
    cxlUp := false, cxlWidth := 0, cxlSpeed := 0, cxlProto := false, lastReset := 4, hostDown := true, spdmMsg := none,
    spdmOpen := false, sessions := [] }) (linkHostBias d)

/-- GLB_RESET (R471): both bits at once, or a wrong key, is refused. -/
def glbReset (v : Nat) (d : Dev) : Dev :=
  let m := v.testBit 0
  let g := v.testBit 1
  if bits v 8 8 ≠ 0x5A ∨ (m && g) = true then setEvt 0x30 0 d
  else if m then resetNow 3 d
  else if g then mgmtReset d
  else d

end Sys2Proof.Machine
end

