-- ==== Sys2Proof/Machine/Accept.lean ====
section
/-! DEFINITION. Commands at the head of their queues: opcodes, duplicate tags, acceptance, waiting and retries, in-band queues, and
the work that is left at the end of a step (R11, R21, R374, R375, R378, R383, R392, R428, R463 to R465). -/

namespace Sys2Proof.Machine

/-- NOP (R392). -/
def cmdNop (_ : Cmd) (e : Bytes) (d : Dev) : Res := if plainOk e [] then okRes d else bad d

/-- Every earlier command of the queue has completed (R392). -/
def earlierDone (c : Cmd) (d : Dev) : Bool :=
  match c.chan with
  | .sq q => (sq d q).busy.all (· == c.tag)
  | .inband e => d.tel.busy.all (fun p => p.1 ≠ e || p.2 == c.tag)
  | .own => true

/-- FENCE (R392). -/
def cmdFence (c : Cmd) (e : Bytes) (d : Dev) : Res :=
  if !plainOk e [] then bad d else if earlierDone c d then okRes d else .wait d

/-- The meaning of an opcode and a mode (Tables 14.6, 14.8 to 14.13, 16.5); another is a reserved encoding (R374). -/
def cmdOf (op mode : Nat) : Option (Cmd → Bytes → Dev → Res) :=
  match op, mode with
  | 0x01, 0 => some cmdSend
  | 0x02, 0 => some cmdRecvPost
  | 0x03, 0 => some cmdRead
  | 0x04, 0 => some cmdWrite
  | 0x10, 0 => some cmdCollCreate
  | 0x11, 0 => some cmdCollJoin
  | 0x12, 0 => some cmdCollAbort
  | 0x18, 0 => some cmdSelectOpen
  | 0x18, 1 => some cmdSelectClose
  | 0x20, 0 => some cmdTask
  | 0x21, 0 => some cmdImemLoad
  | 0x22, 0 => some cmdImemSwap
  | 0x28, 0 => some cmdAdapterDefine
  | 0x28, 1 => some cmdAdapterStep
  | 0x28, 2 => some cmdAdapterClear
  | 0x29, 0 => some (cmdBiasFlip false)
  | 0x29, 1 => some (cmdBiasFlip true)
  | 0x30, 0 => some cmdEptSet
  | 0x31, 0 => some cmdEptClear
  | 0x32, 0 => some cmdPathWrite
  | 0x32, 1 => some (fun _ => cmdPathMark true)
  | 0x32, 2 => some (fun _ => cmdPathMark false)
  | 0x32, 3 => some (fun _ => cmdPathClear)
  | 0x33, 0 => some cmdMcastWrite
  | 0x33, 1 => some (fun _ => cmdMcastClear)
  | 0x34, 0 => some cmdFurrowPrepare
  | 0x34, 1 => some (fun _ => cmdFurrowCommit)
  | 0x35, 0 => some (fun _ => cmdFurrowClear)
  | 0x38, 0 => some cmdBudgetWrite
  | 0x38, 1 => some cmdBudgetClear
  | 0x40, 0 => some cmdImgRead
  | 0x41, 0 => some cmdImgWrite
  | 0x42, 0 => some cmdImgCommit
  | 0x43, 0 => some cmdImgDelete
  | 0x44, 0 => some cmdCheckpoint
  | 0x50, 0 => some cmdFence
  | 0x51, 0 => some cmdNop
  | 0x60, 0 => some (fun _ => cmdMemberFence)
  | 0x60, 1 => some (fun _ => cmdMemberUnfence)
  | 0x60, 2 => some (fun _ => cmdMemberForget)
  | 0x60, 3 => some (fun _ => cmdMemberReady)
  | 0x70, 0 => some cmdSelftest
  | 0x71, 0 => some cmdRecover
  | 0x72, 0 => some cmdCalCalibration
  | 0x72, 1 => some cmdCalFirmware
  | 0x72, 2 => some cmdCalFuse
  | 0x72, 3 => some cmdCalDebug
  | _, _ => none

/-- What recovery mode executes (R428). -/
def recoveryOk (op mode : Nat) : Bool := op == 0x51 || (op == 0x72 && decide (mode < 2))

/-- A frame of a command was refused in this step. -/
def refusing (d : Dev) (c : Cmd) : Bool :=
  d.todo.any (fun t => match t with
    | .refused fr _ _ => (match fr.org with
      | .host x _ _ _ => decide (x = c)
      | _ => false)
    | _ => false)

/-- A command that waits: its entry is kept at the head of its SQ (R375), unless its frame has gone or been refused. -/
def keepWaiting (c : Cmd) (e : Bytes) (d : Dev) : Dev :=
  match c.chan with
  | .sq q =>
    let s := sq d q
    if s.busy.contains c.tag || s.window.any (fun w => w.1 == c.tag) || refusing d c then d
    else modSq q (fun s => { s with waiting := some e }) d
  | _ => d

/-- Begin a command (R375): it is accepted and completes or runs, or it waits; one that waits for a Swath boundary stays (R229, R313). -/
def runCmd (c : Cmd) (e : Bytes) (d : Dev) : Dev :=
  if isSlow c d && d.clk.now ≠ d.clk.swStart then d
  else
  let d := unslow c d
  if d.boot.recovery && !recoveryOk (opOf e) (modeOf e) then
    let d := when (opOf e == 0x72 && within 2 3 (modeOf e)) newNonce d
    complete c 0x10 0 0 (accept c d)
  else
    match cmdOf (opOf e) (modeOf e) with
    | none => complete c 0x10 0 0 (accept c d)
    | some f =>
      match f c e d with
      | .wait x => keepWaiting c e x
      | _ =>
        match f c e (accept c d) with
        | .done s t r d => complete c s t r d
        | .run d => d
        | .wait d => d

/-- The command an SQ entry is. -/
def sqCmd (q : Nat) (e : Bytes) : Cmd := { chan := .sq q, tag := tagOf e, reqNo := 0, ret := [], att := [] }

/-- The 64 bytes at the head of an SQ. -/
def entryAddr (d : Dev) (q i : Nat) : Nat := 64 * fld d (0x20000 + 0x20 * q) 6 58 + 64 * i
def headEntry (d : Dev) (q : Nat) : Bytes := hostRead d (entryAddr d q (sq d q).head) 64

/-- Pass over an entry that is not executed (R383). -/
def skipEntry (q : Nat) (d : Dev) : Dev :=
  count 17 3 1 { masters := [mSq q], priv := some 1 } (modSq q (fun s => { s with head := (s.head + 1) % sqDepth d q }) d)

/-- An entry has been read (R383, R378): a duplicate is absorbed or answered, another command begins. -/
def readEntry (q : Nat) (e : Bytes) (d : Dev) : Dev :=
  let s := sq d q
  if s.busy.contains (tagOf e) then skipEntry q d
  else if !cqFree d (cqOf d q) then d
  else
    match s.window.find? (fun w => w.1 == tagOf e) with
    | some (tag, st, de, r) => writeCq (cqOf d q) (cqEntry tag st de r q true false) (skipEntry q d)
    | none => runCmd (sqCmd q e) e d

/-- A frame of the entry that waits is among the frames waiting. -/
def frameWaits (d : Dev) (q : Nat) : Bool :=
  d.sw.tx.any (fun p => match p.2.fr.org with
    | .host c _ _ false => decide (c.chan = .sq q)
    | _ => false)

/-- Try a waiting entry again, if it is one of a kind. -/
def retryEntry (q : Nat) (test : Bytes → Bool) (d : Dev) : Dev :=
  match (sq d q).waiting with
  | some e => if test e && sqOn d q && !frameWaits d q && cqFree d (cqOf d q) then runCmd (sqCmd q e) e d else d
  | none => d

/-- SQ_ENTRY_ACCEPT: the next available entry is read, or the one that waits is tried again (R375). -/
def sqAccept (q : Nat) (d : Dev) : Dev :=
  let s := sq d q
  let d := modRing (fun r => { r with turn := q }) d
  if !sqOn d q then d
  else if s.waiting.isSome then retryEntry q (fun _ => true) d
  else if s.head = s.tail then d
  else readEntry q (headEntry d q) d

/-- An entry of the given opcode and mode is read at the head of SQ `q`; on a ring with no entry available, the host has just made it
available. Another entry, or a ring that reads nothing, changes nothing. -/
def entryRow (op mode q : Nat) (e : Bytes) (d : Dev) : Dev :=
  let s := sq d q
  if opOf e ≠ op || modeOf e ≠ mode || !sqOn d q || s.waiting.isSome then d
  else
    let x := if s.head = s.tail then
        modSq q (fun s => { s with tail := (s.tail + 1) % sqDepth d q }) (hostWrite (entryAddr d q s.head) e d)
      else d
    if headEntry x q = e then readEntry q e x else d

/-- As `entryRow`, for RECOVER of one sequence kind. -/
def recoverRow (kind q : Nat) (e : Bytes) (d : Dev) : Dev := if byteAt e 20 = kind then entryRow 0x71 0 q e d else d

/-- An opcode's entries, in any mode, or in one. -/
def isOp (op : Nat) (e : Bytes) : Bool := opOf e == op
def isOpMode (op mode : Nat) (e : Bytes) : Bool := opOf e == op && modeOf e == mode

/-- CAL_WRITE_RETRY (R433): the write in progress ends, and the first waiting one in rotation begins. -/
def calRetry (d : Dev) : Dev :=
  let d := calFinish d
  if d.boot.calBusy.isSome then d
  else
    match ((List.range 64).map (fun i => (d.ring.turn + 1 + i) % 64)).find? (fun q => match (sq d q).waiting with
        | some e => isOp 0x72 e
        | none => false) with
    | some q => retryEntry q (isOp 0x72) d
    | none => d

/-- A host has enabled a submission ring (R21). -/
def hosted (d : Dev) : Bool := (List.range 64).any (sqOn d)

/-- In-band commands that change tables, budgets, Furrows, membership or readiness (R21). -/
def inbandChanges (e : Bytes) : Bool :=
  within 0x30 0x35 (opOf e) || opOf e == 0x38 || opOf e == 0x60 || (opOf e == 0x71 && byteAt e 20 == 7)

/-- The return path of an in-band request (R462): hop bytes, hop count and delay. -/
def retHops (r : Bytes) : Bytes := slice r 0 16
def retCount (r : Bytes) : Nat := byteAt r 16 % 16 + 1
def retDelay (r : Bytes) : Nat := beAt r 18 2

/-- Its first hop is a port in service, or the path ends inside. -/
def retOpen (d : Dev) (r : Bytes) : Bool :=
  let b := byteAt r 0
  (retCount r == 1 && isInner b) || (subExists d b && (sub d b).state == .service && (retCount r == 1 || !isEdge d b))

/-- Answer an in-band request along its return path (R462, R463): bytes 20 to 22 of `ret` hold the EID it was sent to. -/
def answer (eid reqNo : Nat) (ret : Bytes) (code status : Nat) (data : Bytes) (d : Dev) : Dev :=
  if !retOpen d ret then d
  else
    let hdr := zeros 16 ++ toBE 2 reqNo ++ [0x28] ++ toBE 1 code ++ zeros 6 ++ toBE 2 status ++ zeros 4
    let fr : Frame := { op := 0xC, src := beAt ret 20 3, dst := eid, tc := 0, label := 0, hdr := hdr, data := data, xport := 86,
                        furrow := none, direct := some (retHops ret, retCount ret, retDelay ret), reply := 0, seq := none,
                        org := .plain }
    sendFrame fr [] d

/-- The answer of a completed in-band command, and its place in the window (R465). -/
def answerCmd (c : Cmd) (eid status detail result : Nat) (d : Dev) : Dev :=
  let b := cqEntry c.tag status detail result 0 false false
  let d := modTel (fun t => { t with busy := t.busy.erase (eid, c.tag), done := ((eid, c.tag, b) :: t.done).take 4096 }) d
  answer eid c.reqNo c.ret 0x22 status b d

/-- The command at the head of an EID's queue begins, if it can (R465). -/
def inbandHead (eid : Nat) (d : Dev) : Dev :=
  match tgetD d.tel.queues eid [] with
  | [] => d
  | x :: rest =>
    let c := x.cmd
    let drop := modTel (fun t => { t with queues := tput t.queues eid rest })
    if d.tel.busy.contains (eid, c.tag) then drop d
    else
      match d.tel.done.find? (fun w => w.1 == eid && w.2.1 == c.tag) with
      | some (_, _, b) => answer eid c.reqNo c.ret 0x22 (byteAt b 12) (overlay b 14 [0x40]) (drop d)
      | none =>
        if hosted d && inbandChanges x.desc then answer eid c.reqNo c.ret 0x22 2 [] (drop d)
        else runCmd c x.desc d

/-- Every in-band queue moves on as far as it can: at most 16 commands each. -/
def inbandAll (d : Dev) : Dev := each (d.tel.queues.map (·.1)) (fun e d => iter (inbandHead e) 16 d) d

/-- A frame was refused at admission. -/
def frameRefused (fr : Frame) (status detail : Nat) (d : Dev) : Dev :=
  match fr.org with
  | .host c _ _ accepted =>
    let ready := accepted || (match c.chan with
      | .sq q => cqFree d (cqOf d q)
      | _ => true)
    let d := modRing (fun r => { r with reads := r.reads.filter (fun p => decide (p.2.cmd ≠ c)) }) d
    if !ready then d else complete c status detail 0 (if accepted then d else accept c d)
  | .forge f _ _ _ _ => sendRefused f d
  | .edge _ _ _ => tellEid fr.src status detail d
  | .crucible n _ => if status = 4 then nodeAbort n 7 0 none d else d
  | .create id n => createRefused id n d
  | .member j _ => closeJoin j status 0 d
  | .select x g st => selRefused x g st status d
  | .mgmt n => mgmtRefused n fr d
  | .plain => d

/-- A frame has released its last cell. -/
def frameReleased (fr : Frame) (d : Dev) : Dev :=
  match fr.org with
  | .forge f _ _ _ _ => sendReleased f fr d
  | .crucible n c => cruReleased n c d
  | .select x g st => selReleased x g st fr.op d
  | _ => d

/-- One piece of work that a step left (`Dev.todo`). -/
def settleOne (t : Todo) (d : Dev) : Dev :=
  match t with
  | .retire kind idx byScore => retirePart kind idx byScore d
  | .fault kind idx => partFault kind idx d
  | .refused fr status detail => frameRefused fr status detail d
  | .released fr _ => frameReleased fr d
  | .answer c status detail result => (match c.chan with
    | .inband e => answerCmd c e status detail result d
    | _ => d)
  | .notice dst src status detail body => sendNotice dst src status detail body d
  | .tested kind idx pass => partTested kind idx pass d
  | .dispatch f => dispatchGo f d
  | .rowsLost f bind holder => releaseRows f bind holder 0 none d

/-- Work through what is left; the fuel bounds the pieces of work of one step. -/
def settleLoop : Nat → Dev → Dev
  | 0, d => { d with todo := [] }
  | n + 1, d =>
    match d.todo with
    | [] => d
    | t :: ts => settleLoop n (settleOne t { d with todo := ts })

def settleFuel : Nat := 65536

/-- In-band codes of R463, with those of R366 and R411. -/
def mgmtCodeOk (f : RxFrame) : Bool := [0, 0x10, 0x20, 0x21, 0x22, 0x23].contains (fCode f)

/-- In-band frames of another code are discarded and counted (R463). -/
def dropCodes (d : Dev) : Dev :=
  each (d.sw.rx.filter (fun f => f.code == 0xFC && rxOp f == 0xC && !mgmtCodeOk f)) (fun f d => tally 15 0 (takeRx f d)) d

/-- The end of a step: what it left is done, in-band queues and edge egresses move on. -/
def settle (d : Dev) : Dev :=
  let d := settleLoop settleFuel (inbandAll (settleLoop settleFuel d))
  settleLoop settleFuel (edgeTry (pfcEnd (dropCodes d)))

end Sys2Proof.Machine
end

