-- ==== Sys2Proof/Machine/View.lean ====
section
/-! DEFINITION. What a register of BAR0 reads as: the fields the device computes, and byte-wise reads (R6, R455, R467, R470, R473,
R475). -/

namespace Sys2Proof.Machine

/-- A mask of the indices below `n` that satisfy a test. -/
def maskOf (n : Nat) (p : Nat → Bool) : Nat := ((List.range n).map (fun i => if p i then 2 ^ i else 0)).sum

/-- Arithmetic cycles of a second (3.3 GHz). -/
def secondCycles : Nat := 3300000000

/-- GLB (Table 18.3). -/
def glbView (off : Nat) (d : Dev) : Option Nat :=
  let b := d.boot
  match off with
  | 0x00 => some (0x0596 + 2 ^ 16 + 2 ^ 20)
  | 0x18 => some (b.lastReset + 2 ^ 4 * boolNat b.hostless
      + (if b.cxlUp then 2 ^ 5 * (b.cxlWidth % 32) + 2 ^ 10 * (b.cxlSpeed % 8) + 2 ^ 13 * boolNat b.cxlProto else 0))
  | 0x20 => some (d.clk.now / secondCycles)
  | _ => none

/-- Tail and head indices of a completion or event ring (Table 14.16). -/
def ringIdx (r : Ring) (depth : Nat) : Nat := 2 ^ 32 * (r.wr % depth) + 2 ^ 48 * (r.rd % depth)

/-- RING (Tables 14.15, 14.16), offsets from 0x0002_0000. -/
def ringView (o : Nat) (d : Dev) : Option Nat :=
  let off := 0x20000 + o
  if o < 0x800 then
    let q := o / 0x20
    if o % 0x20 = 0x18 then
      some (rg d off + 2 ^ 13 * boolNat (!sqOn d q && !(sq d q).busy.isEmpty) + 2 ^ 16 * (sq d q).head + 2 ^ 32 * (sq d q).tail)
    else none
  else if o < 0x1000 then
    let c := (o - 0x800) / 0x20
    if o % 0x20 = 0x08 then some (rg d off + ringIdx (cq d c) (cqDepth d c))
    else if o % 0x20 = 0x10 then some (cq d c).lost
    else none
  else if o = 0x1008 then some (rg d off + ringIdx d.ring.eq (eqDepth d))
  else if o = 0x1010 then some d.ring.eq.lost
  else none

/-- SWATH (Tables 2.2, 2.4). -/
def swathView (off : Nat) (d : Dev) : Option Nat :=
  match off with
  | 0x40008 => some d.clk.swc.toNat
  | 0x40018 => some (d.clk.maxOffset + 2 ^ 8 * boolNat (aligned d) + rg d off)
  | _ => none

/-- PORT_STAT.state codes (Table 4.4). -/
def stateCode (s : PortState) : Nat :=
  match s with
  | .disabled => 0 | .training => 1 | .aligning => 2 | .service => 3 | .hold => 4 | .down => 5

/-- A sub-port runs at reduced width (Table 4.4). -/
def reduced (d : Dev) (lp : Nat) : Bool :=
  let p := sub d lp
  (p.state == .service || p.state == .hold) && p.lanes ≠ 0 && decide (p.lanes < fullLanes d lp)

/-- PORT p (Tables 4.2, 4.4). -/
def portView (p o : Nat) (d : Dev) : Option Nat :=
  match o with
  | 0x0 => some (rg d (oPortCfg p) + 2 ^ 8 * lanesRetired d p)
  | 0x8 => some (((List.range 4).map (fun s => 2 ^ (4 * s) * stateCode (sub d (4 * p + s)).state)).sum
      + 2 ^ 16 * maskOf 4 (fun s => subExists d (4 * p + s) && reduced d (4 * p + s))
      + 2 ^ 20 * maskOf 4 (fun s => (sub d (4 * p + s)).unreach))
  | _ => none

/-- Held slots of an output crossbar port (Table 18.4). -/
def heldCount (d : Dev) (x : Nat) : Nat := (d.tab.furrows.map (fun p => if furrowX p.2 = x then p.2.count else 0)).sum

/-- The lowest output crossbar port with the most held slots, and how many. -/
def heldMost (d : Dev) : Nat × Nat :=
  (List.range 88).foldl (fun b x => if b.2 < heldCount d x then (x, heldCount d x) else b) (0, 0)

/-- SCH_STAT and SCH_CAL (R475). -/
def schView (off : Nat) (d : Dev) : Option Nat :=
  match off with
  | 0x180000 => some (d.tab.furrows.length + 2 ^ 16 * (heldMost d).2 + 2 ^ 32 * (heldMost d).1)
  | 0x180020 =>
    let s := fld d 0x180018 0 15
    let x := fld d 0x180018 16 7
    some (match d.tab.furrows.find? (fun p => (heldSlots p.2).contains s && furrowX p.2 == x) with
      | some p => p.2.inX + 2 ^ 7 + 2 ^ 8 * p.1 + 2 ^ 40 * p.2.gen
      | none => 0)
  | _ => none

/-- BPM_MODE and BPM_STAT (Tables 5.3, 5.7). -/
def bpmView (off : Nat) (d : Dev) : Option Nat :=
  match off with
  | 0x1C0000 => some (d.bpm.mode.toNat + 4 * boolNat d.bpm.pending)
  | 0x1C0018 =>
    let lent := (d.bpm.use.map (fun p => p.2.p0)).sum + (d.tab.furrows.map (fun p => p.2.queue.length)).sum
    some (p0Cells - lent + 2 ^ 19 * d.bpm.level + 2 ^ 21 * p1Used d)
  | _ => none

/-- The table window (Tables 3.8, 3.9); its data while busy is a free value (R85) and stands in `readReg`. -/
def eptView (off : Nat) (d : Dev) : Option Nat :=
  let t := d.tab
  if off = 0x200000 then some (rg d off + 2 ^ 4 * boolNat t.winBusy + 2 ^ 5 * boolNat t.winMiss)
  else if off = 0x2000A0 then some (t.ept.length + 2 ^ 20 * t.paths.length + 2 ^ 37 * t.groups.length)
  else if 0x200008 ≤ off ∧ off < 0x200098 then some (tgetD t.winData ((off - 0x200008) / 8) 0)
  else none

/-- CRU (Tables 7.14, 7.16). -/
def cruView (off : Nat) (d : Dev) : Option Nat :=
  if off = 0x280008 then
    some (d.cru.nodes.length + 2 ^ 17 * ((List.range 8).map (bankFree d)).sum + 2 ^ 34 * maskOf 8 (partOut d 6)
      + 2 ^ 42 * d.cru.tombs.length)
  else if 0x280100 ≤ off ∧ off < 0x280140 then
    let j := (off - 0x280100) / 8
    some (bankFree d j + 2 ^ 14 * boolNat (partOut d 6 j))
  else none

/-- PMON_CYC of a block (R451, Table 1.2): blocks 11 to 14 run on the arithmetic clock, the fabric clock runs at half of it; of
the management core's clock of blocks 18 and 19 the period is 2.75 arithmetic cycles (1.2 GHz). -/
def blockCycles (b : Nat) (d : Dev) : Nat :=
  if within 11 14 b then d.clk.now else if b = 18 ∨ b = 19 then d.clk.now * 4 / 11 else d.clk.now / 2

/-- PMON (Tables 17.1, 17.5). -/
def pmonView (off : Nat) (d : Dev) : Option Nat :=
  let o := off - 0x540000
  if 0x400 ≤ o ∧ o < 0x400 * 21 ∧ o % 0x400 = 0 then some (blockCycles (o / 0x400) d % 2 ^ 64)
  else if 0x8000 ≤ o ∧ o < 0x9000 then
    let p := (sub d ((o - 0x8000) / 16)).published
    some ((if o % 16 = 0 then p.1 else p.2.1) + 2 ^ 40 * p.2.2)
  else none

/-- The fields of a register that the device computes, with its stored ones, where it has any. -/
def viewOf (off : Nat) (d : Dev) : Option Nat :=
  if off < 0x10000 then glbView off d
  else if off < 0x40000 then ringView (off - 0x20000) d
  else if off < 0x80000 then swathView off d
  else if off < 0x100000 then portView ((off - 0x80000) / 0x1000) ((off - 0x80000) % 0x1000) d
  else if off < 0x180000 then none
  else if off < 0x1C0000 then schView off d
  else if off < 0x200000 then bpmView off d
  else if off < 0x240000 then eptView off d
  else if off < 0x280000 then none
  else if off < 0x2C0000 then cruView off d
  else if off < 0x300000 then selView off d
  else if off < 0x400000 then forgeView ((off - 0x300000) / 0x10000) ((off - 0x300000) % 0x10000) d
  else if off < 0x440000 then adpView off d
  else if off < 0x480000 then memView off d
  else if off < 0x4C0000 then falView off d
  else if off < 0x500000 then secView off d
  else if off < 0x540000 then hltView off d
  else if off < 0x580000 then pmonView off d
  else if off = 0x581018 then some (d.tel.mgmtOver + 2 ^ 32 * d.tel.hostLost)
  else none

/-- What a register reads as, its free values apart. -/
def regVal (off : Nat) (d : Dev) : Nat := (viewOf off d).getD (rg d off)

/-- Blocks in use in recovery mode (R428): GLB, CXLC, RING, SEC. -/
def recoveryBlock (off : Nat) : Bool := decide (off < 0x40000) || (decide (0x4C0000 ≤ off) && decide (off < 0x500000))

/-- The memory a debug window shows, when a scope grants it (Table 17.8, R444). -/
def dbgGranted (d : Dev) : Bool :=
  let t := fld d 0x5C0000 0 3
  d.boot.scope.toNat.testBit (if t = 0 then 0 else 1)

/-- The bytes a debug target holds at an address: 8 of the management core's memory, FLM or side memory; none past its end, or of
reduction memory and packet SRAM, whose layout the manual does not give. -/
def dbgMem (d : Dev) : Option (Memory × Nat) :=
  let f := fld d 0x5C0000 3 4
  match fld d 0x5C0000 0 3 with
  | 0 => some (d.tel.mgmt, 2 ^ 32)
  | 1 => some ((forge d f).flm, flmSize)
  | 2 => some ((forge d f).side, 262144)
  | _ => none

/-- DBG_WIN_ACCESS (R466): a read, or a write of 8 bytes; then the address moves on. What was read stays in the window's data
register. -/
def dbgAccess (w : Option Nat) (d : Dev) : Dev :=
  let a := fld d 0x5C0000 8 32
  let f := fld d 0x5C0000 3 4
  let (v, d) :=
    if !dbgGranted d then (0, d)
    else
      match dbgMem d with
      | none => (fun (r : BitVec 64 × Dev) => (r.1.toNat, r.2)) (drawFree d)
      | some (m, n) =>
        let inside := decide (a + 8 ≤ n)
        (match w with
         | none => (if inside then leNat (memReadN m a 8) else 0, d)
         | some x =>
           let y := if inside then memWriteN m a (toLE 8 x) else m
           (x, match fld d 0x5C0000 0 3 with
               | 0 => modTel (fun t => { t with mgmt := y }) d
               | 1 => modForge f (fun g => { g with flm := y }) d
               | _ => modForge f (fun g => { g with side := y }) d))
  markDevice 0x5C0000 (putFld 0x5C0000 8 32 ((a + 8) % 2 ^ 32) (putReg 0x5C0008 v d))

/-- Read a register, with what a read does. -/
def readReg (off : Nat) (d : Dev) : Nat × Dev :=
  if d.boot.recovery ∧ recoveryBlock off = false then (0, d)
  else if (0x200008 ≤ off ∧ off < 0x200098) ∧ d.tab.winBusy = true then
    (fun (r : BitVec 64 × Dev) => (r.1.toNat, r.2)) (drawFree d)
  else if off = 0x5C0008 then
    let d := dbgAccess none d
    (rg d off, d)
  else (regVal off d, d)

/-- A word of the CXL component registers (R473): those of the capabilities left open are free values (log 43). -/
def cxlcRead (o : Nat) (d : Dev) : Bytes × Dev :=
  match cxlcWord o d with
  | some v => (toLE 4 v, d)
  | none => (fun (r : BitVec 64 × Dev) => (toLE 4 r.1.toNat, r.2)) (drawFree d)

/-- The eight bytes at a multiple of 8 (R6): one 8-byte register, or two words. -/
def readGranule (g : Nat) (d : Dev) : Bytes × Dev :=
  if 0x11000 ≤ g ∧ g < 0x12000 then
    let (a, d) := cxlcRead (g - 0x11000) d
    let (b, d) := cxlcRead (g - 0x11000 + 4) d
    (a ++ b, d)
  else
    let word := fun (o : Nat) (d : Dev) => (match regOf o with
      | some _ => (fun (r : Nat × Dev) => (toLE 4 r.1, r.2)) (readReg o d)
      | none => (zeros 4, d))
    match regOf g with
    | some r =>
      if r.bytes = 8 then (fun (r : Nat × Dev) => (toLE 8 r.1, r.2)) (readReg g d)
      else
        let (a, d) := word g d
        let (b, d) := word (g + 4) d
        (a ++ b, d)
    | none =>
      let (b, d) := word (g + 4) d
      (zeros 4 ++ b, d)

/-- Read `n` bytes, 4 or 8, of BAR0 (R6, R464, R467). -/
def readBytes (off n : Nat) (d : Dev) : Bytes × Dev :=
  let g := off / 8 * 8
  let (a, d) := readGranule g d
  if off + n ≤ g + 8 then (slice a (off - g) n, d)
  else
    let (b, d) := readGranule (g + 8) d
    (slice (a ++ b) (off - g) n, d)

end Sys2Proof.Machine
end

