-- ==== Sys2Proof/Machine/Telem.lean ====
section
/-! DEFINITION. Register writes, counters, bandwidth windows, sample records, in-band requests (R6 to R10, R428, R451 to R466,
R469, R471). -/

namespace Sys2Proof.Machine

/-- Store what a write leaves in a register's own fields (R7 to R10). -/
def plainWrite (off v : Nat) (d : Dev) : Dev :=
  match regOf off with
  | some r => putReg off (writeFlds (rg d off) v r.flds) d
  | none => d

/-- Which ring control registers recovery mode lets through (R428): SQ 0, CQ 0 and the EQ. -/
def ringOpen (d : Dev) (r : Nat) : Bool := !d.boot.recovery || r == 0 || r == 64 || r == 128

/-- A write of a ring register, offset from 0x0002_0000 (R397): the base and head write-back of an enabled ring are locked. -/
def writeRing (o v : Nat) (d : Dev) : Dev :=
  let off := 0x20000 + o
  let when_ := fun (on : Bool) => if on then d else plainWrite off v d
  if o < 0x800 then
    let q := o / 0x20
    if o % 0x20 = 0x18 then (if ringOpen d q then writeRingCtl q v d else d) else when_ (sqOn d q)
  else if o < 0x1000 then
    let c := (o - 0x800) / 0x20
    if o % 0x20 = 0x08 then (if ringOpen d (64 + c) then writeRingCtl (64 + c) v d else d) else when_ (cqOn d c)
  else if o = 0x1008 then writeRingCtl 128 v d
  else if o = 0x1000 then when_ (eqOn d)
  else plainWrite off v d

/-- A write of a FORGE register. -/
def writeForge (f o v : Nat) (d : Dev) : Dev :=
  if o = 0x08 then writeForgeStat f v d
  else if o = 0x20 then writeDbg f v d
  else if o = 0x30 then writeForgeFlg f v d
  else if 0x400 ≤ o ∧ o < 0x480 then writeQsem f ((o - 0x400) / 4) v d
  else if f = 0 ∧ 0x800 ≤ o ∧ o < 0x900 then writeGsem ((o - 0x800) / 4) v d
  else if 0x1000 ≤ o ∧ o < 0x3000 then bindWrite f ((o - 0x1000) / 32) ((o - 0x1000) % 32 / 8) v d
  else plainWrite (oForge f + o) v d

/-- SMP_HRING_CTL (R461): enabling sets head and tail to 0; irq_en arms. -/
def writeHringCtl (v : Nat) (d : Dev) : Dev :=
  let on := flag d 0x581008 11
  let d := plainWrite 0x581008 v d
  let irq := flag d 0x581008 12
  if !on && flag d 0x581008 11 then
    modTel (fun t => { t with hring := { ringZero with armed := irq } }) (putReg 0x581010 0 d)
  else if flag d 0x581008 11 then modTel (fun t => { t with hring := { t.hring with armed := irq } }) d
  else d

/-- SMP_HRING_HEAD (R461): entries are returned and the ring is rearmed; a value outside the written span is ignored. -/
def writeHringHead (v : Nat) (d : Dev) : Dev :=
  let h := v % 4096
  if !flag d 0x581008 11 then d
  else
    match headReturn (2 ^ fld d 0x581008 0 4) d.tel.hring h with
    | none => d
    | some n =>
      let (r, again) := rearm d.tel.hring (flag d 0x581008 12) n
      when again (sendMsix (fld d 0x581008 4 7)) (modTel (fun t => { t with hring := r }) (putReg 0x581010 h d))

/-- A write of SMP_CFG: the counts start at 0 (R165). -/
def writeSmpCfg (off v : Nat) (d : Dev) : Dev :=
  modSub ((off - 0x580000) / 4) (fun p => { p with smpCount := (0, 0) }) (plainWrite off v d)

/-- A write of a whole register (R6 to R10, R469), with the conditions of its own rule. -/
def writeReg (off w : Nat) (d : Dev) : Dev :=
  let v := spare off w d
  if d.boot.recovery ∧ recoveryBlock off = false then d
  else if off = 0x10 then glbReset v d
  else if 0x20000 ≤ off ∧ off < 0x40000 then writeRing (off - 0x20000) v d
  else if off = 0x40000 then writeSwathCfg v d
  else if 0x80000 ≤ off ∧ off < 0xC0000 ∧ off % 0x1000 = 0 then writePortCfg ((off - 0x80000) / 0x1000) v d
  else if off = 0x1C0000 then (if deviceNow d off then d else writeMode (BitVec.ofNat 2 v) d)
  else if off = 0x1C0008 then (if p1Used d = 0 then plainWrite off v d else d)
  else if off = 0x1C0010 then writeBpmRsv v d
  else if off = 0x200000 then windowWrite v d
  else if off = 0x280000 then writeCruCfg v d
  else if off = 0x2C0018 then writeCtxst v d
  else if 0x300000 ≤ off ∧ off < 0x400000 then writeForge ((off - 0x300000) / 0x10000) ((off - 0x300000) % 0x10000) v d
  else if off = 0x400010 then writeSlotst v d
  else if 0x400100 ≤ off ∧ off < 0x400200 then writeStash ((off - 0x400100) / 16) ((off - 0x400100) % 16 / 8) v d
  else if off = 0x440000 then writeMemCfg v d
  else if off = 0x440010 then writeShare v d
  else if off = 0x440028 then writeCxlWin v d
  else if off = 0x480030 then falFormat v d
  else if off = 0x480038 then falPersLoad v d
  else if off = 0x500008 then writeThr v d
  else if 0x580000 ≤ off ∧ off < 0x580400 then writeSmpCfg off v d
  else if off = 0x581000 then (if flag d 0x581008 11 then d else plainWrite off v d)
  else if off = 0x581008 then writeHringCtl v d
  else if off = 0x581010 then writeHringHead v d
  else if 0x540400 ≤ off ∧ off < 0x545400 ∧ within 0x40 0x78 (off % 0x400) then stamp off 0 (plainWrite off v d)
  else if off = 0x5C0000 ∧ deviceNow d off = true then plainWrite off (setBits v 8 32 (fld d off 8 32)) d
  else if off = 0x5C0008 then dbgAccess (some (v % 2 ^ 64)) d
  else plainWrite off v d

/-- What a CXL.io write that reaches a register in the cycle of an in-band write leaves for the register to do: it is applied first,
so the in-band values of the RW fields stand (R469). -/
def underInband (off v : Nat) (d : Dev) : Nat :=
  match inbandNow d off, regOf off with
  | true, some r => r.flds.foldl (fun v f => if f.acc = .rw then setBits v f.lo f.w (bits (regVal off d) f.lo f.w) else v) v
  | _, _ => v

/-- A write of bytes of BAR0 from an offset aligned to their number (R6): each register they cover whole takes its own bytes, the
lowest offset first; one they cover in part is ignored, and so are bytes that fall on no register. Of a CXL.io and an in-band
write to one register in one cycle the in-band one counts as the second (R469). -/
def writeBytes (inband : Bool) (off : Nat) (b : Bytes) (d : Dev) : Dev :=
  if b.length = 0 ∨ off % b.length ≠ 0 then d
  else
    each ((List.range b.length).filter (fun i => (off + i) % 4 == 0)) (fun i d =>
      match regOf (off + i) with
      | some r => if i + r.bytes ≤ b.length then
          (if inband then markInband (off + i) (writeReg (off + i) (leAt b i r.bytes) d)
           else writeReg (off + i) (underInband (off + i) (leAt b i r.bytes) d) d)
        else d
      | none => if 0x11000 ≤ off + i ∧ off + i < 0x12000 ∧ i + 4 ≤ b.length then cxlcWrite (off + i - 0x11000) (leAt b i 4) d else d) d

/-- One 32-bit word of the MSI-X table (R369, Table 14.2): address low and high, data, vector control; a vector unmasked with its
pending bit set sends its message. -/
def writeMsix (o v : Nat) (d : Dev) : Dev :=
  let k := o / 16
  let (a, x, m) := tgetD d.ring.msix k (0, 0, true)
  let e := if o % 16 = 0 then (a / 2 ^ 32 * 2 ^ 32 + v, x, m)
    else if o % 16 = 4 then (v * 2 ^ 32 + a % 2 ^ 32, x, m)
    else if o % 16 = 8 then (a, v, m)
    else (a, x, v.testBit 0)
  let d := modRing (fun r => { r with msix := tput r.msix k e }) d
  if !e.2.2 && d.ring.pba.contains k then sendMsix k (modRing (fun r => { r with pba := r.pba.erase k }) d) else d

/-- REGISTER_WRITE (R6, R8, R372) in the arithmetic cycle given: BAR0 below 2^24, the pages of BAR4 from there on, of which each
word of the MSI-X table that is covered whole is written. -/
def hostWriteReg (off : Nat) (b : Bytes) (cyc : Nat) (d : Dev) : Dev :=
  let d := tick cyc d
  if off < 2 ^ 24 then writeBytes false off b d
  else
    let o := off - 2 ^ 24
    if b.length = 0 ∨ off % b.length ≠ 0 then d
    else
      each ((List.range b.length).filter (fun i => (o + i) % 4 == 0 && decide (i + 4 ≤ b.length) && decide (o + i < 0x800))) (fun i d =>
        writeMsix (o + i) (leAt b i 4) d) d

/-- RING_ENABLE and SQ_DISABLE (R397, R428). -/
def ringCtl (r v : Nat) (d : Dev) : Dev := if ringOpen d r then writeRingCtl r v d else d

/-- COUNTER_WRAP (R456, R457): the bit, the message and the skid record of a counter that has passed from 2^48 - 1 to 0. -/
def counterWrap (b n : Nat) (d : Dev) : Dev :=
  match d.tel.wraps.find? (fun w => w.1 == b && w.2.1 == n) with
  | none => d
  | some w =>
    let o := oPmon b + 0x10
    let first := !flag d o n
    let d := setEvt o n (modTel (fun t => { t with wraps := t.wraps.erase w }) d)
    let d := if !(flag d (oPmon b + 0x80 + 8 * n) 13 && first) then d
      else if flag d 0x540008 7 then sendMsix (fld d 0x540008 0 7) d
      else d
    if !within 11 13 b || flag d 0x542C28 0 || !flag d (oPmon b + 0x80 + 8 * n) 13 || !first then d
    else
      let (f, st, d) := (match w.2.2 with
        | some (f, st, _) => (f, st, d)
        | none => (fun (r : BitVec 64 × Dev) => (r.1.toNat % 16, r.1.toNat / 16 % 8, r.2)) (drawFree d))
      stamp 0x542C28 0 <| putReg 0x542C28 (1 + 2 * f + 2 ^ 5 * st + 2 ^ 8 * ((strm d f st).pc % 4096) + 2 ^ 20 * b + 2 ^ 24 * n) d

/-- A boundary has just come, and with it a window edge not yet dealt with (R458). -/
def windowDue (d : Dev) : Bool :=
  d.clk.slot == (if d.clk.removed = some 0 then 1 else 0) && !d.tel.once.contains (31, 0)
  && d.clk.swc.toNat % d.clk.bwWin == 0 && decide (0 < d.clk.swc.toNat) && !d.tel.once.contains (30, 0)

/-- BW_WINDOW_END (R458): every port's bytes are published with the window's index, and the next window starts from 0. -/
def windowPublish (d : Dev) : Dev :=
  if !windowDue d then d
  else
    let i := (d.clk.swc.toNat / d.clk.bwWin - 1) % 2 ^ 24
    let d := modTel (fun t => { t with once := (30, 0) :: t.once }) d
    each (allSubs d) (fun lp d => modSub lp (fun p =>
      { p with published := (p.bytes.1 % 2 ^ 40, p.bytes.2 % 2 ^ 40, i), bytes := (0, 0) }) d) d

/-- A new W takes effect, and the window in progress goes unpublished (R459). -/
def windowChange (d : Dev) : Dev :=
  let w := fld d 0x540000 0 16
  if w = d.clk.bwWin ∨ d.clk.swc.toNat % w ≠ 0 then d
  else
    let d := modTel (fun t => { t with once := (30, 0) :: t.once }) { d with clk := { d.clk with bwWin := w } }
    each (allSubs d) (fun lp d => modSub lp (fun p => { p with bytes := (0, 0) }) d) d

/-- The 144 bytes of a sample's record (Table 5.12): the header captured with its sample-copy bit set. -/
def smpRecord (s : Sample) (b : Buf) : Bytes :=
  let n := min 96 b.pay.length
  let h := overlay b.hdr 27 [BitVec.ofNat 8 (byteAt b.hdr 27 ||| 4)]
  toLE 4 s.swc ++ toLE 1 s.lp ++ toLE 1 (boolNat s.tx + 2 * boolNat (hMcast b.hdr)) ++ toLE 2 (beAt b.pay 2 2)
    ++ toLE 2 s.slot ++ toLE 2 (32 + n) ++ toLE 4 s.seq ++ fit h 32 ++ fit b.pay 96

/-- Put a record into the management ring, the oldest giving way when it is full (R460). -/
def keepRecord (r : Bytes) (lp : Nat) (d : Dev) : Dev :=
  if 1024 ≤ d.tel.ring.length then
    modTel (fun t => { t with ring := t.ring.drop 1 ++ [r], read := t.read - 1, mgmtOver := (t.mgmtOver + 1) % 2 ^ 32 })
      (count 20 3 1 { masters := [mPort lp] } d)
  else modTel (fun t => { t with ring := t.ring ++ [r] }) d

/-- Mirror a record to the host sample ring (R461). -/
def mirrorRecord (r : Bytes) (lp : Nat) (d : Dev) : Dev :=
  let n := 2 ^ fld d 0x581008 0 4
  let h := d.tel.hring
  if !flag d 0x581008 11 || decide (n ≤ h.wr - h.rd) then
    modTel (fun t => { t with hostLost := (t.hostLost + 1) % 2 ^ 32 }) (count 20 4 1 { masters := [mPort lp] } d)
  else
    let a := fld d 0x581000 6 58 * 64 + 256 * (h.wr % n)
    let d := hostWrite a (withPhase (r ++ zeros 112) (phaseOf n h.wr)) d
    let d := modTel (fun t => { t with hring := { t.hring with wr := h.wr + 1 } }) d
    if h.armed then sendMsix (fld d 0x581008 4 7) (modTel (fun t => { t with hring := { t.hring with armed := false } }) d) else d

/-- SAMPLER_READ (R166): the oldest reference of the sample queue is read and removed. -/
def samplerRead (d : Dev) : Dev :=
  match d.sw.samples with
  | [] => d
  | s :: rest =>
    let d := modSw (fun w => { w with samples := rest }) d
    match buf d s.buf with
    | none => d
    | some b =>
      let r := smpRecord s b
      let d := keepRecord r s.lp d
      dropRef s.buf (when (flag d (0x580000 + 4 * s.lp) 16) (mirrorRecord r s.lp) d)

/-- The first waiting in-band request of a code (R463). -/
def firstMgmt (d : Dev) (code : Nat) : Option RxFrame :=
  firstRx d (fun f => f.code == 0xFC && rxOp f == 0xC && fCode f == code)

/-- The reserved bits of a return path are 0 (R462). -/
def pathOk (f : RxFrame) : Bool := byteAt f.data 16 / 16 == 0 && byteAt f.data 17 == 0

/-- Where its answer goes, and the request number. -/
def mgmtRet (f : RxFrame) : Bytes := slice f.data 0 20 ++ toBE 3 f.dst
def mgmtNo (f : RxFrame) : Nat := beAt f.hdr 16 2
def mgmtOff (f : RxFrame) : Nat := beAt f.hdr 12 4
def mgmtArg (f : RxFrame) : Nat := beAt f.hdr 18 4 % 2 ^ 24

/-- Serve the first request of a code: it is taken; one with a malformed path is discarded and counted. -/
def serve (code : Nat) (go : RxFrame → Dev → Dev) (d : Dev) : Dev :=
  match firstMgmt d code with
  | none => d
  | some f => if pathOk f then go f (takeRx f d) else tally 15 0 (takeRx f d)

/-- REG_READ (R463, R464). -/
def mgmtRead (f : RxFrame) (d : Dev) : Dev :=
  let (b, d) := readBytes (mgmtOff f) (if (mgmtArg f).testBit 0 then 8 else 4) d
  answer f.src (mgmtNo f) (mgmtRet f) 0x20 0 (fit b 8) d

/-- REG_WRITE (R463, R464): BUSY while the host has a submission ring, outside the PMON and SMP blocks. -/
def mgmtWrite (f : RxFrame) (d : Dev) : Dev :=
  let off := mgmtOff f
  if hosted d && !(decide (0x540000 ≤ off) && decide (off < 0x5C0000)) then answer f.src (mgmtNo f) (mgmtRet f) 0x21 2 [] d
  else
    let w := if (mgmtArg f).testBit 0 then 8 else 4
    answer f.src (mgmtNo f) (mgmtRet f) 0x21 0 [] (writeBytes true off (slice f.data 20 w) d)

/-- CMD (R463, R465): the command joins its source's queue, which holds 16. -/
def mgmtCmd (f : RxFrame) (d : Dev) : Dev :=
  let e := slice f.data 20 64
  let l := tgetD d.tel.queues f.src []
  if 16 ≤ l.length then tellEid f.src 2 0 d
  else
    let c : Cmd := { chan := .inband f.src, tag := tagOf e, reqNo := mgmtNo f, ret := mgmtRet f, att := f.data.drop 84 }
    modTel (fun t => { t with queues := tput t.queues f.src (l ++ [{ cmd := c, desc := e, slow := false }]) }) d

/-- SAMPLE_READ (R463): the oldest unread records, up to the count. -/
def mgmtSamples (f : RxFrame) (d : Dev) : Dev :=
  let n := mgmtArg f % 64
  if n = 0 then answer f.src (mgmtNo f) (mgmtRet f) 0x23 0x10 [] d
  else
    let l := (d.tel.ring.drop d.tel.read).take n
    answer f.src (mgmtNo f) (mgmtRet f) 0x23 0 l.flatten (modTel (fun t => { t with read := t.read + l.length }) d)

end Sys2Proof.Machine
end

