-- ==== Sys2Proof/Machine/Boundary.lean ====
section
/-! DEFINITION. The Swath boundary and the crossbar slot (R26, R28 to R32, R42 to R46, R51, R105, R131, R139, R141, R148, R152, R159
to R162, R395, R421, R458, R459, R471). -/

namespace Sys2Proof.Machine

/-- m of R30: the midpoint of the smallest and largest θ of the fabric ports in service whose marker came. -/
def midpoint (d : Dev) : Int :=
  match (allSubs d).filterMap (fun lp => if !isEdge d lp && (sub d lp).state == .service then (sub d lp).theta else none) with
  | [] => 0
  | x :: t => tdiv (t.foldl min x + t.foldl max x) 2

/-- Largest magnitude of θ over the ports in service (Table 2.4). -/
def largestOffset (d : Dev) : Nat :=
  min 255 (((allSubs d).filterMap (fun lp =>
    if !isEdge d lp && (sub d lp).state == .service then (sub d lp).theta.map Int.natAbs else none)).foldl max 0)

/-- Slot `s` of the coming Swath lies in a retraining window (R40), begun in it or in the one before; `p` is the period in force. -/
def windowSlot (d : Dev) (p s : Nat) : Bool :=
  (((d.clk.swc.toNat + 1) % p == 0) && decide (s < 440))
  || ((d.clk.swc.toNat % 2 ^ d.clk.retrainNow == 0) && decide (d.clk.nsNow + s < 440))

/-- The slot that may be removed from a coming Swath of `ns` slots (R30, R31). -/
def removable (d : Dev) (p ns : Nat) : Option Nat :=
  (List.range ns).reverse.find? (fun s => (ns - 1 - s) % 256 ≠ 0 && !windowSlot d p s && (heldAt d s).isEmpty)

/-- Length of the coming Swath, and its removed slot (R30). -/
def comingLength (d : Dev) (p ns : Nat) : Nat × Option Nat :=
  let m := midpoint d
  if 1 ≤ m then (ns + 1, none)
  else if m ≤ -1 then
    match removable d p ns with
    | some s => (ns - 1, some s)
    | none => (ns, none)
  else (ns, none)

/-- POLICE_DROP, for each port and class that discarded cells (R161). -/
def policeEvents (d : Dev) : Dev :=
  each (allSubs d) (fun lp d =>
    let l := (sub d lp).policed.filter (fun p => decide (0 < p.2))
    if l.isEmpty then d
    else each l (fun p d => postEvent 0xD (toLE 1 lp ++ toLE 1 p.1 ++ toLE 4 p.2) d) (modSub lp (fun p => { p with policed := [] }) d)) d

/-- retrain_log2 for the coming Swath (R42): a new period starts at a boundary that is a multiple of it. -/
def comingRetrain (d : Dev) : Nat :=
  let n := fld d oSwathRsv 4 4
  if ((d.clk.swc.toNat + 1) % 2 ^ 48) % 2 ^ n = 0 then n else d.clk.retrainNow

/-- The clock enters the next Swath (R26, R28, R30, R42). -/
def nextSwath (d : Dev) : Dev :=
  let ns := nsCfg d
  let r := comingRetrain d
  let (len, gone) := comingLength d (2 ^ r) ns
  let start := d.clk.swStart + 6 * d.clk.lenNow
  { d with clk := { d.clk with
      swc := d.clk.swc + 1, slot := if gone = some 0 then 1 else 0, nsNow := ns, lenNow := len, removed := gone, swStart := start,
      now := max d.clk.now start, maxOffset := largestOffset d, adaptNow := fld d oSwathRsv 0 4, retrainNow := r } }

/-- Tokens after a boundary (R159, R161, R162), under the values now in force. -/
def shaperRefill (d : Dev) (lp : Nat) (t : Tab Int) : Tab Int :=
  (List.range 8).foldl (fun t tc =>
    let r := inForce d (oShpRate lp tc)
    let v : Int := if bits r 0 24 = 0 then 0 else min (tgetD t tc 0 + (bits r 0 24 : Nat)) (bits r 24 24 : Nat)
    if v = 0 then tdel t tc else tput t tc v) t

def policeRefill (d : Dev) (lp : Nat) (t : Tab Nat) : Tab Nat :=
  (List.range 8).foldl (fun t tc =>
    let r := inForce d (oShpPol lp tc)
    let a := bits r 0 16
    let v := if r.testBit 24 then min (tgetD t tc 0 + a) (a * bits r 16 5) else 0
    if v = 0 then tdel t tc else tput t tc v) t

/-- A sub-port at a boundary: what the markers of the Swath said, tokens, and the counts that start afresh (R30, R32, R36, R111,
R113, R131). -/
def subBoundary (lp : Nat) (d : Dev) : Dev :=
  let p := sub d lp
  let live := !isEdge d lp && (p.state == .service || p.state == .hold || p.state == .aligning)
  let miss := live && !p.marked
  let big := match p.theta with
    | some t => decide (8 < t.natAbs)
    | none => false
  let d := if miss && p.state == .service then count 2 5 1 { masters := [mPort lp] } d else d
  let q := { p with
    shaper := shaperRefill d lp p.shaper, police := policeRefill d lp p.police,
    oRx := if p.marked then p.oRx else none, theta := none, marked := false,
    overs := if big then p.overs else 0, blind := p.blind - 1, missing := if miss then p.missing + 1 else 0,
    holdCount := if p.state == .hold then p.holdCount + 1 else p.holdCount,
    link := { p.link with adaptSent := 0, vc4Sent := 0, markerSent := false } }
  if q = p then d else setSub lp q d

/-- The references queued towards a sub-port that are late, those in Furrow entries' own queues included (R51, R131). -/
def lateRefs (d : Dev) (lp : Nat) : List Ref :=
  ((d.sw.voq.flatMap (·.2)) ++ (d.sw.stage.flatMap (·.2)) ++ (d.tab.furrows.flatMap (·.2.queue))).filter (fun r =>
    r.towards lp && (match buf d r.buf with
        | some b => isLate d (hDl b.hdr)
        | none => false))

/-- The lateness test of a sub-port in HOLD, at each boundary (R131). -/
def holdLate (lp : Nat) (d : Dev) : Dev :=
  if (sub d lp).state ≠ .hold then d
  else
    let l := lateRefs d lp
    let keep := fun (q : List Ref) => q.filter (fun r => !l.any (fun x => x.rid == r.rid))
    let d := modSw (fun s => { s with voq := tmap keep s.voq, stage := tmap keep s.stage }) d
    let d := modTab (fun t => { t with furrows := tmap (fun f => { f with queue := keep f.queue }) t.furrows }) d
    let d := each l (fun r d => match buf d r.buf with
      | some b => dropRef r.buf (lateCause lp (count 7 2 1 (cellAttr [lp] b.hdr)
          (dropCell 1 lp (some 5) b.hdr d)))
      | none => d) d
    let e := (sub d lp).edge.out.filter (fun f => isLate d f.dl)
    each e (fun f d => lateEdge lp f (modSub lp (fun p => { p with edge := { p.edge with out := p.edge.out.erase f } }) d)) d

/-- Deadlines of EPT entries that have passed, and their fences, go (R83); so do the marks of frames discarded (R167). -/
def deadlinesPass (d : Dev) : Dev :=
  let d := modSw (fun s => { s with failed := s.failed.filter (fun p => !isLate d p.2) }) d
  each ((d.tab.ept.filter (fun p => p.2.lastD.any (isLate d))).map (·.1)) closeFence d

/-- Reservations end at their answers' deadlines (R152). -/
def resvExpire (d : Dev) : Dev :=
  each ((d.bpm.resv.filter (fun p => isLate d p.2.dl)).map (·.1)) unreserve d

/-- SWATH_BOUNDARY: the Swath in progress ends and the next begins. -/
def swathBoundary (d : Dev) : Dev :=
  let d := policeEvents (countShares d)
  let d := nextSwath (mismatchAborts (sendAcks (dropMarks d)))
  let d := { d with force := d.regs }
  let d := modTel (fun t => { t with once := [] }) (modBpm (fun b => { b with posted := [] }) d)
  let d := each (d.mem.devs.map (·.1)) scrubWatch (windowChange (refillBudgets d))
  let d := each (allSubs d) subBoundary d
  let d := modTab (fun t => { t with furrows := tmap (fun f => { f with released := 0 }) t.furrows }) d
  let d := relevel (ownersAtBoundary d)
  flushNotices (resvExpire (hostExpire (deadlinesPass (each (allSubs d) holdLate d))))

/-- CROSSBAR_SLOT: the held pairs and the matching due cross, the matching for slot t + 4 begins, and the slot index moves on
(R139, R141, R144). After the last slot of a Swath nothing crosses before its boundary. -/
def crossbarSlot (d : Dev) : Dev :=
  if d.tel.once.contains (31, 0) then d
  else
    let s := d.clk.slot
    let t := d.clk.swStart + 6 * (match d.clk.removed with
      | some r => if r < s then s - 1 else s
      | none => s)
    let d := { d with clk := { d.clk with now := max d.clk.now t } }
    let d := each (heldAt d s) crossHeld d
    let d := match d.sw.flight with
      | [] => d
      | m :: rest => each m crossPair (modSw (fun w => { w with flight := rest }) d)
    let d := beginMatch d
    let n := slotAfter d s
    let d := { d with clk := { d.clk with slot := n } }
    if n ≤ s then modTel (fun x => { x with once := (31, 0) :: x.once }) d else d

end Sys2Proof.Machine
end

