-- ==== Sys2Proof/Machine/Rows.lean ====
section
/-! DEFINITION. What a few commands add to the operations of their blocks: stores of the host, a snoop of a watched line, a
reassembly picked by number, a debug window access. -/

namespace Sys2Proof.Machine

/-- The six streams of a Forge. -/
def allStreams : List Nat := List.range 6

/-- Bytes the host has stored in its own memory before a doorbell (R381, R382). -/
def hostStores (img : List (Nat × Byte)) (d : Dev) : Dev := modRing (fun r => { r with mem := memImage r.mem img }) d

/-- The host stores a tail in a watched line: the snoop invalidates the line, and the device reads it again (R382). -/
def watchedSnoop (q v : Nat) (d : Dev) : Dev :=
  let a := fld d (0x20010 + 0x20 * q) 6 58 * 64
  watchedRead q (modSq q (fun s => { s with held := false }) (hostWrite a (toLE 4 v) d))

/-- SQ_TAIL_DOORBELL (R381), after the stores of the host before it. -/
def tailDoorbellRow (q v : Nat) (img : List (Nat × Byte)) (d : Dev) : Dev := tailDoorbell q v (hostStores img d)

/-- WATCHED_TAIL_SNOOP (R382), after the stores of the host before it. -/
def watchedSnoopRow (q v : Nat) (img : List (Nat × Byte)) (d : Dev) : Dev := watchedSnoop q v (hostStores img d)

/-- REASSEMBLY_DEADLINE (R167): a frame in reassembly whose deadline has passed is discarded. -/
def reasmTimeout (n : Nat) (d : Dev) : Dev :=
  match d.sw.reasm[n]? with
  | some r => if reasmExpired d r then dropReasm r d else d
  | none => d

/-- DBG_WIN_ACCESS (R466): a read, or a write, of DBG_WIN_DATA. -/
def dbgWindow (w : Option (BitVec 64)) (d : Dev) : Dev :=
  if d.boot.recovery then d else dbgAccess (w.map BitVec.toNat) d

end Sys2Proof.Machine
end

