-- ==== Sys2Proof/Machine/RunCollect.lean ====
section
/-! DEFINITION. Meanings of the commands of the Crucible and the Select engine. -/

namespace Sys2Proof.Machine

open Sys2Proof

/-- COLL_CREATE (R200). -/
def execCollCreate (q : Nat) (e : Bytes) (s : State) : Host.Outcome State Fault Refusal :=
  act (.collCreate q e) settle (entryRow 0x10 0 q e) s

/-- COLL_JOIN (R203). -/
def execCollJoin (q : Nat) (e : Bytes) (s : State) : Host.Outcome State Fault Refusal :=
  act (.collJoin q e) settle (entryRow 0x11 0 q e) s

/-- COLL_ABORT (R219). -/
def execCollAbort (q : Nat) (e : Bytes) (s : State) : Host.Outcome State Fault Refusal :=
  act (.collAbort q e) settle (entryRow 0x12 0 q e) s

/-- RESERVE_FRAME (R201). -/
def execReserveFrame (s : State) : Host.Outcome State Fault Refusal :=
  act .reserveFrame settle reserveFrame s

/-- REPLY_FRAME (R200). -/
def execReplyFrame (s : State) : Host.Outcome State Fault Refusal :=
  act .replyFrame settle replyFrame s

/-- COMMIT_FRAME (R200). -/
def execCommitFrame (s : State) : Host.Outcome State Fault Refusal :=
  act .commitFrame settle commitFrame s

/-- RELEASE_FRAME (R202). -/
def execReleaseFrame (s : State) : Host.Outcome State Fault Refusal :=
  act .releaseFrame settle releaseFrame s

/-- ABORT_FRAME (R218). -/
def execAbortFrame (s : State) : Host.Outcome State Fault Refusal :=
  act .abortFrame settle abortFrame s

/-- CREATE_REPLY_TIMEOUT (R200). -/
def execCreateReplyTimeout (id : Nat) (s : State) : Host.Outcome State Fault Refusal :=
  act (.createReplyTimeout id) settle (createTimeout id) s

/-- PREPARED_TIMEOUT (R202). -/
def execPreparedTimeout (n : Nat) (s : State) : Host.Outcome State Fault Refusal :=
  act (.preparedTimeout n) settle (preparedTimeout n) s

/-- COLL_CHUNK_ARRIVE (R209). -/
def execCollChunkArrive (s : State) : Host.Outcome State Fault Refusal :=
  act .collChunkArrive settle chunkArrive s

/-- CHUNK_FOLD (R210). -/
def execChunkFold (n : Nat) (bad : Bool) (s : State) : Host.Outcome State Fault Refusal :=
  act (.chunkFold n bad) settle (chunkFold n bad) s

/-- COLL_RESULT_FORWARD (R213). -/
def execCollResultForward (s : State) : Host.Outcome State Fault Refusal :=
  act .collResultForward settle resultForward s

/-- COLL_RESULT_MEMBER_ARRIVE (R205). -/
def execCollResultMemberArrive (s : State) (errs : List MemErr := []) : Host.Outcome State Fault Refusal :=
  actMem (.collResultMemberArrive errs) errs settle memberResult s

/-- MEMBER_CHUNK_SEND (R206). -/
def execMemberChunkSend (n : Nat) (s : State) : Host.Outcome State Fault Refusal :=
  act (.memberChunkSend n) settle (memberChunkSend n) s

/-- COLL_IDLE_TIMEOUT (R218). -/
def execCollIdleTimeout (n : Nat) (s : State) : Host.Outcome State Fault Refusal :=
  act (.collIdleTimeout n) settle (idleTimeout n) s

/-- CRUCIBLE_NOTICE_RECEIVE (R218). -/
def execCrucibleNoticeReceive (s : State) : Host.Outcome State Fault Refusal :=
  act .crucibleNoticeReceive settle crucibleNotice s

/-- SELECT_OPEN (R230). -/
def execSelectOpen (q : Nat) (e : Bytes) (s : State) : Host.Outcome State Fault Refusal :=
  act (.selectOpen q e) settle (entryRow 0x18 0 q e) s

/-- SELECT_CLOSE (R230). -/
def execSelectClose (q : Nat) (e : Bytes) (s : State) : Host.Outcome State Fault Refusal :=
  act (.selectClose q e) settle (entryRow 0x18 1 q e) s

/-- SELECT_OPEN_RETRY (R229). -/
def execSelectOpenRetry (q : Nat) (s : State) : Host.Outcome State Fault Refusal :=
  act (.selectOpenRetry q) settle (retryEntry q (isOpMode 0x18 0)) s

/-- SELECT_FRAME_ARRIVE (R232). -/
def execSelectFrameArrive (s : State) : Host.Outcome State Fault Refusal :=
  act .selectFrameArrive settle selectFrame s

/-- SELECT_WORK_ITEM (R233). -/
def execSelectWorkItem (x : Nat) (s : State) : Host.Outcome State Fault Refusal :=
  act (.selectWorkItem x) settle (selectWork x) s

/-- COMBINE_ARRIVE (R241). -/
def execCombineArrive (s : State) : Host.Outcome State Fault Refusal :=
  act .combineArrive settle combineArrive s

/-- COMB_WAIT_TIMEOUT (R242). -/
def execCombWaitTimeout (x : Nat) (s : State) : Host.Outcome State Fault Refusal :=
  act (.combWaitTimeout x) settle (combTimeout x) s

end Sys2Proof.Machine
end

