-- ==== Sys2Proof/Machine/RunForge.lean ====
section
/-! DEFINITION. Meanings of the commands of Forge commands, frames and semaphores. -/

namespace Sys2Proof.Machine

open Sys2Proof

/-- TASK (R257). -/
def execTask (q : Nat) (e : Bytes) (s : State) : Host.Outcome State Fault Refusal :=
  act (.task q e) settle (entryRow 0x20 0 q e) s

/-- TASK_QUEUE_RETRY (R258). -/
def execTaskQueueRetry (q : Nat) (s : State) : Host.Outcome State Fault Refusal :=
  act (.taskQueueRetry q) settle (retryEntry q (isOp 0x20)) s

/-- IMEM_LOAD (R303). -/
def execImemLoad (q : Nat) (e : Bytes) (s : State) : Host.Outcome State Fault Refusal :=
  act (.imemLoad q e) settle (entryRow 0x21 0 q e) s

/-- IMEM_LOAD_DONE (R303). -/
def execImemLoadDone (id : Nat) (s : State) : Host.Outcome State Fault Refusal :=
  act (.imemLoadDone id) settle (imemDone id) s

/-- IMEM_SWAP (R304). -/
def execImemSwap (q : Nat) (e : Bytes) (s : State) : Host.Outcome State Fault Refusal :=
  act (.imemSwap q e) settle (entryRow 0x22 0 q e) s

/-- IMEM_SWAP_APPLY (R304). -/
def execImemSwapApply (f : Nat) (s : State) : Host.Outcome State Fault Refusal :=
  act (.imemSwapApply f) settle (imemSwapApply f) s

/-- DISPATCH_ARRIVE (R266). -/
def execDispatchArrive (s : State) : Host.Outcome State Fault Refusal :=
  act .dispatchArrive settle dispatchArrive s

/-- DISPATCH_INBOX_RESERVE (R267). -/
def execDispatchInboxReserve (f : Nat) (s : State) : Host.Outcome State Fault Refusal :=
  act (.dispatchInboxReserve f) settle (inboxReserve f) s

/-- DISPATCH_ENQUEUE_RETRY (R266). -/
def execDispatchEnqueueRetry (f : Nat) (s : State) : Host.Outcome State Fault Refusal :=
  act (.dispatchEnqueueRetry f) settle (enqueueWaiting f) s

/-- FORGE_WRITE_FRAME (R265). -/
def execForgeWriteFrame (s : State) (errs : List MemErr := []) : Host.Outcome State Fault Refusal :=
  actMem (.forgeWriteFrame errs) errs settle forgeWriteFrame s

/-- FORGE_READ_REQ (R265). -/
def execForgeReadReq (s : State) (errs : List MemErr := []) : Host.Outcome State Fault Refusal :=
  actMem (.forgeReadReq errs) errs settle forgeReadReq s

/-- FORGE_READ_RSP (R265). -/
def execForgeReadRsp (s : State) (errs : List MemErr := []) : Host.Outcome State Fault Refusal :=
  actMem (.forgeReadRsp errs) errs settle forgeReadRsp s

/-- FORGE_NOTICE_RECEIVE (R265). -/
def execForgeNoticeReceive (s : State) : Host.Outcome State Fault Refusal :=
  act .forgeNoticeReceive settle forgeNoticeReceive s

/-- FORGE_COMMAND_START (R260). -/
def execForgeCommandStart (f : Nat) (st : Nat) (t : Nat) (s : State) : Host.Outcome State Fault Refusal :=
  act (.forgeCommandStart f st t) settle (commandStart f st t) s

/-- FORGE_COMMAND_END (R262). -/
def execForgeCommandEnd (f : Nat) (st : Nat) (t : Nat) (s : State) : Host.Outcome State Fault Refusal :=
  act (.forgeCommandEnd f st t) settle (commandEnd f st t) s

/-- COMMAND_OVERRUN (R262). -/
def execCommandOverrun (f : Nat) (st : Nat) (t : Nat) (s : State) : Host.Outcome State Fault Refusal :=
  act (.commandOverrun f st t) settle (commandOverrun f st t) s

/-- MOVER_COMPLETE (R284). -/
def execMoverComplete (f : Nat) (st : Nat) (t : Nat) (s : State) (errs : List MemErr := []) : Host.Outcome State Fault Refusal :=
  actMem (.moverComplete f st t errs) errs settle (moverComplete f st t) s

/-- FRAME_SENDER_POST (R268). -/
def execFrameSenderPost (f : Nat) (t : Nat) (s : State) : Host.Outcome State Fault Refusal :=
  act (.frameSenderPost f t) settle (frameSenderPost f t) s

/-- SEMAPHORE_WAIT_SATISFIED (R254). -/
def execSemaphoreWaitSatisfied (f : Nat) (st : Nat) (t : Nat) (s : State) : Host.Outcome State Fault Refusal :=
  act (.semaphoreWaitSatisfied f st t) settle (waitSatisfied f st t) s

/-- FORGE_QSEM_WRITE (R255). -/
def execForgeQsemWrite (f : Nat) (n : Nat) (v : BitVec 32) (s : State) : Host.Outcome State Fault Refusal :=
  act (.forgeQsemWrite f n v) settle (writeReg (oForge f + 0x400 + 4 * n) v.toNat) s

/-- FORGE_GSEM_WRITE (R255). -/
def execForgeGsemWrite (n : Nat) (v : BitVec 32) (s : State) : Host.Outcome State Fault Refusal :=
  act (.forgeGsemWrite n v) settle (writeReg (0x300800 + 4 * n) v.toNat) s

/-- FORGE_BIND_WRITE (R273). -/
def execForgeBindWrite (f : Nat) (i : Nat) (w : Nat) (v : BitVec 64) (s : State) : Host.Outcome State Fault Refusal :=
  act (.forgeBindWrite f i w v) settle (writeReg (oForge f + 0x1000 + 32 * i + 8 * w) v.toNat) s

/-- FORGE_DBG_RESUME (R302). -/
def execForgeDbgResume (f : Nat) (v : BitVec 64) (s : State) : Host.Outcome State Fault Refusal :=
  act (.forgeDbgResume f v) settle (writeReg (oForge f + 0x20) v.toNat) s

end Sys2Proof.Machine
end

