-- ==== Sys2Proof/Machine/RunHealth.lean ====
section
/-! DEFINITION. Meanings of the commands of health, membership and recovery. -/

namespace Sys2Proof.Machine

open Sys2Proof

/-- MEMBER_SET_FENCE (R420). -/
def execMemberSetFence (q : Nat) (e : Bytes) (s : State) : Host.Outcome State Fault Refusal :=
  act (.memberSetFence q e) settle (entryRow 0x60 0 q e) s

/-- MEMBER_SET_UNFENCE (R420). -/
def execMemberSetUnfence (q : Nat) (e : Bytes) (s : State) : Host.Outcome State Fault Refusal :=
  act (.memberSetUnfence q e) settle (entryRow 0x60 1 q e) s

/-- MEMBER_SET_FORGET (R396). -/
def execMemberSetForget (q : Nat) (e : Bytes) (s : State) : Host.Outcome State Fault Refusal :=
  act (.memberSetForget q e) settle (entryRow 0x60 2 q e) s

/-- MEMBER_SET_READY (R417). -/
def execMemberSetReady (q : Nat) (e : Bytes) (s : State) : Host.Outcome State Fault Refusal :=
  act (.memberSetReady q e) settle (entryRow 0x60 3 q e) s

/-- SELFTEST (R404). -/
def execSelftest (q : Nat) (e : Bytes) (s : State) : Host.Outcome State Fault Refusal :=
  act (.selftest q e) settle (entryRow 0x70 0 q e) s

/-- RECOVER_PORT (R408). -/
def execRecoverPort (q : Nat) (e : Bytes) (s : State) : Host.Outcome State Fault Refusal :=
  act (.recoverPort q e) settle (recoverRow 1 q e) s

/-- RECOVER_FORGE (R408). -/
def execRecoverForge (q : Nat) (e : Bytes) (s : State) : Host.Outcome State Fault Refusal :=
  act (.recoverForge q e) settle (recoverRow 2 q e) s

/-- RECOVER_BANK (R408). -/
def execRecoverBank (q : Nat) (e : Bytes) (s : State) : Host.Outcome State Fault Refusal :=
  act (.recoverBank q e) settle (recoverRow 3 q e) s

/-- RECOVER_UNIT (R408). -/
def execRecoverUnit (q : Nat) (e : Bytes) (s : State) : Host.Outcome State Fault Refusal :=
  act (.recoverUnit q e) settle (recoverRow 4 q e) s

/-- RECOVER_RESTORE (R409). -/
def execRecoverRestore (q : Nat) (e : Bytes) (s : State) : Host.Outcome State Fault Refusal :=
  act (.recoverRestore q e) settle (recoverRow 5 q e) s

/-- RECOVER_COPY (R411). -/
def execRecoverCopy (q : Nat) (e : Bytes) (s : State) : Host.Outcome State Fault Refusal :=
  act (.recoverCopy q e) settle (recoverRow 6 q e) s

/-- RECOVER_REJOIN (R418). -/
def execRecoverRejoin (q : Nat) (e : Bytes) (s : State) : Host.Outcome State Fault Refusal :=
  act (.recoverRejoin q e) settle (recoverRow 7 q e) s

/-- RECOVER_START_RETRY (R406). -/
def execRecoverStartRetry (q : Nat) (s : State) : Host.Outcome State Fault Refusal :=
  act (.recoverStartRetry q) settle (retryEntry q (isOp 0x71)) s

/-- RECOVERY_WAIT_SATISFIED (R408). -/
def execRecoveryWaitSatisfied (rid : Nat) (s : State) : Host.Outcome State Fault Refusal :=
  act (.recoveryWaitSatisfied rid) settle (seqWait rid) s

/-- COPY_REQ_RECEIVE (R411). -/
def execCopyReqReceive (s : State) : Host.Outcome State Fault Refusal :=
  act .copyReqReceive settle copyReqReceive s

/-- COPY_FRAME_RECEIVE (R411). -/
def execCopyFrameReceive (s : State) : Host.Outcome State Fault Refusal :=
  act .copyFrameReceive settle copyFrameReceive s

/-- COPY_SILENCE_TIMEOUT (R412). -/
def execCopySilenceTimeout (rid : Nat) (s : State) : Host.Outcome State Fault Refusal :=
  act (.copySilenceTimeout rid) settle (copySilence rid) s

/-- MGMT_NOTICE_RECEIVE (R412). -/
def execMgmtNoticeReceive (s : State) : Host.Outcome State Fault Refusal :=
  act .mgmtNoticeReceive settle mgmtNotice s

/-- HOURLY_SCORE_DECAY (R399). -/
def execHourlyScoreDecay (s : State) : Host.Outcome State Fault Refusal :=
  act .hourlyScoreDecay settle scoreDecay s

/-- SUSPECT_HOURLY_TEST (R400). -/
def execSuspectHourlyTest (kind : Nat) (idx : Nat) (s : State) : Host.Outcome State Fault Refusal :=
  act (.suspectHourlyTest kind idx) settle (suspectTest kind idx) s

/-- SELFTEST_RUN (R401). -/
def execSelftestRun (kind : Nat) (idx : Nat) (s : State) : Host.Outcome State Fault Refusal :=
  act (.selftestRun kind idx) settle (selftestRun kind idx) s

/-- SELFTEST_DONE (R402). -/
def execSelftestDone (kind : Nat) (idx : Nat) (pass : Bool) (failed : List Nat) (s : State) : Host.Outcome State Fault Refusal :=
  act (.selftestDone kind idx pass failed) settle (selftestDone kind idx pass failed) s

end Sys2Proof.Machine
end

