-- ==== Sys2Proof/Machine/RunIns.lean ====
section
/-! DEFINITION. Meanings of the commands of the Forge instruction set. -/

namespace Sys2Proof.Machine

open Sys2Proof

/-- NOP_INSTRUCTION (R286). -/
def execNopInstruction (f : Nat) (st : Nat) (t : Nat) (s : State) : Host.Outcome State Fault Refusal :=
  act (.nopInstruction f st t) settle (nopRow f st t) s

/-- END (R286). -/
def execEndInstr (f : Nat) (st : Nat) (t : Nat) (s : State) : Host.Outcome State Fault Refusal :=
  act (.endInstr f st t) settle (instr 0x01 allStreams endIns f st t) s

/-- REP (R282). -/
def execRep (f : Nat) (st : Nat) (t : Nat) (s : State) : Host.Outcome State Fault Refusal :=
  act (.rep f st t) settle (instr 0x02 allStreams repIns f st t) s

/-- BR (R286). -/
def execBr (f : Nat) (st : Nat) (t : Nat) (s : State) : Host.Outcome State Fault Refusal :=
  act (.br f st t) settle (instr 0x03 allStreams brIns f st t) s

/-- MOVI (R286). -/
def execMovi (f : Nat) (st : Nat) (t : Nat) (s : State) : Host.Outcome State Fault Refusal :=
  act (.movi f st t) settle (instr 0x04 allStreams moviIns f st t) s

/-- ADD (R278). -/
def execAdd (f : Nat) (st : Nat) (t : Nat) (s : State) : Host.Outcome State Fault Refusal :=
  act (.add f st t) settle (instr 0x05 allStreams addIns f st t) s

/-- SUB (R278). -/
def execSub (f : Nat) (st : Nat) (t : Nat) (s : State) : Host.Outcome State Fault Refusal :=
  act (.sub f st t) settle (instr 0x06 allStreams subIns f st t) s

/-- AND (R286). -/
def execAndS (f : Nat) (st : Nat) (t : Nat) (s : State) : Host.Outcome State Fault Refusal :=
  act (.andS f st t) settle (instr 0x07 allStreams andIns f st t) s

/-- OR (R286). -/
def execOrS (f : Nat) (st : Nat) (t : Nat) (s : State) : Host.Outcome State Fault Refusal :=
  act (.orS f st t) settle (instr 0x08 allStreams orIns f st t) s

/-- XOR (R286). -/
def execXorS (f : Nat) (st : Nat) (t : Nat) (s : State) : Host.Outcome State Fault Refusal :=
  act (.xorS f st t) settle (instr 0x09 allStreams xorIns f st t) s

/-- SHL (R286). -/
def execShl (f : Nat) (st : Nat) (t : Nat) (s : State) : Host.Outcome State Fault Refusal :=
  act (.shl f st t) settle (instr 0x0A allStreams shlIns f st t) s

/-- SHR (R286). -/
def execShr (f : Nat) (st : Nat) (t : Nat) (s : State) : Host.Outcome State Fault Refusal :=
  act (.shr f st t) settle (instr 0x0B allStreams shrIns f st t) s

/-- SRA (R286). -/
def execSra (f : Nat) (st : Nat) (t : Nat) (s : State) : Host.Outcome State Fault Refusal :=
  act (.sra f st t) settle (instr 0x0C allStreams sraIns f st t) s

/-- SETC (R286). -/
def execSetc (f : Nat) (st : Nat) (t : Nat) (s : State) : Host.Outcome State Fault Refusal :=
  act (.setc f st t) settle (instr 0x0D allStreams setcIns f st t) s

/-- ASET (R286). -/
def execAset (f : Nat) (st : Nat) (t : Nat) (s : State) : Host.Outcome State Fault Refusal :=
  act (.aset f st t) settle (instr 0x10 allStreams asetIns f st t) s

/-- AADD (R286). -/
def execAadd (f : Nat) (st : Nat) (t : Nat) (s : State) : Host.Outcome State Fault Refusal :=
  act (.aadd f st t) settle (instr 0x11 allStreams aaddIns f st t) s

/-- ASTR (R286). -/
def execAstr (f : Nat) (st : Nat) (t : Nat) (s : State) : Host.Outcome State Fault Refusal :=
  act (.astr f st t) settle (instr 0x12 allStreams astrIns f st t) s

/-- AGET (R286). -/
def execAget (f : Nat) (st : Nat) (t : Nat) (s : State) : Host.Outcome State Fault Refusal :=
  act (.aget f st t) settle (instr 0x13 allStreams agetIns f st t) s

/-- LDS (R286). -/
def execLds (f : Nat) (st : Nat) (t : Nat) (s : State) : Host.Outcome State Fault Refusal :=
  act (.lds f st t) settle (instr 0x14 allStreams ldsIns f st t) s

/-- STS (R286). -/
def execSts (f : Nat) (st : Nat) (t : Nat) (s : State) : Host.Outcome State Fault Refusal :=
  act (.sts f st t) settle (instr 0x15 allStreams stsIns f st t) s

/-- POST (R254). -/
def execPost (f : Nat) (st : Nat) (t : Nat) (s : State) : Host.Outcome State Fault Refusal :=
  act (.post f st t) settle (instr 0x18 allStreams postIns f st t) s

/-- WAIT (R253). -/
def execWait (f : Nat) (st : Nat) (t : Nat) (s : State) : Host.Outcome State Fault Refusal :=
  act (.wait f st t) settle (instr 0x19 allStreams waitIns f st t) s

/-- ENQ (R257). -/
def execEnq (f : Nat) (st : Nat) (t : Nat) (s : State) : Host.Outcome State Fault Refusal :=
  act (.enq f st t) settle (instr 0x1A allStreams enqIns f st t) s

/-- QD (R259). -/
def execQd (f : Nat) (st : Nat) (t : Nat) (s : State) : Host.Outcome State Fault Refusal :=
  act (.qd f st t) settle (instr 0x1B allStreams qdIns f st t) s

/-- ID (R286). -/
def execId (f : Nat) (st : Nat) (t : Nat) (s : State) : Host.Outcome State Fault Refusal :=
  act (.id f st t) settle (instr 0x1C allStreams idIns f st t) s

/-- FLG (R286). -/
def execFlg (f : Nat) (st : Nat) (t : Nat) (s : State) : Host.Outcome State Fault Refusal :=
  act (.flg f st t) settle (instr 0x1D allStreams flgIns f st t) s

/-- VLD (R287). -/
def execVld (f : Nat) (st : Nat) (t : Nat) (s : State) : Host.Outcome State Fault Refusal :=
  act (.vld f st t) settle (instr 0x20 [2] vldIns f st t) s

/-- VST (R287). -/
def execVst (f : Nat) (st : Nat) (t : Nat) (s : State) : Host.Outcome State Fault Refusal :=
  act (.vst f st t) settle (instr 0x21 [2] vstIns f st t) s

/-- VBC (R287). -/
def execVbc (f : Nat) (st : Nat) (t : Nat) (s : State) : Host.Outcome State Fault Refusal :=
  act (.vbc f st t) settle (instr 0x22 [2] vbcIns f st t) s

/-- VADD (R287). -/
def execVadd (f : Nat) (st : Nat) (t : Nat) (s : State) : Host.Outcome State Fault Refusal :=
  act (.vadd f st t) settle (instr 0x23 [2] vaddIns f st t) s

/-- VSUB (R287). -/
def execVsub (f : Nat) (st : Nat) (t : Nat) (s : State) : Host.Outcome State Fault Refusal :=
  act (.vsub f st t) settle (instr 0x24 [2] vsubIns f st t) s

/-- VMUL (R287). -/
def execVmul (f : Nat) (st : Nat) (t : Nat) (s : State) : Host.Outcome State Fault Refusal :=
  act (.vmul f st t) settle (instr 0x25 [2] vmulIns f st t) s

/-- VFMA (R287). -/
def execVfma (f : Nat) (st : Nat) (t : Nat) (s : State) : Host.Outcome State Fault Refusal :=
  act (.vfma f st t) settle (instr 0x26 [2] vfmaIns f st t) s

/-- VIADD (R287). -/
def execViadd (f : Nat) (st : Nat) (t : Nat) (s : State) : Host.Outcome State Fault Refusal :=
  act (.viadd f st t) settle (instr 0x27 [2] viaddIns f st t) s

/-- VISUB (R287). -/
def execVisub (f : Nat) (st : Nat) (t : Nat) (s : State) : Host.Outcome State Fault Refusal :=
  act (.visub f st t) settle (instr 0x28 [2] visubIns f st t) s

/-- VIMIN (R287). -/
def execVimin (f : Nat) (st : Nat) (t : Nat) (s : State) : Host.Outcome State Fault Refusal :=
  act (.vimin f st t) settle (instr 0x29 [2] viminIns f st t) s

/-- VIMAX (R287). -/
def execVimax (f : Nat) (st : Nat) (t : Nat) (s : State) : Host.Outcome State Fault Refusal :=
  act (.vimax f st t) settle (instr 0x2A [2] vimaxIns f st t) s

/-- VICMP (R287). -/
def execVicmp (f : Nat) (st : Nat) (t : Nat) (s : State) : Host.Outcome State Fault Refusal :=
  act (.vicmp f st t) settle (instr 0x2B [2] vicmpIns f st t) s

/-- VCVT (R288). -/
def execVcvt (f : Nat) (st : Nat) (t : Nat) (s : State) : Host.Outcome State Fault Refusal :=
  act (.vcvt f st t) settle (instr 0x2C [2] vcvtIns f st t) s

/-- VAND (R287). -/
def execVand (f : Nat) (st : Nat) (t : Nat) (s : State) : Host.Outcome State Fault Refusal :=
  act (.vand f st t) settle (instr 0x2D [2] vandIns f st t) s

/-- VOR (R287). -/
def execVor (f : Nat) (st : Nat) (t : Nat) (s : State) : Host.Outcome State Fault Refusal :=
  act (.vor f st t) settle (instr 0x2E [2] vorIns f st t) s

/-- VXOR (R287). -/
def execVxor (f : Nat) (st : Nat) (t : Nat) (s : State) : Host.Outcome State Fault Refusal :=
  act (.vxor f st t) settle (instr 0x2F [2] vxorIns f st t) s

/-- VSEL (R287). -/
def execVsel (f : Nat) (st : Nat) (t : Nat) (s : State) : Host.Outcome State Fault Refusal :=
  act (.vsel f st t) settle (instr 0x30 [2] vselIns f st t) s

/-- MOV (R290). -/
def execMov (f : Nat) (st : Nat) (t : Nat) (s : State) : Host.Outcome State Fault Refusal :=
  act (.mov f st t) settle (movRow f st t) s

/-- WLD (R291). -/
def execWld (f : Nat) (st : Nat) (t : Nat) (s : State) : Host.Outcome State Fault Refusal :=
  act (.wld f st t) settle (moverRow 0x41 0 wldIns f st t) s

/-- RDR (R292). -/
def execRdr (f : Nat) (st : Nat) (t : Nat) (s : State) : Host.Outcome State Fault Refusal :=
  act (.rdr f st t) settle (moverRow 0x51 1 rdrIns f st t) s

/-- SEND_INSTRUCTION (R294). -/
def execSendInstruction (f : Nat) (st : Nat) (t : Nat) (s : State) : Host.Outcome State Fault Refusal :=
  act (.sendInstruction f st t) settle (instr 0x52 [1] sendIns f st t) s

/-- TLD (R295). -/
def execTld (f : Nat) (st : Nat) (t : Nat) (s : State) : Host.Outcome State Fault Refusal :=
  act (.tld f st t) settle (instr Config.opTld.toNat [3, 4] tldIns f st t) s

/-- MMA (R296). -/
def execMma (f : Nat) (st : Nat) (t : Nat) (s : State) : Host.Outcome State Fault Refusal :=
  act (.mma f st t) settle (instr Config.opMma.toNat [3, 4] mmaIns f st t) s

/-- TNORM (R324). -/
def execTnorm (f : Nat) (st : Nat) (t : Nat) (s : State) : Host.Outcome State Fault Refusal :=
  act (.tnorm f st t) settle (instr 0x70 [5] tnormIns f st t) s

/-- TSMAX (R324). -/
def execTsmax (f : Nat) (st : Nat) (t : Nat) (s : State) : Host.Outcome State Fault Refusal :=
  act (.tsmax f st t) settle (instr 0x71 [5] tsmaxIns f st t) s

/-- TNORMB (R325). -/
def execTnormb (f : Nat) (st : Nat) (t : Nat) (s : State) : Host.Outcome State Fault Refusal :=
  act (.tnormb f st t) settle (instr 0x72 [5] tnormbIns f st t) s

/-- TSMAXB (R325). -/
def execTsmaxb (f : Nat) (st : Nat) (t : Nat) (s : State) : Host.Outcome State Fault Refusal :=
  act (.tsmaxb f st t) settle (instr 0x73 [5] tsmaxbIns f st t) s

end Sys2Proof.Machine
end

