-- ==== Sys2Proof/Machine/RunLink.lean ====
section
/-! DEFINITION. Meanings of the commands of the Swath, ports, links and the edge. -/

namespace Sys2Proof.Machine

open Sys2Proof

/-- SWATH_BOUNDARY (R28). -/
def execSwathBoundary (s : State) : Host.Outcome State Fault Refusal :=
  act .swathBoundary settle swathBoundary s

/-- SWATH_CFG_WRITE (R26). -/
def execSwathCfgWrite (v : BitVec 32) (s : State) : Host.Outcome State Fault Refusal :=
  act (.swathCfgWrite v) settle (writeReg 0x40000 v.toNat) s

/-- SWATH_REALIGN (R500). -/
def execSwathRealign (v : BitVec 32) (s : State) : Host.Outcome State Fault Refusal :=
  act (.swathRealign v) settle (writeReg 0x40000 (setBits v.toNat 16 1 1)) s

/-- RETRAIN_WINDOW_START (R40). -/
def execRetrainWindowStart (s : State) : Host.Outcome State Fault Refusal :=
  act .retrainWindowStart settle windowStart s

/-- RETRAIN_WINDOW_END (R342). -/
def execRetrainWindowEnd (pass : Bool) (s : State) : Host.Outcome State Fault Refusal :=
  act (.retrainWindowEnd pass) settle (windowEnd pass) s

/-- MARKER_RECEIVE (R112). -/
def execMarkerReceive (lp : Nat) (arr : Int) (u : Bytes) (s : State) : Host.Outcome State Fault Refusal :=
  act (.markerReceive lp arr u) settle (recvMarker lp arr u) s

/-- SWATH_ALIGN_LOST (R32). -/
def execSwathAlignLost (lp : Nat) (s : State) : Host.Outcome State Fault Refusal :=
  act (.swathAlignLost lp) settle (alignLost lp) s

/-- NEIGHBOUR_UNREACHABLE (R113). -/
def execNeighbourUnreachable (lp : Nat) (s : State) : Host.Outcome State Fault Refusal :=
  act (.neighbourUnreachable lp) settle (unreachable lp) s

/-- HOLD_EXPIRY (R131). -/
def execHoldExpiry (lp : Nat) (s : State) : Host.Outcome State Fault Refusal :=
  act (.holdExpiry lp) settle (holdExpiry lp) s

/-- PORT_ENABLE (R130). -/
def execPortEnable (p : Nat) (v : BitVec 32) (s : State) : Host.Outcome State Fault Refusal :=
  act (.portEnable p v) settle (writeReg (oPortCfg p) (setBits v.toNat 0 1 1)) s

/-- PORT_DISABLE (R130). -/
def execPortDisable (p : Nat) (v : BitVec 32) (s : State) : Host.Outcome State Fault Refusal :=
  act (.portDisable p v) settle (writeReg (oPortCfg p) (setBits v.toNat 0 1 0)) s

/-- PORT_TRAINED (R130). -/
def execPortTrained (lp : Nat) (s : State) : Host.Outcome State Fault Refusal :=
  act (.portTrained lp) settle (portTrained lp) s

/-- LINK_SIGNAL_LOSS (R130). -/
def execLinkSignalLoss (lp : Nat) (s : State) : Host.Outcome State Fault Refusal :=
  act (.linkSignalLoss lp) settle (signalLoss lp) s

/-- FEC_UNCORRECTABLE (R99). -/
def execFecUncorrectable (lp : Nat) (lane : Option Nat) (s : State) : Host.Outcome State Fault Refusal :=
  act (.fecUncorrectable lp lane) settle (fecLoss lp lane) s

/-- CELL_UNIT_RECEIVE (R108). -/
def execCellUnitReceive (lp : Nat) (u : Bytes) (s : State) : Host.Outcome State Fault Refusal :=
  act (.cellUnitReceive lp u) settle (recvUnit lp u) s

/-- IDLE_ADAPT_UNIT_RECEIVE (R108). -/
def execIdleAdaptUnitReceive (lp : Nat) (u : Bytes) (s : State) : Host.Outcome State Fault Refusal :=
  act (.idleAdaptUnitReceive lp u) settle (recvUnit lp u) s

/-- REPLAY_RECEIVE (R109). -/
def execReplayReceive (lp : Nat) (u : Bytes) (s : State) : Host.Outcome State Fault Refusal :=
  act (.replayReceive lp u) settle (recvUnit lp u) s

/-- REPLAY_REPEAT (R108). -/
def execReplayRepeat (lp : Nat) (s : State) : Host.Outcome State Fault Refusal :=
  act (.replayRepeat lp) settle (replayRepeat lp) s

/-- UNIT_OPPORTUNITY (R104). -/
def execUnitOpportunity (lp : Nat) (s : State) : Host.Outcome State Fault Refusal :=
  act (.unitOpportunity lp) settle (unitOpp lp) s

/-- CROSSBAR_SLOT (R141). -/
def execCrossbarSlot (s : State) : Host.Outcome State Fault Refusal :=
  act .crossbarSlot settle crossbarSlot s

/-- CREDIT_LEND (R149). -/
def execCreditLend (lp : Nat) (vc : Nat) (s : State) : Host.Outcome State Fault Refusal :=
  act (.creditLend lp vc) settle (creditLend lp vc) s

/-- BUFFER_LEND_RETRY (R150). -/
def execBufferLendRetry (x : Nat) (vc : Nat) (s : State) : Host.Outcome State Fault Refusal :=
  act (.bufferLendRetry x vc) settle (lendRetry x vc) s

/-- BPM_MODE_WRITE (R154). -/
def execBpmModeWrite (v : BitVec 32) (s : State) : Host.Outcome State Fault Refusal :=
  act (.bpmModeWrite v) settle (writeReg 0x1C0000 v.toNat) s

/-- BPM_SPILL_DRAINED (R154). -/
def execBpmSpillDrained (s : State) : Host.Outcome State Fault Refusal :=
  act .bpmSpillDrained settle spillDrained s

/-- EDGE_FRAME_RECEIVE (R123). -/
def execEdgeFrameReceive (lp : Nat) (u : Bytes) (s : State) : Host.Outcome State Fault Refusal :=
  act (.edgeFrameReceive lp u) settle (edgeReceive lp u) s

/-- PFC_REPEAT (R125). -/
def execPfcRepeat (lp : Nat) (tc : Nat) (s : State) : Host.Outcome State Fault Refusal :=
  act (.pfcRepeat lp tc) settle (pfcRepeat lp tc) s

/-- PFC_FRAME_RECEIVE (R127). -/
def execPfcFrameReceive (lp : Nat) (u : Bytes) (s : State) : Host.Outcome State Fault Refusal :=
  act (.pfcFrameReceive lp u) settle (pfcTake lp u) s

/-- PFC_PAUSE_EXPIRY (R127). -/
def execPfcPauseExpiry (lp : Nat) (tc : Nat) (s : State) : Host.Outcome State Fault Refusal :=
  act (.pfcPauseExpiry lp tc) settle (pfcExpire lp tc) s

/-- REASSEMBLY_DEADLINE (R167). -/
def execReassemblyDeadline (n : Nat) (s : State) : Host.Outcome State Fault Refusal :=
  act (.reassemblyDeadline n) settle (reasmTimeout n) s

end Sys2Proof.Machine
end

