-- ==== Sys2Proof/Machine/RunMem.lean ====
section
/-! DEFINITION. Meanings of the commands of adapters and GDDR7. -/

namespace Sys2Proof.Machine

open Sys2Proof

/-- MICRO_BATCH_OPEN_RETRY (R313). -/
def execMicroBatchOpenRetry (q : Nat) (s : State) : Host.Outcome State Fault Refusal :=
  act (.microBatchOpenRetry q) settle (retryEntry q (isOp 0x20)) s

/-- ADAPTER_DEFINE (R311). -/
def execAdapterDefine (q : Nat) (e : Bytes) (s : State) (errs : List MemErr := []) : Host.Outcome State Fault Refusal :=
  actMem (.adapterDefine q e errs) errs settle (entryRow 0x28 0 q e) s

/-- ADAPTER_STEP (R319). -/
def execAdapterStep (q : Nat) (e : Bytes) (s : State) : Host.Outcome State Fault Refusal :=
  act (.adapterStep q e) settle (entryRow 0x28 1 q e) s

/-- ADAPTER_CLEAR (R311). -/
def execAdapterClear (q : Nat) (e : Bytes) (s : State) : Host.Outcome State Fault Refusal :=
  act (.adapterClear q e) settle (entryRow 0x28 2 q e) s

/-- STEP_ACCEPT_RETRY (R319). -/
def execStepAcceptRetry (q : Nat) (s : State) : Host.Outcome State Fault Refusal :=
  act (.stepAcceptRetry q) settle (retryEntry q (isOpMode 0x28 1)) s

/-- UPDATE_APPLY_START (R320). -/
def execUpdateApplyStart (slot : Nat) (s : State) (errs : List MemErr := []) : Host.Outcome State Fault Refusal :=
  actMem (.updateApplyStart slot errs) errs settle (updateStart slot) s

/-- UPDATE_APPLY_DONE (R320). -/
def execUpdateApplyDone (slot : Nat) (s : State) : Host.Outcome State Fault Refusal :=
  act (.updateApplyDone slot) settle (updateDone slot) s

/-- BIAS_FLIP_DEVICE (R344). -/
def execBiasFlipDevice (q : Nat) (e : Bytes) (s : State) : Host.Outcome State Fault Refusal :=
  act (.biasFlipDevice q e) settle (entryRow 0x29 0 q e) s

/-- BIAS_FLIP_HOST (R344). -/
def execBiasFlipHost (q : Nat) (e : Bytes) (s : State) : Host.Outcome State Fault Refusal :=
  act (.biasFlipHost q e) settle (entryRow 0x29 1 q e) s

/-- BIAS_FLIP_DRAINED (R344). -/
def execBiasFlipDrained (id : Nat) (s : State) : Host.Outcome State Fault Refusal :=
  act (.biasFlipDrained id) settle (flipDrained id) s

/-- BANK_REFRESH (R328). -/
def execBankRefresh (d : Nat) (bank : Nat) (s : State) : Host.Outcome State Fault Refusal :=
  act (.bankRefresh d bank) settle (bankRefresh d bank) s

/-- PATROL_SCRUB_READ (R336). -/
def execPatrolScrubRead (d : Nat) (errs : List MemErr) (s : State) : Host.Outcome State Fault Refusal :=
  actMem (.patrolScrubRead d errs) errs settle (patrolRead d) s

/-- REMAP_COPY_DONE (R340). -/
def execRemapCopyDone (d : Nat) (i : Nat) (s : State) (errs : List MemErr := []) : Host.Outcome State Fault Refusal :=
  actMem (.remapCopyDone d i errs) errs settle (remapDone d i) s

/-- CXL_MEM_READ (R345). -/
def execCxlMemRead (dpa : Nat) (s : State) (errs : List MemErr := []) : Host.Outcome State Fault Refusal :=
  actMem (.cxlMemRead dpa errs) errs settle (cxlRead dpa) s

/-- CXL_MEM_WRITE (R345). -/
def execCxlMemWrite (dpa : Nat) (data : Bytes) (s : State) (errs : List MemErr := []) : Host.Outcome State Fault Refusal :=
  actMem (.cxlMemWrite dpa data errs) errs settle (cxlWrite dpa data) s

/-- HDM_DECODER_COMMIT (R474). -/
def execHdmDecoderCommit (base : Nat) (size : Nat) (ways : Nat) (s : State) : Host.Outcome State Fault Refusal :=
  act (.hdmDecoderCommit base size ways) settle (hdmCommit base size ways) s

end Sys2Proof.Machine
end

