-- ==== Sys2Proof/Machine/RunPower.lean ====
section
/-! DEFINITION. Meanings of the commands of start-up, resets, module power and security. -/

namespace Sys2Proof.Machine

open Sys2Proof

/-- INPUT_POWER_RISE (R487). -/
def execInputPowerRise (s : State) : Host.Outcome State Fault Refusal :=
  actPower .inputPowerRise settle powerRise s

/-- RAIL_SEQUENCING (R488). -/
def execRailSequencing (carrier : Bool) (s : State) : Host.Outcome State Fault Refusal :=
  actPower (.railSequencing carrier) settle (railsUp carrier) s

/-- INPUT_POWER_LOSS (R487). -/
def execInputPowerLoss (s : State) : Host.Outcome State Fault Refusal :=
  actPower .inputPowerLoss settle powerLoss s

/-- THERMAL_TRIP (R448). -/
def execThermalTrip (temps : List Int) (s : State) : Host.Outcome State Fault Refusal :=
  actPower (.thermalTrip temps) settle (thermalTrip temps) s

/-- TRIP_EXIT (R487). -/
def execTripExit (s : State) : Host.Outcome State Fault Refusal :=
  actPower .tripExit settle tripExit s

/-- THERMAL_WARN (R448). -/
def execThermalWarn (temps : List Int) (s : State) : Host.Outcome State Fault Refusal :=
  act (.thermalWarn temps) settle (thermalWarn temps) s

/-- PERST_ASSERT (R489). -/
def execPerstAssert (s : State) : Host.Outcome State Fault Refusal :=
  act .perstAssert settle (resetNow 2) s

/-- PERST_RELEASE (R489). -/
def execPerstRelease (s : State) : Host.Outcome State Fault Refusal :=
  act .perstRelease settle perstRelease s

/-- MODULE_RESET (R415). -/
def execModuleReset (kind : Nat) (s : State) : Host.Outcome State Fault Refusal :=
  act (.moduleReset kind) settle (resetNow kind) s

/-- FIRMWARE_VERIFY (R437). -/
def execFirmwareVerify (s : State) : Host.Outcome State Fault Refusal :=
  act .firmwareVerify settle firmwareVerify s

/-- CAL_RECORD_LOAD (R432). -/
def execCalRecordLoad (s : State) : Host.Outcome State Fault Refusal :=
  act .calRecordLoad settle calLoad s

/-- GDDR7_BOOT_TRAINING (R341). -/
def execGddr7BootTraining (pass : BitVec 16) (s : State) : Host.Outcome State Fault Refusal :=
  act (.gddr7BootTraining pass) settle (memTraining pass) s

/-- CXL_LINK_UP (R426). -/
def execCxlLinkUp (width : Nat) (speed : Nat) (proto : Bool) (s : State) : Host.Outcome State Fault Refusal :=
  act (.cxlLinkUp width speed proto) settle (cxlLinkUp width speed proto) s

/-- HOSTLESS_TIMEOUT (R472). -/
def execHostlessTimeout (s : State) : Host.Outcome State Fault Refusal :=
  act .hostlessTimeout settle hostlessTimeout s

/-- CONFIG_REQUEST (R426). -/
def execConfigRequest (s : State) : Host.Outcome State Fault Refusal :=
  act .configRequest settle configRequest s

/-- FALLOW_DISCOVERY (R348). -/
def execFallowDiscovery (targets : List FlashTarget) (s : State) : Host.Outcome State Fault Refusal :=
  act (.fallowDiscovery targets) settle (discovery targets) s

/-- SVN_ADVANCED (R441). -/
def execSvnAdvanced (s : State) : Host.Outcome State Fault Refusal :=
  act .svnAdvanced settle svnAdvance s

/-- MGMT_WATCHDOG_EXPIRY (R405). -/
def execMgmtWatchdogExpiry (s : State) : Host.Outcome State Fault Refusal :=
  act .mgmtWatchdogExpiry settle mgmtReset s

/-- MGMT_CORE_RESET (R405). -/
def execMgmtCoreReset (s : State) : Host.Outcome State Fault Refusal :=
  act .mgmtCoreReset settle mgmtReset s

/-- HOST_LINK_RESET (R416). -/
def execHostLinkReset (s : State) : Host.Outcome State Fault Refusal :=
  act .hostLinkReset settle hostLinkReset s

/-- CAL_WRITE_CALIBRATION (R434). -/
def execCalWriteCalibration (q : Nat) (e : Bytes) (s : State) : Host.Outcome State Fault Refusal :=
  act (.calWriteCalibration q e) settle (entryRow 0x72 0 q e) s

/-- CAL_WRITE_FIRMWARE (R439). -/
def execCalWriteFirmware (q : Nat) (e : Bytes) (s : State) : Host.Outcome State Fault Refusal :=
  act (.calWriteFirmware q e) settle (entryRow 0x72 1 q e) s

/-- CAL_WRITE_FUSE_ACTION (R443). -/
def execCalWriteFuseAction (q : Nat) (e : Bytes) (s : State) : Host.Outcome State Fault Refusal :=
  act (.calWriteFuseAction q e) settle (entryRow 0x72 2 q e) s

/-- CAL_WRITE_DEBUG_UNLOCK (R444). -/
def execCalWriteDebugUnlock (q : Nat) (e : Bytes) (s : State) : Host.Outcome State Fault Refusal :=
  act (.calWriteDebugUnlock q e) settle (entryRow 0x72 3 q e) s

/-- CAL_WRITE_RETRY (R433). -/
def execCalWriteRetry (s : State) : Host.Outcome State Fault Refusal :=
  act .calWriteRetry settle calRetry s

/-- SPDM_REQUEST (R445). -/
def execSpdmRequest (req : Bytes) (s : State) : Host.Outcome State Fault Refusal :=
  act (.spdmRequest req) settle (spdmRequest req) s

/-- GLB_RESET_MODULE (R471). -/
def execGlbResetModule (v : BitVec 32) (s : State) : Host.Outcome State Fault Refusal :=
  act (.glbResetModule v) settle (writeReg 0x10 (setBits v.toNat 0 1 1)) s

/-- GLB_RESET_MGMT (R471). -/
def execGlbResetMgmt (v : BitVec 32) (s : State) : Host.Outcome State Fault Refusal :=
  act (.glbResetMgmt v) settle (writeReg 0x10 (setBits v.toNat 1 1 1)) s

/-- GLB_NODE_WRITE (R471). -/
def execGlbNodeWrite (v : BitVec 32) (s : State) : Host.Outcome State Fault Refusal :=
  act (.glbNodeWrite v) settle (writeReg 0x08 v.toNat) s

end Sys2Proof.Machine
end

