-- ==== Sys2Proof/Machine/RunRings.lean ====
section
/-! DEFINITION. Meanings of the commands of rings, doorbells and frames of the host. -/

namespace Sys2Proof.Machine

open Sys2Proof

/-- SEQUENCED_FRAME_ACCEPT (R394). -/
def execSequencedFrameAccept (s : State) : Host.Outcome State Fault Refusal :=
  act .sequencedFrameAccept settle sequencedAccept s

/-- ACK_RECEIVE (R395). -/
def execAckReceive (s : State) : Host.Outcome State Fault Refusal :=
  act .ackReceive settle ackReceive s

/-- ACK_TIMEOUT (R395). -/
def execAckTimeout (id : Nat) (s : State) : Host.Outcome State Fault Refusal :=
  act (.ackTimeout id) settle (ackTimeout id) s

/-- HOSTQ_RECV_DELIVER (R388). -/
def execHostqRecvDeliver (q : Nat) (s : State) : Host.Outcome State Fault Refusal :=
  act (.hostqRecvDeliver q) settle (hostDeliver q) s

/-- NOTICE_RECEIVE (R379). -/
def execNoticeReceive (s : State) : Host.Outcome State Fault Refusal :=
  act .noticeReceive settle noticeReceive s

/-- READ_RSP_RECEIVE (R387). -/
def execReadRspReceive (s : State) : Host.Outcome State Fault Refusal :=
  act .readRspReceive settle readRsp s

/-- READ_TIMEOUT (R387). -/
def execReadTimeout (id : Nat) (s : State) : Host.Outcome State Fault Refusal :=
  act (.readTimeout id) settle (readTimeout id) s

/-- SQ_TAIL_DOORBELL (R381). -/
def execSqTailDoorbell (q : Nat) (v : BitVec 32) (img : List (Nat × Byte)) (s : State) : Host.Outcome State Fault Refusal :=
  act (.sqTailDoorbell q v img) settle (tailDoorbellRow q v.toNat img) s

/-- CQ_HEAD_DOORBELL (R380). -/
def execCqHeadDoorbell (c : Nat) (v : BitVec 32) (s : State) : Host.Outcome State Fault Refusal :=
  act (.cqHeadDoorbell c v) settle (cqHead c v.toNat) s

/-- EQ_HEAD_DOORBELL (R381). -/
def execEqHeadDoorbell (v : BitVec 32) (s : State) : Host.Outcome State Fault Refusal :=
  act (.eqHeadDoorbell v) settle (eqHead v.toNat) s

/-- WATCHED_TAIL_SNOOP (R382). -/
def execWatchedTailSnoop (q : Nat) (v : BitVec 32) (img : List (Nat × Byte)) (s : State) : Host.Outcome State Fault Refusal :=
  act (.watchedTailSnoop q v img) settle (watchedSnoopRow q v.toNat img) s

/-- WATCHED_TAIL_POLL (R382). -/
def execWatchedTailPoll (q : Nat) (s : State) : Host.Outcome State Fault Refusal :=
  act (.watchedTailPoll q) settle (watchedRead q) s

/-- SQ_ENTRY_ACCEPT (R375). -/
def execSqEntryAccept (q : Nat) (s : State) : Host.Outcome State Fault Refusal :=
  act (.sqEntryAccept q) settle (sqAccept q) s

/-- RING_ENABLE (R397). -/
def execRingEnable (r : Nat) (v : BitVec 64) (s : State) : Host.Outcome State Fault Refusal :=
  act (.ringEnable r v) settle (ringCtl r (setBits v.toNat (if r < 64 then 11 else 12) 1 1)) s

/-- SQ_DISABLE (R397). -/
def execSqDisable (q : Nat) (v : BitVec 64) (s : State) : Host.Outcome State Fault Refusal :=
  act (.sqDisable q v) settle (ringCtl q (setBits v.toNat 11 1 0)) s

/-- SEND (R387). -/
def execSend (q : Nat) (e : Bytes) (s : State) : Host.Outcome State Fault Refusal :=
  act (.send q e) settle (entryRow 0x01 0 q e) s

/-- RECV_POST (R388). -/
def execRecvPost (q : Nat) (e : Bytes) (s : State) : Host.Outcome State Fault Refusal :=
  act (.recvPost q e) settle (entryRow 0x02 0 q e) s

/-- READ (R387). -/
def execRead (q : Nat) (e : Bytes) (s : State) : Host.Outcome State Fault Refusal :=
  act (.read q e) settle (entryRow 0x03 0 q e) s

/-- WRITE (R387). -/
def execWrite (q : Nat) (e : Bytes) (s : State) : Host.Outcome State Fault Refusal :=
  act (.write q e) settle (entryRow 0x04 0 q e) s

/-- FENCE (R392). -/
def execFence (q : Nat) (e : Bytes) (s : State) : Host.Outcome State Fault Refusal :=
  act (.fence q e) settle (entryRow 0x50 0 q e) s

/-- FENCE_COMPLETE (R392). -/
def execFenceComplete (q : Nat) (s : State) : Host.Outcome State Fault Refusal :=
  act (.fenceComplete q) settle (retryEntry q (isOp 0x50)) s

/-- NOP (R392). -/
def execNop (q : Nat) (e : Bytes) (s : State) : Host.Outcome State Fault Refusal :=
  act (.nop q e) settle (entryRow 0x51 0 q e) s

end Sys2Proof.Machine
end

