-- ==== Sys2Proof/Machine/RunStore.lean ====
section
/-! DEFINITION. Meanings of the commands of the Fallow store. -/

namespace Sys2Proof.Machine

open Sys2Proof

/-- IMG_READ (R360). -/
def execImgRead (q : Nat) (e : Bytes) (s : State) : Host.Outcome State Fault Refusal :=
  act (.imgRead q e) settle (entryRow 0x40 0 q e) s

/-- IMG_READ_DONE (R360). -/
def execImgReadDone (id : Nat) (s : State) : Host.Outcome State Fault Refusal :=
  act (.imgReadDone id) settle (imgReadDone id) s

/-- IMG_READ_AGEING (R361). -/
def execImgReadAgeing (id : Nat) (s : State) : Host.Outcome State Fault Refusal :=
  act (.imgReadAgeing id) settle (imgReadAgeing id) s

/-- IMG_WRITE (R358). -/
def execImgWrite (q : Nat) (e : Bytes) (s : State) (errs : List MemErr := []) : Host.Outcome State Fault Refusal :=
  actMem (.imgWrite q e errs) errs settle (entryRow 0x41 0 q e) s

/-- IMG_WRITE_DONE (R358). -/
def execImgWriteDone (id : Nat) (s : State) : Host.Outcome State Fault Refusal :=
  act (.imgWriteDone id) settle (imgWriteDone id) s

/-- IMG_WRITE_OPEN_RETRY (R358). -/
def execImgWriteOpenRetry (q : Nat) (s : State) : Host.Outcome State Fault Refusal :=
  act (.imgWriteOpenRetry q) settle (retryEntry q (isOp 0x41)) s

/-- IMG_COMMIT (R359). -/
def execImgCommit (q : Nat) (e : Bytes) (s : State) : Host.Outcome State Fault Refusal :=
  act (.imgCommit q e) settle (entryRow 0x42 0 q e) s

/-- IMG_DELETE (R359). -/
def execImgDelete (q : Nat) (e : Bytes) (s : State) : Host.Outcome State Fault Refusal :=
  act (.imgDelete q e) settle (entryRow 0x43 0 q e) s

/-- CHECKPOINT (R365). -/
def execCheckpoint (q : Nat) (e : Bytes) (s : State) (errs : List MemErr := []) : Host.Outcome State Fault Refusal :=
  actMem (.checkpoint q e errs) errs settle (entryRow 0x44 0 q e) s

/-- LUN_OPERATION_START (R361). -/
def execLunOperationStart (lun : Nat) (s : State) (errs : List MemErr := []) (nand : List NandErr := []) : Host.Outcome State Fault Refusal :=
  actMem (.lunOperationStart lun errs nand) errs settle (lunStart lun nand) s

/-- FLASH_PROGRAM_DONE (R358). -/
def execFlashProgramDone (lun : Nat) (s : State) : Host.Outcome State Fault Refusal :=
  act (.flashProgramDone lun) settle (programDone lun) s

/-- FLASH_PROGRAM_FAIL (R355). -/
def execFlashProgramFail (lun : Nat) (s : State) : Host.Outcome State Fault Refusal :=
  act (.flashProgramFail lun) settle (programFail lun) s

/-- FLASH_ERASE_DONE (R357). -/
def execFlashEraseDone (lun : Nat) (s : State) : Host.Outcome State Fault Refusal :=
  act (.flashEraseDone lun) settle (eraseDone lun) s

/-- COMMIT_RECORD_PROGRAMMED (R363). -/
def execCommitRecordProgrammed (s : State) : Host.Outcome State Fault Refusal :=
  act .commitRecordProgrammed settle recordProgrammed s

/-- RETENTION_PATROL (R353). -/
def execRetentionPatrol (blk : Nat) (page : Nat) (nand : List NandErr) (s : State) : Host.Outcome State Fault Refusal :=
  act (.retentionPatrol blk page nand) settle (patrolPage blk page nand) s

/-- RELOCATION (R354). -/
def execRelocation (blk : Nat) (s : State) (nand : List NandErr := []) : Host.Outcome State Fault Refusal :=
  act (.relocation blk nand) settle (relocation blk nand) s

/-- BLOCK_TABLE_WRITE (R356). -/
def execBlockTableWrite (s : State) : Host.Outcome State Fault Refusal :=
  act .blockTableWrite settle blockTableWrite s

/-- REPLICA_FRAME_RECEIVE (R366). -/
def execReplicaFrameReceive (s : State) : Host.Outcome State Fault Refusal :=
  act .replicaFrameReceive settle replicaFrame s

/-- REPLICA_ANSWER_RECEIVE (R366). -/
def execReplicaAnswerReceive (s : State) : Host.Outcome State Fault Refusal :=
  act .replicaAnswerReceive settle answerReceive s

/-- REPLICA_TIMEOUT (R366). -/
def execReplicaTimeout (id : Nat) (s : State) : Host.Outcome State Fault Refusal :=
  act (.replicaTimeout id) settle (replicaTimeout id) s

/-- FAL_FORMAT (R368). -/
def execFalFormat (v : BitVec 32) (s : State) : Host.Outcome State Fault Refusal :=
  act (.falFormat v) settle (writeReg 0x480030 v.toNat) s

/-- FAL_PERS_LOAD (R349). -/
def execFalPersLoad (v : BitVec 64) (s : State) : Host.Outcome State Fault Refusal :=
  act (.falPersLoad v) settle (writeReg 0x480038 (setBits v.toNat 50 1 1)) s

end Sys2Proof.Machine
end

