-- ==== Sys2Proof/Machine/RunTables.lean ====
section
/-! DEFINITION. Meanings of the commands of admission, tables, budgets and Furrows. -/

namespace Sys2Proof.Machine

open Sys2Proof

/-- ALLOWANCE_RELEASE (R43). -/
def execAllowanceRelease (b : Nat) (s : State) : Host.Outcome State Fault Refusal :=
  act (.allowanceRelease b) settle (releaseBudget b) s

/-- BUDGET_LOWER_COMPLETE (R46). -/
def execBudgetLowerComplete (b : Nat) (s : State) : Host.Outcome State Fault Refusal :=
  act (.budgetLowerComplete b) settle (lowerDone b) s

/-- EPOCH_FENCE_CLOSE (R83). -/
def execEpochFenceClose (eid : BitVec 24) (s : State) : Host.Outcome State Fault Refusal :=
  act (.epochFenceClose eid) settle (closeFence eid.toNat) s

/-- EPT_SET_FENCE_APPLY (R84). -/
def execEptSetFenceApply (q : Nat) (s : State) : Host.Outcome State Fault Refusal :=
  act (.eptSetFenceApply q) settle (retryEntry q (isOp 0x30)) s

/-- READ_REQ_RESERVE (R152). -/
def execReadReqReserve (id : Nat) (s : State) : Host.Outcome State Fault Refusal :=
  act (.readReqReserve id) settle (tryTx id) s

/-- EPT_SET (R64). -/
def execEptSet (q : Nat) (e : Bytes) (s : State) : Host.Outcome State Fault Refusal :=
  act (.eptSet q e) settle (entryRow 0x30 0 q e) s

/-- EPT_CLEAR (R84). -/
def execEptClear (q : Nat) (e : Bytes) (s : State) : Host.Outcome State Fault Refusal :=
  act (.eptClear q e) settle (entryRow 0x31 0 q e) s

/-- PATH_SET_WRITE (R68). -/
def execPathSetWrite (q : Nat) (e : Bytes) (s : State) : Host.Outcome State Fault Refusal :=
  act (.pathSetWrite q e) settle (entryRow 0x32 0 q e) s

/-- PATH_SET_MARK_DOWN (R70). -/
def execPathSetMarkDown (q : Nat) (e : Bytes) (s : State) : Host.Outcome State Fault Refusal :=
  act (.pathSetMarkDown q e) settle (entryRow 0x32 1 q e) s

/-- PATH_SET_MARK_UP (R70). -/
def execPathSetMarkUp (q : Nat) (e : Bytes) (s : State) : Host.Outcome State Fault Refusal :=
  act (.pathSetMarkUp q e) settle (entryRow 0x32 2 q e) s

/-- PATH_SET_CLEAR (R68). -/
def execPathSetClear (q : Nat) (e : Bytes) (s : State) : Host.Outcome State Fault Refusal :=
  act (.pathSetClear q e) settle (entryRow 0x32 3 q e) s

/-- MCAST_SET_WRITE (R79). -/
def execMcastSetWrite (q : Nat) (e : Bytes) (s : State) : Host.Outcome State Fault Refusal :=
  act (.mcastSetWrite q e) settle (entryRow 0x33 0 q e) s

/-- MCAST_SET_CLEAR (R80). -/
def execMcastSetClear (q : Nat) (e : Bytes) (s : State) : Host.Outcome State Fault Refusal :=
  act (.mcastSetClear q e) settle (entryRow 0x33 1 q e) s

/-- FURROW_SET_PREPARE (R88). -/
def execFurrowSetPrepare (q : Nat) (e : Bytes) (s : State) : Host.Outcome State Fault Refusal :=
  act (.furrowSetPrepare q e) settle (entryRow 0x34 0 q e) s

/-- FURROW_SET_COMMIT (R88). -/
def execFurrowSetCommit (q : Nat) (e : Bytes) (s : State) : Host.Outcome State Fault Refusal :=
  act (.furrowSetCommit q e) settle (entryRow 0x34 1 q e) s

/-- FURROW_CLEAR (R92). -/
def execFurrowClear (q : Nat) (e : Bytes) (s : State) : Host.Outcome State Fault Refusal :=
  act (.furrowClear q e) settle (entryRow 0x35 0 q e) s

/-- BUDGET_SET_WRITE (R46). -/
def execBudgetSetWrite (q : Nat) (e : Bytes) (s : State) : Host.Outcome State Fault Refusal :=
  act (.budgetSetWrite q e) settle (entryRow 0x38 0 q e) s

/-- BUDGET_SET_CLEAR (R76). -/
def execBudgetSetClear (q : Nat) (e : Bytes) (s : State) : Host.Outcome State Fault Refusal :=
  act (.budgetSetClear q e) settle (entryRow 0x38 1 q e) s

/-- EPT_WIN_READ (R85). -/
def execEptWinRead (v : BitVec 64) (s : State) : Host.Outcome State Fault Refusal :=
  act (.eptWinRead v) settle (writeReg 0x200000 (setBits v.toNat 3 1 1)) s

/-- EPT_WIN_READ_DONE (R85). -/
def execEptWinReadDone (s : State) : Host.Outcome State Fault Refusal :=
  act .eptWinReadDone settle windowDone s

end Sys2Proof.Machine
end

