-- ==== Sys2Proof/Machine/RunTelem.lean ====
section
/-! DEFINITION. Meanings of the commands of counters, samples, in-band requests and registers. -/

namespace Sys2Proof.Machine

open Sys2Proof

/-- COUNTER_WRAP (R456). -/
def execCounterWrap (b : Nat) (n : Nat) (s : State) : Host.Outcome State Fault Refusal :=
  act (.counterWrap b n) settle (counterWrap b n) s

/-- PMON_EN_WRITE (R452). -/
def execPmonEnWrite (b : Nat) (v : BitVec 32) (s : State) : Host.Outcome State Fault Refusal :=
  act (.pmonEnWrite b v) settle (writeReg (oPmon b + 8) v.toNat) s

/-- PMON_CNT_WRITE (R452). -/
def execPmonCntWrite (b : Nat) (n : Nat) (v : BitVec 64) (s : State) : Host.Outcome State Fault Refusal :=
  act (.pmonCntWrite b n v) settle (writeReg (oPmon b + 0x40 + 8 * n) v.toNat) s

/-- BW_WINDOW_END (R458). -/
def execBwWindowEnd (s : State) : Host.Outcome State Fault Refusal :=
  act .bwWindowEnd settle windowPublish s

/-- PMON_BWWIN_WRITE (R459). -/
def execPmonBwwinWrite (v : BitVec 32) (s : State) : Host.Outcome State Fault Refusal :=
  act (.pmonBwwinWrite v) settle (writeReg 0x540000 v.toNat) s

/-- SAMPLER_READ (R166). -/
def execSamplerRead (s : State) : Host.Outcome State Fault Refusal :=
  act .samplerRead settle samplerRead s

/-- SMP_HRING_HEAD_WRITE (R461). -/
def execSmpHringHeadWrite (v : BitVec 32) (s : State) : Host.Outcome State Fault Refusal :=
  act (.smpHringHeadWrite v) settle (writeReg 0x581010 v.toNat) s

/-- SMP_HRING_ENABLE (R461). -/
def execSmpHringEnable (v : BitVec 32) (s : State) : Host.Outcome State Fault Refusal :=
  act (.smpHringEnable v) settle (writeReg 0x581008 (setBits v.toNat 11 1 1)) s

/-- REG_READ (R464). -/
def execRegRead (s : State) : Host.Outcome State Fault Refusal :=
  act .regRead settle (serve 0x20 mgmtRead) s

/-- REG_WRITE (R464). -/
def execRegWrite (s : State) : Host.Outcome State Fault Refusal :=
  act .regWrite settle (serve 0x21 mgmtWrite) s

/-- CMD (R465). -/
def execCmd (s : State) : Host.Outcome State Fault Refusal :=
  act .cmd settle (serve 0x22 mgmtCmd) s

/-- SAMPLE_READ (R463). -/
def execSampleRead (s : State) : Host.Outcome State Fault Refusal :=
  act .sampleRead settle (serve 0x23 mgmtSamples) s

/-- DBG_WIN_ACCESS (R466). -/
def execDbgWinAccess (w : Option (BitVec 64)) (s : State) : Host.Outcome State Fault Refusal :=
  act (.dbgWinAccess w) settle (dbgWindow w) s

/-- REGISTER_WRITE (R6). -/
def execRegisterWrite (off : Nat) (b : Bytes) (cyc : Nat) (s : State) : Host.Outcome State Fault Refusal :=
  act (.registerWrite off b cyc) settle (hostWriteReg off b cyc) s

end Sys2Proof.Machine
end

