-- ==== Sys2Proof/Machine/Dispatch.lean ====
section
/-! DEFINITION. One arm per command: each calls its meaning. -/

namespace Sys2Proof.Machine

def exec (i : Instr) (s : State) : Host.Outcome State Fault Refusal :=
  match i with
  | .railSequencing carrier => Sys2Proof.Machine.execRailSequencing carrier s
  | .thermalTrip temps => Sys2Proof.Machine.execThermalTrip temps s
  | .thermalWarn temps => Sys2Proof.Machine.execThermalWarn temps s
  | .moduleReset kind => Sys2Proof.Machine.execModuleReset kind s
  | .gddr7BootTraining pass => Sys2Proof.Machine.execGddr7BootTraining pass s
  | .cxlLinkUp width speed proto => Sys2Proof.Machine.execCxlLinkUp width speed proto s
  | .fallowDiscovery targets => Sys2Proof.Machine.execFallowDiscovery targets s
  | .swathCfgWrite v => Sys2Proof.Machine.execSwathCfgWrite v s
  | .swathRealign v => Sys2Proof.Machine.execSwathRealign v s
  | .retrainWindowEnd pass => Sys2Proof.Machine.execRetrainWindowEnd pass s
  | .bankRefresh d bank => Sys2Proof.Machine.execBankRefresh d bank s
  | .markerReceive lp arr u => Sys2Proof.Machine.execMarkerReceive lp arr u s
  | .swathAlignLost lp => Sys2Proof.Machine.execSwathAlignLost lp s
  | .neighbourUnreachable lp => Sys2Proof.Machine.execNeighbourUnreachable lp s
  | .holdExpiry lp => Sys2Proof.Machine.execHoldExpiry lp s
  | .portEnable p v => Sys2Proof.Machine.execPortEnable p v s
  | .portDisable p v => Sys2Proof.Machine.execPortDisable p v s
  | .portTrained lp => Sys2Proof.Machine.execPortTrained lp s
  | .linkSignalLoss lp => Sys2Proof.Machine.execLinkSignalLoss lp s
  | .fecUncorrectable lp lane => Sys2Proof.Machine.execFecUncorrectable lp lane s
  | .cellUnitReceive lp u => Sys2Proof.Machine.execCellUnitReceive lp u s
  | .idleAdaptUnitReceive lp u => Sys2Proof.Machine.execIdleAdaptUnitReceive lp u s
  | .replayReceive lp u => Sys2Proof.Machine.execReplayReceive lp u s
  | .replayRepeat lp => Sys2Proof.Machine.execReplayRepeat lp s
  | .unitOpportunity lp => Sys2Proof.Machine.execUnitOpportunity lp s
  | .creditLend lp vc => Sys2Proof.Machine.execCreditLend lp vc s
  | .bufferLendRetry x vc => Sys2Proof.Machine.execBufferLendRetry x vc s
  | .bpmModeWrite v => Sys2Proof.Machine.execBpmModeWrite v s
  | .edgeFrameReceive lp u => Sys2Proof.Machine.execEdgeFrameReceive lp u s
  | .pfcRepeat lp tc => Sys2Proof.Machine.execPfcRepeat lp tc s
  | .pfcFrameReceive lp u => Sys2Proof.Machine.execPfcFrameReceive lp u s
  | .pfcPauseExpiry lp tc => Sys2Proof.Machine.execPfcPauseExpiry lp tc s
  | .allowanceRelease b => Sys2Proof.Machine.execAllowanceRelease b s
  | .budgetLowerComplete b => Sys2Proof.Machine.execBudgetLowerComplete b s
  | .epochFenceClose eid => Sys2Proof.Machine.execEpochFenceClose eid s
  | .eptSetFenceApply q => Sys2Proof.Machine.execEptSetFenceApply q s
  | .reassemblyDeadline n => Sys2Proof.Machine.execReassemblyDeadline n s
  | .ackTimeout id => Sys2Proof.Machine.execAckTimeout id s
  | .hostqRecvDeliver q => Sys2Proof.Machine.execHostqRecvDeliver q s
  | .readTimeout id => Sys2Proof.Machine.execReadTimeout id s
  | .sqTailDoorbell q v img => Sys2Proof.Machine.execSqTailDoorbell q v img s
  | .cqHeadDoorbell c v => Sys2Proof.Machine.execCqHeadDoorbell c v s
  | .eqHeadDoorbell v => Sys2Proof.Machine.execEqHeadDoorbell v s
  | .watchedTailSnoop q v img => Sys2Proof.Machine.execWatchedTailSnoop q v img s
  | .watchedTailPoll q => Sys2Proof.Machine.execWatchedTailPoll q s
  | .sqEntryAccept q => Sys2Proof.Machine.execSqEntryAccept q s
  | .ringEnable r v => Sys2Proof.Machine.execRingEnable r v s
  | .sqDisable q v => Sys2Proof.Machine.execSqDisable q v s
  | .send q e => Sys2Proof.Machine.execSend q e s
  | .recvPost q e => Sys2Proof.Machine.execRecvPost q e s
  | .read q e => Sys2Proof.Machine.execRead q e s
  | .write q e => Sys2Proof.Machine.execWrite q e s
  | .readReqReserve id => Sys2Proof.Machine.execReadReqReserve id s
  | .collCreate q e => Sys2Proof.Machine.execCollCreate q e s
  | .collJoin q e => Sys2Proof.Machine.execCollJoin q e s
  | .collAbort q e => Sys2Proof.Machine.execCollAbort q e s
  | .selectOpen q e => Sys2Proof.Machine.execSelectOpen q e s
  | .selectClose q e => Sys2Proof.Machine.execSelectClose q e s
  | .selectOpenRetry q => Sys2Proof.Machine.execSelectOpenRetry q s
  | .task q e => Sys2Proof.Machine.execTask q e s
  | .taskQueueRetry q => Sys2Proof.Machine.execTaskQueueRetry q s
  | .microBatchOpenRetry q => Sys2Proof.Machine.execMicroBatchOpenRetry q s
  | .imemLoad q e => Sys2Proof.Machine.execImemLoad q e s
  | .imemLoadDone id => Sys2Proof.Machine.execImemLoadDone id s
  | .imemSwap q e => Sys2Proof.Machine.execImemSwap q e s
  | .imemSwapApply f => Sys2Proof.Machine.execImemSwapApply f s
  | .adapterDefine q e errs => Sys2Proof.Machine.execAdapterDefine q e s errs
  | .adapterStep q e => Sys2Proof.Machine.execAdapterStep q e s
  | .adapterClear q e => Sys2Proof.Machine.execAdapterClear q e s
  | .stepAcceptRetry q => Sys2Proof.Machine.execStepAcceptRetry q s
  | .updateApplyStart slot errs => Sys2Proof.Machine.execUpdateApplyStart slot s errs
  | .updateApplyDone slot => Sys2Proof.Machine.execUpdateApplyDone slot s
  | .biasFlipDevice q e => Sys2Proof.Machine.execBiasFlipDevice q e s
  | .biasFlipHost q e => Sys2Proof.Machine.execBiasFlipHost q e s
  | .biasFlipDrained id => Sys2Proof.Machine.execBiasFlipDrained id s
  | .eptSet q e => Sys2Proof.Machine.execEptSet q e s
  | .eptClear q e => Sys2Proof.Machine.execEptClear q e s
  | .pathSetWrite q e => Sys2Proof.Machine.execPathSetWrite q e s
  | .pathSetMarkDown q e => Sys2Proof.Machine.execPathSetMarkDown q e s
  | .pathSetMarkUp q e => Sys2Proof.Machine.execPathSetMarkUp q e s
  | .pathSetClear q e => Sys2Proof.Machine.execPathSetClear q e s
  | .mcastSetWrite q e => Sys2Proof.Machine.execMcastSetWrite q e s
  | .mcastSetClear q e => Sys2Proof.Machine.execMcastSetClear q e s
  | .furrowSetPrepare q e => Sys2Proof.Machine.execFurrowSetPrepare q e s
  | .furrowSetCommit q e => Sys2Proof.Machine.execFurrowSetCommit q e s
  | .furrowClear q e => Sys2Proof.Machine.execFurrowClear q e s
  | .budgetSetWrite q e => Sys2Proof.Machine.execBudgetSetWrite q e s
  | .budgetSetClear q e => Sys2Proof.Machine.execBudgetSetClear q e s
  | .imgRead q e => Sys2Proof.Machine.execImgRead q e s
  | .imgReadDone id => Sys2Proof.Machine.execImgReadDone id s
  | .imgReadAgeing id => Sys2Proof.Machine.execImgReadAgeing id s
  | .imgWrite q e errs => Sys2Proof.Machine.execImgWrite q e s errs
  | .imgWriteDone id => Sys2Proof.Machine.execImgWriteDone id s
  | .imgWriteOpenRetry q => Sys2Proof.Machine.execImgWriteOpenRetry q s
  | .imgCommit q e => Sys2Proof.Machine.execImgCommit q e s
  | .imgDelete q e => Sys2Proof.Machine.execImgDelete q e s
  | .checkpoint q e errs => Sys2Proof.Machine.execCheckpoint q e s errs
  | .lunOperationStart lun errs nand => Sys2Proof.Machine.execLunOperationStart lun s errs nand
  | .flashProgramDone lun => Sys2Proof.Machine.execFlashProgramDone lun s
  | .flashProgramFail lun => Sys2Proof.Machine.execFlashProgramFail lun s
  | .flashEraseDone lun => Sys2Proof.Machine.execFlashEraseDone lun s
  | .retentionPatrol blk page nand => Sys2Proof.Machine.execRetentionPatrol blk page nand s
  | .relocation blk nand => Sys2Proof.Machine.execRelocation blk s nand
  | .replicaTimeout id => Sys2Proof.Machine.execReplicaTimeout id s
  | .falFormat v => Sys2Proof.Machine.execFalFormat v s
  | .falPersLoad v => Sys2Proof.Machine.execFalPersLoad v s
  | .fence q e => Sys2Proof.Machine.execFence q e s
  | .fenceComplete q => Sys2Proof.Machine.execFenceComplete q s
  | .nop q e => Sys2Proof.Machine.execNop q e s
  | .memberSetFence q e => Sys2Proof.Machine.execMemberSetFence q e s
  | .memberSetUnfence q e => Sys2Proof.Machine.execMemberSetUnfence q e s
  | .memberSetForget q e => Sys2Proof.Machine.execMemberSetForget q e s
  | .memberSetReady q e => Sys2Proof.Machine.execMemberSetReady q e s
  | .selftest q e => Sys2Proof.Machine.execSelftest q e s
  | .recoverPort q e => Sys2Proof.Machine.execRecoverPort q e s
  | .recoverForge q e => Sys2Proof.Machine.execRecoverForge q e s
  | .recoverBank q e => Sys2Proof.Machine.execRecoverBank q e s
  | .recoverUnit q e => Sys2Proof.Machine.execRecoverUnit q e s
  | .recoverRestore q e => Sys2Proof.Machine.execRecoverRestore q e s
  | .recoverCopy q e => Sys2Proof.Machine.execRecoverCopy q e s
  | .recoverRejoin q e => Sys2Proof.Machine.execRecoverRejoin q e s
  | .recoverStartRetry q => Sys2Proof.Machine.execRecoverStartRetry q s
  | .recoveryWaitSatisfied rid => Sys2Proof.Machine.execRecoveryWaitSatisfied rid s
  | .copySilenceTimeout rid => Sys2Proof.Machine.execCopySilenceTimeout rid s
  | .calWriteCalibration q e => Sys2Proof.Machine.execCalWriteCalibration q e s
  | .calWriteFirmware q e => Sys2Proof.Machine.execCalWriteFirmware q e s
  | .calWriteFuseAction q e => Sys2Proof.Machine.execCalWriteFuseAction q e s
  | .calWriteDebugUnlock q e => Sys2Proof.Machine.execCalWriteDebugUnlock q e s
  | .createReplyTimeout id => Sys2Proof.Machine.execCreateReplyTimeout id s
  | .preparedTimeout n => Sys2Proof.Machine.execPreparedTimeout n s
  | .chunkFold n bad => Sys2Proof.Machine.execChunkFold n bad s
  | .memberChunkSend n => Sys2Proof.Machine.execMemberChunkSend n s
  | .collIdleTimeout n => Sys2Proof.Machine.execCollIdleTimeout n s
  | .selectWorkItem x => Sys2Proof.Machine.execSelectWorkItem x s
  | .combWaitTimeout x => Sys2Proof.Machine.execCombWaitTimeout x s
  | .dispatchInboxReserve f => Sys2Proof.Machine.execDispatchInboxReserve f s
  | .dispatchEnqueueRetry f => Sys2Proof.Machine.execDispatchEnqueueRetry f s
  | .forgeCommandStart f st t => Sys2Proof.Machine.execForgeCommandStart f st t s
  | .forgeCommandEnd f st t => Sys2Proof.Machine.execForgeCommandEnd f st t s
  | .commandOverrun f st t => Sys2Proof.Machine.execCommandOverrun f st t s
  | .moverComplete f st t errs => Sys2Proof.Machine.execMoverComplete f st t s errs
  | .frameSenderPost f t => Sys2Proof.Machine.execFrameSenderPost f t s
  | .semaphoreWaitSatisfied f st t => Sys2Proof.Machine.execSemaphoreWaitSatisfied f st t s
  | .forgeQsemWrite f n v => Sys2Proof.Machine.execForgeQsemWrite f n v s
  | .forgeGsemWrite n v => Sys2Proof.Machine.execForgeGsemWrite n v s
  | .forgeBindWrite f k w v => Sys2Proof.Machine.execForgeBindWrite f k w v s
  | .forgeDbgResume f v => Sys2Proof.Machine.execForgeDbgResume f v s
  | .nopInstruction f st t => Sys2Proof.Machine.execNopInstruction f st t s
  | .endInstr f st t => Sys2Proof.Machine.execEndInstr f st t s
  | .rep f st t => Sys2Proof.Machine.execRep f st t s
  | .br f st t => Sys2Proof.Machine.execBr f st t s
  | .movi f st t => Sys2Proof.Machine.execMovi f st t s
  | .add f st t => Sys2Proof.Machine.execAdd f st t s
  | .sub f st t => Sys2Proof.Machine.execSub f st t s
  | .andS f st t => Sys2Proof.Machine.execAndS f st t s
  | .orS f st t => Sys2Proof.Machine.execOrS f st t s
  | .xorS f st t => Sys2Proof.Machine.execXorS f st t s
  | .shl f st t => Sys2Proof.Machine.execShl f st t s
  | .shr f st t => Sys2Proof.Machine.execShr f st t s
  | .sra f st t => Sys2Proof.Machine.execSra f st t s
  | .setc f st t => Sys2Proof.Machine.execSetc f st t s
  | .aset f st t => Sys2Proof.Machine.execAset f st t s
  | .aadd f st t => Sys2Proof.Machine.execAadd f st t s
  | .astr f st t => Sys2Proof.Machine.execAstr f st t s
  | .aget f st t => Sys2Proof.Machine.execAget f st t s
  | .lds f st t => Sys2Proof.Machine.execLds f st t s
  | .sts f st t => Sys2Proof.Machine.execSts f st t s
  | .post f st t => Sys2Proof.Machine.execPost f st t s
  | .wait f st t => Sys2Proof.Machine.execWait f st t s
  | .enq f st t => Sys2Proof.Machine.execEnq f st t s
  | .qd f st t => Sys2Proof.Machine.execQd f st t s
  | .id f st t => Sys2Proof.Machine.execId f st t s
  | .flg f st t => Sys2Proof.Machine.execFlg f st t s
  | .vld f st t => Sys2Proof.Machine.execVld f st t s
  | .vst f st t => Sys2Proof.Machine.execVst f st t s
  | .vbc f st t => Sys2Proof.Machine.execVbc f st t s
  | .vadd f st t => Sys2Proof.Machine.execVadd f st t s
  | .vsub f st t => Sys2Proof.Machine.execVsub f st t s
  | .vmul f st t => Sys2Proof.Machine.execVmul f st t s
  | .vfma f st t => Sys2Proof.Machine.execVfma f st t s
  | .viadd f st t => Sys2Proof.Machine.execViadd f st t s
  | .visub f st t => Sys2Proof.Machine.execVisub f st t s
  | .vimin f st t => Sys2Proof.Machine.execVimin f st t s
  | .vimax f st t => Sys2Proof.Machine.execVimax f st t s
  | .vicmp f st t => Sys2Proof.Machine.execVicmp f st t s
  | .vcvt f st t => Sys2Proof.Machine.execVcvt f st t s
  | .vand f st t => Sys2Proof.Machine.execVand f st t s
  | .vor f st t => Sys2Proof.Machine.execVor f st t s
  | .vxor f st t => Sys2Proof.Machine.execVxor f st t s
  | .vsel f st t => Sys2Proof.Machine.execVsel f st t s
  | .mov f st t => Sys2Proof.Machine.execMov f st t s
  | .wld f st t => Sys2Proof.Machine.execWld f st t s
  | .rdr f st t => Sys2Proof.Machine.execRdr f st t s
  | .sendInstruction f st t => Sys2Proof.Machine.execSendInstruction f st t s
  | .tld f st t => Sys2Proof.Machine.execTld f st t s
  | .mma f st t => Sys2Proof.Machine.execMma f st t s
  | .tnorm f st t => Sys2Proof.Machine.execTnorm f st t s
  | .tsmax f st t => Sys2Proof.Machine.execTsmax f st t s
  | .tnormb f st t => Sys2Proof.Machine.execTnormb f st t s
  | .tsmaxb f st t => Sys2Proof.Machine.execTsmaxb f st t s
  | .patrolScrubRead d errs => Sys2Proof.Machine.execPatrolScrubRead d errs s
  | .remapCopyDone d k errs => Sys2Proof.Machine.execRemapCopyDone d k s errs
  | .cxlMemRead dpa errs => Sys2Proof.Machine.execCxlMemRead dpa s errs
  | .cxlMemWrite dpa data errs => Sys2Proof.Machine.execCxlMemWrite dpa data s errs
  | .hdmDecoderCommit base size ways => Sys2Proof.Machine.execHdmDecoderCommit base size ways s
  | .suspectHourlyTest kind idx => Sys2Proof.Machine.execSuspectHourlyTest kind idx s
  | .selftestRun kind idx => Sys2Proof.Machine.execSelftestRun kind idx s
  | .selftestDone kind idx pass failed => Sys2Proof.Machine.execSelftestDone kind idx pass failed s
  | .counterWrap b n => Sys2Proof.Machine.execCounterWrap b n s
  | .pmonEnWrite b v => Sys2Proof.Machine.execPmonEnWrite b v s
  | .pmonCntWrite b n v => Sys2Proof.Machine.execPmonCntWrite b n v s
  | .pmonBwwinWrite v => Sys2Proof.Machine.execPmonBwwinWrite v s
  | .smpHringHeadWrite v => Sys2Proof.Machine.execSmpHringHeadWrite v s
  | .smpHringEnable v => Sys2Proof.Machine.execSmpHringEnable v s
  | .dbgWinAccess w => Sys2Proof.Machine.execDbgWinAccess w s
  | .eptWinRead v => Sys2Proof.Machine.execEptWinRead v s
  | .glbResetModule v => Sys2Proof.Machine.execGlbResetModule v s
  | .glbResetMgmt v => Sys2Proof.Machine.execGlbResetMgmt v s
  | .glbNodeWrite v => Sys2Proof.Machine.execGlbNodeWrite v s
  | .registerWrite off b cyc => Sys2Proof.Machine.execRegisterWrite off b cyc s
  | .spdmRequest req => Sys2Proof.Machine.execSpdmRequest req s
  | .inputPowerRise => Sys2Proof.Machine.execInputPowerRise s
  | .inputPowerLoss => Sys2Proof.Machine.execInputPowerLoss s
  | .tripExit => Sys2Proof.Machine.execTripExit s
  | .perstAssert => Sys2Proof.Machine.execPerstAssert s
  | .firmwareVerify => Sys2Proof.Machine.execFirmwareVerify s
  | .calRecordLoad => Sys2Proof.Machine.execCalRecordLoad s
  | .hostlessTimeout => Sys2Proof.Machine.execHostlessTimeout s
  | .configRequest => Sys2Proof.Machine.execConfigRequest s
  | .svnAdvanced => Sys2Proof.Machine.execSvnAdvanced s
  | .mgmtWatchdogExpiry => Sys2Proof.Machine.execMgmtWatchdogExpiry s
  | .mgmtCoreReset => Sys2Proof.Machine.execMgmtCoreReset s
  | .hostLinkReset => Sys2Proof.Machine.execHostLinkReset s
  | .swathBoundary => Sys2Proof.Machine.execSwathBoundary s
  | .retrainWindowStart => Sys2Proof.Machine.execRetrainWindowStart s
  | .crossbarSlot => Sys2Proof.Machine.execCrossbarSlot s
  | .bpmSpillDrained => Sys2Proof.Machine.execBpmSpillDrained s
  | .sequencedFrameAccept => Sys2Proof.Machine.execSequencedFrameAccept s
  | .ackReceive => Sys2Proof.Machine.execAckReceive s
  | .noticeReceive => Sys2Proof.Machine.execNoticeReceive s
  | .readRspReceive => Sys2Proof.Machine.execReadRspReceive s
  | .commitRecordProgrammed => Sys2Proof.Machine.execCommitRecordProgrammed s
  | .blockTableWrite => Sys2Proof.Machine.execBlockTableWrite s
  | .replicaFrameReceive => Sys2Proof.Machine.execReplicaFrameReceive s
  | .replicaAnswerReceive => Sys2Proof.Machine.execReplicaAnswerReceive s
  | .copyReqReceive => Sys2Proof.Machine.execCopyReqReceive s
  | .copyFrameReceive => Sys2Proof.Machine.execCopyFrameReceive s
  | .calWriteRetry => Sys2Proof.Machine.execCalWriteRetry s
  | .reserveFrame => Sys2Proof.Machine.execReserveFrame s
  | .replyFrame => Sys2Proof.Machine.execReplyFrame s
  | .commitFrame => Sys2Proof.Machine.execCommitFrame s
  | .releaseFrame => Sys2Proof.Machine.execReleaseFrame s
  | .abortFrame => Sys2Proof.Machine.execAbortFrame s
  | .collChunkArrive => Sys2Proof.Machine.execCollChunkArrive s
  | .collResultForward => Sys2Proof.Machine.execCollResultForward s
  | .collResultMemberArrive errs => Sys2Proof.Machine.execCollResultMemberArrive s errs
  | .selectFrameArrive => Sys2Proof.Machine.execSelectFrameArrive s
  | .combineArrive => Sys2Proof.Machine.execCombineArrive s
  | .dispatchArrive => Sys2Proof.Machine.execDispatchArrive s
  | .forgeWriteFrame errs => Sys2Proof.Machine.execForgeWriteFrame s errs
  | .forgeReadReq errs => Sys2Proof.Machine.execForgeReadReq s errs
  | .forgeReadRsp errs => Sys2Proof.Machine.execForgeReadRsp s errs
  | .forgeNoticeReceive => Sys2Proof.Machine.execForgeNoticeReceive s
  | .hourlyScoreDecay => Sys2Proof.Machine.execHourlyScoreDecay s
  | .bwWindowEnd => Sys2Proof.Machine.execBwWindowEnd s
  | .samplerRead => Sys2Proof.Machine.execSamplerRead s
  | .regRead => Sys2Proof.Machine.execRegRead s
  | .regWrite => Sys2Proof.Machine.execRegWrite s
  | .cmd => Sys2Proof.Machine.execCmd s
  | .sampleRead => Sys2Proof.Machine.execSampleRead s
  | .eptWinReadDone => Sys2Proof.Machine.execEptWinReadDone s
  | .perstRelease => Sys2Proof.Machine.execPerstRelease s
  | .crucibleNoticeReceive => Sys2Proof.Machine.execCrucibleNoticeReceive s
  | .mgmtNoticeReceive => Sys2Proof.Machine.execMgmtNoticeReceive s

end Sys2Proof.Machine
end

