-- ==== Sys2Proof/Safety.lean ====
section
/-! DEFINITION. The terms claims are stated in: a module that is ON with nothing left to settle, counters off, and an entry ready at
the head of a submission ring. -/

namespace Sys2Proof.Machine

/-- Nothing is left for the end of a step to do: no work of an earlier command, no in-band command waiting or in-band frame to
discard, no edge frame or pause pending. -/
def Dev.quiet (d : Dev) : Prop :=
  d.todo = [] ∧ (∀ p ∈ d.tel.queues, p.2 = []) ∧ (∀ f ∈ d.sw.rx, f.code ≠ 0xFC)
  ∧ (∀ p ∈ d.subs, p.2.edge.xoff = [] ∧ p.2.edge.out = [])

/-- A module that is ON (R487) and quiet. -/
def State.live (s : State) : Prop := s.dev.boot.power = .on ∧ s.dev.quiet

/-- The retirement log names no more rows of a device than its 1,024 remap entries and 64 fenced rows hold (R338, R339, R403). -/
def Dev.logFits (d : Dev) : Prop := ∀ i, (d.nv.log.filter (fun p => p.1 == 3 && p.2 / 2 ^ 24 == i)).length ≤ 1088

/-- Every counter of a block is off (R452). -/
def Dev.countsOff (d : Dev) (b : Nat) : Prop := rg d (oPmon b + 8) = 0

/-- Entry `e` is the next of SQ `q` and its command can begin (R375, R378, R383): the ring is on and nothing waits, the host has made
`e` available, its tag is new, its CQ has a free entry, and the device is not in recovery mode (R428). -/
def Dev.entryReady (d : Dev) (q : Nat) (e : Bytes) : Prop :=
  q < 64 ∧ e.length = 64 ∧ sqOn d q = true ∧ (sq d q).waiting = none ∧ (sq d q).head ≠ (sq d q).tail ∧ headEntry d q = e
  ∧ (sq d q).busy.contains (tagOf e) = false ∧ ((sq d q).window.any (fun w => w.1 == tagOf e)) = false
  ∧ cqFree d (cqOf d q) = true ∧ d.boot.recovery = false

/-- What the command of entry `e` is to the device once it has been accepted (R375, R378). -/
def Dev.accepted (d : Dev) (q : Nat) (e : Bytes) : Dev := accept (sqCmd q e) d

/-- Completion of the command of entry `e` (R376, R378, R383). -/
def Dev.completed (d : Dev) (q : Nat) (e : Bytes) (status result : Nat) : Dev := complete (sqCmd q e) status 0 result d

/-- Entry `e` of SQ `q` begins (R375): it is ready, its command does not wait, and `a` is the device that has accepted it. -/
def Dev.begins (d : Dev) (q : Nat) (e : Bytes) (a : Dev) : Prop :=
  d.entryReady q e ∧ a = d.accepted q e
    ∧ ∀ f x, cmdOf (opOf e) (modeOf e) = some f → f (sqCmd q e) e d ≠ .wait x

/-- Entry `e` waits at the head of SQ `q` (R375), it is at a Swath boundary where its command waits for one (R229, R313), the command can
begin and no longer waits, and `a` is the device that has accepted it. -/
def Dev.retries (d : Dev) (q : Nat) (e : Bytes) (a : Dev) : Prop :=
  q < 64 ∧ e.length = 64 ∧ sqOn d q = true ∧ (sq d q).waiting = some e ∧ frameWaits d q = false
    ∧ cqFree d (cqOf d q) = true ∧ d.boot.recovery = false ∧ (isSlow (sqCmd q e) d = true → d.clk.now = d.clk.swStart)
    ∧ a = (unslow (sqCmd q e) d).accepted q e
    ∧ ∀ f x, cmdOf (opOf e) (modeOf e) = some f → f (sqCmd q e) e (unslow (sqCmd q e) d) ≠ .wait x

/-- DISPATCH frame `f` of Forge `k` finds rows (R266, R267): a binding matches it, its rows fit the ring and as many are free; `c` is
what it takes, and `z` the device with them taken. -/
def Dev.takesRows (d : Dev) (k : Nat) (f : RxFrame) (c : Claim) (z : Dev) : Prop :=
  ∃ i n top b, f.claim = .none ∧ forgeFenced d k = false ∧ bindFor d f = some i ∧ top = bindMax d k i
    ∧ n = (512 * beAt f.hdr 2 2 - 32) / bindRow d k i ∧ n ≤ top ∧ b = tgetD (Machine.forge d k).inbox i { wr := 0, ring := [] }
    ∧ b.ring.length + n ≤ top ∧ c = .rows i (Machine.forge d k).nextHandle b.wr n (bindInbox d k i) (bindRow d k i) top 0
    ∧ z = setClaim f c (modForge k (fun x => { x with
      nextHandle := x.nextHandle + 1, inbox := tput x.inbox i {
        wr := (b.wr + n) % top,
        ring := b.ring ++ (List.range n).map (fun j => ((b.wr + j) % top, some (Machine.forge d k).nextHandle)) } }) d)

/-- A frame of one cell leaves at once (R43, R44, R149): no other frame waits, its admission is `a`, its budget `b`, entry `i`, has
allowance and no lowering outstanding, and a buffer can be lent. -/
def Dev.leavesWhole (d : Dev) (fr : Frame) (a : Adm) (i : Nat) (b : Budget) : Prop :=
  d.sw.tx = [] ∧ cellsOf fr.data.length = 1 ∧ admitFrame d fr = .ok a ∧ a.budget = some i ∧ tget d.tab.budgets i = some b
  ∧ b.old = [] ∧ 0 < b.allow ∧ lendFrom d (ownInt fr.xport a.vc) .source ≠ none

/-- What a frame that leaves so does to its ring and its budget (R43, R375, R378, R383). -/
def Dev.leftWhole (d : Dev) (q : Nat) (e : Bytes) (a : Adm) (i : Nat) (b : Budget) (z : Dev) : Prop :=
  (sq z q).head = ((sq d q).head + 1) % sqDepth d q ∧ (sq z q).waiting = none ∧ (sq z q).busy = (sq d q).busy
  ∧ (sq z q).window = ((tagOf e, 0, 0, beAt a.hdr 4 4) :: (sq d q).window).take 4096 ∧ z.sw.tx = []
  ∧ tget z.tab.budgets i = some { b with allow := b.allow - 1 }

/-- What a module reset of a kind leaves (R413, R415, R468, R489): what the module keeps, the reset values of everything else, and
start-up through its first step where PERST# is high. -/
def Dev.wasReset (d : Dev) (kind : Nat) (z : Dev) : Prop :=
  z.nv = d.nv ∧ z.ring = { ringsZero with mem := d.ring.mem } ∧ z.clk = clockZero ∧ z.tab = tablesZero
  ∧ z.subs = [] ∧ z.bpm = bpmZero ∧ z.sw = switchZero ∧ z.cru = crucibleZero ∧ z.sel = [] ∧ z.hlt = healthZero
  ∧ z.fal.blks = d.fal.blks ∧ z.boot.lastReset = kind ∧ z.boot.power = .on ∧ z.boot.recovery = false
  ∧ z.boot.perst = (if kind = 2 then false else d.boot.perst)
  ∧ z.boot.stage = (if kind ≠ 2 ∧ d.boot.perst = true then 1 else 0)
  ∧ z.boot.nonce = Config.random d.boot.draws ∧ z.boot.draws = d.boot.draws + 1

/-- What a reset of the management core leaves (R405, R414): its scores, self-tests, sequences and sessions end, the data path, the
Forges, the rings and the tables stay. -/
def Dev.mgmtWasReset (d z : Dev) : Prop :=
  z.hlt.scores = [] ∧ z.hlt.tests = [] ∧ z.hlt.seqs = [] ∧ z.hlt.mgmtResets = min 255 (d.hlt.mgmtResets + 1)
  ∧ z.boot.lastReset = 5 ∧ z.boot.sessions = [] ∧ z.forge = d.forge ∧ z.tab = d.tab ∧ z.sw = d.sw ∧ z.subs = d.subs ∧ z.clk = d.clk
  ∧ z.nv = d.nv

/-- Stream `st` of Forge `f` issues an instruction of opcode `op` in cycle `t` (R276, R279, R300): fields outside `used` are 0, and the
hazard audit is off or finds no pending write to a register or result slot of `reads`. -/
def Dev.issues (d : Dev) (f st t op used : Nat) (reads : List (Nat × Nat)) (x : Fetch) : Prop :=
  f < 16 ∧ st < 6 ∧ fetchNow f st (tick t d) = some x ∧ iOp x.w = op ∧ x.w &&& (2 ^ 56 - 1 - used) = 0
    ∧ (flag (tick t d) (oForge f + 0x20) 0 = false ∨ ∀ r ∈ reads, pendingOn (tick t d) x r = false)

/-- The device after stream and cycle of `x` have issued an instruction with effect `y` (R279). -/
def Dev.issued (d : Dev) (t : Nat) (x : Fetch) (y : Eff) : Dev := settle (perform x y (tick t d))

end Sys2Proof.Machine
end

