-- ==== Sys2Proof/Certificates/Slice0/Obligations.lean ====
section
/-! DEFINITION. The statements about the model. `exec c s = .next { s with dev := … }` says that a command runs, what the device is
afterwards, and that the queue is as it was. -/

open Sys2Proof Sys2Proof.Machine

/-- A step takes the command at the front of the queue and runs it on the state with the queue's rest; an empty queue idles (the
model's choice, log 1). -/
def Obligations.StepRunsFront : Prop :=
  (∀ (c : Instr) (rest : List Instr) (d : Dev),
    step { dev := d, pending := c :: rest } = exec c { dev := d, pending := rest })
  ∧ ∀ d : Dev, step { dev := d, pending := [] } = .next { dev := d, pending := [] }

/-- Every command of the table answers a next state with the queue untouched, and on operands that name no unit of the machine it
changes nothing (the model's choice, log 99): none faults and none is refused. -/
def Obligations.EveryCommandAnswers : Prop :=
  ∀ (c : Instr) (s : State),
    (∃ d, exec c s = .next { s with dev := d })
    ∧ (wellFormed c = false → exec c s = .next s)

/-- A module that is not ON takes no command but those of its power: it stays exactly as it is (R487). -/
def Obligations.NotOnIsInert : Prop :=
  ∀ (c : Instr) (s : State), s.dev.boot.power ≠ .on → wellFormed c = true →
    c ≠ .inputPowerRise → c ≠ .inputPowerLoss → c ≠ .tripExit → (∀ b, c ≠ .railSequencing b) → (∀ t, c ≠ .thermalTrip t) →
    exec c s = .next s

/-- What every step keeps: nothing is left over for a later step, and the work a step leaves is done in it. -/
def Obligations.StepLeavesNoWork : Prop :=
  ∀ s t : State, step s = .next t → s.dev.todo = [] → t.dev.todo = []

/-- The machine after a power-on reset holds the values the register tables give (R28, R30, R468). -/
def Obligations.ResetValues : Prop :=
  let d := State.reset.dev
  State.reset.pending = []
  ∧ (∀ off, off ≠ 8 → rg d off = regReset off)
  ∧ regReset 0x40000 = 1024 ∧ regReset oSwathRsv = 0xB8 ∧ regReset (oSqCtl 0) = 4 ∧ regReset 0x500008 = 0x040001000040
  ∧ regReset (oPortCfg 3) = 0 ∧ regReset (oPortHold 3) = 0x10 ∧ regReset 0x300000 = 0xE8 ∧ regReset 0x540000 = 0x200
  ∧ d.clk.swc = 0 ∧ d.clk.nsNow = 1024 ∧ d.clk.lenNow = 1024
  ∧ (∀ lp, (sub d lp).state = .disabled)
  ∧ d.tab.ept = [] ∧ d.tab.paths = [] ∧ d.tab.budgets = [] ∧ d.tab.groups = [] ∧ d.tab.furrows = []
  ∧ d.bpm.mode = 0 ∧ (∀ q, q < 64 → sqOn d q = false) ∧ (∀ c, c < 64 → cqOn d c = false) ∧ eqOn d = false
  ∧ (∀ k i, retired d k i = false) ∧ d.boot.stage = 0 ∧ d.boot.lastReset = 1 ∧ d.boot.scope = 0

/-- Power states (R487, R488, R448). THERMAL_WARN (R448): the diodes are read, and the event is posted once when one reaches 100 °C, and again only after every one has
fallen below 95 °C. -/
def Obligations.PowerAndHeat : Prop :=
  (∀ s : State,
    (s.dev.boot.power = .off →
      exec .inputPowerRise s = .next { s with dev := modBoot (fun b => { b with power := .sequencing, groups := 0 }) s.dev })
    ∧ (s.dev.boot.power = .on ∨ s.dev.boot.power = .sequencing →
      exec .inputPowerLoss s = .next { s with dev := modBoot (fun b => { b with power := .off, groups := 0 }) s.dev })
    ∧ (∀ temps : List Int, s.dev.boot.power ≠ .off → (∃ i, i < 16 ∧ 16 * 110 ≤ temps.getD i 0 + diodeOffset s.dev i) →
      exec (.thermalTrip temps) s = .next { s with dev := modBoot (fun b => { b with power := .tripped, groups := 0 }) s.dev })
    ∧ (s.dev.boot.power = .tripped →
      exec .tripExit s = .next { s with dev := modBoot (fun b => { b with power := .off }) s.dev })
    ∧ (∀ carrier : Bool, s.dev.boot.power = .sequencing → s.dev.logFits → ∃ d, exec (.railSequencing carrier) s = .next { s with dev := d }
      ∧ d.boot.power = .on ∧ d.boot.groups = (if carrier then 6 else 5) ∧ d.boot.carrier = carrier ∧ d.boot.lastReset = 1
      ∧ d.boot.stage = (if s.dev.boot.perst then 1 else 0) ∧ d.nv = s.dev.nv))
  ∧
  (∀ (s : State) (temps : List Int) (i : Nat) (t : Int), s.live →
    i < 16 → t = temps.getD i 0 + diodeOffset s.dev i →
    (∀ j, j < 16 → temps.getD j 0 + diodeOffset s.dev j ≤ t) → (∀ j, j < i → temps.getD j 0 + diodeOffset s.dev j < t) →
    (1600 ≤ t → s.dev.boot.warnArmed = true → exec (.thermalWarn temps) s = .next { s with
      dev := postEvent 0x208 (toLE 1 i ++ toLE 1 (wrap 8 (t / 16))) (setEvt oSecTherm 12
        (modBoot (fun b => { b with tj := t / 16, diode := i, warnArmed := false }) s.dev)) })
    ∧ (1520 ≤ t → s.dev.boot.warnArmed = false →
      exec (.thermalWarn temps) s = .next { s with dev := modBoot (fun b => { b with tj := t / 16, diode := i }) s.dev })
    ∧ (t < 1520 → exec (.thermalWarn temps) s = .next { s with
      dev := modBoot (fun b => { b with tj := t / 16, diode := i, warnArmed := true }) s.dev }))


/-- A module reset (R415, R468, R471, R489): registers and tables at their reset values, what the module keeps kept, the reset's kind
recorded, and start-up before its first step, or through it where PERST# is high. A reset of the management core (R405, R414), by its
watchdog, its self-check or GLB_RESET, and a reset of the host link (R416): the management core's scores, self-tests and sequences
end, its ring state stays; the host link's reset disables every ring and drops the link, and every block goes to host bias, at once or
when the accesses already issued have ended. -/
def Obligations.Resets : Prop :=
  ∀ s : State,
    (s.dev.boot.power = .on → s.dev.logFits →
      (∀ kind, 1 ≤ kind → kind ≤ 3 → ∃ d, exec (.moduleReset kind) s = .next { s with dev := d } ∧ s.dev.wasReset kind d)
      ∧ (∃ d, exec .perstAssert s = .next { s with dev := d } ∧ s.dev.wasReset 2 d)
      ∧ ∀ v : BitVec 32, v.toNat.testBit 1 = false → bits v.toNat 8 8 = 0x5A →
        ∃ d, exec (.glbResetModule v) s = .next { s with dev := d } ∧ (s.dev.boot.recovery = false → s.dev.wasReset 3 d))
    ∧ (s.live →
      (∃ d, exec .mgmtWatchdogExpiry s = .next { s with dev := d } ∧ s.dev.mgmtWasReset d)
      ∧ (∃ d, exec .mgmtCoreReset s = .next { s with dev := d } ∧ s.dev.mgmtWasReset d)
      ∧ (∀ v : BitVec 32, v.toNat.testBit 0 = false → bits v.toNat 8 8 = 0x5A →
        ∃ d, exec (.glbResetMgmt v) s = .next { s with dev := d } ∧ (s.dev.boot.recovery = false → s.dev.mgmtWasReset d)))
    ∧ (s.live → s.dev.cru.joins = [] → ∀ x : Flip, x = { cmd := ownCmd, first := 0, count := 8192, toHost := true } →
      ∃ d, exec .hostLinkReset s = .next { s with dev := d } ∧ (∀ q, q < 64 → sqOn d q = false) ∧ (∀ c, c < 64 → cqOn d c = false)
        ∧ eqOn d = false ∧ (∀ q, (sq d q).head = 0 ∧ (sq d q).tail = 0) ∧ d.boot.cxlUp = false ∧ d.boot.hostDown = true
        ∧ d.boot.lastReset = 4 ∧ d.forge = s.dev.forge ∧ d.tab = s.dev.tab ∧ d.nv = s.dev.nv
        ∧ (s.dev.mem.flips = [] → (∀ p ∈ s.dev.forge.f, ∀ r ∈ p.2.streams, ∀ m ∈ r.2.movers, moverTouches s.dev x m = false) →
          d.mem = { s.dev.mem with bias := [] })
        ∧ ((∃ p ∈ s.dev.forge.f, ∃ r ∈ p.2.streams, ∃ m ∈ r.2.movers, moverTouches s.dev x m = true) →
          d.mem.bias = s.dev.mem.bias ∧ tget d.mem.flips s.dev.mem.nextId = some x))


/-- The steps of start-up (R425 to R428, R432, R437, R438, R341, R348, R441, R449, R472, R489): what each records when it completes;
steps 7 and 8 complete as the ports they wait for do. -/
def Obligations.StartupSteps : Prop :=
  ∀ s : State, s.dev.boot.power = .on →
    (∀ ts : List FlashTarget, 5 ≤ s.dev.boot.stage → s.dev.boot.recovery = false → s.dev.boot.step6 = false →
      exec (.fallowDiscovery ts) s = .next { s with dev := settle (startupDone (modBoot (fun b => { b with step6 := true, stage := max b.stage 6 })
        (falDiscover (if s.dev.boot.carrier then ts else []) s.dev))) }
      ∧ (falDiscover [] s.dev).fal.mode = .absent)
    ∧ (5 ≤ s.dev.boot.stage → s.dev.boot.recovery = false → s.dev.boot.step7 = false →
      (portsTrained s.dev = false → laterSteps s.dev = s.dev)
      ∧ (portsTrained s.dev = true → ∀ d, d = laterSteps s.dev → d.boot.step7 = true ∧ 7 ≤ d.boot.stage
        ∧ (fabricAligned s.dev = true → 8 ≤ d.boot.stage) ∧ (s.dev.boot.step6 = true → d.boot.doneSent = true)
        ∧ d.regs = s.dev.regs ∧ d.subs = s.dev.subs))
    ∧ (s.dev.quiet →
    (s.dev.boot.stage = 0 →
      exec .perstRelease s = .next { s with dev := modBoot (fun b => { b with perst := true, stage := 1 }) s.dev })
    ∧ (s.dev.boot.stage = 1 → s.dev.boot.recovery = false → ∀ k,
      ((fwCheck s.dev s.dev.nv.slotA = 0 ∧ fwCheck s.dev s.dev.nv.slotB ≠ 0 ∧ k = 0)
        ∨ (fwCheck s.dev s.dev.nv.slotA ≠ 0 ∧ fwCheck s.dev s.dev.nv.slotB = 0 ∧ k = 1)
        ∨ (fwCheck s.dev s.dev.nv.slotA = 0 ∧ fwCheck s.dev s.dev.nv.slotB = 0
          ∧ k = if fwGen s.dev.nv.slotA < fwGen s.dev.nv.slotB then 1 else 0)) →
      ∃ d, exec .firmwareVerify s = .next { s with dev := d } ∧ d.nv = s.dev.nv ∧ d.boot.stage = 2 ∧ d.boot.fwSlot = k
        ∧ d.boot.fwGen = leAt (slotOf s.dev k) 8 4 ∧ d.boot.fwSvn = byteAt (slotOf s.dev k) 12 ∧ d.boot.recovery = false)
    ∧ (s.dev.boot.stage = 1 → s.dev.boot.recovery = false → fwCheck s.dev s.dev.nv.slotA ≠ 0 → fwCheck s.dev s.dev.nv.slotB ≠ 0 →
      ∃ d, exec .firmwareVerify s = .next { s with dev := d } ∧ d.nv = s.dev.nv ∧ d.boot.recovery = true
        ∧ d.boot.stage = (if s.dev.boot.cxlUp then 5 else 1))
    ∧ (s.dev.boot.stage = 2 → calCause s.dev (slice s.dev.nv.cal 0 14528) = 0 →
      exec .calRecordLoad s = .next { s with dev := modBoot (fun b => { b with stage := 3, calRec := slice s.dev.nv.cal 0 14528 }) s.dev })
    ∧ (s.dev.boot.stage = 2 → calCause s.dev (slice s.dev.nv.cal 0 14528) ≠ 0 →
      ∃ d, exec .calRecordLoad s = .next { s with dev := d } ∧ d.boot.stage = 3 ∧ d.boot.calDefaults = true ∧ fld d 0x440000 0 6 = 28
        ∧ d.nv = s.dev.nv)
    ∧ (∀ pass : BitVec 16, s.dev.boot.stage = 3 → s.dev.mem.booted = false → s.dev.boot.cxlUp = false →
      ∃ d, exec (.gddr7BootTraining pass) s = .next { s with dev := d } ∧ d.boot.stage = 4 ∧ d.mem.booted = true
        ∧ ∀ i, i < 16 → if pass.getLsbD i = true ∧ retired s.dev 2 i = false then (gddr d i).trained = true
          else (gddr d i).failed = true)
    ∧ (∀ (w v : Nat) (proto : Bool), [1, 2, 4, 8, 16].contains w = true → 1 ≤ v → v ≤ 5 → s.dev.boot.stage = 4 →
      s.dev.boot.recovery = false →
      ∃ d, exec (.cxlLinkUp w v proto) s = .next { s with dev := d } ∧ d.boot.cxlUp = true ∧ d.boot.cxlWidth = w ∧ d.boot.cxlSpeed = v
        ∧ d.boot.cxlProto = proto ∧ 5 ≤ d.boot.stage ∧ d.fal.mode = .discovering)
    ∧ (s.dev.boot.stage = 4 → s.dev.boot.recovery = false → s.dev.boot.cxlUp = false →
      ∃ d, exec .hostlessTimeout s = .next { s with dev := d } ∧ d.boot.hostless = true ∧ 5 ≤ d.boot.stage ∧ d.fal.mode = .discovering)
    ∧ (s.dev.boot.stage < 5 ∨ s.dev.boot.cxlUp = false →
      exec .configRequest s = .next { s with dev := modBoot (fun b => { b with cfgRetry := b.cfgRetry + 1 }) s.dev })
    ∧ (¬ (s.dev.boot.stage < 5 ∨ s.dev.boot.cxlUp = false) → exec .configRequest s = .next s)
    ∧ (s.dev.boot.commitSvn = true → s.dev.nv.fuse.svn < s.dev.boot.fwSvn → fabricService s.dev none = true →
      exec .svnAdvanced s = .next { s with
        dev := postEvent 0x204 (toLE 1 s.dev.boot.fwSvn) (modFuse (fun f => { f with svn := s.dev.boot.fwSvn }) s.dev) }))


/-- CAL_WRITE in its four modes, on a record that passes its checks (R434, R439, R443, R444), and the end of a write in progress
(R433): what is erased and written, the events, the result, the fresh nonce of modes 2 and 3; and the responder's certificates and
measurements (R445 to R447), from step 5 on and outside recovery mode. -/
def Obligations.SecurityCommands : Prop :=
  ∀ (s : State) (q : Nat) (e : Bytes) (a : Dev), s.live →
    (s.dev.begins q e a → opOf e = 0x72 → plainOk e [(16, 12)] = true → leAt e 16 8 % 64 = 0 → a.boot.calBusy = none →
      (∀ b, b = hostRead a (leAt e 16 8) 14528 → modeOf e = 0 → leAt e 24 4 = 14528 → calCause a b = 0 → calZero b = true →
        exec (.calWriteCalibration q e) s = .next { s with
          dev := modBoot (fun x => { x with calBusy := some (sqCmd q e, 0, b, 0) }) { a with nv := { a.nv with cal := [] } } })
      ∧ (∀ b, b = hostRead a (leAt e 16 8) (leAt e 24 4) → modeOf e = 1 → 20480 ≤ leAt e 24 4 → leAt e 24 4 ≤ 8388608 →
        leAt e 24 4 = 20480 + fwPayload b → fwCheck a b = 0 → a.boot.fwGen < fwGen b →
        exec (.calWriteFirmware q e) s = .next { s with
          dev := modBoot (fun x => { x with calBusy := some (sqCmd q e, 1, b, 1 - a.boot.fwSlot) })
            (putSlot (1 - a.boot.fwSlot) [] (count 18 1 2 {} a)) })
      ∧ (∀ b r, b = hostRead a (leAt e 16 8) 17440 → modeOf e = 2 → leAt e 24 4 = 17440 → authCheck a 2 16 b = 0 →
        (leAt b 48 4).testBit (byteAt b 44) = false → (leAt b 48 4).testBit (2 + byteAt b 45) = false →
        r = a.nv.fuse.revoked ||| BitVec.ofNat 4 (leAt b 48 4) → r.toNat % 4 ≠ 3 → r.toNat / 4 ≠ 3 →
        ∃ d, d = postEvent 0x205 (toLE 1 r.toNat) (modFuse (fun f => { f with revoked := r }) (newNonce (count 18 1 2 {} a)))
          ∧ exec (.calWriteFuseAction q e) s = .next { s with dev := d.completed q e 0 (secFuse d) })
      ∧ (∀ b x, b = hostRead a (leAt e 16 8) 17440 → modeOf e = 3 → leAt e 24 4 = 17440 → a.nv.fuse.debugOff = false →
        authCheck a 3 8 b = 0 → x = a.boot.scope ||| BitVec.ofNat 3 (leAt b 48 4) →
        exec (.calWriteDebugUnlock q e) s = .next { s with
          dev := (postEvent 0x206 (toLE 4 x.toNat) (setEvt oSecEvt 3
            (modBoot (fun y => { y with scope := x }) (newNonce (count 18 1 2 {} a))))).completed q e 0 x.toNat }))
    ∧ (∀ b k, (∀ q', (sq s.dev q').waiting = none) →
      (s.dev.boot.calBusy = some (sqCmd q e, 0, b, k) → exec .calWriteRetry s = .next { s with
        dev := (postEvent 0x201 (toLE 4 (leAt b 14524 4)) (modBoot (fun x => { x with calBusy := none })
          { s.dev with nv := { s.dev.nv with cal := b } })).completed q e 0 (leAt b 14524 4) })
      ∧ (s.dev.boot.calBusy = some (sqCmd q e, 1, b, k) → exec .calWriteRetry s = .next { s with
        dev := (postEvent 0x203 (toLE 1 k ++ toLE 4 (fwGen b)) (count 18 1 2 {} (putSlot k b
          (modBoot (fun x => { x with calBusy := none }) s.dev)))).completed q e 0 (fwGen b) }))
    ∧ (∀ req : Bytes, 5 ≤ s.dev.boot.stage → s.dev.boot.recovery = false → req.length ≤ 32768 → byteAt req 0 ≠ 0 → s.dev.countsOff 18 →
      (byteAt req 1 = 0x82 → exec (.spdmRequest req) s = .next { s with
        dev := modBoot (fun b => { b with spdmOpen := false, spdmOut := Config.spdmReply req s.dev.nv.chainRsa }) s.dev })
      ∧ (byteAt req 1 = 0xE0 → (byteAt req 2).testBit 0 = false → exec (.spdmRequest req) s = .next { s with
        dev := modBoot (fun b => { b with spdmOpen := false, spdmOut := Config.spdmReply req (measurements s.dev) }) s.dev }))

/-- The length of the coming Swath (R26, R28, R30, R31, R40): the SWC rises by one modulo 2^48, N_s takes effect, and one slot is
inserted, or one removed that no adaptation slot, retraining window or Furrow holds, as the midpoint says; never more than one. -/
def Obligations.SwathLength : Prop :=
  ∀ d : Dev,
    let n := nsCfg d
    let c := (nextSwath d).clk
    c.swc = d.clk.swc + 1 ∧ c.nsNow = n ∧ c.swStart = d.clk.swStart + 6 * d.clk.lenNow
    ∧ (1 ≤ midpoint d → c.lenNow = n + 1 ∧ c.removed = none)
    ∧ (midpoint d = 0 → c.lenNow = n ∧ c.removed = none)
    ∧ (midpoint d ≤ -1 →
      (c.removed = none ∧ c.lenNow = n
        ∧ ∀ x, x < n → (n - 1 - x) % 256 = 0 ∨ windowSlot d (2 ^ comingRetrain d) x = true ∨ heldAt d x ≠ [])
      ∨ ∃ x, c.removed = some x ∧ c.lenNow = n - 1 ∧ x < n ∧ (n - 1 - x) % 256 ≠ 0
        ∧ windowSlot d (2 ^ comingRetrain d) x = false ∧ heldAt d x = [])

/-- A Swath boundary on a fabric at rest (R28, R26, R43, R421, R471): the clock is that of the next Swath, every change that waits
for a boundary is in force, every allowance is full, and every function's share has counted the Swath. -/
def Obligations.BoundaryAdvances : Prop :=
  ∀ s : State, s.live → s.dev.sw.notices = [] → s.dev.ring.dstPairs = [] → s.dev.cru.nodes = [] → s.dev.tab.budgetWait = [] →
    s.dev.sw.rx = [] → s.dev.bpm.resv = [] → (∀ p ∈ s.dev.subs, p.2.state ≠ .hold ∧ p.2.policed = []) →
    ∃ d, exec .swathBoundary s = .next { s with dev := d }
      ∧ d.clk.swc = s.dev.clk.swc + 1 ∧ d.clk.nsNow = nsCfg s.dev ∧ d.clk.lenNow = (nextSwath s.dev).clk.lenNow
      ∧ d.clk.swStart = s.dev.clk.swStart + 6 * s.dev.clk.lenNow
      ∧ nodeNow d = rg s.dev oGlbNode ∧ (∀ lp tc, lp < 256 → tc < 8 → inForce d (oShpRate lp tc) = rg s.dev (oShpRate lp tc))
      ∧ (∀ i b, tget s.dev.tab.budgets i = some b → b.old = [] →
        tget d.tab.budgets i = some { b with allow := b.rate, drawn := [] })
      ∧ (∀ k, k < 22 → (tgetD d.hlt.share k (0, 0)).1 = ((tgetD s.dev.hlt.share k (0, 0)).1 + 1) % 2 ^ 48)
      ∧ d.nv = s.dev.nv ∧ (∀ eid x, tget s.dev.tab.ept eid = some x → x.lastD = none → tget d.tab.ept eid = some x)
      ∧ d.tab.paths = s.dev.tab.paths ∧ d.forge = s.dev.forge

/-- Writes of SWATH_CFG (R25, R26, R500): a length that no rule forbids is stored; one that would change it under a fabric port in
service sets cfg_refused alone; a reserved length or the length as it is changes nothing; realign takes the fabric sub-ports out of
service, to train or align again, and then a new length is stored. -/
def Obligations.SwathConfigWrites : Prop :=
  ∀ (s : State) (v : BitVec 32), s.live → s.dev.boot.recovery = false →
    let n := bits v.toNat 0 16
    let z := realign s.dev
    (v.toNat.testBit 16 = false →
      (lenOk n = false ∨ n = nsCfg s.dev → exec (.swathCfgWrite v) s = .next s)
      ∧ (lenOk n = true → n ≠ nsCfg s.dev →
        (fabricService s.dev none = false → exec (.swathCfgWrite v) s = .next { s with dev := putFld oSwathCfg 0 16 n s.dev })
        ∧ (fabricService s.dev none = true → exec (.swathCfgWrite v) s = .next { s with dev := setEvt oSwathStat 9 s.dev })))
    ∧ (v.toNat.testBit 16 = true → exec (.swathCfgWrite v) s = exec (.swathRealign v) s)
    ∧ (lenOk n = false ∨ n = nsCfg s.dev → exec (.swathRealign v) s = .next { s with dev := settle z })
    ∧ (lenOk n = true → n ≠ nsCfg s.dev → exec (.swathRealign v) s = .next { s with dev := settle (putFld oSwathCfg 0 16 n z) })
    ∧ z.clk = { s.dev.clk with realigned := true }
    ∧ (∀ lp ∈ allSubs s.dev, isEdge s.dev lp = false → (sub s.dev lp).state ∈ [PortState.aligning, .service, .hold] →
      (sub z lp).state = (if (sub s.dev lp).lock then .aligning else .training) ∧ (sub z lp).fresh = true)
    ∧ (∀ lp, isEdge s.dev lp = true → (sub z lp).state = (sub s.dev lp).state)

/-- What a marker, a lost alignment, a lost neighbour and the end of HOLD do to a fabric sub-port (R32, R112, R113, R131). -/
def Obligations.AlignmentEvents : Prop :=
  ∀ (s : State) (lp : Nat), s.dev.boot.power = .on → lp < 256 →
    let p := sub s.dev lp
    (isEdge s.dev lp = false → p.state = .service → 2 ≤ p.overs → exec (.swathAlignLost lp) s = .next { s with
      dev := settle (postEvent 3 (toLE 1 lp ++ toLE 2 (wrap 16 p.lastTheta)) (scoreEvent 4 1 (lp / 4)
        (modSub lp (fun p => { p with state := .hold, holdCount := 0, cause := .align, unreach := false }) s.dev))) })
    ∧ (isEdge s.dev lp = false → p.state = .service → p.lock = true → fld s.dev 0x100010 0 8 ≤ p.missing →
      exec (.neighbourUnreachable lp) s = .next { s with
        dev := settle (postEvent 8 (toLE 1 lp ++ toLE 2 ((p.nbr.map (·.node)).getD 0)) (scoreEvent 4 1 (lp / 4)
          (modSub lp (fun p => { p with state := .hold, holdCount := 0, cause := .liveness, unreach := true }) s.dev))) })
    ∧ (p.state = .hold → max 1 (fld s.dev (oPortHold (lp / 4)) 0 8) ≤ p.holdCount → exec (.holdExpiry lp) s = .next { s with
      dev := settle (modSub lp (fun p => { p with state := .down, unreach := false })
        (flushSub lp (when (!farHold s.dev lp) (cause 0) s.dev))) })
    ∧ (∀ (arr : Int) (u : Bytes), linkUp s.dev lp = true → unitOk u = true → uType u = 2 → markerOk (uBody u) = true →
      p.state = .service → ahead (uSeq u) p.link.expect = false → ∀ (half o : Int) (otx : Nat) (th : Option Int) (n : Neighbour),
      s.dev.quiet → p.blind = 0 → half = ((3 * s.dev.clk.nsNow / 2 : Nat) : Int) →
      o = tdiv ((arr - (byteAt (uBody u) 12 : Nat) + half) % ((3 * s.dev.clk.nsNow : Nat) : Int) - half) 3 → otx = beAt (uBody u) 10 2 →
      th = (if otx = 0x8000 then none else some (tdiv (o - signed 16 otx) 2)) →
      n = { node := beAt (uBody u) 0 2, serial := beAt (uBody u) 26 8, swc := beAt (uBody u) 2 6, ns := beAt (uBody u) 8 2,
            inFabric := (byteAt (uBody u) 13).testBit 0, fresh := (byteAt (uBody u) 13).testBit 1 } →
      ∃ d, exec (.markerReceive lp arr u) s = .next { s with dev := d } ∧ (sub d lp).nbr = some n ∧ (sub d lp).oRx = some o
        ∧ (sub d lp).theta = th ∧ (sub d lp).marked = true
        ∧ (sub d lp).overs = (if (th.map Int.natAbs).getD 0 > 8 then p.overs + 1 else 0)
        ∧ (sub d lp).state = .service ∧ d.clk = s.dev.clk
        ∧ (∀ v, v < 5 → tgetD (sub d lp).link.known v 0 = beAt (uBody u) (16 + 2 * v) 2)
        ∧ (∀ l, l ≠ lp → sub d l = sub s.dev l))

/-- Enabling, training, losing and disabling a port (R130, R95, R99): the states of Table 4.17. -/
def Obligations.PortStates : Prop :=
  ∀ (s : State) (p : Nat) (v : BitVec 32), s.live → p < 64 → s.dev.boot.recovery = false →
    (∀ r w, flag s.dev (oPortCfg p) 0 = false → regOf (oPortCfg p) = some r →
      w = writeFlds (rg s.dev (oPortCfg p)) (setBits v.toNat 0 1 1) r.flds →
      shStays (putReg (oPortCfg p) w s.dev) (rg s.dev oBpmRsv) 0 = true →
      ∃ d, exec (.portEnable p v) s = .next { s with dev := d } ∧ rg d (oPortCfg p) = w ∧ flag d (oPortCfg p) 0 = true
        ∧ (∀ lp ∈ subsOf d p, (sub d lp).state = .training ∧ (sub d lp).lock = false ∧ (sub d lp).served = false)
        ∧ (∀ off, off ≠ oPortCfg p → rg d off = rg s.dev off) ∧ (∀ lp, lp ∉ subsOf d p → sub d lp = sub s.dev lp))
    ∧ (flag s.dev (oPortCfg p) 0 = true → ∃ d, exec (.portDisable p v) s = .next { s with dev := settle (laterSteps d) }
        ∧ flag d (oPortCfg p) 0 = false ∧ d = stopPort p (putReg (oPortCfg p) (setBits (rg s.dev (oPortCfg p)) 0 1 0) s.dev))
    ∧ (∀ lp, lp / 4 = p → enabled s.dev lp = true → subExists s.dev lp = true →
      (laneRate s.dev lp = 1 → breakout s.dev lp ≠ 2) → trainWidth s.dev lp ≠ none → isEdge s.dev lp = false →
      (sub s.dev lp).state = .training → ∀ e, e = modSub lp (fun p => { p with
        lock := true, told := [], nbr := p.nbr.map (fun n => { n with fresh := false }),
        link := { p.link with markerSent := p.link.markerSent || decide (s.dev.clk.slot ≠ 0) } }) s.dev →
      exec (.portTrained lp) s = .next { s with dev := laterSteps (modSub lp (fun p => { p with state := .aligning })
        (if (sub s.dev lp).fresh = true ∨ (sub s.dev lp).served = false then restartCounts lp e else e)) })
    ∧ (∀ lp, lp / 4 = p → (sub s.dev lp).state = .aligning → exec (.linkSignalLoss lp) s = .next { s with
        dev := modSub lp (fun p => { p with state := .training }) (modSub lp (fun p => { p with lock := false }) s.dev) })
    ∧ (∀ lp, lp / 4 = p → (sub s.dev lp).state = .service → exec (.linkSignalLoss lp) s = .next { s with
        dev := settle (scoreEvent 4 1 p (modSub lp (fun p => { p with state := .hold, holdCount := 0, cause := .signal, unreach := false })
          (modSub lp (fun p => { p with lock := false }) s.dev))) })
    ∧ (∀ lp i, lp / 4 = p → i < 512 → isEdge s.dev lp = false → exec (.fecUncorrectable lp (some i)) s = .next { s with
        dev := settle (modLink lp (fun l => if l.loss then l else { l with loss := true, replayDue := true })
          (scoreEvent 3 0 i (count 1 2 1 { masters := [mPort lp] } (cause 0 s.dev)))) })

/-- A unit and what every field of it says (R100): built from any values of its fields, it reads back each one, and is good. A cell header and what every field of it says (R56, R115): built from any values of its fields, it reads back each one and passes
the test of its CRC; and a copy sent on is one link further along its path, all else as it was. -/
def Obligations.FormatsRoundTrip : Prop :=
  (∀ (ty cvc grant seq ack : Nat) (body : Bytes), ty < 5 → cvc < 8 → cvc ≠ 5 → cvc ≠ 6 → grant < 4096 → seq < 2 ^ 18 → ack < 2 ^ 18 →
    body.length = 544 →
    let u := mkUnit ty cvc grant seq ack body
    u.length = 552 ∧ unitOk u = true ∧ uType u = ty ∧ uCvc u = cvc ∧ uGrant u = grant ∧ uSeq u = seq ∧ uAck u = ack ∧ uBody u = body)
  ∧
  (∀ (hops : Bytes) (vc tc cnt dst src dl idx len hash : Nat) (first last mcast : Bool),
    hops.length = 16 → vc < 6 → tc < 8 → cnt < 16 → dst < 2 ^ 24 → src < 2 ^ 24 → dl < 65536 → idx < 256 →
    16 ≤ len → len ≤ 512 → len % 16 = 0 → (last = true ∨ len = 512) → hash < 65536 →
    let h := mkHdr hops vc tc first last cnt dst src dl idx len mcast hash
    h.length = 32 ∧ slice h 0 16 = hops ∧ hVc h = vc ∧ hTc h = tc ∧ hFirst h = first ∧ hLast h = last ∧ hCnt h = cnt ∧ hPtr h = 0
    ∧ hDst h = dst ∧ hSrc h = src ∧ hDl h = dl ∧ hIdx h = idx ∧ hLen h = len ∧ hMcast h = mcast ∧ hLate h = false ∧ hHash h = hash
    ∧ cellOk h = true
    ∧ (∀ late, hPtr (hopCopy h late) = 1 ∧ hLate (hopCopy h late) = late ∧ cellOk (hopCopy h late) = true
      ∧ hDst (hopCopy h late) = dst ∧ hDl (hopCopy h late) = dl ∧ slice (hopCopy h late) 0 16 = hops))


/-- What a unit brings a fabric sub-port (R107, R108, R109): its grant and its ack; the one CELL expected advances the sequence and
hands its cell on; one ahead of it is a loss; a REPLAY sets the place the replay starts from. -/
def Obligations.LinkUnits : Prop :=
  ∀ (s : State) (lp : Nat) (u : Bytes), s.dev.boot.power = .on → lp < 256 → linkUp s.dev lp = true → unitOk u = true →
    (sub s.dev lp).link.resume = false →
    let l := (sub s.dev lp).link
    let k := if uCvc u < 5 then tput l.known (uCvc u) (extendGrant (tgetD l.known (uCvc u) 0) (uGrant u)) else l.known
    let heard := modLink lp (fun l => { l with known := k, acked := uAck u }) s.dev
    (uType u = 0 → uSeq u = l.expect → exec (.cellUnitReceive lp u) s = .next { s with
      dev := settle (acceptCell lp (slice (uBody u) 0 32) (slice (uBody u) 32 512)
        (modLink lp (fun l => { l with expect := (l.expect + 1) % 2 ^ 18, loss := false, replayDue := false }) heard)) })
    ∧ (uType u = 0 → uSeq u ≠ l.expect → ahead (uSeq u) l.expect = true → exec (.cellUnitReceive lp u) s = .next { s with
      dev := settle (modLink lp (fun l => if l.loss then l else { l with loss := true, replayDue := true }) heard) })
    ∧ (uType u = 0 → uSeq u ≠ l.expect → ahead (uSeq u) l.expect = false →
      exec (.cellUnitReceive lp u) s = .next { s with dev := settle heard })
    ∧ (uType u = 1 ∨ uType u = 4 → ahead (uSeq u) l.expect = false →
      exec (.idleAdaptUnitReceive lp u) s = .next { s with dev := settle heard })
    ∧ (uType u = 3 → ahead (uSeq u) l.expect = false → l.replaySeen = none → l.replay.any (fun x => x.1 == (uAck u + 1) % 2 ^ 18) = true →
      (uAck u + 1) % 2 ^ 18 ≠ l.seqNext → 0 < fld s.dev 0x100018 0 4 → exec (.replayReceive lp u) s = .next { s with
      dev := settle (modLink lp (fun l => { l with replayAt := some ((uAck u + 1) % 2 ^ 18) })
        (modLink lp (fun l => { l with replaySeen := some ((uAck u + 1) % 2 ^ 18, 1) }) heard)) })
    ∧ (l.loss = true → exec (.replayRepeat lp) s = .next { s with dev := settle (modLink lp (fun l => { l with replayDue := true }) s.dev) })

/-- What a unit opportunity transmits (R104, R36, R111, R106): an ADAPT unit in an adaptation slot; else, with no Furrow cell, the
marker of the Swath; else a REPLAY that is due. -/
def Obligations.UnitOpportunities : Prop :=
  ∀ (s : State) (lp : Nat), s.live → lp < 256 → linkUp s.dev lp = true → (∀ v, v < 6 → staged s.dev lp v = []) →
    let l := (sub s.dev lp).link
    let hdr := fun (ty : Nat) (body : Bytes) =>
      mkUnit ty (nextGrant l).1 (nextGrant l).2.1 (l.replayAt.getD l.seqNext) ((l.expect + 2 ^ 18 - 1) % 2 ^ 18) body
    s.dev.countsOff 1 → s.dev.countsOff 2 →
    (adaptSlot s.dev = true → l.adaptSent < adaptUnits s.dev lp → ∃ d, exec (.unitOpportunity lp) s = .next { s with dev := d }
      ∧ (sub d lp).lastTx = hdr 4 [] ∧ (sub d lp).link.adaptSent = l.adaptSent + 1 ∧ d.sw = s.dev.sw ∧ d.regs = s.dev.regs)
    ∧ (adaptSlot s.dev = false → l.markerSent = false → ∃ d, exec (.unitOpportunity lp) s = .next { s with dev := d }
      ∧ (sub d lp).lastTx = hdr 2 (markerBody s.dev lp) ∧ (sub d lp).link.markerSent = true
      ∧ (sub d lp).link.vc4Sent = l.vc4Sent + 1 ∧ d.sw = s.dev.sw ∧ d.regs = s.dev.regs)
    ∧ (adaptSlot s.dev = false → l.markerSent = true → (sub s.dev lp).state = .service → l.replayDue = true →
      ∃ d, exec (.unitOpportunity lp) s = .next { s with dev := d }
        ∧ (sub d lp).lastTx = hdr 3 [] ∧ (sub d lp).link.replayDue = false ∧ d.sw = s.dev.sw ∧ d.regs = s.dev.regs)

/-- A matching (R139, R141, R142): each input and each output is in at most one pair, every pair is a request of this slot, and no
pair uses a crossbar port that the calendar holds in the slot it is made for. Round-robin pointers (R143): a pointer moves only for a port that is in a pair, and an input's only to the place after the output
it accepted in the first iteration. -/
def Obligations.MatchingIsValid : Prop :=
  (∀ (slot : Nat) (d : Dev),
    let m := (matching slot d).pairs
    (m.map (·.i)).Nodup ∧ (m.map (·.o)).Nodup
    ∧ (∀ r ∈ m, r ∈ requests d ∧ ∀ h ∈ heldAt d slot, h.2.inX ≠ r.i ∧ furrowX h.2 ≠ r.o)
    ∧ (∀ r ∈ requests d, ∃ p ∈ d.sw.voq, p.1 = voqKey r.i r.o r.v ∧ ∃ x ∈ p.2, x.committed = false ∧ x.rid = r.rid ∧ ready d x.tgt r.v = true))
  ∧
  (∀ (slot : Nat) (d : Dev),
    let m := matching slot d
    (∀ o, (∀ r ∈ m.pairs, r.o ≠ o) → tgetD m.g o 0 = tgetD d.sw.grant o 0)
    ∧ (∀ i, (∀ r ∈ m.pairs, r.i ≠ i) → tgetD m.a i 0 = tgetD d.sw.accept i 0)
    ∧ (∀ i, tgetD m.a i 0 = tgetD d.sw.accept i 0 ∨ ∃ r ∈ m.pairs, r.i = i ∧ tgetD m.a i 0 = (r.o + 1) % 88))


/-- A crossbar slot (R139, R141, R144): what the calendar holds and the matching due cross, the matching for the slot four on begins,
and the slot index moves on; after the last slot nothing more crosses before the boundary. -/
def Obligations.CrossbarSlot : Prop :=
  ∀ (s : State) (m : List (Nat × Nat × Nat × Nat)) (rest : List (List (Nat × Nat × Nat × Nat))) (d1 d2 d3 : Dev) (x : Nat),
    s.dev.boot.power = .on → s.dev.tel.once.contains (31, 0) = false → s.dev.clk.removed = none → x = s.dev.clk.slot →
    d1 = { s.dev with clk := { s.dev.clk with now := max s.dev.clk.now (s.dev.clk.swStart + 6 * x) } } →
    d2 = each (heldAt d1 x) crossHeld d1 → d2.sw.flight = m :: rest →
    d3 = beginMatch (each m crossPair (modSw (fun w => { w with flight := rest }) d2)) →
    (x < slotAfter d3 x →
      exec .crossbarSlot s = .next { s with dev := settle { d3 with clk := { d3.clk with slot := slotAfter d3 x } } })
    ∧ (slotAfter d3 x ≤ x → exec .crossbarSlot s = .next { s with
      dev := settle (modTel (fun y => { y with once := (31, 0) :: y.once }) { d3 with clk := { d3.clk with slot := slotAfter d3 x } }) })

/-- Lending of buffers (R147, R149): a credit takes one buffer of P0 while the owner is below its minimum, and the grant count of its
VC rises by one modulo 65,536; a frame that waits for buffers is tried again (R150, R151); the mode change that waited for P1 to
empty takes place (R154, R155). -/
def Obligations.BufferLending : Prop :=
  ∀ (s : State) (lp vc x : Nat), s.live → lp < 256 → vc < 5 → 64 ≤ x → x < 87 →
    (isEdge s.dev lp = false → (sub s.dev lp).state ∈ [PortState.aligning, .service, .hold] → tgetD (sub s.dev lp).link.lent vc 0 < fld s.dev 0x1C0014 0 12 →
      (useOf s.dev (ownExt lp vc)).p0 < ownMin s.dev (ownExt lp vc) → p0Used s.dev < p0Cells →
      ∃ d, exec (.creditLend lp vc) s = .next { s with dev := d }
        ∧ tgetD (sub d lp).link.lent vc 0 = tgetD (sub s.dev lp).link.lent vc 0 + 1
        ∧ tgetD (sub d lp).link.granted vc 0 = (tgetD (sub s.dev lp).link.granted vc 0 + 1) % 65536
        ∧ vc ∈ (sub d lp).link.changed ∧ (useOf d (ownExt lp vc)).p0 = (useOf s.dev (ownExt lp vc)).p0 + 1
        ∧ (∀ o, o ≠ ownExt lp vc → useOf d o = useOf s.dev o) ∧ (∀ l, l ≠ lp → sub d l = sub s.dev l)
        ∧ d.tab = s.dev.tab ∧ d.sw = s.dev.sw)
    ∧ (tieWinner s.dev (rqSlot (ownInt x vc)) = none → exec (.bufferLendRetry x vc) s = .next { s with
      dev := settle (each ((s.dev.sw.tx.filter (fun p => p.2.fr.xport == x && vcOf s.dev p.2.fr == vc)).map (·.1)) tryTx s.dev) })
    ∧ (s.dev.bpm.pending = true → p1Used s.dev = 0 → exec .bpmSpillDrained s = .next { s with
      dev := postEvent 0xC (toLE 1 3 ++ toLE 1 0) (modBpm (fun b => { b with mode := 3, pending := false }) s.dev) })
    ∧ (∀ v : BitVec 32, s.dev.boot.recovery = false → deviceNow s.dev 0x1C0000 = false → p1Used s.dev = 0 → v.toNat % 4 = 3 → s.dev.bpm.mode ≠ 3 →
      exec (.bpmModeWrite v) s = .next { s with
        dev := postEvent 0xC (toLE 1 3 ++ toLE 1 0) (modBpm (fun b => { b with mode := 3, pending := false }) s.dev) })

/-- The edge personality (R123, R122, R125, R127, R167): a frame with a bad check sequence is dropped and counted; an ARP request for
the own address is answered; a pause is repeated while its queue stands above xon, and begun and ended as the peer says; a frame
in reassembly past its deadline is discarded. -/
def Obligations.EdgeFrames : Prop :=
  (∀ (s : State) (lp : Nat), s.live → lp < 256 →
    (∀ f : Bytes, isEdge s.dev lp = true → (sub s.dev lp).state = .service → toLE 4 (crc32 (f.take (f.length - 4))) ≠ f.drop (f.length - 4) →
      exec (.edgeFrameReceive lp f) s = .next { s with dev := count 2 6 1 { masters := [mPort lp] } (tally 16 lp s.dev) })
    ∧ (∀ (f smac : Bytes) (arp : Bytes), isEdge s.dev lp = true → (sub s.dev lp).state = .service → smac.length = 6 → arp.length = 46 →
      f = (bcastMac ++ smac ++ [0x08, 0x06] ++ arp) ++ toLE 4 (crc32 (bcastMac ++ smac ++ [0x08, 0x06] ++ arp)) →
      ip4Valid s.dev lp = true → slice arp 0 8 = [0x00, 0x01, 0x08, 0x00, 0x06, 0x04, 0x00, 0x01] → slice arp 24 4 = ownIp4 s.dev lp →
      ∃ d, exec (.edgeFrameReceive lp f) s = .next { s with dev := d }
        ∧ (sub d lp).lastTx.take 42 = smac ++ ownMac s.dev lp ++ [0x08, 0x06, 0x00, 0x01, 0x08, 0x00, 0x06, 0x04, 0x00, 0x02]
          ++ ownMac s.dev lp ++ ownIp4 s.dev lp ++ slice arp 8 6 ++ slice arp 14 4
        ∧ (sub d lp).lastTx.length = 64 ∧ d.sw = s.dev.sw ∧ d.tab = s.dev.tab)
    ∧ (∀ (f : Bytes) (t q : Nat), t < 8 → beAt f 2 2 = 2 ^ t → q = beAt f (4 + 2 * t) 2 → q ≠ 0 →
      exec (.pfcFrameReceive lp f) s = .next { s with
        dev := modSub lp (fun p => { p with edge := { p.edge with paused := tput p.edge.paused t q } }) s.dev })
    ∧ (∀ tc, tc < 8 → exec (.pfcPauseExpiry lp tc) s = .next { s with
        dev := modSub lp (fun p => { p with edge := { p.edge with paused := tdel p.edge.paused tc } }) s.dev })
    ∧ (∀ n r, s.dev.sw.reasm[n]? = some r → isLate s.dev r.dl = true → exec (.reassemblyDeadline n) s = .next { s with
        dev := settle (dropReasm r s.dev) }))
  ∧ (∀ (s : State) (lp tc : Nat), s.dev.boot.power = .on → lp < 256 → tc < 8 → tget (sub s.dev lp).edge.xoff tc ≠ none →
    xonOf s.dev lp < ingressHeld s.dev lp tc →
    exec (.pfcRepeat lp tc) s = .next { s with dev := settle (pfcOut lp tc 0xFFFF s.dev) }
    ∧ (sub (pfcOut lp tc 0xFFFF s.dev) lp).lastTx.take 18 = pfcMac ++ ownMac s.dev lp ++ [0x88, 0x08, 0x01, 0x01] ++ toBE 2 (2 ^ tc))

/-- What an admission refuses, and the deadline of what it admits (R44, R49, R53, R65, R76, R420). -/
def Obligations.AdmissionRules : Prop :=
  ∀ (d : Dev) (fr : Frame), fr.direct = none → fr.furrow = none →
    (reservedEid fr.dst = true → admitFrame d fr = .refuse 0x10 0)
    ∧ (reservedEid fr.dst = false → fr.dst ∈ d.hlt.eids → admitFrame d fr = .refuse 4 0)
    ∧ (reservedEid fr.dst = false → fr.dst ∉ d.hlt.eids →
      (tget d.tab.ept fr.dst = none → admitFrame d fr = .refuse 4 0)
      ∧ (∀ e, tget d.tab.ept fr.dst = some e → e.mcast = true →
        (tget d.tab.groups e.idx = none → admitFrame d fr = .refuse 4 0)
        ∧ ∀ g, tget d.tab.groups e.idx = some g →
          (e.tcMask.testBit fr.tc = false → admitFrame d fr = .refuse 4 0)
          ∧ (e.tcMask.testBit fr.tc = true → g.tc ≠ fr.tc → admitFrame d fr = .refuse 0x10 0))
      ∧ ∀ e, tget d.tab.ept fr.dst = some e → e.mcast = false →
        (e.tcMask.testBit fr.tc = false → admitFrame d fr = .refuse 4 0)
        ∧ (e.tcMask.testBit fr.tc = true → (e.kind ≠ 4 ∨ cellsOf fr.data.length ≤ 16) →
          ∀ pi base, (pi, base) = e.slots.getD (flowHash fr.src fr.dst fr.label % e.slots.length) (0, 0) →
          (tget d.tab.paths pi = none → admitFrame d fr = .refuse 4 0)
          ∧ ∀ p, tget d.tab.paths pi = some p →
            (p.down = true → admitFrame d fr = .refuse 4 0)
            ∧ (p.down = false → firstHopOk d p = false → admitFrame d fr = .refuse 4 0)
            ∧ (p.down = false → firstHopOk d p = true → e.fence = none → vcOf d fr ≠ 4 →
              ∀ bi, bi = base + popCount fr.tc e.tcMask →
              (tget d.tab.budgets bi = none → admitFrame d fr = .refuse 0x10 0)
              ∧ ∀ b, tget d.tab.budgets bi = some b →
                (b.vcMask.testBit (vcOf d fr) = false → admitFrame d fr = .refuse 0x10 0)
                ∧ (b.vcMask.testBit (vcOf d fr) = true → b.burst < cellsOf fr.data.length → admitFrame d fr = .refuse 1 0)
                ∧ (b.vcMask.testBit (vcOf d fr) = true → cellsOf fr.data.length ≤ b.burst → ∀ q, seqFor d fr = .ok q →
                  ∃ a, admitFrame d fr = .ok a ∧ a.vc = vcOf d fr ∧ a.budget = some bi ∧ a.hops = p.hops ∧ a.nhop = p.nhop - 1
                    ∧ a.dl = (d.clk.swc.toNat % 65536 + 2 * linksOf p + 1 + ceilDiv (cellsOf fr.data.length) b.rate
                      + ceilDiv (p.delay + 8 * linksOf p) d.clk.nsNow) % 65536))))

/-- The Endpoint Table's commands (R64, R83, R84): an entry is written with its epoch, which rises when the paths of its slots change;
an entry is cleared whatever its fence; both complete with OK, EPT_SET with the epoch. -/
def Obligations.EptCommands : Prop :=
  ∀ (s : State) (q : Nat) (e : Bytes) (a : Dev), s.live → s.dev.begins q e a →
    (∀ m ps, opOf e = 0x30 → modeOf e = 0 → plainOk e [(16, 8)] = true → eptImage (sqCmd q e) (leAt e 16 8) a = some m →
      ps = (match m.peer with
        | some r => tput a.tab.peers m.e.idx r
        | none => a.tab.peers) →
      (tget a.tab.ept m.eid = none → m.e.slots.any (fun x => decide (65535 < refsOf a x.1 + slotUses m.e.slots x.1)) = false →
        a.tab.ept.length < 524288 → exec (.eptSet q e) s = .next { s with
          dev := (count 4 4 1 { priv := some 1 } (modTab (fun t => { t with ept := tput t.ept m.eid m.e, peers := ps }) a)).completed q e 0 0 })
      ∧ (∀ o, tget a.tab.ept m.eid = some o → o.fence = none →
        m.e.slots.any (fun x => decide (65535 < refsOf a x.1 + slotUses m.e.slots x.1 - slotUses o.slots x.1)) = false →
        (o.slots.map (·.1) = m.e.slots.map (·.1) → exec (.eptSet q e) s = .next { s with
          dev := (count 4 4 1 { priv := some 1 } (modTab (fun t => { t with
            ept := tput t.ept m.eid { m.e with epoch := o.epoch, lastD := o.lastD }, peers := ps }) a)).completed q e 0 o.epoch })
        ∧ (o.slots.map (·.1) ≠ m.e.slots.map (·.1) → exec (.eptSet q e) s = .next { s with
          dev := (count 4 4 1 { priv := some 1 } (modTab (fun t => { t with
            ept := tput t.ept m.eid { m.e with
              epoch := (o.epoch + 1) % 256, lastD := o.lastD,
              fence := if o.lastD.isSome then some (o.slots.map (·.1)) else none },
            peers := ps }) a)).completed q e 0 ((o.epoch + 1) % 256) })))
    ∧ (opOf e = 0x31 → modeOf e = 0 → plainOk e [(16, 3)] = true → reservedEid (leAt e 16 3) = false → a.sw.tx = [] →
      exec (.eptClear q e) s = .next { s with
        dev := (modTab (fun t => { t with ept := tdel t.ept (leAt e 16 3) }) a).completed q e 0 0 })

/-- The Path Store's commands (R67 to R75): an image that passes every check is written; a turn or node fault is told apart by the
detail; a path in use is neither written nor cleared; marks change the mark alone. -/
def Obligations.PathCommands : Prop :=
  ∀ (s : State) (q : Nat) (e : Bytes) (a : Dev), s.live → s.dev.begins q e a → opOf e = 0x32 →
    (∀ adr b w n full p, modeOf e = 0 → plainOk e [(16, 2), (24, 8)] = true → adr = leAt e 24 8 → adr % 64 = 0 →
      b = hostRead a adr 24 → w = leAt b 16 8 → n = bits w 0 4 + 1 → full = hostRead a adr (24 + 8 * n) →
      bits w 4 12 = 0 → bits w 32 32 = 0 → recsOk a full n = true →
      p = { hops := slice b 0 16, nhop := n, down := false, delay := bits w 16 16,
            node2 := if n < 2 then none else ((nodeRecs full n).map (·.node))[1]? } →
      (refsOf a (leAt e 16 2) ≠ 0 → exec (.pathSetWrite q e) s = .next { s with dev := a.completed q e 2 0 })
      ∧ (refsOf a (leAt e 16 2) = 0 → hopsOk a p.hops n = true → deadlineOk a (linksOf p) p.delay = true →
        (turnOk a (nodeRecs full n) (isInner (byteAt p.hops (n - 1))) = false →
          exec (.pathSetWrite q e) s = .next { s with dev := complete (sqCmd q e) 0x10 1 0 a })
        ∧ (turnOk a (nodeRecs full n) (isInner (byteAt p.hops (n - 1))) = true → nodesOk a p.hops n (nodeRecs full n) = false →
          exec (.pathSetWrite q e) s = .next { s with dev := complete (sqCmd q e) 0x10 2 0 a })
        ∧ (turnOk a (nodeRecs full n) (isInner (byteAt p.hops (n - 1))) = true → nodesOk a p.hops n (nodeRecs full n) = true →
          exec (.pathSetWrite q e) s = .next { s with
            dev := (modTab (fun t => { t with paths := tput t.paths (leAt e 16 2) p }) a).completed q e 0 0 })))
    ∧ (∀ i p, plainOk e [(16, 2)] = true → i = leAt e 16 2 → tget a.tab.paths i = some p →
      (modeOf e = 1 → exec (.pathSetMarkDown q e) s = .next { s with
        dev := (modTab (fun t => { t with paths := tput t.paths i { p with down := true } }) a).completed q e 0 0 })
      ∧ (modeOf e = 2 → exec (.pathSetMarkUp q e) s = .next { s with
        dev := (modTab (fun t => { t with paths := tput t.paths i { p with down := false } }) a).completed q e 0 0 })
      ∧ (modeOf e = 3 → refsOf a i = 0 → exec (.pathSetClear q e) s = .next { s with
        dev := (modTab (fun t => { t with paths := tdel t.paths i }) a).completed q e 0 0 })
      ∧ (modeOf e = 3 → refsOf a i ≠ 0 → exec (.pathSetClear q e) s = .next { s with dev := a.completed q e 2 0 }))

/-- Multicast groups and budgets (R46, R76, R79, R80): a group image that passes is written, a group cleared; a budget's change, and its
clearing, is accepted and waits for the boundary, where it is applied and completes; an entry in use is not cleared. -/
def Obligations.GroupAndBudgetCommands : Prop :=
  ∀ (s : State) (q : Nat) (e : Bytes) (a : Dev), s.live → s.dev.begins q e a →
    (∀ b w n g, opOf e = 0x33 → modeOf e = 0 → plainOk e [(16, 2), (24, 8)] = true → leAt e 24 8 % 64 = 0 →
      b = hostRead a (leAt e 24 8) 144 → w = leAt b 0 8 → n = bits w 1 6 → n ≤ 32 → w % 2 = 0 → bits w 7 1 = 0 → bits w 11 5 = 0 →
      bits w 36 12 = 0 → leAt b 136 8 = 0 → (∀ i, i < 32 → bits (leAt b (8 + 4 * i) 4) 12 11 = 0) →
      (∀ i, n ≤ i → i < 32 → leAt b (8 + 4 * i) 4 = 0) →
      g = { tc := bits w 8 3, budget := bits w 16 16, h := bits w 32 4, delay := bits w 48 16, targets := groupTargets b n } →
      deadlineOk a g.h g.delay = true → g.targets.all (targetOk a) = true →
      exec (.mcastSetWrite q e) s = .next { s with
        dev := (modTab (fun t => { t with groups := tput t.groups (leAt e 16 2) g }) a).completed q e 0 0 })
    ∧ (opOf e = 0x33 → modeOf e = 1 → plainOk e [(16, 2)] = true → exec (.mcastSetClear q e) s = .next { s with
        dev := (modTab (fun t => { t with groups := tdel t.groups (leAt e 16 2) }) a).completed q e 0 0 })
    ∧ (∀ i w, opOf e = 0x38 → modeOf e = 0 → plainOk e [(16, 2), (24, 8)] = true → i = leAt e 16 2 → w = leAt e 24 8 →
      1 ≤ bits w 0 16 → bits w 0 16 ≤ 32768 → 1 ≤ bits w 16 9 → bits w 16 9 ≤ 256 → bits w 42 4 ≠ 0 → bits w 28 4 = 0 → bits w 39 1 = 0 →
      bits w 46 18 = 0 → (bits w 32 7 < 64 ∧ subExists a (4 * bits w 32 7 + bits w 40 2) = true
        ∨ 64 ≤ bits w 32 7 ∧ bits w 32 7 ≤ 87 ∧ bits w 40 2 = 0) → namedClash a i (bits w 25 3) (bits w 32 7) (bits w 40 2) (bits w 42 4) = false →
      r37Ok a (bits w 32 7) (bits w 40 2) i (bits w 0 16) (bits w 42 4) 0 = true →
      exec (.budgetSetWrite q e) s = .next { s with
        dev := waitBudget i (.write (bits w 0 16) (bits w 16 9) (bits w 25 3) (bits w 32 7) (bits w 40 2) (bits w 42 4) (sqCmd q e)) a })
    ∧ (∀ i, opOf e = 0x38 → modeOf e = 1 → plainOk e [(16, 2)] = true → i = leAt e 16 2 →
      (budgetNamed a i = false → exec (.budgetSetClear q e) s = .next { s with dev := waitBudget i (.clear (sqCmd q e)) a })
      ∧ (budgetNamed a i = true → exec (.budgetSetClear q e) s = .next { s with dev := a.completed q e 2 0 }))
    ∧ (∀ (i : Nat) (d : Dev),
      (budgetNamed d i = true → applyBudget i (.clear (sqCmd q e)) d = d.completed q e 2 0)
      ∧ (budgetNamed d i = false → (∀ b, tget d.tab.budgets i = some b → b.old = []) → partReleased d i = [] → i < 65536 →
        applyBudget i (.clear (sqCmd q e)) d
          = (modTab (fun t => { t with budgets := tdel t.budgets i }) d).completed q e 0 0))

/-- Furrows (R87, R88, R92): a PREPARE with room holds its slots, the same PREPARE again completes with OK, an older generation or
changed fields do not; a COMMIT makes the entry active; a clear releases it. -/
def Obligations.FurrowCommands : Prop :=
  ∀ (s : State) (q : Nat) (e : Bytes) (a : Dev) (id gen : Nat), s.live → s.dev.begins q e a → id = leAt e 16 4 → gen = leAt e 20 2 →
    (∀ f, opOf e = 0x34 → modeOf e = 0 → plainOk e [(16, 6), (24, 8)] = true → leAt e 24 8 % 64 = 0 →
      (f, true) = furrowImage (hostRead a (leAt e 24 8) 32) → leAt (hostRead a (leAt e 24 8) 32) 0 4 = id → f.gen = gen →
      reservedEid f.src = false → reservedEid f.dst = false → furrowFieldsOk a f = true →
      (tget a.tab.furrows id = none → furrowRoom a id f = true → exec (.furrowSetPrepare q e) s = .next { s with
        dev := (relevel (modTab (fun t => { t with furrows := tput t.furrows id f }) a)).completed q e 0 0 })
      ∧ (tget a.tab.furrows id = none → furrowRoom a id f = false →
        exec (.furrowSetPrepare q e) s = .next { s with dev := a.completed q e 2 0 })
      ∧ (∀ o, tget a.tab.furrows id = some o → o.gen = gen →
        exec (.furrowSetPrepare q e) s = .next { s with dev := a.completed q e (if sameFields o f then 0 else 0x10) 0 })
      ∧ (∀ o, tget a.tab.furrows id = some o → o.gen ≠ gen → (gen + 65536 - o.gen % 65536) % 65536 = 0 ∨
          32767 < (gen + 65536 - o.gen % 65536) % 65536 →
        exec (.furrowSetPrepare q e) s = .next { s with dev := a.completed q e 0x10 0 }))
    ∧ (∀ f, opOf e = 0x34 → modeOf e = 1 → plainOk e [(16, 6)] = true → tget a.tab.furrows id = some f → f.gen = gen →
      (f.state = .prepared → exec (.furrowSetCommit q e) s = .next { s with
        dev := (modTab (fun t => { t with furrows := tput t.furrows id { f with state := .active } }) a).completed q e 0 0 })
      ∧ (f.state = .active → exec (.furrowSetCommit q e) s = .next { s with dev := a.completed q e 0 0 })
      ∧ (f.state = .broken → exec (.furrowSetCommit q e) s = .next { s with dev := a.completed q e 0x10 0 }))
    ∧ (opOf e = 0x35 → modeOf e = 0 → plainOk e [(16, 6)] = true →
      (tget a.tab.furrows id = none → exec (.furrowClear q e) s = .next { s with dev := a.completed q e 0 0 })
      ∧ (∀ f, tget a.tab.furrows id = some f → f.gen = gen → f.queue = [] →
        (∀ p ∈ a.sw.tx, p.2.fr.furrow ≠ some id) → exec (.furrowClear q e) s = .next { s with
        dev := (relevel (modTab (fun t => { t with furrows := tdel t.furrows id }) a)).completed q e 0 0 }))

/-- Budgets, fences and the table window as time passes (R43, R45, R46, R83, R84, R85, R152). -/
def Obligations.TableEvents : Prop :=
  ∀ s : State, s.live →
    (∀ b, exec (.allowanceRelease b) s = .next { s with
      dev := settle (each ((budgetKin s.dev b).flatMap (waitingOn s.dev)) tryTx s.dev) })
    ∧ (∀ i b r fs q e, budgetKin s.dev i = [i] → i < 65536 → tget s.dev.tab.budgets i = some b →
      b.old = [{ rate := r, frames := fs, cmd := sqCmd q e }] →
      ((∀ f ∈ fs, tget s.dev.sw.tx f = none) → exec (.budgetLowerComplete i) s = .next { s with
        dev := (modTab (fun t => { t with budgets := tput t.budgets i { b with old := [] } }) s.dev).completed q e 0 0 })
      ∧ ((∃ f ∈ fs, tget s.dev.sw.tx f ≠ none) → exec (.budgetLowerComplete i) s = .next s))
    ∧ (∀ (eid : BitVec 24) x l, tget s.dev.tab.ept eid.toNat = some x → x.lastD = some l → isLate s.dev l = true → s.dev.sw.tx = [] →
      exec (.epochFenceClose eid) s = .next { s with
        dev := modTab (fun t => { t with ept := tput t.ept eid.toNat { x with lastD := none, fence := none } }) s.dev })
    ∧ (∀ q e a m, s.dev.retries q e a → opOf e = 0x30 → modeOf e = 0 → plainOk e [(16, 8)] = true →
      eptImage (sqCmd q e) (leAt e 16 8) a = some m → m.peer = none → tget a.tab.ept m.eid = none →
      m.e.slots.any (fun x => decide (65535 < refsOf a x.1 + slotUses m.e.slots x.1)) = false → a.tab.ept.length < 524288 →
      exec (.eptSetFenceApply q) s = .next { s with
        dev := (count 4 4 1 { priv := some 1 } (modTab (fun t => { t with ept := tput t.ept m.eid m.e }) a)).completed q e 0 0 })
    ∧ (∀ id, exec (.readReqReserve id) s = .next { s with dev := settle (tryTx id s.dev) })
    ∧ (∀ v : BitVec 64, s.dev.boot.recovery = false → s.dev.tab.winBusy = false → ∃ d, exec (.eptWinRead v) s = .next { s with dev := d }
      ∧ d.tab.winBusy = true ∧ d.tab.winMiss = false ∧ fld d 0x200000 8 24 = bits v.toNat 8 24 ∧ fld d 0x200000 32 32 = bits v.toNat 32 32)
    ∧ (s.dev.tab.winBusy = true → ∃ d, exec .eptWinReadDone s = .next { s with dev := d } ∧ d.tab.winBusy = false
      ∧ d.tab.winMiss = (windowWords s.dev).isNone ∧ d.tab.ept = s.dev.tab.ept
      ∧ ∀ i, i < 18 → tgetD d.tab.winData i 0 = ((windowWords s.dev).getD []).getD i 0)

/-- Doorbells and watched tails (R380, R381, R382). -/
def Obligations.Doorbells : Prop :=
  ∀ (s : State) (q : Nat) (v : BitVec 32), s.live → q < 64 →
    (∀ img, (sqOn s.dev q = true → flag s.dev (oSqCtl q) 12 = false →
        (v.toNat < sqDepth s.dev q → exec (.sqTailDoorbell q v img) s = .next { s with
          dev := modSq q (fun x => { x with tail := v.toNat }) (hostStores img s.dev) })
        ∧ (sqDepth s.dev q ≤ v.toNat → exec (.sqTailDoorbell q v img) s = .next { s with dev := ringError q 1 true (hostStores img s.dev) }))
      ∧ (sqOn s.dev q = false → exec (.sqTailDoorbell q v img) s = .next { s with dev := ringError q 3 true (hostStores img s.dev) })
      ∧ (sqOn s.dev q = true → flag s.dev (oSqCtl q) 12 = true → v.toNat < sqDepth s.dev q →
        ∃ d, exec (.watchedTailSnoop q v img) s = .next { s with dev := d } ∧ (sq d q).tail = v.toNat ∧ (sq d q).held = true
          ∧ (sq d q).head = (sq s.dev q).head ∧ d.regs = s.dev.regs ∧ d.ring.cqs = s.dev.ring.cqs))
    ∧ (sqOn s.dev q = true → flag s.dev (oSqCtl q) 12 = true → watchedTail s.dev q < sqDepth s.dev q →
      exec (.watchedTailPoll q) s = .next { s with
        dev := modSq q (fun x => { x with tail := watchedTail s.dev q }) (modSq q (fun x => { x with held := true }) s.dev) })
    ∧ (cqOn s.dev q = true → ∀ n r, headReturn (cqDepth s.dev q) (cq s.dev q) v.toNat = some n →
      r = { cq s.dev q with rd := (cq s.dev q).rd + n } →
      ((flag s.dev (oCqCtl q) 13 = false ∨ r.wr ≤ r.rd) → exec (.cqHeadDoorbell q v) s = .next { s with
        dev := modCq q (fun _ => { r with armed := flag s.dev (oCqCtl q) 13 }) s.dev })
      ∧ (flag s.dev (oCqCtl q) 13 = true → r.rd < r.wr → exec (.cqHeadDoorbell q v) s = .next { s with
        dev := sendMsix (fld s.dev (oCqCtl q) 5 7) (modCq q (fun _ => { r with armed := false }) s.dev) }))
    ∧ (eqOn s.dev = true → ∀ n r, headReturn (eqDepth s.dev) s.dev.ring.eq v.toNat = some n →
      r = { s.dev.ring.eq with rd := s.dev.ring.eq.rd + n } → (flag s.dev oEqCtl 13 = false ∨ r.wr ≤ r.rd) →
      exec (.eqHeadDoorbell v) s = .next { s with dev := modEq (fun _ => { r with armed := flag s.dev oEqCtl 13 }) s.dev })

/-- Enabling and disabling rings (R397): an enabled ring starts empty, a disabled SQ reads no more, and with nothing in progress its
window of tags empties. -/
def Obligations.RingControl : Prop :=
  ∀ (s : State) (q : Nat) (v : BitVec 64), s.live → q < 64 → s.dev.boot.recovery = false →
    (sqOn s.dev q = false → v.toNat.testBit 12 = false → flag s.dev (oSqCtl q) 12 = false →
      ∃ d, exec (.ringEnable q v) s = .next { s with dev := d } ∧ sqOn d q = true ∧ (sq d q).head = 0 ∧ (sq d q).tail = 0
        ∧ (sq d q).waiting = none ∧ (sq d q).busy = (sq s.dev q).busy ∧ d.ring.cqs = s.dev.ring.cqs
        ∧ ∀ off, off ≠ oSqCtl q → rg d off = rg s.dev off)
    ∧ (cqOn s.dev q = false → ∃ d, exec (.ringEnable (64 + q) v) s = .next { s with dev := d } ∧ cqOn d q = true
        ∧ (cq d q).wr = 0 ∧ (cq d q).rd = 0 ∧ (cq d q).reserved = (cq s.dev q).reserved ∧ (cq d q).armed = v.toNat.testBit 13
        ∧ d.ring.sqs = s.dev.ring.sqs)
    ∧ (eqOn s.dev = false → s.dev.ring.eqSeen = true → ∃ d, exec (.ringEnable 128 v) s = .next { s with dev := d } ∧ eqOn d = true
        ∧ d.ring.eq.wr = 0 ∧ d.ring.eq.rd = 0 ∧ d.ring.sqs = s.dev.ring.sqs ∧ d.ring.cqs = s.dev.ring.cqs)
    ∧ (sqOn s.dev q = true → (sq s.dev q).busy = [] → s.dev.sw.tx = [] → ∃ d, exec (.sqDisable q v) s = .next { s with dev := d }
        ∧ sqOn d q = false ∧ (sq d q).window = [] ∧ (sq d q).waiting = none ∧ (sq d q).head = (sq s.dev q).head
        ∧ d.ring.cqs = s.dev.ring.cqs)

/-- Entries (R375, R378, R383, R392): the next entry is accepted and its command begun; the copy of a command in progress is passed
over, the copy of a completed one answered with what it completed with; NOP completes; FENCE waits for the earlier commands of its
queue, and completes once they have. -/
def Obligations.EntriesAndFences : Prop :=
  ∀ (s : State) (q : Nat) (e : Bytes), s.live → q < 64 →
    (s.dev.entryReady q e → exec (.sqEntryAccept q) s = .next { s with
      dev := settle (runCmd (sqCmd q e) e (modRing (fun r => { r with turn := q }) s.dev)) })
    ∧ (sqOn s.dev q = true → (sq s.dev q).waiting = none → (sq s.dev q).head ≠ (sq s.dev q).tail → e = headEntry s.dev q →
      ((sq s.dev q).busy.contains (tagOf e) = true → exec (.sqEntryAccept q) s = .next { s with
        dev := skipEntry q (modRing (fun r => { r with turn := q }) s.dev) })
      ∧ (∀ st de r, (sq s.dev q).busy.contains (tagOf e) = false → cqFree s.dev (cqOf s.dev q) = true →
        (sq s.dev q).window.find? (fun w => w.1 == tagOf e) = some (tagOf e, st, de, r) →
        exec (.sqEntryAccept q) s = .next { s with
          dev := writeCq (cqOf s.dev q) (cqEntry (tagOf e) st de r q true false)
            (skipEntry q (modRing (fun r => { r with turn := q }) s.dev)) }))
    ∧ (∀ a, s.dev.begins q e a → opOf e = 0x51 → modeOf e = 0 → plainOk e [] = true →
      exec (.nop q e) s = .next { s with dev := a.completed q e 0 0 })
    ∧ (∀ a, s.dev.begins q e a → opOf e = 0x50 → modeOf e = 0 → plainOk e [] = true → (sq s.dev q).busy = [] →
      exec (.fence q e) s = .next { s with dev := a.completed q e 0 0 })
    ∧ (s.dev.entryReady q e → opOf e = 0x50 → modeOf e = 0 → plainOk e [] = true → (∃ t ∈ (sq s.dev q).busy, t ≠ tagOf e) →
      exec (.fence q e) s = .next { s with dev := modSq q (fun x => { x with waiting := some e }) s.dev })
    ∧ (∀ a, s.dev.retries q e a → opOf e = 0x50 → modeOf e = 0 → plainOk e [] = true → (sq s.dev q).busy = [] →
      exec (.fenceComplete q) s = .next { s with dev := a.completed q e 0 0 })

/-- SEND, READ, WRITE and RECV_POST (R387, R388, R393): the frame each sends, from the endpoint of its ring. A SEND or a WRITE of one
cell that is admitted, with allowance and a buffer and nothing else waiting, leaves whole: the entry is accepted, its budget is drawn,
and without ack = 1 the command completes with OK and its frame's sequence. -/
def Obligations.HostFrames : Prop :=
  ∀ (s : State) (q src : Nat) (e : Bytes) (fr : Frame), s.live → s.dev.entryReady q e → modeOf e = 0 → sqEid s.dev q = some src →
    (opOf e = 1 → sendOk s.dev e = true →
      fr = { op := byteAt e 34, src := src, dst := leAt e 28 3, tc := byteAt e 31 % 8, label := leAt e 32 2,
             hdr := frameHdr (slice e 36 20), data := hostRead s.dev (leAt e 16 8) (leAt e 24 4), xport := 84 + q % 2,
             furrow := if (byteAt e 31).testBit 5 then some (leAt e 60 4) else none, direct := none, reply := 0,
             seq := if (byteAt e 31).testBit 4 && byteAt e 34 == 0 then some (leAt e 56 4) else none,
             org := .host (sqCmd q e) ((byteAt e 31).testBit 3) 1 false } →
      exec (.send q e) s = .next { s with dev := settle (keepWaiting (sqCmd q e) e (sendFrame fr [] s.dev)) }
      ∧ ∀ a i b, s.dev.leavesWhole fr a i b → (byteAt e 31).testBit 3 = false →
        ∃ d, exec (.send q e) s = .next { s with dev := d } ∧ s.dev.leftWhole q e a i b d)
    ∧ (∀ len, opOf e = 3 → plainOk e [(16, 26)] = true → leAt e 16 8 % 64 = 0 → len = leAt e 24 4 → len % 16 = 0 → 16 ≤ len →
      len ≤ 131040 → byteAt e 31 ≤ 7 → leAt e 32 8 < 2 ^ 48 → forgeDst s.dev (leAt e 28 3) = true →
      fr = { op := 1, src := src, dst := leAt e 28 3, tc := byteAt e 31, label := leAt e 40 2,
             hdr := frameHdr (toBE 8 (leAt e 32 8) ++ zeros 2 ++ toBE 4 (ceilDiv (len + 32) 512)), data := [], xport := 84 + q % 2,
             furrow := none, direct := none, reply := ceilDiv (len + 32) 512, seq := none, org := .host (sqCmd q e) false 3 false } →
      ∀ pr : PendRead, pr = { src := src, dst := leAt e 28 3, addr := leAt e 16 8, len := len, dl := none, cmd := sqCmd q e } →
      exec (.read q e) s = .next { s with
        dev := settle (keepWaiting (sqCmd q e) e (sendFrame fr [] (modRing (fun x =>
          { x with nextId := x.nextId + 1, reads := tput x.reads x.nextId pr }) s.dev))) })
    ∧ (∀ len fl, opOf e = 4 → plainOk e [(16, 28)] = true → leAt e 16 8 % 64 = 0 → len = leAt e 24 4 → len % 16 = 0 → 16 ≤ len →
      len ≤ 131040 → fl = byteAt e 31 → fl < 64 → leAt e 32 8 < 2 ^ 48 → forgeDst s.dev (leAt e 28 3) = true → byteAt e 43 ≤ 15 →
      (if fl.testBit 4 then (if fl.testBit 5 then byteAt e 42 ≤ 63 else byteAt e 42 ≤ 31)
        else fl.testBit 5 = false ∧ byteAt e 42 = 0 ∧ byteAt e 43 = 0) →
      fr = { op := 3, src := src, dst := leAt e 28 3, tc := fl % 8, label := leAt e 40 2,
             hdr := frameHdr (toBE 8 (leAt e 32 8) ++ toBE 1 (boolNat (fl.testBit 4) * 128 + boolNat (fl.testBit 5) * 64)
               ++ toBE 1 (byteAt e 42)), data := hostRead s.dev (leAt e 16 8) len, xport := 84 + q % 2,
             furrow := none, direct := none, reply := 0, seq := none, org := .host (sqCmd q e) (fl.testBit 3) 4 false } →
      exec (.write q e) s = .next { s with dev := settle (keepWaiting (sqCmd q e) e (sendFrame fr [] s.dev)) }
      ∧ ∀ a i b, s.dev.leavesWhole fr a i b → fl.testBit 3 = false →
        ∃ d, exec (.write q e) s = .next { s with dev := d } ∧ s.dev.leftWhole q e a i b d)
    ∧ (∀ a, s.dev.begins q e a → opOf e = 2 → plainOk e [(16, 12)] = true → leAt e 16 8 % 64 = 0 → 64 ≤ leAt e 24 4 →
      leAt e 24 4 ≤ 131072 → exec (.recvPost q e) s = .next { s with
        dev := modSq q (fun x => { x with bufs := x.bufs ++ [(sqCmd q e, leAt e 16 8, leAt e 24 4)] }) a })

/-- Frames that reach a host endpoint (R379, R387, R388, R394, R395): a sequenced frame inside the window is accepted, a copy discarded
and acknowledged again; DATA goes into the next posted buffer behind its 32-byte header; an ACK completes what it covers; a NOTICE
is an event; an answer is written where its READ asked; what is never answered ends with its own status. -/
def Obligations.HostArrivals : Prop :=
  ∀ (s : State) (f : RxFrame), s.dev.boot.power = .on →
    (firstRx s.dev (fun f => sequenced (rxOp f) && !f.accepted && (f.code == 0xF8 || f.code == 0xFB || (f.code == 0xFC && rxOp f == 0)))
        = some f →
      (seqTest s.dev f.src f.dst (rxSeq f) = .accept → exec .sequencedFrameAccept s = .next { s with
        dev := settle (modSw (fun x => { x with rx := x.rx.map (fun y => if y = f then { y with accepted := true } else y) })
          (takeAck f (newPair f.src f.dst s.dev))) })
      ∧ (∀ p, seqTest s.dev f.src f.dst (rxSeq f) = .dup → tget s.dev.ring.dstPairs (pairKey f.src f.dst) = some p →
        exec .sequencedFrameAccept s = .next { s with dev := settle (modRing (fun r => { r with
          dstPairs := tput r.dstPairs (pairKey f.src f.dst) { p with ackDue := true } }) (setEvt oRingEvt 2 (tally 14 0 (takeRx f s.dev)))) }))
    ∧ (∀ q c n a rest all, firstRx s.dev (fun f => f.code == 0xF8 && f.idx == q && rxOp f == 0 && f.accepted) = some f →
      (sq s.dev q).bufs = (c, a, n) :: rest → seqTest s.dev f.src f.dst (rxSeq f) = .accept →
      all = toLE 3 f.src ++ toLE 1 (rxOp f) ++ toLE 4 (rxSeq f) ++ toLE 2 f.k ++ toLE 1 (f.tc + boolNat f.late * 8) ++ [0]
        ++ slice f.hdr 12 20 ++ f.data →
      exec (.hostqRecvDeliver q) s = .next { s with dev := settle (complete c 0 (if n < all.length then 3 else 0) f.data.length
        (hostWrite a (all.take n) (modSq q (fun x => { x with bufs := rest })
          (seqAccept f.src f.dst (rxSeq f) (takeRx f s.dev))))) })
    ∧ (∀ h l, firstRx s.dev (fun f => rxOp f == 0xB && !(f.code == 0xFA && (f.vc == 2 || f.vc == 3))) = some f → (byteAt f.hdr 0).testBit 3 = true → h = beAt f.hdr 8 4 →
      l = s.dev.ring.acks.filter (fun p => p.2.src == f.dst && p.2.dst == f.src && decide (subMod 32 h p.2.seq < 2 ^ 31)) →
      exec .ackReceive s = .next { s with dev := settle (each l (fun p d =>
        complete p.2.cmd 0 0 p.2.seq (modRing (fun r => { r with acks := tdel r.acks p.1 }) d)) (takeRx f s.dev)) })
    ∧ (firstRx s.dev (fun f => f.code == 0xF8 && rxOp f == 0xA) = some f → s.dev.cru.joins = [] → (byteAt f.hdr 0).testBit 3 = false →
      exec .noticeReceive s = .next { s with dev := settle (postEvent 1 (toLE 3 f.src ++ slice f.hdr 12 20) (takeRx f s.dev)) })
    ∧ (∀ id p, firstRx s.dev (fun f => f.code == 0xF8 && rxOp f == 2) = some f → (byteAt f.hdr 0).testBit 3 = false →
      s.dev.ring.reads.find? (fun p => p.2.src == f.dst && p.2.dst == f.src && p.2.dl.isSome) = some (id, p) →
      exec .readRspReceive s = .next { s with dev := settle (complete p.cmd 0 0 p.len (hostWrite p.addr (slice f.data 0 p.len)
        (modRing (fun r => { r with reads := tdel r.reads id }) (takeRx f s.dev)))) })
    ∧ (∀ id p, tget s.dev.ring.acks id = some p → ackExpired s.dev p.dl = true → exec (.ackTimeout id) s = .next { s with
      dev := settle (complete p.cmd 7 0 p.seq (modRing (fun r => { r with acks := tdel r.acks id }) s.dev)) })
    ∧ (∀ id p dl, tget s.dev.ring.reads id = some p → p.dl = some dl → ackExpired s.dev dl = true → exec (.readTimeout id) s = .next { s with
      dev := settle (complete p.cmd 7 0 0 (modRing (fun r => { r with reads := tdel r.reads id }) s.dev)) })

/-- The sequence window (R394): H moves over every accepted sequence that follows it, and no further; what it passed leaves the
window, the rest stays. -/
def Obligations.SequenceWindow : Prop :=
  ∀ (h : Nat) (w : List Nat), h < 2 ^ 32 → (∀ x ∈ w, x < 2 ^ 32) →
    let r := advance w.length h w
    (r.1 + 1) % 2 ^ 32 ∉ r.2
    ∧ (∀ x ∈ r.2, x ∈ w)
    ∧ (∀ x ∈ w, x ∈ r.2 ∨ ∃ k, 1 ≤ k ∧ k ≤ w.length ∧ x = (h + k) % 2 ^ 32)
    ∧ ∃ k, k ≤ w.length ∧ r.1 = (h + k) % 2 ^ 32 ∧ ∀ j, 1 ≤ j → j ≤ k → (h + j) % 2 ^ 32 ∈ w

/-- COLL_CREATE, COLL_JOIN and COLL_ABORT on bodies that pass their checks (R196, R200, R203, R218, R219): what each records and sends,
and the waits of Table 7.6 that end without an answer. -/
def Obligations.CollectiveCommands : Prop :=
  ∀ (s : State) (q : Nat) (e : Bytes) (a : Dev), s.live →
    (s.dev.begins q e a →
      (∀ b coord cr, opOf e = 0x10 → modeOf e = 0 → plainOk e [(16, 12)] = true → leAt e 16 8 % 64 = 0 → 96 ≤ leAt e 24 4 →
        leAt e 24 4 ≤ 64 + 16 * 131072 → b = hostRead a (leAt e 16 8) (leAt e 24 4) → leAt e 24 4 = 64 + 16 * (rN b + rP b) →
        recordOk b = true → (localEids a 2 0).head? = some coord →
        cr = { cmd := sqCmd q e, cid := leAt b 0 4, gen := leAt b 4 2, token := tagOf e % 2 ^ 32, coord := coord,
               nodes := (List.range (rN b)).map (fun j => eBase (recNode b j)), phase := 1, replies := [], lost := [],
               noticed := false, since := a.clk.swc.toNat } →
        exec (.collCreate q e) s = .next { s with
          dev := settle (sendPhase a.cru.nextId cr 1 (fun j => slice b 0 64 ++ (nbrEntries b j).flatten)
            (modCru (fun x => { x with nextId := x.nextId + 1, creates := tput x.creates x.nextId cr }) a)) })
      ∧ (∀ eid, opOf e = 0x11 → modeOf e = 0 → joinOk (sqCmd q e) e = true →
        (match (joinFields e).forge with
          | some f => forgeEid a f
          | none => sqEid a q) = some eid →
        a.cru.joins.any (fun p => p.2.cid == (joinFields e).cid && p.2.gen == (joinFields e).gen && p.2.rank == (joinFields e).rank) = false →
        exec (.collJoin q e) s = .next { s with
          dev := modCru (fun u =>
            { u with nextId := u.nextId + 1, joins := tput u.joins u.nextId { joinFields e with cmd := sqCmd q e, eid := eid } }) a })
      ∧ (opOf e = 0x12 → modeOf e = 0 → plainOk e [(16, 7)] = true → (byteAt e 22 = 7 ∨ byteAt e 22 = 0xE) →
        exec (.collAbort q e) s = .next { s with
          dev := if (a.cru.nodes.any (fun p => p.2.cid == leAt e 16 4 && p.2.gen == leAt e 20 2)
              || a.cru.joins.any (fun p => p.2.cid == leAt e 16 4 && p.2.gen == leAt e 20 2)) = true
            then settle ((each (a.cru.joins.filter (fun p => p.2.cid == leAt e 16 4 && p.2.gen == leAt e 20 2))
                (fun p d => closeJoin p.1 (byteAt e 22) 0 d)
              (each (a.cru.nodes.filter (fun p => p.2.cid == leAt e 16 4 && p.2.gen == leAt e 20 2))
                (fun p d => nodeAbort p.1 (byteAt e 22) 0 none d) a)).completed q e 0 0)
            else a.completed q e (if a.cru.tombs.any (fun t => t.cid == leAt e 16 4 && t.gen == leAt e 20 2) then 0 else 8) 0 }))
    ∧ (∀ id cr, tget s.dev.cru.creates id = some cr → prepTimeout s.dev / 2 < swathsSince s.dev cr.since →
      cr.replies.length < cr.nodes.length →
      exec (.createReplyTimeout id) s = .next { s with dev := settle (createFail id cr s.dev) })
    ∧ (∀ id n, tget s.dev.cru.nodes id = some n → n.active = false → prepTimeout s.dev < swathsSince s.dev n.since →
      exec (.preparedTimeout id) s = .next { s with dev := modCru (fun x => { x with nodes := tdel x.nodes id }) s.dev })
    ∧ (∀ id n k g, tget s.dev.cru.nodes id = some n → rIdle n.record ≠ 0 → (k, g) ∈ n.groups → g.occ.isSome = true →
      rIdle n.record < swathsSince s.dev g.since →
      exec (.collIdleTimeout id) s = .next { s with dev := settle (nodeAbort id 7 0 none s.dev) })

/-- The control frames of a collective (R198 to R202, R218): RESERVE makes a PREPARED entry and answers, or refuses with no effect;
COMMIT makes it ACTIVE; REPLYs of every node move a creation on: COMMITs, then OK, or RELEASEs and the status of step 6; RELEASE frees; ABORT and the NOTICEs of Table 7.12 end a node. -/
def Obligations.ControlFrames : Prop :=
  (∀ (id : Nat) (cr : Create) (d : Dev), tget d.cru.creates id = some cr → cr.replies.length = cr.nodes.length →
    let ok := cr.replies.all (fun p => p.2 == 0) = true
    (ok → cr.phase = 1 → ∀ c2, c2 = { cr with phase := 2, replies := [], since := d.clk.swc.toNat } →
      createDecide id false d = sendPhase id c2 2 (fun _ => []) (modCru (fun x => { x with creates := tput x.creates id c2 }) d))
    ∧ (ok → cr.phase = 2 → createDecide id false d = complete cr.cmd 0 0 0 (modCru (fun x => { x with creates := tdel x.creates id }) d))
    ∧ (¬ ok → createDecide id false d = complete cr.cmd
      (if cr.replies.any (fun p => p.2 == 0x10) then 0x10 else if cr.noticed || !cr.lost.isEmpty then 7 else 2) 0 0
      (sendPhase id cr 3 (fun _ => []) (modCru (fun x => { x with creates := tdel x.creates id }) d))))
  ∧ ∀ (s : State) (f : RxFrame) (a : Dev), s.dev.boot.power = .on → a = takeRx f s.dev →
    (firstCtl s.dev 1 = some f → nodeAt a (fCid f) f.dst = none → tombAt a (fCid f) f.dst = none →
      ∀ sp banks n, sp = eSpread ((chunks 16 (f.data.drop 64)).getD 0 []) → banksOf a f.dst sp = some banks →
      fWord f % 2 = cruProtect a → banks.any (fun j => partOut a 6 j || decide (bankFree a j < rW (slice f.data 0 64) / sp)) = false →
      n = { cid := fCid f, gen := fGen f, idx := fTail f, eidBase := f.dst, s := sp, banks := banks, active := false,
            token := beAt f.hdr 22 4, record := slice f.data 0 64, nbrs := chunks 16 (f.data.drop 64), since := a.clk.swc.toNat,
            got := false, matched := [], bad := [], groups := [], fwd := [], fin := 0 } →
      exec .reserveFrame s = .next { s with dev := settle (sendReply f 1 0 (some a.cru.nextId)
        (modCru (fun x => { x with nextId := x.nextId + 1, nodes := tput x.nodes x.nextId n }) a)) })
    ∧ (firstCtl s.dev 1 = some f → (∀ id n, nodeAt a (fCid f) f.dst = some (id, n) →
      exec .reserveFrame s = .next { s with dev := settle (if n.gen ≠ fGen f then sendReply f 1 2 none a
        else sendReply f 1 (if n.record = slice f.data 0 64 ∧ n.nbrs = chunks 16 (f.data.drop 64) then 0 else 0x10) (some id) a) }))
    ∧ (firstCtl s.dev 2 = some f → tombFor a (fCid f) (fGen f) f.dst = false → ∀ id n, nodeAt a (fCid f) f.dst = some (id, n) →
      n.gen = fGen f → n.active = false → n.token = beAt f.hdr 22 4 →
      exec .commitFrame s = .next { s with dev := settle (sendReply f 2 0 (some id)
        (modCru (fun x => { x with nodes := tput x.nodes id { n with active := true } }) a)) })
    ∧ (firstCtl s.dev 3 = some f → ∀ id n, nodeAt a (fCid f) f.dst = some (id, n) → n.gen = fGen f → n.token = beAt f.hdr 22 4 →
      (n.active = false ∨ n.got = false) →
      exec .releaseFrame s = .next { s with dev := settle (modCru (fun x => { x with nodes := tdel x.nodes id }) a) })
    ∧ (firstCtl s.dev 4 = some f → ∀ id cr, a.cru.creates.find? (fun p => p.2.cid == fCid f && p.2.gen == fGen f
        && p.2.token == beAt f.hdr 22 4 && p.2.phase == fWord f / 65536 % 256 && p.2.coord == f.dst
        && decide (fTail f < p.2.nodes.length)) = some (id, cr) →
      exec .replyFrame s = .next { s with dev := settle (createDecide id false (modCru (fun x =>
        { x with creates := tmod x.creates id (fun c => { c with replies := tput c.replies (fTail f) (beAt f.hdr 26 2) }) }) a)) })
    ∧ (firstCtl s.dev 5 = some f → ∀ id n, nodeAt a (fCid f) f.dst = some (id, n) → n.gen = fGen f →
      exec .abortFrame s = .next { s with dev := settle (nodeAbort id (beAt f.hdr 26 2) (beAt f.hdr 28 2) (some f.src) a) })
    ∧ (firstRx s.dev (fun g => g.code == 0xF9 && rxOp g == 0xA) = some f → a.cru.creates = [] → ∀ why,
      ((beAt f.hdr 26 2 = 4 ∨ beAt f.hdr 26 2 = 5) ∧ why = 7) ∨ (beAt f.hdr 26 2 = 8 ∧ why = 8) →
      ∀ id n, a.cru.nodes.filter (fun p => nodeServes p.2 f.dst && ((p.2.cid == fCid f && p.2.gen == fGen f)
        || allZero (slice f.hdr 12 10))) = [(id, n)] →
      exec .crucibleNoticeReceive s = .next { s with dev := settle (nodeAbort id why 0 none a) })

/-- Chunks and results (R203 to R213, R216, R217, R219, R222): a chunk is stored at its input, an unknown one is discarded with a
NOTICE, a copy is counted; a complete group is folded in the next Swath and its result sent up or down; a member sends its next
chunk, and takes each result once. -/
def Obligations.CollectiveChunks : Prop :=
  ∀ (s : State) (f : RxFrame) (a : Dev), s.dev.boot.power = .on → a = takeRx f s.dev →
    (firstRx s.dev (fun g => g.code == 0xF9 && rxOp g == 4) = some f → fWord f / 2 ^ 26 % 4 ≠ 3 →
      tombFor a (fCid f) (fGen f) f.dst = false →
      (nodeAt a (fCid f) f.dst = none → exec .collChunkArrive s = .next { s with
        dev := settle (noticeOnceFrom f.dst f.src 8 (slice f.hdr 12 14) (count 9 4 1 {} (setEvt oCruEvt 2 a))) })
      ∧ ∀ id n pos c, c = fWord f % 2 ^ 24 → nodeAt a (fCid f) f.dst = some (id, n) → n.active = true → n.gen = fGen f →
        c < rChunks n.record → inputPos n f = some pos → (rOp n.record = 6 → n.idx = 0) → (fWord f / 2 ^ 26 % 4 ≠ 0 ∨ n.matched.contains (fTail f) = true) →
        (checkOk a n c f = false → exec .collChunkArrive s = .next { s with dev := settle (protectFail id n c a) })
        ∧ (checkOk a n c f = true →
          (tget n.groups (groupOf n c) = none → exec .collChunkArrive s = .next { s with
            dev := settle (storeInput id (groupOf n c) n c pos
              { data := slice f.data 0 (nodeBytes n c), flags := fWord f / 2 ^ 28, rank := fTail f, check := beAt f.hdr 26 4 } a) })
          ∧ (∀ g, tget n.groups (groupOf n c) = some g → g.occ = some c → (tget g.ins pos).isSome = true →
            exec .collChunkArrive s = .next { s with dev := settle (count 9 2 1 {} (setEvt oCruEvt 4 a)) })
          ∧ (∀ g o, tget n.groups (groupOf n c) = some g → g.occ = some o → o < c → (∀ l, g.last = some l → l < c) →
            exec .collChunkArrive s = .next { s with dev := settle (noticeOnceFrom f.dst f.src 2 (slice f.hdr 12 14)
              (count 9 3 1 {} (setEvt oCruEvt 3 a))) })))
    ∧ (∀ id n k g c o, tget s.dev.cru.nodes id = some n → rAlg n.record = 0 → rOp n.record ≠ 6 → g.occ = some c →
      n.groups.find? (fun p => match p.2.ready with
        | some t => t ≠ s.dev.clk.swc.toNat
        | none => false) = some (k, g) →
      foldAll n.record (elemW (rOp n.record) (rFmt n.record)) (nodeElems n c) (g.ins.map (·.2)) = some o →
      (g.ins.all (fun p => readOk s.dev p.2) = true → exec (.chunkFold id false) s = .next { s with
        dev := settle (treeOut id k n c g o (modCru (fun x => { x with nodes := tmod x.nodes id (fun m =>
          { m with flags := m.flags ||| o.flags }) }) (count 9 1 1 {} s.dev))) })
      ∧ (∀ bad, bad = true ∨ g.ins.all (fun p => readOk s.dev p.2) = false →
        exec (.chunkFold id bad) s = .next { s with dev := settle (protectFail id n c s.dev) }))
    ∧ (firstRx s.dev (fun g => g.code == 0xF9 && rxOp g == 5 && g.arrived != s.dev.clk.swc.toNat) = some f → ∀ id n, nodeAt a (fCid f) f.dst = some (id, n) →
      fWord f / 2 ^ 26 % 4 = 1 → tombFor a (fCid f) (fGen f) f.dst = false → n.active = true → n.gen = fGen f →
      rAlg n.record = 0 → rOp n.record ≠ 6 → checkOk a n (fWord f % 2 ^ 24) f = true → n.fwd.contains (fWord f % 2 ^ 24) = false →
      exec .collResultForward s = .next { s with dev := settle (finishNode id (sendResults id n (fWord f % 2 ^ 24) (fWord f % 2 ^ 24)
        (fWord f / 2 ^ 28) (slice f.data 0 (nodeBytes n (fWord f % 2 ^ 24)))
        (modCru (fun x => { x with nodes := tmod x.nodes id (fun m => { m with fwd := fWord f % 2 ^ 24 :: m.fwd }) }) (addFin id 1 a)))) })
    ∧ (∀ errs, firstRx s.dev (fun g => (g.code == 0xF8 || g.code == 0xFB) && rxOp g == 5) = some f →
      ∀ id j c m z, c = fWord f % 2 ^ 24 → m = takeRx f (meet errs s.dev) →
      m.cru.joins.filter (fun p => p.2.eid == f.dst && p.2.cid == fCid f && p.2.gen == fGen f) = [(id, j)] →
      fWord f / 2 ^ 26 % 4 = 0 → j.rank = fTail f → c < joinTotal j → j.got.contains c = false → resultBytes j c ≤ f.data.length →
      (cruProtect m = 0 ∨ crc32c (slice f.data 0 (resultBytes j c)) = beAt f.hdr 26 4) → j.sem.1 = 0 → j.perChunk = false →
      (j.forge = none ∧ f.code = 0xF8 ∧ z = hostWrite (resultAddr j c) (slice f.data 0 (resultBytes j c)) m
        ∨ ∃ k, j.forge = some k ∧ forgeFenced m f.idx = false
          ∧ (gddrRange (resultAddr j c) (resultBytes j c)).any (fun x => inWindow s.dev x.1) = false
          ∧ frameWrite k (resultAddr j c) (slice f.data 0 (resultBytes j c)) m = (0, z)) →
      ∀ w, w = modCru (fun u =>
        { u with joins := tput u.joins id { j with got := c :: j.got, flags := j.flags ||| (fWord f / 2 ^ 28) } }) z →
      exec (.collResultMemberArrive errs) s = .next { s with
        dev := unmeet errs (settle (if j.got.length + 1 = joinTotal j then closeJoin id 0 0 w else w)) })
    ∧ (∀ id j b, tget s.dev.cru.joins id = some j → j.src ≠ 0 → j.next < joinChunks j → (j.next < j.d ∨ j.got.contains (j.next - j.d) = true) →
      b = hostRead s.dev (j.src + j.next * joinElems j * elemW j.op j.fmt) (joinBytes j j.next) →
      ∀ fr w, fr = ownFrame s.dev 4 j.eid (j.attach + j.next % j.s) (eidXport s.dev j.eid) (memberBody s.dev j j.next b)
        (fit b (ceilDiv (joinBytes j j.next) 16 * 16)) (.member id j.next) →
      w = modCru (fun u => { u with joins := tput u.joins id { j with next := j.next + 1 } }) s.dev →
      exec (.memberChunkSend id) s = .next { s with dev := settle (sendFrame { fr with label := j.cid % 65536, tc := j.tc } [] w) })

/-- Select contexts (R228 to R230, R242): OPEN makes the context, waits for its unit's memory and time, and is tried again; CLOSE ends
an idle context at once; a MOE step whose rows stay out fails. -/
def Obligations.SelectContexts : Prop :=
  ∀ (s : State) (q : Nat) (e r : Bytes) (a k : Dev) (x : Nat), s.live → x = leAt e 16 2 → x ≤ 1023 →
    (∀ ctx : SelCtx, opOf e = 0x18 → modeOf e = 0 → plainOk e [(16, 4), (24, 8)] = true → selImage (sqCmd q e) (leAt e 24 8) a = some r →
      tget a.sel x = none → selRecordOk r = true → leAt r 0 2 = x → leAt r 2 2 = leAt e 18 2 → partOut a 7 (x % 8) = false →
      (tget a.tab.ept (xOut r)).isSome = true →
      allotUsed a (x % 8) + xAllot r ≤ 48 * a.clk.nsNow → memUsed a (x % 8) + memUnits r ≤ 16384 →
      ctx = { gen := leAt e 18 2, record := r, closing := false, closers := [], cur := xFirst r, done := [],
              steps := [], queue := [], last := none, block := [], blockAt := 0, base := none } →
      k = modSel (fun t => tput t x ctx) { a with selFlags := tdel a.selFlags x } →
      (s.dev.begins q e a → exec (.selectOpen q e) s = .next { s with dev := k.completed q e 0 0 })
      ∧ (s.dev.retries q e a → exec (.selectOpenRetry q) s = .next { s with dev := k.completed q e 0 0 }))
    ∧ (s.dev.entryReady q e → opOf e = 0x18 → modeOf e = 0 → plainOk e [(16, 4), (24, 8)] = true →
      selImage (sqCmd q e) (leAt e 24 8) s.dev = some r → tget s.dev.sel x = none → selRecordOk r = true → leAt r 0 2 = x →
      leAt r 2 2 = leAt e 18 2 → partOut s.dev 7 (x % 8) = false → (tget s.dev.tab.ept (xOut r)).isSome = true →
      xAllot r ≤ 48 * s.dev.clk.nsNow → memUnits r ≤ 16384 →
      (48 * s.dev.clk.nsNow < allotUsed s.dev (x % 8) + xAllot r ∨ 16384 < memUsed s.dev (x % 8) + memUnits r) →
      exec (.selectOpen q e) s = .next { s with dev := modSq q (fun y => { y with waiting := some e, slow := true }) s.dev })
    ∧ (s.dev.begins q e a → opOf e = 0x18 → modeOf e = 1 → plainOk e [(16, 4)] = true →
      (∀ c, tget a.sel x = some c → c.gen = leAt e 18 2 → c.steps.filter (fun p => p.2.phase ≠ .input) = [] → c.closers = [] →
        exec (.selectClose q e) s = .next { s with dev := (modSel (fun t => tdel t x) a).completed q e 0 0 })
      ∧ (tget a.sel x = none → exec (.selectClose q e) s = .next { s with dev := a.completed q e 0 0 }))
    ∧ (∀ c st stp, tget s.dev.sel x = some c → c.steps.find? (fun p => p.2.phase == .rows && p.2.left == 0
        && within (xWait c.record + 1) (2 ^ 47) (swathsSince s.dev p.2.disp)) = some (st, stp) →
      exec (.combWaitTimeout x) s = .next { s with dev := settle (stepFail x st 5 (setEvt oSelEvt 4 s.dev)) })

/-- Frames and work of Select (R231 to R237, R241): an input frame's elements are stored and a complete input makes its work item;
frames of an unknown context are discarded with a NOTICE; the first work item of a context is processed once its Swath has come; a
COMBINE frame's rows are held. -/
def Obligations.SelectFrames : Prop :=
  ∀ (s : State) (f : RxFrame) (a : Dev) (x : Nat), s.dev.boot.power = .on → a = takeRx f s.dev → x = selX f →
    (firstRx s.dev selTakes = some f → (f.vc = 2 ∨ f.vc = 3) →
      exec .selectFrameArrive s = .next { s with dev := settle (tally 13 0xFA (setEvt oSelEvt 5 a)) })
    ∧ (firstRx s.dev selTakes = some f → f.vc ≠ 2 → f.vc ≠ 3 → rxOp f = 6 → x % 8 = f.idx →
      (tget a.sel x = none → exec .selectFrameArrive s = .next { s with
        dev := settle (noticeOnceFrom f.dst f.src 8 (selBody (selSt f) (beAt f.hdr 16 2) 0 0 x) (tally 13 0xFA (setEvt oSelEvt 0 a))) })
      ∧ ∀ k, tget a.sel x = some k → k.closing = false → k.gen = beAt f.hdr 16 2 → k.done.contains (selSt f) = false →
        (2 ≤ subMod 32 (selSt f) k.cur → subMod 32 (selSt f) k.cur < 2 ^ 31 → exec .selectFrameArrive s = .next { s with
          dev := settle (noticeOnceFrom f.dst f.src 2 (selBody (selSt f) k.gen 0 0 x) (tally 13 0xFA (setEvt oSelEvt 1 a))) })
        ∧ ∀ els : List Bytes, els = frameEls k.record f.data → subMod 32 (selSt f) k.cur < 2 → tget k.steps (selSt f) = none →
          fWord f / 2 ^ 21 % 4 = 0 → fWord f / 2 ^ 24 < xNin k.record → els.length ≤ stepMost k.record →
          ∀ st w, st = { stepZero with
              els := (List.range els.length).foldl (fun t i =>
                tput t (elKey (fWord f / 2 ^ 24) (fWord f % 2 ^ 21 + i)) (els.getD i [])) [],
              ends := if (fWord f).testBit 23 then [(fWord f / 2 ^ 24, fWord f % 2 ^ 21 + els.length)] else [] } →
            w = modCtx x (fun c => { c with steps := tput c.steps (selSt f) st }) a →
            exec .selectFrameArrive s = .next { s with dev := settle (if inputsDone k.record st
              then itemReady x (selSt f) (workCost k.record st.els.length) .work w else w) })
    ∧ (∀ k st rest stp due, tget s.dev.sel x = some k → k.queue = st :: rest → tget k.steps st = some stp → stp.phase = .work due →
      swathCome s.dev due = true → xAllot k.record ≠ 0 →
      ∀ w, w = count 10 1 (workCost k.record stp.els.length) {} (modCtx x (fun c => { c with queue := rest }) s.dev) →
      (xOp k.record = 0 → exec (.selectWorkItem x) s = .next { s with
        dev := settle (selOutput x st 8 0 0 (((sortBy (selLe (xFmt k.record) false) (stepPairs k.record stp)).take (xK k.record)).flatMap pairBytes) w) })
      ∧ (xOp k.record = 3 → exec (.selectWorkItem x) s = .next { s with
        dev := settle (selOutput x st 8 0 0 (((stepPairs k.record stp).filter (filterKeeps k.record)).flatMap pairBytes) w) })
      ∧ (xOp k.record = 4 → exec (.selectWorkItem x) s = .next { s with
        dev := settle (selOutput x st 8 0 0 ((sortBy (selLe (xFmt k.record) (xAsc k.record)) (stepPairs k.record stp)).flatMap pairBytes) w) })
      ∧ (xOp k.record = 5 → exec (.selectWorkItem x) s = .next { s with dev := settle (moeGate x st k stp w) }))
    ∧ (firstRx s.dev (fun g => g.code == 0xFA && rxOp g == 9 && !selTakes g) = some f → x % 8 = f.idx → ∀ k w, tget a.sel x = some k →
      k.gen = beAt f.hdr 16 2 → xOp k.record = 5 → w = 16 + xD k.record * (xRfmt k.record).bytes → f.data.length % w = 0 →
      exec .combineArrive s = .next { s with
        dev := settle (combineReady x (selSt f) (each (List.range (f.data.length / w))
          (fun i d => combineRow x (selSt f) (fWord f / 2 ^ 24) (slice f.data (w * i) w) d) a)) })

/-- Selection order (R234): sorting keeps exactly the pairs it is given, and puts them in the order of rank with the lower index first
among equals. -/
def Obligations.SelectionOrder : Prop :=
  ∀ (f : Num.Fmt) (asc : Bool) (l : List (Nat × Nat)),
    (sortBy (selLe f asc) l).Perm l
    ∧ (sortBy (selLe f asc) l).Pairwise (fun a b => selLe f asc a b = true)

/-- TASK, IMEM_LOAD and IMEM_SWAP (R257, R258, R303, R304): a TASK enters its queue, waits while the queue is full, or is refused there
with QUEUE_FULL if it may not wait; a load goes into the inactive bank; a swap takes place at a boundary with every stream at rest. -/
def Obligations.ForgeQueues : Prop :=
  ∀ (s : State) (q : Nat) (e : Bytes) (a : Dev), s.live →
    (∀ f st, f = byteAt e 48 % 16 → st = byteAt e 48 / 16 → opOf e = 0x20 → modeOf e = 0 → bodyOk e [(16, 42)] = true → byteAt e 1 ≤ 1 →
      st ≤ 5 → allZero (slice e 49 9) = true → cmdOk st (slice e 16 32) = true →
      (s.dev.begins q e a → forgeFenced a f = false → (strm a f st).queue.length < 64 → exec (.task q e) s = .next { s with
        dev := enqueueCmd f st (slice e 16 32) (.task (sqCmd q e)) none false a })
      ∧ (s.dev.retries q e a → forgeFenced a f = false → (strm a f st).queue.length < 64 → exec (.taskQueueRetry q) s = .next { s with
        dev := enqueueCmd f st (slice e 16 32) (.task (sqCmd q e)) none false a })
      ∧ (s.dev.entryReady q e → forgeFenced s.dev f = false → 64 ≤ (strm s.dev f st).queue.length → byteAt e 1 = 0 →
        exec (.task q e) s = .next { s with dev := modSq q (fun y => { y with waiting := some e }) s.dev })
      ∧ (s.dev.begins q e a → forgeFenced a f = false → 64 ≤ (strm a f st).queue.length → byteAt e 1 = 1 →
        exec (.task q e) s = .next { s with dev := a.completed q e 3 0 }))
    ∧ (∀ f bank n, f = byteAt e 28 % 16 → bank = byteAt e 28 / 16 → n = leAt e 26 2 → s.dev.begins q e a → opOf e = 0x21 → modeOf e = 0 →
      plainOk e [(16, 13)] = true → byteAt e 28 ≤ 31 → n ≠ 0 → leAt e 24 2 + n ≤ 4096 → leAt e 16 8 % 64 = 0 → forgeFenced a f = false →
      (forge a f).bank ≠ bank → (forge a f).swap = none →
      exec (.imemLoad q e) s = .next { s with
        dev := modForges (fun x => { x with nextId := x.nextId + 1, loads := tput x.loads x.nextId {
            cmd := sqCmd q e, forge := f, bank := bank, first := leAt e 24 2,
            words := (List.range n).map (fun i => leAt (hostRead a (leAt e 16 8) (8 * n)) (8 * i) 8) } }) a })
    ∧ (∀ id l, tget s.dev.forge.loads id = some l → exec (.imemLoadDone id) s = .next { s with
      dev := settle (complete l.cmd 0 0 0 (modForge l.forge (fun x =>
        if l.bank = 0 then { x with imem0 := putWords x.imem0 l.first l.words } else { x with imem1 := putWords x.imem1 l.first l.words })
        (modForges (fun x => { x with loads := tdel x.loads id }) s.dev))) })
    ∧ (s.dev.begins q e a → opOf e = 0x22 → modeOf e = 0 → plainOk e [(16, 1)] = true → byteAt e 16 ≤ 15 →
      forgeFenced a (byteAt e 16) = false → (forge a (byteAt e 16)).swap = none →
      exec (.imemSwap q e) s = .next { s with dev := modForge (byteAt e 16) (fun x => { x with swap := some (sqCmd q e) }) a })
    ∧ (∀ f c, f < 16 → (forge s.dev f).swap = some c → s.dev.clk.now = s.dev.clk.swStart →
      (∀ st, st < 6 → (strm s.dev f st).on = false ∧ (strm s.dev f st).halted = false) →
      (∀ p ∈ s.dev.forge.loads, p.2.forge = f → p.2.bank = (forge s.dev f).bank) →
      exec (.imemSwapApply f) s = .next { s with
        dev := settle (complete c 0 0 0 (modForge f (fun x => { x with bank := 1 - x.bank, swap := none }) s.dev)) })

/-- A command of a stream (R260 to R263, R285, R304): a swap that is due comes first; then it starts when the Swath still holds its
budget, or at a boundary if its budget is in Swaths; it is refused when its budget exceeds a Swath. It ends COMPLETE once END has
passed and nothing is under way, from the cycle after on, and OVERRUN when its budget is spent before. -/
def Obligations.ForgeCommands : Prop :=
  ∀ (s : State) (f st t : Nat) (d z : Dev) (c : FCmd) (rest : List FCmd), s.dev.boot.power = .on → f < 16 → st < 6 → d = tick t s.dev →
    z = imemSwapApply f d → (strm d f st).queue = c :: rest →
    ((strm z f st).on = false → (strm z f st).halted = false → c.mb = none → (cHome c.b = 0 ∨ 4096 * cHome c.b ≤ homeLimit z f c.b) →
      (cSwaths c.b = false → 6 * z.clk.nsNow < cBudget c.b →
        exec (.forgeCommandStart f st t) s = .next { s with dev := settle (endCommand f st 1 z) })
      ∧ (cSwaths c.b = false → cBudget c.b ≤ 6 * z.clk.nsNow → cBudget c.b ≤ cyclesLeft z f z.clk.now →
        exec (.forgeCommandStart f st t) s = .next { s with dev := settle (startNow f st c (.cycle (nowEff z f + cBudget c.b)) z) })
      ∧ (cSwaths c.b = true → z.clk.now = z.clk.swStart →
        exec (.forgeCommandStart f st t) s = .next { s with
          dev := settle (startNow f st c (.swath ((z.clk.swc.toNat + cBudget c.b - 1) % 2 ^ 48)) z) }))
    ∧ ((strm d f st).on = true → (strm d f st).ended = true → (strm d f st).movers = [] → (st = 1 → (forge d f).sends = []) →
      (strm d f st).next ≤ nowEff d f →
      (∀ l, (strm d f st).limit = .cycle l → exec (.forgeCommandEnd f st t) s = .next { s with
        dev := settle (endCommand f st (if (strm d f st).next ≤ l then 0 else 0x12) d) })
      ∧ (∀ w, (strm d f st).limit = .swath w → 2 ^ 47 < subMod 48 d.clk.swc.toNat w ∨ d.clk.swc.toNat = w →
        exec (.forgeCommandEnd f st t) s = .next { s with dev := settle (endCommand f st 0 d) }))
    ∧ ((strm d f st).on = true → (strm d f st).ended = false →
      ((∃ l, (strm d f st).limit = .cycle l ∧ l ≤ nowEff d f)
        ∨ ∃ w, (strm d f st).limit = .swath w ∧ 1 ≤ subMod 48 d.clk.swc.toNat w ∧ subMod 48 d.clk.swc.toNat w ≤ 2 ^ 47) →
      exec (.commandOverrun f st t) s = .next { s with dev := settle (endCommand f st 0x12 d) })

/-- DISPATCH frames (R266, R267): the first unmatched frame of a Forge is matched, and takes rows of its binding's inbox if enough are
free, or waits with all behind it; the cells of a matched frame are written as they come; once it is whole, its spare rows are freed
and the handle's commands are enqueued when none of its streams is full. -/
def Obligations.DispatchFrames : Prop :=
  ∀ (s : State) (k : Nat), s.dev.boot.power = .on → k < 16 →
    (∀ f, unclaimed s.dev k = [f] →
      let arrive := fun (z : Dev) => each (z.sw.reasm.filter (fun r => r.code == 0xFB && r.idx == k)) (cellsIn k) z
      (∀ c z, s.dev.takesRows k f c z → exec (.dispatchInboxReserve k) s = .next { s with dev := settle (arrive z) })
      ∧ (∀ i n, forgeFenced s.dev k = false → bindFor s.dev f = some i → n = (512 * beAt f.hdr 2 2 - 32) / bindRow s.dev k i →
        n ≤ bindMax s.dev k i → bindMax s.dev k i < (tgetD (forge s.dev k).inbox i { wr := 0, ring := [] }).ring.length + n →
        exec (.dispatchInboxReserve k) s = .next { s with dev := settle (arrive s.dev) }))
    ∧ (∀ r b h st n base rb top w, unclaimed s.dev k = [] → s.dev.sw.reasm.filter (fun r => r.code == 0xFB && r.idx == k) = [r] →
      r.claim = .rows b h st n base rb top w → exec (.dispatchInboxReserve k) s = .next { s with
        dev := settle (modSw (fun x => { x with reasm := x.reasm.map (fun y =>
            if y.key == r.key then { y with claim := .rows b h st n base rb top r.cells.length } else y) })
          (each ((r.cells.drop w).map cellData) (fun c d => rowsWrite k st n base rb top c.1 c.2 d) s.dev)) })
    ∧ (∀ f g z i h st n base rb top w m v hd t u, f.idx = k → (∀ r ∈ s.dev.sw.reasm, r.code ≠ 0xFB) →
      s.dev.sw.rx.filter (fun g => g.code == 0xFB && rxOp g == 8) = [f] →
      ((f.claim = .rows i h st n base rb top w ∧ g = f ∧ z = s.dev)
        ∨ (w = 0 ∧ g = { f with claim := .rows i h st n base rb top 0 } ∧ s.dev.takesRows k f g.claim z)) →
      forgeFenced z k = false → f.data.length % rb = 0 → m = min n (f.data.length / rb) →
      t = (drawFree (releaseRows k i h m (some (forge z k).nextHandle)
        (rowsWrite k st n base rb top (if w = 0 then 0 else 512 * w - 32) (if w = 0 then f.data else f.data.drop (512 * w - 32))
          (takeAck g (takeRx g z))))).2 →
      v = (Config.freeValue z.free).toNat % 2 ^ 32 →
      hd = { num := v, bind := i, src := f.src, step := beAt f.hdr 12 4, gen := beAt f.hdr 16 2, expert := byteAt f.hdr 18,
             ctx := beAt f.hdr 30 2, cells := beAt f.hdr 22 4, rows := m, first := base + rb * (st % top), told := false, cmds := none } →
      u = enqueueWaiting k (modForge k (fun x =>
        { x with nextHandle := (forge z k).nextHandle + 1, handles := tput x.handles (forge z k).nextHandle hd }) t) →
      exec .dispatchArrive s = .next { s with dev := settle u })
    ∧ (∀ h hd sts u, (forge s.dev k).handles.filter (fun p => p.2.cmds.isNone) = [(h, hd)] → tget (forge s.dev k).handles h = some hd →
      sts = (List.range 6).filter (fun st => (bits (bindWord s.dev k hd.bind 0) 18 6).testBit st) →
      (∀ st ∈ sts, (strm s.dev k st).queue.length < 64) →
      u = each sts (fun st d => enqueueCmd k st (bindCmd d k hd.bind st hd.first hd.rows hd.step hd.num) (.binding h) none false d)
        (modForge k (fun x =>
          { x with handles := tput x.handles h { hd with cmds := some ((List.range sts.length).map (s.dev.forge.ser + ·)) } }) s.dev) →
      exec (.dispatchEnqueueRetry k) s = .next { s with dev := settle (if forgeFenced u k then forgeFence k u else u) })

/-- Frames at a Forge endpoint (R265, R269, R332, R342, R394): a WRITE's bytes are stored and its semaphore posted, a READ_REQ answered,
a READ_RSP stored where its request said, a NOTICE recorded; an access to a GDDR7 device in its retraining window waits; the frame
sender releases its first send (R268, R271), and a mover operation completes and posts (R284). Rows that reach GDDR7 meet the memory
errors of their operand (log 75). -/
def Obligations.ForgeFrames : Prop :=
  ∀ (s : State) (f : RxFrame) (errs : List MemErr) (o : Dev), s.dev.boot.power = .on → o = meet errs s.dev →
    (∀ a w, firstForge s.dev 3 = some f → w = beAt f.hdr 12 8 →
      (addrHeld s.dev w f.data.length = true → exec (.forgeWriteFrame errs) s = .next { s with dev := unmeet errs (settle o) })
      ∧ (seqTest s.dev f.src f.dst (rxSeq f) = .accept → a = seqAccept f.src f.dst (rxSeq f) (takeRx f o) → forgeFenced a f.idx = false →
        (w + f.data.length ≤ flmSize → exec (.forgeWriteFrame errs) s = .next { s with dev := unmeet errs (settle (postSem f.idx (hdrSem f.hdr)
          (modForge f.idx (fun x => { x with flm := memWriteN x.flm w f.data }) a))) })
        ∧ (∀ z, addrHeld s.dev w f.data.length = false → w < 2 ^ 48 → frameWrite f.idx w f.data a = (0, z) →
          exec (.forgeWriteFrame errs) s = .next { s with dev := unmeet errs (settle (postSem f.idx (hdrSem f.hdr) z)) })))
    ∧ (∀ a w n, firstForge s.dev 1 = some f → a = takeAck f (takeRx f o) → w = beAt f.hdr 12 8 → n = beAt f.hdr 22 4 → 1 ≤ n → n ≤ 256 →
      forgeFenced a f.idx = false → w + (512 * n - 32) ≤ flmSize →
      exec (.forgeReadReq errs) s = .next { s with
        dev := unmeet errs (settle (sendFrame (ownFrame a 2 f.dst f.src (eidXport a f.dst) (slice f.hdr 12 20)
          (memReadN (forge a f.idx).flm w (512 * n - 32)) .plain) [] a)) })
    ∧ (∀ a r, firstForge s.dev 2 = some f → a = takeAck f (takeRx f o) → forgeFenced a f.idx = false →
      (forge a f.idx).reads.find? (fun x => x.dst == f.src) = some r → r.addr + f.data.length ≤ flmSize →
      exec (.forgeReadRsp errs) s = .next { s with dev := unmeet errs (settle (postSem f.idx r.sem
        (modForge f.idx (fun x => { x with flm := memWriteN x.flm r.addr f.data })
          (modForge f.idx (fun x => { x with reads := x.reads.erase r }) a)))) })
    ∧ (∀ a, firstForge s.dev 0xA = some f → a = takeAck f (takeRx f s.dev) → forgeFenced a f.idx = false →
      a.cru.joins.any (fun p => p.2.eid == f.dst && p.2.cid == fCid f && p.2.gen == fGen f) = false →
      exec .forgeNoticeReceive s = .next { s with
        dev := settle (stamp (oForge f.idx + 0x30) 24 (modForge f.idx (fun x => { x with sendFail := true }) a)) })
    ∧ (∀ k t d x rest eid, k < 16 → d = tick t s.dev → (forge d k).sends = x :: rest → x.started = false → chunkMayGo d x = true →
      (∀ p, x.chunk = some p → (tget d.cru.joins p.1).isSome = true) → forgeEid d k = some eid →
      exec (.frameSenderPost k t) s = .next { s with dev := settle (sendFrame (sendOf d k eid x) []
        (modForge k (fun g => { g with sends := { x with started := true } :: rest }) d)) })
    ∧ (∀ k st t d m rest u v, k < 16 → st < 6 → d = tick t o → (strm d k st).movers = m :: rest → moverHeld d k m = false →
      u = modStrm k st (fun y => { y with movers := rest,
                                          next := if 16 ≤ rest.length + 1 ∧ y.next < nowEff d k then nowEff d k else y.next }) d →
      execMover k st m (if rest.isEmpty then notBefore k st u else u) = .ok v →
      exec (.moverComplete k st t errs) s = .next { s with dev := unmeet errs (settle (postSem k m.sem v)) })

/-- Semaphores (R253 to R255, R280): a post adds and saturates at 65,535 with the overflow recorded; a WAIT that is covered takes its
count and the stream goes on in the next cycle; a write sets a count while the streams it concerns are idle. -/
def Obligations.Semaphores : Prop :=
  (∀ (f n v : Nat) (d : Dev) (old : Nat), old = tgetD (forge d f).q n 0 →
    tgetD (forge (semAdd f (some f) n v d) f).q n 0 = min 65535 (old + v)
    ∧ (forge (semAdd f (some f) n v d) f).semOvf = ((forge d f).semOvf || decide (65535 < old + v)))
  ∧ ∀ (s : State), s.dev.boot.power = .on →
    (∀ f st t d g num n from_, f < 16 → st < 6 → d = tick t s.dev → (strm d f st).wait = some (g, num, n, from_) → (strm d f st).on = true →
      (forge d f).freeze = none → spent d (strm d f st) (nowEff d f) = false → n ≤ semCount d f g num →
      servedBefore d f st g num = false →
      exec (.semaphoreWaitSatisfied f st t) s = .next { s with
        dev := settle (modStrm f st (fun y => { y with wait := none, next := nowEff d f + 1 })
          (semTake f g num n (count 11 4 (nowEff d f - from_) { masters := [mForge f, mStream f st] } d))) })
    ∧ (∀ (f n : Nat) (v : BitVec 32), s.dev.quiet → s.dev.boot.recovery = false → f < 16 → n < 32 → forgeIdle s.dev f = true →
      exec (.forgeQsemWrite f n v) s = .next { s with dev := modForge f (fun x => { x with q := tput x.q n (v.toNat % 65536) }) s.dev })
    ∧ (∀ (n : Nat) (v : BitVec 32), s.dev.quiet → s.dev.boot.recovery = false → n < 64 → (∀ f, f < 16 → forgeIdle s.dev f = true) →
      exec (.forgeGsemWrite n v) s = .next { s with dev := modForges (fun x => { x with g := tput x.g n (v.toNat % 65536) }) s.dev })

/-- Issue and landing (R276, R279, R282, R286, R299, R300): an instruction's writes go in flight with their latencies, the stream
goes to its next pc after its interval, and nothing else of the stream changes; a write lands in its cycle; a set reserved bit, an
opcode without a meaning, a register that does not exist and a pending read under the audit stop the stream instead. -/
def Obligations.IssueAndLand : Prop :=
  (∀ (d p : Dev) (x : Fetch) (y : Eff), x.s = strm d x.f x.st → x.s.rep = none → y.act = (fun d => d) → y.pc.getD (x.s.pc + 1) ≤ 4095 →
    p = perform x y d →
      (strm p x.f x.st).pc = y.pc.getD (x.s.pc + 1) ∧ (strm p x.f x.st).next = x.e + y.intv
      ∧ (strm p x.f x.st).s = x.s.s ∧ (strm p x.f x.st).a = x.s.a ∧ (strm p x.f x.st).v = x.s.v ∧ (strm p x.f x.st).t = x.s.t
      ∧ (strm p x.f x.st).flags = x.s.flags ∧ (strm p x.f x.st).queue = x.s.queue ∧ (forge p x.f).flm = (forge d x.f).flm
      ∧ (forge p x.f).pend = (forge d x.f).pend ++ y.out.map (fun o =>
        { land := nowEff d x.f + o.1, st := x.st, ord := (forge d x.f).ord + 1, ser := serOf x.s, what := o.2 })
      ∧ ∀ f, f ≠ x.f → forge p f = forge d f)
  ∧ (∀ (d e : Dev) (f st ord ser land r v : Nat), land ≤ nowEff d f → e = landAll f d →
    ((forge d f).pend = [{ land := land, st := st, ord := ord, ser := ser, what := .s r v }] →
      tgetD (strm e f st).s r 0 = v % 2 ^ 32 ∧ (forge e f).pend = [] ∧ (∀ k, k ≠ r → tgetD (strm e f st).s k 0 = tgetD (strm d f st).s k 0)
        ∧ (strm e f st).a = (strm d f st).a ∧ (strm e f st).v = (strm d f st).v ∧ (forge e f).flm = (forge d f).flm)
    ∧ ((forge d f).pend = [{ land := land, st := st, ord := ord, ser := ser, what := .a r v }] →
      tgetD (strm e f st).a r 0 = v % 2 ^ 48 ∧ (strm e f st).s = (strm d f st).s))
  ∧ ∀ (s : State) (f st t : Nat) (x : Fetch) (d : Dev), s.dev.boot.power = .on → f < 16 → st < 6 → d = tick t s.dev →
    fetchNow f st d = some x →
      (opDefined (iOp x.w) = false → exec (.nopInstruction f st t) s = .next { s with dev := settle (faultStream f st fENC d) })
      ∧ (iOp x.w = 5 → x.w &&& (2 ^ 56 - 1 - (mDst ||| mSrc1 ||| used2 x ||| mBits 36 1)) ≠ 0 →
        exec (.add f st t) s = .next { s with dev := settle (faultStream f st fENC d) })
      ∧ (iOp x.w = 5 → x.w &&& (2 ^ 56 - 1 - (mDst ||| mSrc1 ||| used2 x ||| mBits 36 1)) = 0 →
        (32 ≤ iDst x.w ∨ 32 ≤ iSrc1 x.w ∨ (iX x.w = false ∧ 32 ≤ iSrc2 x.w)) →
        exec (.add f st t) s = .next { s with dev := settle (faultStream f st fREG d) })
      ∧ (iOp x.w = 4 → iDst x.w < 32 → x.w &&& (2 ^ 56 - 1 - (mDst ||| mImm)) = 0 → flag d (oForge f + 0x20) 0 = true →
        exec (.movi f st t) s = .next { s with dev := s.dev.issued t x { out := [(1, .s (iDst x.w) (iImm x.w))] } })
      ∧ (iOp x.w = 0x13 → iDst x.w < 32 → iSrc1 x.w < 16 → x.w &&& (2 ^ 56 - 1 - (mDst ||| mSrc1 ||| mBits 0 1)) = 0 →
        flag d (oForge f + 0x20) 0 = true → pendingOn d x (1, iSrc1 x.w) = true →
        exec (.aget f st t) s = .next { s with dev := settle (hazardHalt x (1, iSrc1 x.w) d) })

/-- Scalar arithmetic (Table 10.4): the value each operation writes to S[dst] one cycle after issue; the second operand is a register
or the immediate. -/
def Obligations.ScalarArithmetic : Prop :=
  ∀ (s : State) (f st t : Nat) (x : Fetch) (a b : Nat), s.dev.boot.power = .on → iDst x.w < 32 → iSrc1 x.w < 32 →
    (iX x.w = false → iSrc2 x.w < 32) → a = rS x (iSrc1 x.w) → b = (if iX x.w then iImm x.w else rS x (iSrc2 x.w)) →
    let ok := fun (op extra : Nat) => s.dev.issues f st t op (mDst ||| mSrc1 ||| used2 x ||| extra) ((0, iSrc1 x.w) :: reads2 x) x
    let out := fun (v : Nat) (fl : Num.Flags) =>
      ({ s with dev := s.dev.issued t x { out := (1, .s (iDst x.w) v) :: flagOut 1 fl } } : State)
    (ok 0x05 (mBits 36 1) → iSat x.w = false → exec (.add f st t) s = .next (out ((a + b) % 2 ^ 32) 0))
    ∧ (ok 0x05 (mBits 36 1) → iSat x.w = true → ∀ r, r = Num.sat .int32 true (signed 32 a + signed 32 b) →
      exec (.add f st t) s = .next (out r.1 r.2))
    ∧ (ok 0x06 (mBits 36 1) → iSat x.w = false → exec (.sub f st t) s = .next (out (subMod 32 a b) 0))
    ∧ (ok 0x06 (mBits 36 1) → iSat x.w = true → ∀ r, r = Num.sat .int32 true (signed 32 a - signed 32 b) →
      exec (.sub f st t) s = .next (out r.1 r.2))
    ∧ (ok 0x07 0 → exec (.andS f st t) s = .next (out (a &&& b) 0))
    ∧ (ok 0x08 0 → exec (.orS f st t) s = .next (out (a ||| b) 0))
    ∧ (ok 0x09 0 → exec (.xorS f st t) s = .next (out (a ^^^ b) 0))
    ∧ (ok 0x0A 0 → exec (.shl f st t) s = .next (out (a * 2 ^ (b % 32) % 2 ^ 32) 0))
    ∧ (ok 0x0B 0 → exec (.shr f st t) s = .next (out (a / 2 ^ (b % 32)) 0))
    ∧ (ok 0x0C 0 → exec (.sra f st t) s = .next (out (wrap 32 (signed 32 a / 2 ^ (b % 32))) 0))
    ∧ (ok 0x0D (mBits 32 3) → ∀ v : Nat,
      ((iCond x.w = 0 ∧ v = if a = b then 1 else 0) ∨ (iCond x.w = 1 ∧ v = if a = b then 0 else 1)
        ∨ (iCond x.w = 2 ∧ v = if signed 32 a < signed 32 b then 1 else 0) ∨ (iCond x.w = 3 ∧ v = if signed 32 a < signed 32 b then 0 else 1)
        ∨ (iCond x.w = 4 ∧ v = if a < b then 1 else 0) ∨ (iCond x.w = 5 ∧ v = if a < b then 0 else 1)) →
      exec (.setc f st t) s = .next (out v 0))

/-- Control and address instructions (R278, R282, R285, R286, Table 10.4): NOP, END, REP, BR, MOVI, ASET, AADD, ASTR, AGET, LDS, STS,
ID, FLG. -/
def Obligations.ControlAndAddress : Prop :=
  ∀ (s : State) (f st t : Nat) (x : Fetch) (d : Dev), s.dev.boot.power = .on → d = tick t s.dev →
    (s.dev.issues f st t 0x00 0 [] x → exec (.nopInstruction f st t) s = .next { s with dev := s.dev.issued t x {} })
    ∧ (s.dev.issues f st t 0x01 0 [] x → ∀ c rest, x.s.queue = c :: rest →
      (x.s.run + 1 < cRepeat c.b → exec (.endInstr f st t) s = .next { s with
        dev := s.dev.issued t x { act := fun d => modStrm f st (fun y => { y with pc := cPc c.b, run := x.s.run + 1 }) (runLoads f st 1 c (x.s.run + 1) d) } })
      ∧ (cRepeat c.b ≤ x.s.run + 1 → exec (.endInstr f st t) s = .next { s with
        dev := s.dev.issued t x { act := modStrm f st (fun y => { y with ended := true, pc := x.s.pc }) } }))
    ∧ (s.dev.issues f st t 0x02 mImm [] x → ∀ n nextOp, n = bits x.w 0 16 → nextOp = iOp (fetchWord (forge d f) (x.s.pc + 1)) →
      (n ≠ 0 → nextOp ≠ 1 → nextOp ≠ 2 → nextOp ≠ 3 → exec (.rep f st t) s = .next { s with
        dev := s.dev.issued t x { act := modStrm f st (fun y => { y with rep := some (n, bits x.w 16 16, 0) }) } })
      ∧ (n = 0 → exec (.rep f st t) s = .next { s with dev := settle (faultStream f st fREP d) }))
    ∧ (s.dev.issues f st t 0x03 (mSrc1 ||| mSrc2 ||| mBits 32 3 ||| mBits 0 12)
        (if iCond x.w = 6 then [] else [(0, iSrc1 x.w), (0, iSrc2 x.w)]) x → iSrc1 x.w < 32 → iSrc2 x.w < 32 → iCond x.w ≠ 7 →
      exec (.br f st t) s = .next { s with dev := s.dev.issued t x (
          if iCond x.w = 6 ∨ condS (iCond x.w) (rS x (iSrc1 x.w)) (rS x (iSrc2 x.w)) = true
          then { intv := 2, pc := some (bits x.w 0 12) } else {}) })
    ∧ (s.dev.issues f st t 0x04 (mDst ||| mImm) [] x → iDst x.w < 32 → exec (.movi f st t) s = .next { s with
      dev := s.dev.issued t x { out := [(1, .s (iDst x.w) (iImm x.w))] } })
    ∧ (s.dev.issues f st t 0x10 (mDst ||| mSrc1 ||| mSrc2) [(0, iSrc1 x.w), (0, iSrc2 x.w)] x → iDst x.w < 16 → iSrc1 x.w < 32 →
      iSrc2 x.w < 32 → exec (.aset f st t) s = .next { s with
        dev := s.dev.issued t x { out := [(1, .a (iDst x.w) (rS x (iSrc1 x.w) + 2 ^ 32 * (rS x (iSrc2 x.w) % 2 ^ 16)))] } })
    ∧ (s.dev.issues f st t 0x11 (mDst ||| mSrc1 ||| used2 x) ((1, iSrc1 x.w) :: reads2 x) x → iDst x.w < 16 → iSrc1 x.w < 16 →
      (iX x.w = false → iSrc2 x.w < 32) → exec (.aadd f st t) s = .next { s with
        dev := s.dev.issued t x {
            out := [(1, .a (iDst x.w) (wrap 48 ((rA x (iSrc1 x.w) : Int)
          + signed 32 (if iX x.w then iImm x.w else rS x (iSrc2 x.w)))))] } })
    ∧ (s.dev.issues f st t 0x12 (mDst ||| mBits 37 1 ||| (if iX x.w then mImm else mSrc1)) (if iX x.w then [] else [(0, iSrc1 x.w)]) x →
      iDst x.w < 16 → (iX x.w = false → iSrc1 x.w < 32) → exec (.astr f st t) s = .next { s with
        dev := s.dev.issued t x { out := [(1, .stride (iDst x.w) (if iX x.w then iImm x.w else rS x (iSrc1 x.w)))] } })
    ∧ (s.dev.issues f st t 0x13 (mDst ||| mSrc1 ||| mBits 0 1) [(1, iSrc1 x.w)] x → iDst x.w < 32 → iSrc1 x.w < 16 →
      exec (.aget f st t) s = .next { s with dev := s.dev.issued t x { out := [(1, .s (iDst x.w) (if bit x.w 0 then rA x (iSrc1 x.w) / 2 ^ 32 else rA x (iSrc1 x.w) % 2 ^ 32))] } })
    ∧ (s.dev.issues f st t 0x14 (mDst ||| mSrc1) [(1, iSrc1 x.w)] x → iDst x.w < 32 → iSrc1 x.w < 16 → rA x (iSrc1 x.w) % 4 = 0 → ∀ m o,
      localMem (rA x (iSrc1 x.w)) 4 = some (m, o) → exec (.lds f st t) s = .next { s with
        dev := s.dev.issued t x { out := [(8, .s (iDst x.w) (leNat (memReadN (if m then (forge d f).side else (forge d f).flm) o 4)))] } })
    ∧ (s.dev.issues f st t 0x14 (mDst ||| mSrc1) [(1, iSrc1 x.w)] x → iDst x.w < 32 → iSrc1 x.w < 16 → rA x (iSrc1 x.w) % 4 ≠ 0 →
      exec (.lds f st t) s = .next { s with dev := settle (faultStream f st fALIGN d) })
    ∧ (s.dev.issues f st t 0x15 (mSrc1 ||| mSrc2) [(1, iSrc1 x.w), (0, iSrc2 x.w)] x → iSrc1 x.w < 16 → iSrc2 x.w < 32 →
      rA x (iSrc1 x.w) % 4 = 0 →
      ∀ m o, localMem (rA x (iSrc1 x.w)) 4 = some (m, o) → exec (.sts f st t) s = .next { s with
        dev := s.dev.issued t x { out := [(2, .mem m o (toLE 4 (rS x (iSrc2 x.w))))] } })
    ∧ (s.dev.issues f st t 0x1C (mDst ||| mBits 0 2) [] x → iDst x.w < 32 → ∀ v, (bits x.w 0 2 = 0 ∧ v = st)
        ∨ (bits x.w 0 2 = 1 ∧ v = f) ∨ (bits x.w 0 2 = 2 ∧ v = d.clk.swc.toNat % 2 ^ 32) →
      exec (.id f st t) s = .next { s with dev := s.dev.issued t x { out := [(1, .s (iDst x.w) v)] } })
    ∧ (s.dev.issues f st t 0x1D (mDst ||| mBits 0 5) [] x → iDst x.w < 32 → exec (.flg f st t) s = .next { s with
        dev := s.dev.issued t x {
            out := [(1, .s (iDst x.w) (x.s.flags + 16 * (if st = 1 then boolNat (forge d f).sendFail else 0))),
                                          (1, .clear (bits x.w 0 5))] } })

/-- POST, WAIT, ENQ, QD, and the movers and the frame sender (R254, R257 to R259, R280, R284, R290 to R294): a post goes out with its
latency, a covered WAIT takes its count and another holds the stream; ENQ answers 0, QUEUE_FULL or BAD_DESCRIPTOR; an operation enters
its queue. -/
def Obligations.SyncAndMovers : Prop :=
  ∀ (s : State) (f st t : Nat) (x : Fetch) (d : Dev), s.dev.boot.power = .on → d = tick t s.dev →
    (s.dev.issues f st t 0x18 (mSrc1 ||| mBits 37 1 ||| mBits 0 (if iX x.w then 16 else 20)) [] x → bits x.w 0 16 ≠ 0 →
      (iX x.w = true ∨ iSrc1 x.w ≤ 31) → exec (.post f st t) s = .next { s with
        dev := s.dev.issued t x { act := post f (bits x.w 16 4) (iX x.w) (iSrc1 x.w) (bits x.w 0 16) } })
    ∧ (s.dev.issues f st t 0x19 (mSrc1 ||| mBits 37 1 ||| mBits 0 (if iX x.w then 16 else 20)) [] x → bits x.w 0 16 ≠ 0 →
      (iX x.w = true ∨ (iSrc1 x.w ≤ 31 ∧ bits x.w 16 4 = 0)) → exec (.wait f st t) s = .next { s with
        dev := s.dev.issued t x { act := fun d => if bits x.w 0 16 ≤ semCount d f (iX x.w) (iSrc1 x.w) && !servedBefore d f st (iX x.w) (iSrc1 x.w) then semTake f (iX x.w) (iSrc1 x.w) (bits x.w 0 16) d else modStrm f st (fun y => { y with wait := some (iX x.w, iSrc1 x.w, bits x.w 0 16, x.e) }) d } })
    ∧ (s.dev.issues f st t 0x1A (mDst ||| mSrc1 ||| mBits 0 7) [(1, iSrc1 x.w)] x → iDst x.w < 32 → iSrc1 x.w < 16 → bits x.w 4 3 ≤ 5 →
      rA x (iSrc1 x.w) % 32 = 0 → rA x (iSrc1 x.w) + 32 ≤ flmSize → ∀ k to_ b, k = bits x.w 0 4 → to_ = bits x.w 4 3 →
      b = memReadN (forge d f).flm (rA x (iSrc1 x.w)) 32 →
      (cmdOk to_ b = false → exec (.enq f st t) s = .next { s with dev := s.dev.issued t x { out := [(3, .s (iDst x.w) 0x10)] } })
      ∧ (cmdOk to_ b = true → 64 ≤ (strm d k to_).queue.length →
        exec (.enq f st t) s = .next { s with dev := s.dev.issued t x { out := [(3, .s (iDst x.w) 3)] } })
      ∧ (cmdOk to_ b = true → (strm d k to_).queue.length < 64 → exec (.enq f st t) s = .next { s with
        dev := s.dev.issued t x {
            out := [(3, .s (iDst x.w) 0)], act := enqFrom f st k to_ b } }))
    ∧ (s.dev.issues f st t 0x1B (mDst ||| mBits 0 7) [] x → iDst x.w < 32 → bits x.w 4 3 ≤ 5 → bits x.w 0 4 = f →
      exec (.qd f st t) s = .next { s with dev := s.dev.issued t x { out := [(3, .s (iDst x.w) (strm d f (bits x.w 4 3)).queue.length)] } })
    ∧ (s.dev.issues f st t 0x1B (mDst ||| mBits 0 7) [] x → iDst x.w < 32 → bits x.w 4 3 ≤ 5 → bits x.w 0 4 ≠ f → ∀ n,
      n = (strm d (bits x.w 0 4) (bits x.w 4 3)).queue.length →
      exec (.qd f st t) s = .next { s with dev := s.dev.issued t x { act := fun d => modForges (fun y =>
        { y with late := y.late ++ [(d.clk.now + 40, Late.depth f st (iDst x.w) n (forge d f).ord)] }) d } })
    ∧ (∀ n sem, s.dev.issues f st t (if st = 0 then 0x40 else 0x50) (mDst ||| mSrc1 ||| mSrc2 ||| mBits 0 8)
        [(1, iDst x.w), (1, iSrc1 x.w), (0, iSrc2 x.w)] x → st ≤ 1 → (strm d f st).movers.length < 16 → iDst x.w < 16 → iSrc1 x.w < 16 →
      iSrc2 x.w < 32 → n = rS x (iSrc2 x.w) → n % 64 = 0 → 64 ≤ n → n ≤ 2 ^ 24 → rA x (iSrc1 x.w) % 64 = 0 → rA x (iDst x.w) % 64 = 0 →
      ∀ u v, placeOf (rA x (iSrc1 x.w)) n = some u → placeOf (rA x (iDst x.w)) n = some v → movOpen st u v = true → sem = semField x.w 0 → semBad sem = false →
      exec (.mov f st t) s = .next { s with dev := s.dev.issued t x { act := modStrm f st (fun y =>
        { y with movers := y.movers ++ [{ op := .mov (rA x (iDst x.w)) (rA x (iSrc1 x.w)) n, ser := serOf x.s, sem := sem }] }) } })
    ∧ (∀ a pitch sem sc wide rows, s.dev.issues f st t 0x41 (mDst ||| mSrc1 ||| mBits 0 18 ||| (if bit x.w 8 then mSrc2 else 0))
        ([(0, iDst x.w), (1, iSrc1 x.w)] ++ (if bit x.w 8 then [(1, iSrc2 x.w)] else [])) x → st = 0 →
      (strm d f st).movers.length < 16 → iDst x.w < 32 → iSrc1 x.w < 16 → (bit x.w 8 = true → iSrc2 x.w < 16) →
      wldFmt (bits x.w 5 3) = some wide → (wide = true → bits x.w 0 4 % 2 = 0) → a = rA x (iSrc1 x.w) → pitch = rS x (iDst x.w) →
      sc = rA x (iSrc2 x.w) → pitch % 64 = 0 → a % 64 = 0 → (bit x.w 8 = true → sc % 64 = 0) →
      rows = (List.range 64).map (fun r => placeOf (rowAddr a pitch r) (64 * (Num.Fmt.ofCode (bits x.w 5 3)).bytes)) →
      rowsBad (if bit x.w 8 then rows ++ [placeOf sc 64] else rows) notSide = none → sem = semField x.w 10 → semBad sem = false →
      exec (.wld f st t) s = .next { s with dev := s.dev.issued t x { act := modStrm f st (fun y =>
        { y with movers := y.movers ++ [{ op := .wld a pitch (bits x.w 0 4) (bits x.w 4 1) (bits x.w 5 3) (if bit x.w 8 then some sc else none) (bit x.w 9), ser := serOf x.s, sem := sem }] }) } })
    ∧ (∀ a pitch sem r, s.dev.issues f st t 0x51 (mSrc1 ||| mSrc2 ||| mBits 0 16 ||| mBits 32 4)
        [(1, iSrc1 x.w), (0, iSrc2 x.w), (4, 8 * bits x.w 3 1 + bits x.w 0 3)] x → st = 1 → (strm d f st).movers.length < 16 →
      iSrc1 x.w < 16 → iSrc2 x.w < 32 → bits x.w 4 3 ≤ 2 → iRnd x.w ≤ 1 → iOrm x.w ≤ 1 → a = rA x (iSrc1 x.w) → pitch = rS x (iSrc2 x.w) →
      pitch % 64 = 0 → a % 64 = 0 →
      (∀ i, i < 64 → ∃ o, placeOf (rowAddr a pitch i) (64 * (Num.Fmt.ofCode (bits x.w 4 3)).bytes) = some (.flm o)) →
      sem = semField x.w 8 → semBad sem = false →
      r = drainRows (resSlot d f (bits x.w 3 1) (bits x.w 0 3)) (Num.Fmt.ofCode (bits x.w 4 3)) (rndOf x.w) (iOrm x.w) (bit x.w 7) →
      exec (.rdr f st t) s = .next { s with dev := s.dev.issued t x {
            out := flagOut 1 r.2, act := modStrm f st (fun y =>
        { y with movers := y.movers ++ [{ op := .rdr a pitch r.1, ser := serOf x.s, sem := sem }] }) } })
    ∧ (∀ v cells, s.dev.issues f st t 0x52 (mSrc1 ||| mSrc2 ||| mBits 32 5 ||| mBits 0 16 ||| mBits 16 16) [(1, iSrc1 x.w), (0, iSrc2 x.w)] x →
      st = 1 → iSrc1 x.w < 16 → iSrc2 x.w < 32 → semBad (semField x.w 8) = false → bits x.w 32 2 = 0 → v = rS x (iSrc2 x.w) → v < 2 ^ 28 →
      (v / 2 ^ 24 = 0 ∨ v / 2 ^ 24 = 3 ∨ v / 2 ^ 24 = 6) → (forge d f).sends.length < 16 → cells = bits x.w 0 8 + 1 →
      rA x (iSrc1 x.w) % 64 = 0 → rA x (iSrc1 x.w) + 512 * cells ≤ flmSize →
      exec (.sendInstruction f st t) s = .next { s with dev := s.dev.issued t x { act := modForge f (fun g => { g with sends := g.sends ++
        [{ sendZero x with len := 512 * cells - 32, op := v / 2 ^ 24, dst := v % 2 ^ 24, label := bits x.w 16 16 }] }) } })
    ∧ (∀ y, s.dev.issues f st t 0x52 (mSrc1 ||| mSrc2 ||| mBits 32 5 ||| mBits 0 16 ||| mDst) [(1, iSrc1 x.w), (0, iSrc2 x.w), (0, iDst x.w)] x →
      st = 1 → iSrc1 x.w < 16 → iSrc2 x.w < 32 → iDst x.w < 32 → semBad (semField x.w 8) = false →
      ((bits x.w 32 2 = 1 ∧ sendReplyKind x d = .ok y) ∨ (bits x.w 32 2 = 2 ∧ sendChunk x d = .ok y)) →
      exec (.sendInstruction f st t) s = .next { s with dev := s.dev.issued t x y })

/-- TINKER's vector instructions (R287 to R289, Table 10.5): lanes combined one by one by the arithmetic of their format, with the
latency of their row. -/
def Obligations.VectorInstructions : Prop :=
  ∀ (s : State) (f t : Nat) (x : Fetch) (d : Dev), s.dev.boot.power = .on → d = tick t s.dev → iDst x.w < 32 →
    (s.dev.issues f 2 t 0x20 (mDst ||| mSrc1) [(1, iSrc1 x.w)] x → iSrc1 x.w < 16 → rA x (iSrc1 x.w) % 64 = 0 → ∀ m o,
      localMem (rA x (iSrc1 x.w)) 64 = some (m, o) → exec (.vld f 2 t) s = .next { s with
        dev := s.dev.issued t x { out := vOut 8 (iDst x.w) (leNat (memReadN (if m then (forge d f).side else (forge d f).flm) o 64)) } })
    ∧ (s.dev.issues f 2 t 0x21 (mSrc1 ||| mSrc2) [(1, iSrc1 x.w), (2, iSrc2 x.w)] x → iSrc1 x.w < 16 → iSrc2 x.w < 32 →
      rA x (iSrc1 x.w) % 64 = 0 → ∀ m o, localMem (rA x (iSrc1 x.w)) 64 = some (m, o) → exec (.vst f 2 t) s = .next { s with
        dev := s.dev.issued t x { out := [(2, .mem m o (toLE 64 (rV x (iSrc2 x.w))))] } })
    ∧ (s.dev.issues f 2 t 0x22 (mDst ||| mSrc1 ||| mBits 0 3) [(0, iSrc1 x.w)] x → iSrc1 x.w < 32 → bits x.w 0 3 ≠ 7 → ∀ w,
      w = (Num.Fmt.ofCode (bits x.w 0 3)).bits → exec (.vbc f 2 t) s = .next { s with
        dev := s.dev.issued t x { out := vOut 2 (iDst x.w) (packLanes w (List.replicate (512 / w) (rS x (iSrc1 x.w)))) } })
    ∧ (iSrc1 x.w < 32 → iSrc2 x.w < 32 →
      let fm := Num.Fmt.ofCode (bits x.w 0 3)
      let rn := rndOf x.w
      let o := iOrm x.w
      let lf := if bits x.w 0 3 = 0 then 5 else 4
      let ok := fun (op extra : Nat) (reads : List (Nat × Nat)) => s.dev.issues f 2 t op (mDst ||| mSrc1 ||| mSrc2 ||| extra)
        ([(2, iSrc1 x.w), (2, iSrc2 x.w)] ++ reads) x
      let each3 := fun (g : Nat → Nat → Nat → Nat × Num.Flags) => gatherLanes fm.bits
        (((lanes fm.bits (rV x (iSrc1 x.w))).zip ((lanes fm.bits (rV x (iSrc2 x.w))).zip (lanes fm.bits (rV x (iDst x.w))))).map
          (fun p => g p.1 p.2.1 p.2.2))
      let out := fun (lat : Nat) (g : Nat → Nat → Nat → Nat × Num.Flags) =>
        ({ s with dev := s.dev.issued t x { out := vOut lat (iDst x.w) (each3 g).1 ++ flagOut lat (each3 g).2 } } : State)
      let raw := fun (v : Nat) => ({ s with dev := s.dev.issued t x { out := vOut 2 (iDst x.w) v } } : State)
      let float := mBits 0 3 ||| mBits 32 4
      (bits x.w 0 3 ≤ 1 → iRnd x.w ≤ 1 → iOrm x.w ≤ 1 →
        (ok 0x23 float [] → exec (.vadd f 2 t) s = .next (out lf (fun a b _ => Num.addF fm rn o a b)))
        ∧ (ok 0x24 float [] → exec (.vsub f 2 t) s = .next (out lf (fun a b _ => Num.subF fm rn o a b)))
        ∧ (ok 0x25 float [] → exec (.vmul f 2 t) s = .next (out lf (fun a b _ => Num.mulF fm rn o a b)))
        ∧ (ok 0x26 float [(2, iDst x.w)] → exec (.vfma f 2 t) s = .next (out lf (fun a b e => Num.fmaF fm rn o a b e))))
      ∧ (3 ≤ bits x.w 0 3 → bits x.w 0 3 ≤ 6 →
        (ok 0x27 (mBits 0 3 ||| mBits 36 1) [] → exec (.viadd f 2 t) s = .next (out 2 (fun a b _ => Num.addI fm (iSat x.w) a b)))
        ∧ (ok 0x28 (mBits 0 3 ||| mBits 36 1) [] → exec (.visub f 2 t) s = .next (out 2 (fun a b _ => Num.subI fm (iSat x.w) a b)))
        ∧ (ok 0x29 (mBits 0 3) [] → exec (.vimin f 2 t) s
          = .next (out 2 (fun a b _ => (if Num.toInt fm b < Num.toInt fm a then b else a, 0))))
        ∧ (ok 0x2A (mBits 0 3) [] → exec (.vimax f 2 t) s
          = .next (out 2 (fun a b _ => (if Num.toInt fm a < Num.toInt fm b then b else a, 0))))
        ∧ (ok 0x2B (mBits 0 3 ||| mBits 32 3) [] → iCond x.w ≠ 4 → iCond x.w ≠ 5 → exec (.vicmp f 2 t) s
          = .next (out 2 (fun a b _ => (if condV (iCond x.w) fm a b then 2 ^ fm.bits - 1 else 0, 0)))))
      ∧ (ok 0x2D 0 [] → exec (.vand f 2 t) s = .next (raw (rV x (iSrc1 x.w) &&& rV x (iSrc2 x.w))))
      ∧ (ok 0x2E 0 [] → exec (.vor f 2 t) s = .next (raw (rV x (iSrc1 x.w) ||| rV x (iSrc2 x.w))))
      ∧ (ok 0x2F 0 [] → exec (.vxor f 2 t) s = .next (raw (rV x (iSrc1 x.w) ^^^ rV x (iSrc2 x.w))))
      ∧ (ok 0x30 0 [(2, iDst x.w)] → exec (.vsel f 2 t) s = .next (raw ((rV x (iSrc1 x.w) &&& rV x (iSrc2 x.w))
        ||| ((2 ^ 512 - 1 - rV x (iSrc1 x.w)) &&& rV x (iDst x.w))))))
    ∧ (∀ (sf df : Num.Fmt) (p ws wd n lane0 : Nat), s.dev.issues f 2 t 0x2C (mDst ||| mSrc1 ||| mImm ||| mBits 32 5 ||| (if iRnd x.w = 2 then mSrc2 else 0))
        ((2, iSrc1 x.w) :: (if iRnd x.w = 2 then [(0, iSrc2 x.w), (0, iSrc2 x.w + 1)] else [])) x → iSrc1 x.w < 32 →
      (iRnd x.w = 2 → iSrc2 x.w < 31 ∧ iSrc2 x.w % 2 = 0 ∧ df.isInt = false) → iRnd x.w ≤ 2 → iOrm x.w ≤ 1 →
      sf = Num.Fmt.ofCode (bits x.w 0 3) → df = Num.Fmt.ofCode (bits x.w 3 3) → bits x.w 0 3 ≠ 7 → bits x.w 3 3 ≠ 7 → p = bits x.w 6 2 →
      ws = sf.bits → wd = df.bits → p < max ws wd / min ws wd → n = 512 / max ws wd → lane0 = (if wd < ws then p * n else 0) →
      ∀ r, r = gatherLanes wd ((List.range n).map (fun i =>
        (Num.convert sf df (cvtRnd x (lane0 + i)) (iOrm x.w) (iSat x.w)
          ((if ws < wd then ((lanes ws (rV x (iSrc1 x.w))).drop (p * n)).take n else lanes ws (rV x (iSrc1 x.w))).getD i 0)).getD (0, 0))) →
      exec (.vcvt f 2 t) s = .next { s with dev := s.dev.issued t x { out := (3, .v (iDst x.w) (if wd < ws then mBits (lane0 * wd) (n * wd) else allOnes512) (r.1 * 2 ^ (lane0 * wd))) :: flagOut 3 r.2 } })

/-- The Anvils and the Temper (R186, R295 to R298, R306, R323): TLD loads a descriptor; an MMA writes the fused products of
its tiles to its result slot, free accumulators where the manual states none (log 29); a Temper instruction writes its row and statistics. -/
def Obligations.EngineInstructions : Prop :=
  ∀ (s : State) (f st t : Nat) (x : Fetch) (d : Dev), s.dev.boot.power = .on → d = tick t s.dev →
    (s.dev.issues f st t Config.opTld.toNat (mDst ||| mSrc1) [(1, iSrc1 x.w)] x → (st = 3 ∨ st = 4) → iDst x.w < 8 → iSrc1 x.w < 16 →
      rA x (iSrc1 x.w) % 16 = 0 → rA x (iSrc1 x.w) + 16 ≤ flmSize → exec (.tld f st t) s = .next { s with
        dev := s.dev.issued t x { out := [(8, .t (iDst x.w) (memReadN (forge d f).flm (rA x (iSrc1 x.w)) 16))] } })
    ∧ (∀ td p r lat, s.dev.issues f st t Config.opMma.toNat (mSrc1 ||| mSrc2 ||| mBits 32 4 ||| mBits 37 1) (mmaReads x) x →
      (st = 3 ∨ st = 4) → iSrc1 x.w < 8 → iSrc2 x.w < 16 → mmaBad x = none → td = tileDesc (rT x (iSrc1 x.w)) →
      (td.flow = 3 → partnerOk x d = true) → p = statTile x td d →
      r = (if p.data.length = 4096 * tileE td then mmaResult x td p (strmTile x td d) d else mmaFree x td p (strmTile x td d) d) →
      lat = (if td.fp32 then 272 else 80) →
      exec (.mma f st t) s = .next { s with dev := s.dev.issued t x {
          out := (lat, .result (st - 3) td.res r.1) :: flagOut lat r.2, intv := if td.fp32 then 256 else 64,
          act := fun d => modForge f (fun g => { g with stat := tput g.stat (st - 3) p, pair := if td.flow = 3 then some (x.e, 7 - st) else g.pair })
            ((fun d : Dev => if p.data.length = 4096 * tileE td then d else { d with free := d.free + 4097 })
              (count 12 (if td.fp32 then 2 else 1) 1
                { masters := [mStream f st], addr := if td.strmSrc then some (rA x (iSrc2 x.w)) else none } d)) } })
    ∧ (∀ (n a o g len : Nat) (fi fo : Num.Fmt), n = rS x (iSrc2 x.w) → fi = Num.Fmt.ofCode (bits x.w 15 3) → fo = Num.Fmt.ofCode (bits x.w 18 3) →
      bits x.w 15 3 ≤ 2 → bits x.w 18 3 ≤ 2 → iRnd x.w ≤ 2 → iOrm x.w ≤ 1 → n % 16 = 0 → 16 ≤ n → n ≤ 16384 →
      a = rA x (iSrc1 x.w) → o = rA x (iDst x.w) → g = rA x (iSrc1 x.w + 1) → a + n * fi.bytes ≤ flmSize → o + n * fo.bytes ≤ flmSize →
      len = n / 16 → st = 5 → iDst x.w < 16 →
      (∀ r y, s.dev.issues f st t 0x70 (mDst ||| mSrc1 ||| mSrc2 ||| mBits 32 4 ||| mBits 0 22)
          [(1, iDst x.w), (1, iSrc1 x.w), (0, iSrc2 x.w), (0, iSrc2 x.w + 1)] x → iSrc1 x.w < 16 → iSrc2 x.w < 31 →
        r = tnormRow (iOrm x.w) n (bit x.w 21) (rS x (iSrc2 x.w + 1)) (tempRow fi n (memReadN (forge d f).flm a (n * fi.bytes))) →
        y = outRow fo (iOrm x.w) r.1 →
        exec (.tnorm f st t) s = .next { s with dev := s.dev.issued t x {
            out := [(12 + len, .mem false o y.1), (12 + len, .mem true (statRow x) (toLE 4 r.2.1.1 ++ toLE 4 r.2.2.1))]
              ++ flagOut (12 + len) (y.2 ||| r.2.1.2 ||| r.2.2.2),
            intv := len, act := count 13 1 1 { masters := [mForge f] } } })
      ∧ (∀ r y, s.dev.issues f st t 0x71 (mDst ||| mSrc1 ||| mSrc2 ||| mBits 32 4 ||| mBits 0 21)
          [(1, iDst x.w), (1, iSrc1 x.w), (0, iSrc2 x.w)] x → iSrc1 x.w < 16 → iSrc2 x.w < 32 →
        r = tsmaxRow (iOrm x.w) (tempRow fi n (memReadN (forge d f).flm a (n * fi.bytes))) → y = outRow fo (iOrm x.w) r.1 →
        exec (.tsmax f st t) s = .next { s with dev := s.dev.issued t x {
            out := [(12 + len, .mem false o y.1), (12 + len, .mem true (statRow x) (toLE 4 r.2.1.1 ++ toLE 4 r.2.2.1))]
              ++ flagOut (12 + len) (y.2 ||| r.2.1.2 ||| r.2.2.2),
            intv := len, act := count 13 1 1 { masters := [mForge f] } } })
      ∧ (∀ y, g + n * fi.bytes ≤ flmSize → s.dev.issues f st t 0x72 (mDst ||| mSrc1 ||| mSrc2 ||| mBits 32 4 ||| mBits 0 22)
          [(1, iDst x.w), (1, iSrc1 x.w), (0, iSrc2 x.w), (1, iSrc1 x.w + 1)] x → iSrc1 x.w < 15 → iSrc2 x.w < 32 →
        y = outRow fo (iOrm x.w) (tnormbRow (iOrm x.w) n (bit x.w 21) (statVals x d).1 (statVals x d).2
          (tempRow fi n (memReadN (forge d f).flm a (n * fi.bytes))) (tempRow fi n (memReadN (forge d f).flm g (n * fi.bytes)))) →
        exec (.tnormb f st t) s = .next { s with dev := s.dev.issued t x { out := (12 + len, .mem false o y.1) :: flagOut (12 + len) y.2, intv := len, act := count 13 2 1 { masters := [mForge f] } } })
      ∧ (∀ y, g + n * fi.bytes ≤ flmSize → s.dev.issues f st t 0x73 (mDst ||| mSrc1 ||| mSrc2 ||| mBits 32 4 ||| mBits 0 22)
          [(1, iDst x.w), (1, iSrc1 x.w), (0, iSrc2 x.w), (1, iSrc1 x.w + 1)] x → iSrc1 x.w < 15 → iSrc2 x.w < 32 →
        y = outRow fo (iOrm x.w) (tsmaxbRow (iOrm x.w) (bit x.w 21) (statVals x d).1 (statVals x d).2
          (tempRow fi n (memReadN (forge d f).flm a (n * fi.bytes))) (tempRow fi n (memReadN (forge d f).flm g (n * fi.bytes)))) →
        exec (.tsmaxb f st t) s = .next { s with dev := s.dev.issued t x { out := (12 + len, .mem false o y.1) :: flagOut (12 + len) y.2, intv := len, act := count 13 2 1 { masters := [mForge f] } } })
    )

/-- What a write of a register leaves in each of its fields (R7, R8, R9, R10): an RW field takes the value written unless it is
reserved, a W1C bit written 1 is cleared, and every other field stays. The ones for bits that the device sets in the same cycle are
taken out of the value before (`spare`, R8). -/
def Obligations.RegisterFields : Prop :=
  ∀ (off old v : Nat) (r : Reg) (f : Fld), regOf off = some r → f ∈ r.flds →
    (f.acc = .rw → f.ok (bits v f.lo f.w) = true → bits (writeFlds old v r.flds) f.lo f.w = bits v f.lo f.w)
    ∧ (f.acc = .rw → f.ok (bits v f.lo f.w) = false → bits (writeFlds old v r.flds) f.lo f.w = bits old f.lo f.w)
    ∧ (f.acc = .w1c → bits (writeFlds old v r.flds) f.lo 1 = if v.testBit f.lo then 0 else bits old f.lo 1)
    ∧ (f.acc ≠ .rw → f.acc ≠ .w1c → bits (writeFlds old v r.flds) f.lo f.w = bits old f.lo f.w)

/-- Register rows (R6 to R10, R273, R301, R372, R451, R452, R458, R461, R469, R471): each row writes its register and nothing else,
but for what its own rule adds; of a wide write each register takes the bytes that cover it whole, and a write that covers none whole,
or is not aligned to its width, changes nothing. -/
def Obligations.RegisterWrites : Prop :=
  ∀ s : State, s.live → s.dev.boot.recovery = false →
    (∀ (x : BitVec 32) (r : Reg), regOf 8 = some r →
      exec (.glbNodeWrite x) s = .next { s with dev := putReg 8 (writeFlds (rg s.dev 8) x.toNat r.flds) s.dev })
    ∧ (∀ (b : Nat) (x : BitVec 32) (r : Reg), 1 ≤ b → b ≤ 20 → regOf (oPmon b + 8) = some r →
      exec (.pmonEnWrite b x) s = .next { s with
        dev := putReg (oPmon b + 8) (writeFlds (rg s.dev (oPmon b + 8)) x.toNat r.flds) s.dev })
    ∧ (∀ (b n : Nat) (x : BitVec 64) (r : Reg), 1 ≤ b → b ≤ 20 → n < 8 → regOf (oPmon b + 0x40 + 8 * n) = some r →
      exec (.pmonCntWrite b n x) s = .next { s with
        dev := stamp (oPmon b + 0x40 + 8 * n) 0 (putReg (oPmon b + 0x40 + 8 * n)
          (writeFlds (rg s.dev (oPmon b + 0x40 + 8 * n)) x.toNat r.flds) s.dev) })
    ∧ (∀ (x : BitVec 32) (r : Reg), regOf 0x540000 = some r →
      exec (.pmonBwwinWrite x) s = .next { s with dev := putReg 0x540000 (writeFlds (rg s.dev 0x540000) x.toNat r.flds) s.dev })
    ∧ (∀ (off cyc : Nat) (b : Bytes) (r : Reg), (tick cyc s.dev).boot.recovery = false → regOf off = some r → b.length = r.bytes →
      off % r.bytes = 0 →
      (0x100000 ≤ off ∧ off < 0x1C0000) ∨ (0x240000 ≤ off ∧ off < 0x280000) ∨ (0x500010 ≤ off ∧ off < 0x540400) →
      let d := tick cyc s.dev
      exec (.registerWrite off b cyc) s = .next { s with
        dev := settle (putReg off (writeFlds (rg d off) (spare off (underInband off (leAt b 0 r.bytes) d) d) r.flds) d) })
    ∧ (∀ (off cyc : Nat) (b : Bytes), off < 2 ^ 24 → (b.length < 4 ∨ off % b.length ≠ 0) →
      exec (.registerWrite off b cyc) s = .next { s with dev := settle (tick cyc s.dev) })
    ∧ (∀ (k cyc : Nat) (b : Bytes) (a y : Nat) (m : Bool), k < 128 → b.length = 4 →
      tgetD (tick cyc s.dev).ring.msix k (0, 0, true) = (a, y, m) → (tick cyc s.dev).ring.pba.contains k = false →
      exec (.registerWrite (2 ^ 24 + 16 * k + 8) b cyc) s = .next { s with
        dev := settle (modRing (fun r => { r with msix := tput r.msix k (a, leAt b 0 4, m) }) (tick cyc s.dev)) })
    ∧ (∀ (f i w : Nat) (v : BitVec 64) (r : Reg), f < 16 → i < 256 → w < 4 → regOf (bindOff f i w) = some r →
      ((bindWord s.dev f i 0).testBit 24 = false → (w ≠ 0 ∨ v.toNat.testBit 24 = false) →
        exec (.forgeBindWrite f i w v) s = .next { s with
          dev := putReg (bindOff f i w) (writeFlds (rg s.dev (bindOff f i w)) v.toNat r.flds) s.dev })
      ∧ ((bindWord s.dev f i 0).testBit 24 = false → w = 0 → v.toNat.testBit 24 = true →
        bindOk (putReg (bindOff f i w) (writeFlds (rg s.dev (bindOff f i w)) v.toNat r.flds) s.dev) f i = true →
        exec (.forgeBindWrite f i w v) s = .next { s with
          dev := putReg (bindOff f i w) (writeFlds (rg s.dev (bindOff f i w)) v.toNat r.flds) s.dev })
      ∧ ((bindWord s.dev f i 0).testBit 24 = true → (w ≠ 0 ∨ v.toNat.testBit 24 = true) →
        exec (.forgeBindWrite f i w v) s = .next s))
    ∧ (∀ (f : Nat) (v : BitVec 64), f < 16 → ∃ d, exec (.forgeDbgResume f v) s = .next { s with dev := d }
      ∧ ∀ st, st < 6 → (strm d f st).started = 0 ∧ (strm d f st).queue = (strm s.dev f st).queue
        ∧ (strm d f st).halted = ((strm s.dev f st).halted && !v.toNat.testBit (8 + st)))
    ∧ (∀ v : BitVec 32, flag s.dev 0x581008 11 = false → ∃ d, exec (.smpHringEnable v) s = .next { s with dev := d }
      ∧ flag d 0x581008 11 = true ∧ rg d 0x581010 = 0 ∧ d.tel.hring = { ringZero with armed := v.toNat.testBit 12 })
    ∧ (∀ (v : BitVec 32) (n : Nat), flag s.dev 0x581008 11 = true →
      headReturn (2 ^ fld s.dev 0x581008 0 4) s.dev.tel.hring (v.toNat % 4096) = some n →
      ∃ d, exec (.smpHringHeadWrite v) s = .next { s with dev := d } ∧ rg d 0x581010 = v.toNat % 4096
        ∧ d.tel.hring.rd = s.dev.tel.hring.rd + n ∧ d.tel.hring.wr = s.dev.tel.hring.wr)


/-- Adapters (R309 to R313, R315, R316, R319 to R322): a slot is defined, updated once at a time and cleared; a FWD TASK with a new key
opens its micro-batch, now or when its extent fits; an update applies at a boundary with the target bank free, and its version is
current at a later one. -/
def Obligations.Adapters : Prop :=
  ∀ (s : State) (q : Nat) (e : Bytes) (a : Dev), s.live →
    (∀ errs, memErrsOk errs = true → (meet errs s.dev).begins q e a → opOf e = 0x28 →
      (∀ r m d1 d2 b fl, modeOf e = 0 → plainOk e [(32, 8)] = true → leAt e 32 8 % 64 = 0 → r = hostRead a (leAt e 32 8) 64 →
        tget a.adp.slots (sSlot r) = none → adpRecOk a r = true → gAddrRead 2 (sMaster r) (masterBytes r) a = (.ok m, d1) →
        gAddrWrite 2 (sState r) (zeros (stateBytes r)) d1 = (0, d2) → bankOf r 0 (fp32s m) = (b, fl) →
        exec (.adapterDefine q e errs) s = .next { s with dev := unmeet errs (settle (Dev.completed (setSlot (sSlot r)
          { record := r, version := 0, t := 0, p1 := 0x3F800000, p2 := 0x3F800000, flags := fl.toNat, upd := none }
          (putBank r 1 (zeros (bankBytes r)) (putBank r 0 b d2))) q e 0 0)) }))
    ∧ (s.dev.begins q e a → opOf e = 0x28 →
      (∀ sl, modeOf e = 2 → plainOk e [(16, 2)] = true → leAt e 16 2 ≤ 4095 → tget a.adp.slots (leAt e 16 2) = some sl →
        bankRefs a (leAt e 16 2) 0 = 0 → bankRefs a (leAt e 16 2) 1 = 0 → sl.upd = none →
        exec (.adapterClear q e) s = .next { s with
          dev := (modAdp (fun x => { x with slots := tdel x.slots (leAt e 16 2) }) a).completed q e 0 sl.version }))
    ∧ (∀ sl, opOf e = 0x28 → modeOf e = 1 → plainOk e [(16, 3), (20, 8), (32, 8)] = true → leAt e 16 2 ≤ 4095 → leAt e 32 8 < 2 ^ 48 →
      (tget a.adp.slots (leAt e 16 2) = some sl → (gddrRange (leAt e 32 8) (masterBytes sl.record)).isSome = true → sl.upd = none →
        leAt e 24 4 = sl.version % 2 ^ 32 → ∀ x, x = setSlot (leAt e 16 2) { sl with upd := some { cmd := sqCmd q e, grad := leAt e 32 8, gs := byteAt e 18, lr := leAt e 20 4, applying := false, began := 0 } } a →
        (s.dev.begins q e a → exec (.adapterStep q e) s = .next { s with dev := x })
        ∧ (s.dev.retries q e a → exec (.stepAcceptRetry q) s = .next { s with dev := x }))
      ∧ (tget s.dev.adp.slots (leAt e 16 2) = some sl → (gddrRange (leAt e 32 8) (masterBytes sl.record)).isSome = true →
        sl.upd.isSome = true → leAt e 24 4 = (sl.version + 1) % 2 ^ 32 → s.dev.entryReady q e →
        exec (.adapterStep q e) s = .next { s with dev := modSq q (fun y => { y with waiting := some e }) s.dev }))
    ∧ (∀ f st slot id units sl ext x, f = byteAt e 48 % 16 → st = byteAt e 48 / 16 → slot = leAt e 50 2 → id = leAt e 52 4 →
      units = leAt e 56 2 → opOf e = 0x20 → modeOf e = 0 → bodyOk e [(16, 42)] = true → byteAt e 1 ≤ 1 → st ≤ 5 → byteAt e 49 ≤ 7 →
      byteAt e 49 % 4 = 1 → slot ≤ 4095 → cmdOk st (slice e 16 32) = true → forgeFenced a f = false → tget a.adp.slots slot = some sl →
      byteAt sl.record 2 % 16 = f → findMb a slot id = none → neverFits a f units = false → (strm a f st).queue.length < 64 →
      a.adp.mbs.length < 4096 → ((units = 0 ∧ ext = none) ∨ (units ≠ 0 ∧ ∃ y, placeExtent a f units = some y ∧ ext = some y)) →
      x = enqueueCmd f st (slice e 16 32) (.task (sqCmd q e)) (some (slot, id)) ((byteAt e 49).testBit 2)
        (modMb slot id (fun m => { m with live := m.live ++ [a.forge.ser] }) (modAdp (fun y => { y with mbs := y.mbs ++
          [{ slot := slot, id := id, forge := f, version := sl.version, units := units, ext := ext, old := [], backward := false,
             recompute := false, again := false, failed := false, dropped := false, live := [], closed := [], past := [] }] }) a)) →
      (s.dev.begins q e a → exec (.task q e) s = .next { s with dev := x })
      ∧ (s.dev.retries q e a → exec (.microBatchOpenRetry q) s = .next { s with dev := x }))
    ∧ (∀ k sl u errs, k ≤ 4095 → memErrsOk errs = true → tget s.dev.adp.slots k = some sl → sl.upd = some u →
      s.dev.clk.now = s.dev.clk.swStart →
      (u.applying = false → bankRefs s.dev k ((sl.version + 1) % 2) ≠ 0 → exec (.updateApplyStart k errs) s = .next { s with
        dev := unmeet errs (settle (countOnce 20 k 14 2 { masters := [mForge (sForge sl.record)] } (setEvt oAdpEvt 2 (meet errs s.dev)))) })
      ∧ (u.applying = false → bankRefs s.dev k ((sl.version + 1) % 2) = 0 → exec (.updateApplyStart k errs) s = .next { s with
        dev := unmeet errs (settle (updateApply k sl u (meet errs s.dev))) })
      ∧ (u.applying = true → u.began ≠ s.dev.clk.swc.toNat → exec (.updateApplyDone k) s = .next { s with
        dev := settle (commitGo (complete u.cmd 0 0 ((sl.version + 1) % 2 ^ 32)
          (setSlot k { sl with version := (sl.version + 1) % 2 ^ 32, t := (sl.t + 1) % 2 ^ 32, upd := none } s.dev))) }))

/-- GDDR7 (R40, R328, R332, R336 to R338, R340, R342 to R345, R474): bias flips and their end, refresh, patrol scrub with and without an
error, the end of a remap's copy, retraining windows, CXL.mem accesses inside and outside the window, and the decoder's commit. Memories (R4, R373): a byte reads as it was last written, every other byte as before, and a string of bytes likewise. -/
def Obligations.MemoryRows : Prop :=
  (∀ (s : State), s.live →
    (∀ q e a x, s.dev.begins q e a → opOf e = 0x29 → modeOf e = 0 → plainOk e [(16, 4)] = true →
      x = { cmd := sqCmd q e, first := leAt e 16 2, count := leAt e 18 2, toHost := false } → 1 ≤ leAt e 18 2 → leAt e 18 2 ≤ 8192 →
      2 ^ 21 * (leAt e 16 2 + leAt e 18 2) ≤ (cxlWindow a).2 →
      ((a.mem.flips.any (fun p => flipsMeet p.2 x) = true ∨ flipChanges a x ≠ []) → exec (.biasFlipDevice q e) s = .next { s with
        dev := modMem (fun m => { m with nextId := m.nextId + 1, flips := tput m.flips m.nextId x }) a })
      ∧ (a.mem.flips.any (fun p => flipsMeet p.2 x) = false → flipChanges a x = [] →
        exec (.biasFlipDevice q e) s = .next { s with dev := a.completed q e 0 0 }))
    ∧ (∀ q e a x, s.dev.begins q e a → opOf e = 0x29 → modeOf e = 1 → plainOk e [(16, 4)] = true →
      x = { cmd := sqCmd q e, first := leAt e 16 2, count := leAt e 18 2, toHost := true } → 1 ≤ leAt e 18 2 → leAt e 18 2 ≤ 8192 →
      2 ^ 21 * (leAt e 16 2 + leAt e 18 2) ≤ (cxlWindow a).2 →
      ((a.mem.flips.any (fun p => flipsMeet p.2 x) = true ∨ flipChanges a x ≠ []) → exec (.biasFlipHost q e) s = .next { s with
        dev := modMem (fun m => { m with nextId := m.nextId + 1, flips := tput m.flips m.nextId x }) a })
      ∧ (a.mem.flips.any (fun p => flipsMeet p.2 x) = false → flipChanges a x = [] →
        exec (.biasFlipHost q e) s = .next { s with dev := a.completed q e 0 0 }))
    ∧ (∀ id x, tget s.dev.mem.flips id = some x → (∀ p ∈ s.dev.mem.flips, p.1 < id → flipsMeet p.2 x = false) →
      (x.toHost = false → (∀ r ∈ s.dev.mem.cxlWait, cxlTouches x r = false) →
        exec (.biasFlipDrained id) s = .next { s with dev := settle (complete x.cmd 0 0 (flipChanges s.dev x).length
          (modMem (fun m => { m with flips := tdel m.flips id, bias := flipChanges s.dev x ++ m.bias }) s.dev)) })
      ∧ (x.toHost = true → (∀ p ∈ s.dev.forge.f, ∀ y ∈ p.2.streams, ∀ m ∈ y.2.movers, moverTouches s.dev x m = false) →
        exec (.biasFlipDrained id) s = .next { s with dev := settle (complete x.cmd 0 0 (flipChanges s.dev x).length
          (modMem (fun m => { m with flips := tdel m.flips id,
                                     bias := m.bias.filter (fun b => !(flipChanges s.dev x).contains b) }) s.dev)) }))
    ∧ (∀ i bank, i < 16 → bank < 16 →
      ((gddr s.dev i).trained = false → exec (.bankRefresh i bank) s = .next s)
      ∧ ((gddr s.dev i).trained = true → inWindow s.dev i = false → exec (.bankRefresh i bank) s = .next { s with
          dev := modGddr i (fun g => { g with refreshed := tput g.refreshed bank s.dev.clk.swc.toNat }) s.dev })
      ∧ ((gddr s.dev i).trained = true → inWindow s.dev i = true → exec (.bankRefresh i bank) s = .next { s with
          dev := modGddr i (fun g => { g with owed := if g.owed.contains bank then g.owed else g.owed ++ [bank] }) s.dev }))
    ∧ (∀ (i : Nat) (g : Gddr) (errs : List MemErr) (z : Dev), i < 16 → g = gddr s.dev i → memErrsOk errs = true →
      flag s.dev 0x440018 8 = true → g.trained = true → g.failed = false → inWindow s.dev i = false →
      g.scrubAt ≤ s.dev.clk.now * groups → (∀ k, k < 32 → cwLost g (32 * g.scrub + k) = false) →
      z = each ((List.range 8).map (fun j => 32 * g.scrub + 4 * j)) (fun cw d => countBlocks 1 i (16 * cw) 64 6 d)
        (modGddr i (fun x => { x with scrub := if g.scrub + 1 = groups then 0 else g.scrub + 1, scrubAt := x.scrubAt + scrubPass s.dev })
          (meet errs s.dev)) →
      (errs = [] → exec (.patrolScrubRead i errs) s = .next { s with dev := z })
      ∧ (∀ cw y, errs = [y] → y.dev = i → y.cw = cw → cw / 32 = g.scrub → y.edc = 0 →
        (y.symbols = 1 → exec (.patrolScrubRead i errs) s = .next { s with dev := unmeet errs (settle (corrected i 6 cw z)) })
        ∧ (y.symbols = 2 → exec (.patrolScrubRead i errs) s = .next { s with
            dev := unmeet errs (settle (reportLost i 6 cw (modGddr i (fun x => { x with bad := cw :: x.bad }) z))) })))
    ∧ (∀ i k x z, i < 16 → k < 1024 → tget (gddr s.dev i).remap k = some x → x.valid = false →
      rowCws x.row (gddr s.dev i).bad = [] →
      z = modGddr i (fun g => { g with remap := tput g.remap k { x with valid := true } }) s.dev →
      ((∃ j, j < 1024 ∧ ∀ y, tget (gddr z i).remap j = some y → y.valid = false) →
        exec (.remapCopyDone i k []) s = .next { s with dev := z })
      ∧ ((∀ j, j < 1024 → ∃ y, tget (gddr z i).remap j = some y ∧ y.valid = true) →
        exec (.remapCopyDone i k []) s = .next { s with dev := setEvt oMemEvt 8 z }))
    ∧ (∀ i, i = s.dev.clk.swc.toNat / 2 ^ s.dev.clk.retrainNow % 16 → s.dev.clk.swc.toNat % 2 ^ s.dev.clk.retrainNow = 0 →
      s.dev.clk.slot = 0 → s.dev.mem.window = none → exec .retrainWindowStart s = .next { s with
        dev := settle (freezeForge i s.dev.clk.swStart (tick s.dev.clk.swStart
          (modMem (fun m => { m with window := some (i, s.dev.clk.swStart) }) s.dev))) })
    ∧ (∀ i t e z, s.dev.mem.window = some (i, t) →
      ((440 ≤ s.dev.clk.nsNow ∧ e = t + 2640)
        ∨ (s.dev.clk.nsNow < 440 ∧ t ≠ s.dev.clk.swStart ∧ e = s.dev.clk.swStart + 6 * (440 - s.dev.clk.nsNow))) →
      z = windowOver i (thawForge i (e - t) (modMem (fun m => { m with window := none }) (tick e s.dev))) →
      exec (.retrainWindowEnd true) s = .next { s with dev := settle z }
      ∧ exec (.retrainWindowEnd false) s = .next { s with dev := settle (scoreEvent 2 2 i (setEvt oMemEvt 7 z)) })
    ∧ (∀ pass, s.dev.mem.window = none → exec (.retrainWindowEnd pass) s = .next s)
    ∧ (∀ pass i t, s.dev.mem.window = some (i, t) → s.dev.clk.nsNow < 440 → t = s.dev.clk.swStart →
      exec (.retrainWindowEnd pass) s = .next s)
    ∧ (∀ dpa f i off b d1 errs, f = (cxlWindow s.dev).1 + dpa / 64 * 64 → (i, off) = ofFlat f → s.dev.boot.hdmCommit = true →
      memErrsOk errs = true → dpa < (cxlWindow s.dev).2 → (∀ k, blockOf s.dev f = some k → s.dev.mem.bias.contains k = false) →
      (cxlHeld dpa s.dev = false →
        gRead i off 64 4 (count 17 4 1 { priv := some 1, addr := some f } (modMem (fun m => { m with answer := [] }) (meet errs s.dev)))
          = (some b, d1) →
        exec (.cxlMemRead dpa errs) s = .next { s with
          dev := unmeet errs (settle (modMem (fun m => { m with answer := m.answer ++ [(b, false)] }) d1)) })
      ∧ (cxlHeld dpa s.dev = true → exec (.cxlMemRead dpa errs) s = .next { s with
          dev := unmeet errs (modMem (fun m => { m with cxlWait := m.cxlWait ++ [(dpa, none)] }) (meet errs s.dev)) }))
    ∧ (∀ (dpa : Nat) (b : Bytes) (f i off : Nat) (errs : List MemErr), f = (cxlWindow s.dev).1 + dpa → memErrsOk errs = true →
      (i, off) = ofFlat f → s.dev.boot.hdmCommit = true → b ≠ [] → b.length ≤ 64 → dpa / 64 = (dpa + b.length - 1) / 64 →
      dpa < (cxlWindow s.dev).2 →
      (cxlHeld dpa s.dev = true → exec (.cxlMemWrite dpa b errs) s = .next { s with
        dev := unmeet errs (modMem (fun m => { m with cxlWait := m.cxlWait ++ [(dpa, some b)] }) (meet errs s.dev)) })
      ∧ (cxlHeld dpa s.dev = false → (∀ k, blockOf s.dev f = some k → s.dev.mem.bias.contains k = false) →
        exec (.cxlMemWrite dpa b errs) s = .next { s with dev := unmeet errs (settle (gWrite i off 4 b (meet errs s.dev)).2) })
      ∧ (∀ k, cxlHeld dpa s.dev = false → blockOf s.dev f = some k → s.dev.mem.bias.contains k = true →
        exec (.cxlMemWrite dpa b errs) s = .next { s with dev := unmeet errs (settle (setEvt oMemEvt 5 (meet errs s.dev))) }))
    ∧ (∀ base size ways, ∀ ok : Bool, ways < 16 →
      (ok = true ↔ base % 2 ^ 28 = 0 ∧ size = (cxlWindow s.dev).2 ∧ size ≠ 0 ∧ ways = 0 ∧ s.dev.boot.cxlProto = true) →
      exec (.hdmDecoderCommit base size ways) s = .next { s with
        dev := modBoot (fun b => { b with hdmCommit := ok, hdmError := !ok, hdmBase := base, hdmSize := size,
                                          hdmCtl := setBits (setBits b.hdmCtl 4 4 ways) 9 1 1 }) s.dev }))
  ∧
  (∀ m : Memory,
    (∀ a b, memRead (memWrite m a b) a = b) ∧ (∀ a b x, x ≠ a → memRead (memWrite m a b) x = memRead m x)
    ∧ (∀ a l, memReadN (memWriteN m a l) a l.length = l)
    ∧ ∀ a (l : Bytes) x, x < a ∨ a + l.length ≤ x → memRead (memWriteN m a l) x = memRead m x)

/-- Image commands (R358 to R362, R365): a read queues its parts on their LUNs, ages and ends when its last part has been read; a write
extends the open version or opens one, and ends when its pages are programmed; a commit, a delete and a checkpoint join the queue. -/
def Obligations.ImageCommands : Prop :=
  ∀ (s : State), s.dev.boot.power = .on →
    (∀ (q : Nat) (e : Bytes) (a : Dev), a.fal.mode = .ready → imgIdOk (leAt e 16 4) = true →
      (∀ m b r, s.dev.begins q e a → opOf e = 0x40 → modeOf e = 0 → plainOk e [(16, 33)] = true → byteAt e 48 ≤ 7 →
        falAddrOk (sqCmd q e) ((byteAt e 48).testBit 2) (leAt e 40 8) (leAt e 32 8) = true →
        tget a.fal.cat.ids (leAt e 16 4) = some (m, b) → (leAt e 20 4 = 0 ∨ m.ver = leAt e 20 4) → leAt e 24 8 + leAt e 32 8 ≤ m.len →
        r = { cmd := sqCmd q e, man := m, forge := (byteAt e 48).testBit 2, dst := leAt e 40 8, len := leAt e 32 8,
              prio := byteAt e 48 % 4, since := a.clk.swc.toNat,
              left := (partsOf m (leAt e 24 8) (leAt e 32 8)).length, status := 0 } →
        exec (.imgRead q e) s = .next { s with dev := settle (each (partsOf m (leAt e 24 8) (leAt e 32 8)) (fun p =>
          pushOp 7 (.read a.fal.nextId (placeData m.w m.ppb m.stripes p.1).1 (placeData m.w m.ppb m.stripes p.1).2 p.2.1 p.2.2.1
            (leAt e 40 8 + p.2.2.2)))
          (modFal (fun f => { f with nextId := a.fal.nextId + 1, reads := tput f.reads a.fal.nextId r }) a)) })
      ∧ (∀ o a0 b a1 k st d n x, opOf e = 0x41 → modeOf e = 0 → plainOk e [(16, 33)] = true → (byteAt e 48 = 0 ∨ byteAt e 48 = 4) →
        leAt e 20 4 ≠ 0 → leAt e 24 8 % 4096 = 0 → leAt e 32 8 % 4096 = 0 → leAt e 32 8 ≠ 0 → leAt e 24 8 + leAt e 32 8 ≤ imgMax →
        falAddrOk (sqCmd q e) (byteAt e 48 == 4) (leAt e 40 8) (leAt e 32 8) = true →
        (∀ m b, tget a.fal.cat.ids (leAt e 16 4) = some (m, b) → m.ver < leAt e 20 4) →
        ((openOf a (leAt e 16 4) = some o ∧ o.ver = leAt e 20 4 ∧ leAt e 24 8 ≤ o.written ∧ o.written < leAt e 24 8 + leAt e 32 8 ∧ a0 = a)
          ∨ (openOf a (leAt e 16 4) = none ∧ leAt e 24 8 = 0 ∧ a.fal.opens.length < 64
            ∧ o = { id := leAt e 16 4, ver := leAt e 20 4, written := 0, held := [], pages := 0, stripes := [], all := [] }
            ∧ a0 = modFal (fun f => { f with opens := f.opens ++ [o] }) a)) →
        n = leAt e 24 8 + leAt e 32 8 - o.written →
        ((byteAt e 48 = 4 ∧ gAddrRead 1 (leAt e 40 8 + (o.written - leAt e 24 8)) n a0 = (.ok b, a1))
          ∨ (byteAt e 48 = 0 ∧ b = hostRead a0 (leAt e 40 8 + (o.written - leAt e 24 8)) n ∧ a1 = a0)) →
        placePages 5 o.id o.ver (.write a1.fal.nextId)
          ((List.range ((o.held ++ b).length / (fgeom a1).page)).map (fun i => slice (o.held ++ b) (i * (fgeom a1).page) (fgeom a1).page))
          o.pages o.stripes a1 = (k, st, true, d) →
        x = modFal (fun f => { f with
            opens := f.opens.map (fun y => if y.id = o.id then
              { o with written := o.written + b.length, held := (o.held ++ b).drop ((o.held ++ b).length / (fgeom a1).page * (fgeom a1).page),
                       pages := k, stripes := st, all := o.all ++ b } else y),
            nextId := max f.nextId (a1.fal.nextId + 1),
            writes := tput f.writes a1.fal.nextId
              { cmd := sqCmd q e, id := o.id, ver := o.ver, left := (o.held ++ b).length / (fgeom a1).page } }) d →
        (∀ errs, memErrsOk errs = true → (meet errs s.dev).begins q e a →
          exec (.imgWrite q e errs) s = .next { s with dev := unmeet errs (settle x) })
        ∧ (s.dev.retries q e a → exec (.imgWriteOpenRetry q) s = .next { s with dev := settle x }))
      ∧ (s.dev.begins q e a → opOf e = 0x42 → modeOf e = 0 → plainOk e [(16, 16)] = true → leAt e 20 4 ≠ 0 → leAt e 24 8 ≤ imgMax →
        (∀ m b, tget a.fal.cat.ids (leAt e 16 4) = some (m, b) → m.ver = leAt e 20 4 →
          exec (.imgCommit q e) s = .next { s with dev := settle (a.completed q e 0 (seqLow a)) })
        ∧ (∀ o, (∀ m b, tget a.fal.cat.ids (leAt e 16 4) = some (m, b) → m.ver ≠ leAt e 20 4) → openOf a (leAt e 16 4) = some o →
          o.ver = leAt e 20 4 → leAt e 24 8 ≤ o.written → o.written < leAt e 24 8 + 4096 →
          exec (.imgCommit q e) s = .next { s with
            dev := settle (addCommit (sqCmd q e) .write (leAt e 16 4) (leAt e 20 4) (leAt e 24 8) a) }))
      ∧ (∀ m b, s.dev.begins q e a → opOf e = 0x43 → modeOf e = 0 → plainOk e [(16, 8)] = true → leAt e 20 4 ≠ 0 →
        openOf a (leAt e 16 4) = none → tget a.fal.cat.ids (leAt e 16 4) = some (m, b) →
        (m.ver = leAt e 20 4 → exec (.imgDelete q e) s = .next { s with
          dev := settle (addCommit (sqCmd q e) .delete (leAt e 16 4) (leAt e 20 4) 0 a) })
        ∧ (leAt e 20 4 < m.ver → exec (.imgDelete q e) s = .next { s with dev := settle (a.completed q e 0 (seqLow a)) }))
      ∧ (∀ b l errs, memErrsOk errs = true → (meet errs s.dev).begins q e a → opOf e = 0x44 → modeOf e = 0 → plainOk e [(16, 19), (36, 12)] = true → leAt e 20 4 ≠ 0 →
        1 ≤ leAt e 32 2 → leAt e 32 2 ≤ 4096 → byteAt e 34 = 0 → allZero (slice e 36 12) = true →
        image (sqCmd q e) (leAt e 24 8) (2 * leAt e 32 2) a = some b → l = (List.range (leAt e 32 2)).map (fun i => leAt b (2 * i) 2) →
        (∀ m b, tget a.fal.cat.ids (leAt e 16 4) = some (m, b) → m.ver ≠ leAt e 20 4) → (∀ k ∈ l, (tget a.adp.slots k).isSome = true) →
        (l.map (fun k => match tget a.adp.slots k with
          | some x => slotImageBytes x.record
          | none => 0)).sum ≤ imgMax →
        exec (.checkpoint q e errs) s = .next { s with
          dev := unmeet errs (settle (addCommit (sqCmd q e) (.ckpt l [] []) (leAt e 16 4) (leAt e 20 4) 0 a)) }))
    ∧ (∀ id r, tget s.dev.fal.reads id = some r →
      (r.left = 0 → exec (.imgReadDone id) s = .next { s with
        dev := settle (complete r.cmd r.status 0 0 (freeGarbage (modFal (fun f => { f with reads := tdel f.reads id })
          (if r.status = 0x0C then cause 20 s.dev else s.dev)))) })
      ∧ (r.prio ≠ 0 → r.since + 64 * fld s.dev 0x480000 0 8 ≤ s.dev.clk.swc.toNat → exec (.imgReadAgeing id) s = .next { s with
        dev := settle (modFal (fun f => { f with reads := tput f.reads id { r with prio := r.prio - 1, since := s.dev.clk.swc.toNat } })
          s.dev) }))
    ∧ (∀ n w, tget s.dev.fal.writes n = some w → w.left = 0 → exec (.imgWriteDone n) s = .next { s with
        dev := settle (complete w.cmd 0 0 (writtenNow s.dev w.id w.ver) (modFal (fun f => { f with writes := tdel f.writes n }) s.dev)) })

/-- Flash operations and upkeep (R349, R353 to R357, R361, R363, R368): a LUN serves its next operation; a program or an erase ends,
or fails and its block is retired; a commit whose record is programmed becomes current; pages are patrolled, blocks moved, the block
table written, the store formatted and its personality loaded. -/
def Obligations.FlashOperations : Prop :=
  ∀ (s : State), s.dev.boot.power = .on →
    (∀ l o y errs nand, memErrsOk errs = true → nandErrsOk nand = true → (lun s.dev l).run = none →
      nextOp s.dev (lun s.dev l) = some o →
      y = modLun l (fun x => { x with wait := x.wait.erase o, since8 := if opCls s.dev o = 8 then 0 else x.since8 + 1 })
        (meet errs s.dev) →
      ((∀ n b page off len dst, o.job ≠ .read n b page off len dst) → exec (.lunOperationStart l errs nand) s = .next { s with
          dev := unmeet errs (settle (modLun l (fun x => { x with run := some o }) y)) })
      ∧ (∀ n b page off len dst r data good z w v, o.job = .read n b page off len dst → tget s.dev.fal.reads n = some r →
        readSpan nand b page off len (cwsAt off len) (pageRead b y) = (data, good, z) →
        (w, v) = (if r.forge then gAddrWrite 1 dst data z else (0, hostWrite dst data z)) →
        exec (.lunOperationStart l errs nand) s = .next { s with dev := unmeet errs (settle (modFal (fun f => { f with
          reads := tput f.reads n { r with left := r.left - 1, status := max r.status (max w (if good then 0 else 0x0C)) } }) v)) }
        ∧ (∀ i u k x, nand = [] → (fblk s.dev b).bad = [] → tget (fblk s.dev b).pages page = some (.image i u k x) →
          off + len ≤ x.length → good = true ∧ data = slice x off len)))
    ∧ (∀ l c o b, (lun s.dev l).run = some { cls := c, ord := o, job := b } →
      (∀ k page p own, b = .prog k page p own →
        exec (.flashProgramDone l) s = .next { s with
          dev := settle (commitGo (ownerDone own (count 16 2 ((fgeom s.dev).page / 4096) { addr := some k }
            (setBlk k { fblk s.dev k with pages := tput (fblk s.dev k).pages page p } (modLun l (fun x => { x with run := none }) s.dev))))) }
        ∧ exec (.flashProgramFail l) s = .next { s with
          dev := settle (commitGo (replaceBlk l k { cls := c, ord := o, job := b } (modLun l (fun x => { x with run := none }) s.dev))) })
      ∧ (∀ k n, b = .erase k n →
        exec (.flashEraseDone l) s = .next { s with
          dev := settle (commitGo (batchEnd k n (count 16 4 1 { addr := some k }
            (setBlk k { st := .free, erases := (fblk s.dev k).erases + 1, pages := [], bad := [], reads := 0 }
              (modLun l (fun x => { x with run := none }) s.dev))))) }
        ∧ exec (.flashProgramFail l) s = .next { s with
          dev := settle (commitGo (batchEnd k n (retireBlk k (modLun l (fun x => { x with run := none }) s.dev)))) }))
    ∧ (∀ c rest k o, s.dev.fal.commits = c :: rest → c.step = 4 → c.left = 0 → c.cat = some k → k.table = none → c.kind = .write →
      openOf s.dev c.id = some o → o.ver = c.ver → s.dev.fal.retiredSince = false → s.dev.fal.replIn = [] →
      exec .commitRecordProgrammed s = .next { s with
        dev := settle (commitGo (freeGarbage (complete c.cmd 0 0 (c.seq % 2 ^ 32)
          (dropOpen c.id (modFal (fun f => { f with commits := rest, cat := k, seq := c.seq }) s.dev))))) })
    ∧ (∀ b page p nand, s.dev.fal.mode = .ready → nandErrsOk nand = true → tget (fblk s.dev b).pages page = some p →
      exec (.retentionPatrol b page nand) s = .next { s with
        dev := settle (each (List.range (cwsOfPage s.dev)) (fun k d => match decodeCw nand b page k d with
          | (some n, d) => if fld d 0x480008 10 10 < n ∧ (fblk d b).st = .used ∧ d.fal.reloc.contains b = false
            then modFal (fun f => { f with reloc := f.reloc ++ [b] }) d else d
          | (none, d) => d) (pageRead b s.dev)) })
    ∧ (∀ (d : Dev) (b page k : Nat) (nand : List NandErr) (e : NandErr) (y : Dev), tget (fblk d b).bad (8 * page + k) = none →
      persLevels d = 0 → y = count 16 1 1 { addr := some b } d →
      ((∀ e ∈ nand, (e.page == page && e.cw == k) = false) → decodeCw nand b page k d = (some 0, y))
      ∧ (nand.find? (fun e => e.page == page && e.cw == k) = some e →
        (∀ n rest, e.tries = some n :: rest →
          decodeCw nand b page k d = (some n, if fld y 0x480008 0 10 < n then nandEvent b (setEvt oFalEvt 0 y) else y))
        ∧ (∀ rest, e.tries = none :: rest → decodeCw nand b page k d
          = (none, nandEvent b (setEvt oFalEvt 1 (setBlk b { fblk y b with bad := tput (fblk y b).bad (8 * page + k) false } y))))))
    ∧ (∀ b n d nand, nandErrsOk nand = true → s.dev.fal.mode = .ready → s.dev.fal.reloc.contains b = true → s.dev.fal.opens = [] →
      s.dev.fal.commits = [] → (∀ o ∈ allOps s.dev, jobBlk o.job ≠ b) → takeBlk (bCh b) false s.dev = (some n, d) →
      exec (.relocation b nand) s = .next { s with dev := settle (addCommit ownCmd (.reloc b n) 0 0 0 (readBlock b nand d)) })
    ∧ (s.dev.fal.mode = .ready → s.dev.fal.commits = [] →
      (s.dev.fal.retiredSince = true ∨ 3600 * 3300000000 ≤ s.dev.clk.now - s.dev.fal.tableAt) →
      exec .blockTableWrite s = .next { s with dev := settle (addCommit ownCmd .table 0 0 0 s.dev) })
    ∧ (∀ v : BitVec 32, s.dev.boot.recovery = false → bits v.toNat 8 8 = 0xA5 → v.toNat % 2 = 1 →
      (s.dev.fal.mode = .blank ∨ s.dev.fal.mode = .ready ∨ s.dev.fal.mode = .mismatch) → falBusy s.dev = false →
      ∃ d, exec (.falFormat v) s = .next { s with dev := settle (addCommit ownCmd .format 0 0 0 d) } ∧ d.fal.mode = .formatting
        ∧ d.fal.cat = { ids := [], table := none, pages := [] } ∧ d.fal.seq = 0 ∧ d.fal.opens = [] ∧ d.fal.commits = []
        ∧ ∀ k, ((fblk d k).st = .bad ↔ (fblk s.dev k).st = .bad ∨ (s.dev.fal.mode = .blank ∧ k ∈ s.dev.fal.marks))
          ∧ (fblk d k).pages = []
          ∧ ((fblk s.dev k).st ≠ .bad → (fblk d k).erases = (fblk s.dev k).erases + 1))
    ∧ (∀ (v : BitVec 64) b d, s.dev.boot.recovery = false → v.toNat % 2 ^ 36 % 64 = 0 →
      flatRead 1 (v.toNat % 2 ^ 36) (bits v.toNat 36 14) (putReg 0x480038 (writeFlds (rg s.dev 0x480038) (setBits v.toNat 50 1 1)
        ((regOf 0x480038).map (·.flds)).get!) s.dev) = (some b, d) → persOk b (bits v.toNat 36 14) = true →
      exec (.falPersLoad v) s = .next { s with dev := settle (modFal (fun f => { f with pers := some b, reject := false }) d) })

/-- Replicas (R366): a frame of a replica extends its open version and waits for the next; an answer and a timeout set a status. -/
def Obligations.Replicas : Prop :=
  ∀ (s : State), s.dev.boot.power = .on →
    (∀ f r x d, firstRx s.dev (fun f => f.code == 0xFC && rxOp f == 0 && f.accepted && beAt f.hdr 22 4 ≠ 0) = some f →
      fromFurrow s.dev f = true → r = replInOf s.dev f → r.status = 0 → x = fit f.data (4096 * ceilDiv f.data.length 4096) →
      crc32c f.data = beAt f.hdr 26 4 → s.dev.fal.mode = .ready → imgIdOk r.id = true → (beAt f.hdr 30 2).testBit 0 = false →
      imgPut ownCmd r.id r.ver (32768 * beAt f.hdr 18 4) x.length (fun o n d => (.ok (slice x o n), d)) s.dev = .run d →
      seqTest d f.src f.dst (rxSeq f) = .accept →
      exec .replicaFrameReceive s = .next { s with dev := settle (setReplIn r r (seqAccept f.src f.dst (rxSeq f) (takeRx f d))) })
    ∧ (∀ f p, firstRx s.dev (fun f => f.code == 0xFC && rxOp f == 0xC && fCode f == 0) = some f → beAt f.hdr 22 4 ≠ 0 →
      s.dev.fal.repls.find? (fun p => p.2.id == fCid f && p.2.ver == beAt f.hdr 22 4 && p.2.src == f.dst
        && p.2.reps.any (fun q => q.2.1 == f.src && q.2.2.isNone)) = some p →
      exec .replicaAnswerReceive s = .next { s with
        dev := settle (replStatus p.1 (fun q => q.2.1 == f.src) (beAt f.hdr 26 2 % 256) (takeRx f s.dev)) })
    ∧ (∀ n r, tget s.dev.fal.repls n = some r → r.since + 1024 * fld s.dev 0x480000 16 8 ≤ s.dev.clk.swc.toNat →
      exec (.replicaTimeout n) s = .next { s with dev := settle (replStatus n (fun _ => true) 7 s.dev) })

/-- Membership and self-tests (R396, R399 to R404, R417, R420): each form of MEMBER_SET; a self-test is ordered, runs in its window
and reports its verdict; a whole hour halves every score and re-arms the thresholds it falls below. -/
def Obligations.HealthCommands : Prop :=
  ∀ (s : State), s.dev.boot.power = .on →
    (∀ (q : Nat) (e : Bytes) (a : Dev), s.dev.begins q e a → opOf e = 0x60 → plainOk e [(16, 3)] = true →
      (modeOf e = 0 → reservedEid (leAt e 16 3) = false → a.hlt.eids.contains (leAt e 16 3) = false → a.hlt.eids.length < 4096 →
        exec (.memberSetFence q e) s = .next { s with
          dev := settle (Dev.completed (fenceNodes (leAt e 16 3) (modHlt (fun h => { h with eids := leAt e 16 3 :: h.eids }) a)) q e 0 0) })
      ∧ (modeOf e = 1 → reservedEid (leAt e 16 3) = false → exec (.memberSetUnfence q e) s = .next { s with
          dev := settle (Dev.completed (modHlt (fun h => { h with eids := h.eids.filter (fun x => x ≠ leAt e 16 3) }) a) q e 0 0) })
      ∧ (modeOf e = 2 → reservedEid (leAt e 16 3) = false → exec (.memberSetForget q e) s = .next { s with
          dev := settle (Dev.completed (forgetPairs (leAt e 16 3) a) q e 0 0) })
      ∧ (modeOf e = 3 → leAt e 16 3 = 0 → exec (.memberSetReady q e) s = .next { s with
          dev := settle (Dev.completed (modHlt (fun h => { h with ready := true }) a) q e 0 0) }))
    ∧ (∀ (q : Nat) (e : Bytes) (a : Dev), s.dev.begins q e a → opOf e = 0x70 → modeOf e = 0 → plainOk e [(16, 1), (20, 4)] = true →
      partIdxOk (byteAt e 16) (leAt e 20 4) = true →
      (partRetired a (byteAt e 16) (leAt e 20 4) = true → exec (.selftest q e) s = .next { s with dev := settle (a.completed q e 0 2) })
      ∧ (partRetired a (byteAt e 16) (leAt e 20 4) = false → exec (.selftest q e) s = .next { s with
          dev := settle (orderTest (byteAt e 16) (leAt e 20 4) 0 [sqCmd q e] a) }))
    ∧ (∀ kind idx t y, t ∈ s.dev.hlt.tests → t.kind = kind → t.idx = idx → t.running = false → kind < 10 → testWindow s.dev kind idx = true →
      y = modHlt (fun h => { h with tests := h.tests.map (fun t => if t.kind = kind ∧ t.idx = idx then { t with running := true } else t) })
        (count 19 2 1 {} s.dev) →
      exec (.selftestRun kind idx) s = .next { s with dev := settle (match sliceForge kind idx with
        | some f => freezeForge f s.dev.clk.now y
        | none => y) })
    ∧ (∀ kind idx t l, s.dev.hlt.tests.find? (fun t => t.kind == kind && t.idx == idx && t.running) = some t → kind < 10 →
      exec (.selftestDone kind idx true l) s = .next { s with
        dev := settle (defer (.tested kind idx true) (each t.waiters (fun c => complete c 0 0 0)
          (postEvent 0x101 (toLE 1 kind ++ toLE 4 idx ++ toLE 1 0 ++ toLE 1 t.cause)
            (sliceEnd kind idx (modHlt (fun h => { h with tests := h.tests.filter (fun x => !(x.kind == kind && x.idx == idx)) })
              s.dev))))) })
    ∧ (∀ h, h = s.dev.hlt.hour → h < s.dev.clk.now / (3600 * 3300000000) → ∃ d, exec .hourlyScoreDecay s = .next { s with dev := settle d }
      ∧ d.hlt.hour = h + 1 ∧ d.hlt.tests = s.dev.hlt.tests ∧ ∀ kind idx, scoreOf d kind idx = scoreOf s.dev kind idx / 2)
    ∧ (∀ kind idx, kind < 10 → fld s.dev 0x500008 16 16 ≤ scoreOf s.dev kind idx → partRetired s.dev kind idx = false →
      exec (.suspectHourlyTest kind idx) s = .next { s with dev := settle (orderTest kind idx 2 [] s.dev) })

/-- Recovery sequences (R406 to R412, R418): RECOVER of each kind starts its sequence, at once or when one of 16 places is free; waits
end a PORT sequence; a COPY serves a request, keeps frames in order, and ends when its source is silent or lost. -/
def Obligations.RecoverySequences : Prop :=
  ∀ (s : State), s.dev.boot.power = .on →
    (∀ (q : Nat) (e : Bytes) (a : Dev) (x : RecSeq) (z y : Dev), opOf e = 0x71 → modeOf e = 0 → plainOk e [(16, 5), (24, 8)] = true →
      leAt e 16 4 < 0xFFFF0000 → a.hlt.outcomes.find? (fun o => o.1 == leAt e 16 4) = none → findSeq a (leAt e 16 4) = none →
      newSeq (sqCmd q e) (leAt e 16 4) (byteAt e 20) (leAt e 24 8) a = some x → a.hlt.seqs.length < 16 →
      z = modHlt (fun h => { h with seqs := h.seqs ++ [x] }) a → seqHeld z x = false →
      (byteAt e 20 = 1 ∧ y = portSeq x.id x.arg z ∨ byteAt e 20 = 2 ∧ y = forgeSeq x.id x.arg z ∨ byteAt e 20 = 3 ∧ y = bankSeq x.id x.arg z
        ∨ byteAt e 20 = 4 ∧ y = unitSeq x.id x.arg z
        ∨ byteAt e 20 = 5 ∧ (∃ st r w, restoreRun x.id x.arg (seqAt x.id 1 z) = .over_ st r w ∧ st ≠ 0xFF ∧ y = finishSeq x.id st r w)
        ∨ byteAt e 20 = 6 ∧ (∃ st r w, copySeq x.id x z = .over_ st r w ∧ y = if st = 0xFF then w else finishSeq x.id st r w)
        ∨ byteAt e 20 = 7 ∧ y = rejoinSeq x.id x z) →
      (s.dev.begins q e a →
        (byteAt e 20 = 1 → exec (.recoverPort q e) s = .next { s with dev := settle y })
        ∧ (byteAt e 20 = 2 → exec (.recoverForge q e) s = .next { s with dev := settle y })
        ∧ (byteAt e 20 = 3 → exec (.recoverBank q e) s = .next { s with dev := settle y })
        ∧ (byteAt e 20 = 4 → exec (.recoverUnit q e) s = .next { s with dev := settle y })
        ∧ (byteAt e 20 = 5 → exec (.recoverRestore q e) s = .next { s with dev := settle y })
        ∧ (byteAt e 20 = 6 → exec (.recoverCopy q e) s = .next { s with dev := settle y })
        ∧ (byteAt e 20 = 7 → exec (.recoverRejoin q e) s = .next { s with dev := settle y }))
      ∧ (s.dev.retries q e a → exec (.recoverStartRetry q) s = .next { s with dev := settle y }))
    ∧ (∀ id x, findSeq s.dev id = some x → x.step ≠ 0 → x.kind = 1 → (∀ lp ∈ subsOf s.dev x.arg, (sub s.dev lp).state = .service) →
      exec (.recoveryWaitSatisfied id) s = .next { s with dev := settle (finishSeq id 0 0 s.dev) })
    ∧ (∀ f w b d, firstRx s.dev (fun f => f.code == 0xFC && rxOp f == 0xC && fCode f == 0x10) = some f →
      furrowFrom s.dev (fCid f) f.dst = some w → w.gen = fGen f → w.dst = f.src → mgmtEid s.dev = some f.dst → slotsIn f.data ≠ [] →
      (∀ k ∈ slotsIn f.data, (tget s.dev.adp.slots k).isSome = true) →
      readSlots (slotsIn f.data) (copyHeader (newestHolding s.dev (slotsIn f.data))) s.dev = (.ok ([], b), d) →
      exec .copyReqReceive s = .next { s with dev := settle (sendImage (fCid f) f.dst f.src (beAt f.hdr 22 4) 0 b (2 ^ 40) (takeRx f d)) })
    ∧ (∀ f x b d, firstRx s.dev (fun f => f.code == 0xFC && rxOp f == 0 && f.accepted && beAt f.hdr 22 4 == 0) = some f →
      s.dev.hlt.seqs.find? (fun x => x.kind == 6 && x.id == fCid f && x.step == 3 && x.srcEid == f.src) = some x →
      fromFurrow s.dev f = true → seqTest s.dev f.src f.dst (rxSeq f) = .accept → crc32c f.data = beAt f.hdr 26 4 →
      32768 * beAt f.hdr 18 4 = x.got.length → b = x.got ++ f.data.take (f.data.length - beAt f.hdr 16 2) →
      copyWrite b x.got.length (modSeq x.id (fun y => { y with got := b }) (modSeq x.id (fun y => { y with since := s.dev.clk.swc.toNat })
        (seqAccept f.src f.dst (rxSeq f) (takeRx f s.dev)))) = (0, d) →
      exec .copyFrameReceive s = .next { s with dev := settle (if (beAt f.hdr 30 2).testBit 0 then copyLast x b d else d) })
    ∧ (∀ id x, findSeq s.dev id = some x → x.kind = 6 → x.step = 3 → x.sole = false → x.silence < swathsSince s.dev x.since →
      exec (.copySilenceTimeout id) s = .next { s with dev := settle (finishSeq id 7 0 s.dev) })
    ∧ (∀ f x, firstRx s.dev (fun f => f.code == 0xFC && rxOp f == 0xA) = some f →
      (beAt f.hdr 26 2 % 256 = 4 ∨ beAt f.hdr 26 2 % 256 = 7) →
      s.dev.hlt.seqs.filter (fun x => x.kind == 6 && x.step == 3 && (x.srcEid == f.src || (x.furrow.1 == fCid f && x.id == beAt f.hdr 22 4)))
        = [x] → x.sole = false → exec .mgmtNoticeReceive s = .next { s with dev := settle (finishSeq x.id 7 0 (takeRx f s.dev)) })

/-- Telemetry and in-band requests (R166, R456 to R458, R460, R461, R463 to R466): a counter's wrap sets its bit; a window's end
publishes every port's bytes; a sample becomes a record; each in-band request is served and answered; the debug window reads and writes
8 bytes and moves on. -/
def Obligations.Telemetry : Prop :=
  ∀ (s : State), s.dev.boot.power = .on →
    (∀ b n w, 1 ≤ b → b ≤ 20 → n < 8 → s.dev.tel.wraps.find? (fun w => w.1 == b && w.2.1 == n) = some w →
      flag s.dev (oPmon b + 0x80 + 8 * n) 13 = false → exec (.counterWrap b n) s = .next { s with
        dev := settle (setEvt (oPmon b + 0x10) n (modTel (fun t => { t with wraps := t.wraps.erase w }) s.dev)) })
    ∧ (windowDue s.dev = true → ∃ d, exec .bwWindowEnd s = .next { s with dev := settle d }
      ∧ ∀ lp ∈ allSubs s.dev, (sub d lp).bytes = (0, 0) ∧ (sub d lp).published =
        ((sub s.dev lp).bytes.1 % 2 ^ 40, (sub s.dev lp).bytes.2 % 2 ^ 40, (s.dev.clk.swc.toNat / s.dev.clk.bwWin - 1) % 2 ^ 24))
    ∧ (∀ x rest b, s.dev.sw.samples = x :: rest → buf s.dev x.buf = some b → exec .samplerRead s = .next { s with
        dev := settle (dropRef x.buf (if flag s.dev (0x580000 + 4 * x.lp) 16
          then mirrorRecord (smpRecord x b) x.lp (keepRecord (smpRecord x b) x.lp (modSw (fun w => { w with samples := rest }) s.dev))
          else keepRecord (smpRecord x b) x.lp (modSw (fun w => { w with samples := rest }) s.dev))) })
    ∧ (∀ f b d, firstMgmt s.dev 0x20 = some f → pathOk f = true →
      readBytes (beAt f.hdr 12 4) (if (beAt f.hdr 18 4).testBit 0 then 8 else 4) (takeRx f s.dev) = (b, d) →
      exec .regRead s = .next { s with dev := settle (answer f.src (mgmtNo f) (mgmtRet f) 0x20 0 (fit b 8) d) })
    ∧ (∀ f w, firstMgmt s.dev 0x21 = some f → pathOk f = true → w = (if (beAt f.hdr 18 4).testBit 0 then 8 else 4) →
      (hosted s.dev = false ∨ (0x540000 ≤ beAt f.hdr 12 4 ∧ beAt f.hdr 12 4 < 0x5C0000) →
        exec .regWrite s = .next { s with dev := settle (answer f.src (mgmtNo f) (mgmtRet f) 0x21 0 []
          (writeBytes true (beAt f.hdr 12 4) (slice f.data 20 w) (takeRx f s.dev))) })
      ∧ (hosted s.dev = true → beAt f.hdr 12 4 < 0x540000 ∨ 0x5C0000 ≤ beAt f.hdr 12 4 →
        exec .regWrite s = .next { s with dev := settle (answer f.src (mgmtNo f) (mgmtRet f) 0x21 2 [] (takeRx f s.dev)) }))
    ∧ (∀ f l, firstMgmt s.dev 0x22 = some f → pathOk f = true → l = tgetD s.dev.tel.queues f.src [] → l.length < 16 →
      exec .cmd s = .next { s with dev := settle (modTel (fun t => { t with queues := tput t.queues f.src (l ++ [{
        cmd := { chan := .inband f.src, tag := tagOf (slice f.data 20 64), reqNo := mgmtNo f, ret := mgmtRet f, att := f.data.drop 84 },
        desc := slice f.data 20 64, slow := false }]) }) (takeRx f s.dev)) })
    ∧ (∀ f l, firstMgmt s.dev 0x23 = some f → pathOk f = true → beAt f.hdr 18 4 % 64 ≠ 0 →
      l = (s.dev.tel.ring.drop s.dev.tel.read).take (beAt f.hdr 18 4 % 64) → exec .sampleRead s = .next { s with
        dev := settle (answer f.src (mgmtNo f) (mgmtRet f) 0x23 0 l.flatten
          (modTel (fun t => { t with read := t.read + l.length }) (takeRx f s.dev))) })
    ∧ (∀ a k, s.dev.boot.recovery = false → s.dev.boot.scope.toNat.testBit 1 = true → fld s.dev 0x5C0000 0 3 = 1 →
      k = fld s.dev 0x5C0000 3 4 → a = fld s.dev 0x5C0000 8 32 → a + 8 ≤ flmSize →
      exec (.dbgWinAccess none) s = .next { s with
        dev := settle (markDevice 0x5C0000
          (putFld 0x5C0000 8 32 (a + 8) (putReg 0x5C0008 (leNat (memReadN (forge s.dev k).flm a 8)) s.dev))) }
      ∧ ∀ v : BitVec 64, exec (.dbgWinAccess (some v)) s = .next { s with
        dev := settle (markDevice 0x5C0000 (putFld 0x5C0000 8 32 (a + 8) (putReg 0x5C0008 v.toNat
          (modForge k (fun g => { g with flm := memWriteN g.flm a (toLE 8 v.toNat) }) s.dev)))) })
end

