-- ==== Sys2Proof/Laws/Bytes.lean ====
section
/-! SUPPORT. Byte strings: what a slice of a string laid end to end is, and the value of a string written little-endian. -/

namespace Sys2Proof.Machine

theorem slice_length (b : Bytes) (off n : Nat) : (slice b off n).length = n := by
  simp only [slice, zeros, List.length_append, List.length_take, List.length_drop, List.length_replicate]
  omega

/-- A slice, byte by byte. -/
theorem slice_eq_map (b : Bytes) (off n : Nat) : slice b off n = (List.range n).map fun i => b.getD (off + i) 0 := by
  refine List.ext_getElem (by simp [slice_length]) fun i h1 h2 => ?_
  have hn : i < n := by simpa [slice_length] using h1
  simp only [slice, zeros, List.getElem_map, List.getElem_range, List.getElem_append, List.getElem_take, List.getElem_drop,
    List.getElem_replicate, List.length_take, List.length_drop]
  split
  · rename_i h
    rw [List.getD_eq_getElem _ _ (by omega)]
  · rename_i h
    rw [List.getD_eq_default _ _ (by omega)]

theorem slice_left (h t : Bytes) (off n : Nat) (hl : off + n ≤ h.length) : slice (h ++ t) off n = slice h off n := by
  simp only [slice_eq_map]
  refine List.map_congr_left fun i hi => ?_
  have := List.mem_range.mp hi
  rw [List.getD_append _ _ _ _ (by omega)]

theorem slice_zeros (h t : Bytes) (m off n : Nat) (h1 : h.length ≤ off) (h2 : off + n ≤ h.length + m) :
    slice (h ++ (zeros m ++ t)) off n = zeros n := by
  rw [slice_eq_map]
  refine List.eq_replicate_iff.mpr ?_
  refine ⟨by simp, fun x hx => ?_⟩
  obtain ⟨i, hi, rfl⟩ := List.mem_map.mp hx
  have := List.mem_range.mp hi
  rw [List.getD_append_right _ _ _ _ (by omega), List.getD_append _ _ _ _ (by simp [zeros]; omega)]
  simp [zeros]

theorem slice_all (b : Bytes) : slice b 0 b.length = b := by simp [slice, zeros]

theorem slice_append_left (h t : Bytes) : slice (h ++ t) 0 h.length = h := by rw [slice_left _ _ _ _ (by omega), slice_all]

theorem slice_append_right (h t : Bytes) : slice (h ++ t) h.length t.length = t := by simp [slice, zeros]

theorem zeros_length (n : Nat) : (zeros n).length = n := List.length_replicate

theorem allZero_zeros (n : Nat) : allZero (zeros n) = true := by simp [allZero, zeros]

theorem toLE_length (n v : Nat) : (toLE n v).length = n := by
  induction n generalizing v with
  | zero => rfl
  | succ n ih => simp [toLE, ih]

theorem leNat_toLE (n v : Nat) : leNat (toLE n v) = v % 256 ^ n := by
  induction n generalizing v with
  | zero => simp [toLE, leNat, Nat.mod_one]
  | succ n ih =>
    have := ih (v / 256)
    simp only [leNat] at this ⊢
    simp only [toLE, List.foldr_cons, this, BitVec.toNat_ofNat]
    have h := Nat.mod_mul (x := v) (a := 256) (b := 256 ^ n)
    rw [show 256 ^ (n + 1) = 256 * 256 ^ n from Nat.pow_succ', h]
    omega

theorem leNat_zeros (n : Nat) : leNat (zeros n) = 0 := by
  induction n with
  | zero => rfl
  | succ n ih => simpa [zeros, List.replicate_succ, leNat] using ih

theorem crc32c_lt (b : Bytes) : crc32c b < 2 ^ 32 := by
  have hs : ∀ c, c < 2 ^ 32 → crcShiftR 0x82F63B78 c < 2 ^ 32 := fun c hc => by
    unfold crcShiftR
    split
    · exact Nat.xor_lt_two_pow (by omega) (by decide)
    · omega
  have hi : ∀ n c, c < 2 ^ 32 → iter (crcShiftR 0x82F63B78) n c < 2 ^ 32 := fun n => by
    induction n with
    | zero => exact fun c hc => hc
    | succ n ih => exact fun c hc => ih _ (hs c hc)
  have hf : ∀ (b : Bytes) c, c < 2 ^ 32 → b.foldl (fun c x => iter (crcShiftR 0x82F63B78) 8 (c ^^^ x.toNat)) c < 2 ^ 32 := fun b => by
    induction b with
    | nil => exact fun c hc => hc
    | cons x t ih => exact fun c hc => ih _ (hi 8 _ (Nat.xor_lt_two_pow hc (by omega)))
  exact Nat.xor_lt_two_pow (hf b _ (by decide)) (by decide)

end Sys2Proof.Machine
end

