-- ==== Sys2Proof/Laws/Settle.lean ====
section
/-! SUPPORT. The end of a step: what it does to a quiet device, and that it leaves no work behind; what `act` answers. -/

namespace Sys2Proof.Machine

theorem each_nil {α : Type} (f : α → Dev → Dev) (d : Dev) : each [] f d = d := rfl

theorem each_id {α : Type} (l : List α) (f : α → Dev → Dev) (d : Dev) (h : ∀ a ∈ l, f a d = d) : each l f d = d := by
  induction l with
  | nil => rfl
  | cons a t ih =>
    have ha : f a d = d := h a (by simp)
    show each t f (f a d) = d
    rw [ha]; exact ih (fun b hb => h b (by simp [hb]))

theorem iter_id (f : Dev → Dev) (n : Nat) (d : Dev) (h : f d = d) : iter f n d = d := by
  induction n with
  | zero => rfl
  | succ n ih => simp [iter, h, ih]

theorem settleLoop_todo (n : Nat) (d : Dev) : (settleLoop n d).todo = [] := by
  induction n generalizing d with
  | zero => rfl
  | succ n ih =>
    unfold settleLoop
    split
    · assumption
    · exact ih _

theorem settleLoop_done (n : Nat) (d : Dev) (h : d.todo = []) : settleLoop n d = d := by
  cases n with
  | zero => cases d; simp_all [settleLoop]
  | succ n => simp [settleLoop, h]

/-- Every step ends with nothing left to do. -/
theorem settle_todo (d : Dev) : (settle d).todo = [] := settleLoop_todo _ _

theorem tgetD_mem {α : Type} (t : Tab α) (k : Nat) (x : α) (P : α → Prop) (hx : P x) (h : ∀ p ∈ t, P p.2) :
    P (tgetD t k x) := by
  induction t with
  | nil => exact hx
  | cons a t ih =>
    obtain ⟨j, v⟩ := a
    unfold tgetD tget
    split
    · simpa using h (j, v) (by simp)
    · exact ih (fun p hp => h p (by simp [hp]))

theorem sub_edge_quiet (d : Dev) (h : ∀ p ∈ d.subs, p.2.edge.xoff = [] ∧ p.2.edge.out = []) (lp : Nat) :
    (sub d lp).edge.xoff = [] ∧ (sub d lp).edge.out = [] :=
  tgetD_mem d.subs lp subZero (fun p => p.edge.xoff = [] ∧ p.edge.out = []) ⟨rfl, rfl⟩ h

/-- A quiet device has nothing to settle. -/
theorem settle_quiet (d : Dev) (h : d.quiet) : settle d = d := by
  obtain ⟨h1, h2, h3, h4⟩ := h
  have e1 : settleLoop settleFuel d = d := settleLoop_done _ _ h1
  have e2 : inbandAll d = d := by
    unfold inbandAll
    apply each_id
    intro e _
    apply iter_id
    unfold inbandHead
    rw [tgetD_mem d.tel.queues e [] (fun l => l = []) rfl h2]
  have e3 : dropCodes d = d := by
    unfold dropCodes
    have : d.sw.rx.filter (fun f => f.code == 0xFC && rxOp f == 0xC && !mgmtCodeOk f) = [] := by
      rw [List.filter_eq_nil_iff]
      intro f hf
      simp [h3 f hf]
    rw [this]; rfl
  have e4 : pfcEnd d = d := by
    unfold pfcEnd
    have : d.subs.flatMap (fun s => s.2.edge.xoff.map (fun x => (s.1, x.1))) = [] := by
      rw [List.flatMap_eq_nil_iff]
      intro s hs
      simp [(h4 s hs).1]
    rw [this]; rfl
  have e5 : edgeTry d = d := by
    unfold edgeTry
    apply each_id
    intro lp _
    rw [(sub_edge_quiet d h4 lp).2]; rfl
  unfold settle
  rw [e1, e2, e1]
  show settleLoop settleFuel (edgeTry (pfcEnd (dropCodes d))) = d
  rw [e3, e4, e5, e1]

/-- The answer of `act` for operands the machine has. -/
theorem act_next (c : Instr) (f : Dev → Dev) (s : State) (hw : wellFormed c = true) (hp : s.dev.boot.power = .on) :
    act c settle f s = .next { s with dev := settle (f s.dev) } := by
  simp [act, hw, hp]

/-- On a live state, a command whose effect leaves the device quiet answers exactly that effect. -/
theorem act_quiet (c : Instr) (f : Dev → Dev) (s : State) (hw : wellFormed c = true) (hp : s.dev.boot.power = .on)
    (hq : (f s.dev).quiet) : act c settle f s = .next { s with dev := f s.dev } := by
  rw [act_next c f s hw hp, settle_quiet _ hq]

end Sys2Proof.Machine
end

