-- ==== Sys2Proof/Laws/Quiet.lean ====
section
/-! SUPPORT. What the end of a step looks at stays as it was through the operations most commands are made of; so a command built of
them leaves a quiet device quiet, and exec answers exactly its effect. -/

namespace Sys2Proof.Machine

/-- The parts of a device the end of a step looks at are those of another device. -/
structure Calm (d d' : Dev) : Prop where
  todo : d'.todo = d.todo
  queues : d'.tel.queues = d.tel.queues
  rx : d'.sw.rx = d.sw.rx
  subs : d'.subs = d.subs

theorem Calm.rfl' (d : Dev) : Calm d d := ⟨rfl, rfl, rfl, rfl⟩

theorem Calm.then {a b c : Dev} (h : Calm a b) (k : Calm b c) : Calm a c :=
  ⟨k.todo.trans h.todo, k.queues.trans h.queues, k.rx.trans h.rx, k.subs.trans h.subs⟩

theorem Calm.quiet {d d' : Dev} (h : Calm d d') (q : d.quiet) : d'.quiet := by
  unfold Dev.quiet at *
  rw [h.todo, h.queues, h.rx, h.subs]; exact q

theorem calm_each {α : Type} (l : List α) (f : α → Dev → Dev) (hf : ∀ a d, Calm d (f a d)) (d : Dev) : Calm d (each l f d) := by
  induction l generalizing d with
  | nil => exact Calm.rfl' d
  | cons a t ih => exact (hf a d).then (ih (f a d))

theorem calm_putReg (off v : Nat) (d : Dev) : Calm d (putReg off v d) := ⟨rfl, rfl, rfl, rfl⟩
theorem calm_putFld (off lo w v : Nat) (d : Dev) : Calm d (putFld off lo w v d) := calm_putReg _ _ d
theorem calm_setEvt (off i : Nat) (d : Dev) : Calm d (setEvt off i d) := ⟨rfl, rfl, rfl, rfl⟩
theorem calm_modRing (f : Rings → Rings) (d : Dev) : Calm d (modRing f d) := ⟨rfl, rfl, rfl, rfl⟩
theorem calm_modTab (f : Tables → Tables) (d : Dev) : Calm d (modTab f d) := ⟨rfl, rfl, rfl, rfl⟩
theorem calm_modBpm (f : Bpm → Bpm) (d : Dev) : Calm d (modBpm f d) := ⟨rfl, rfl, rfl, rfl⟩
theorem calm_modHlt (f : Health → Health) (d : Dev) : Calm d (modHlt f d) := ⟨rfl, rfl, rfl, rfl⟩
theorem calm_hostWrite (a : Nat) (b : Bytes) (d : Dev) : Calm d (hostWrite a b d) := calm_modRing _ d
theorem calm_modSq (q : Nat) (f : Sq → Sq) (d : Dev) : Calm d (modSq q f d) := calm_modRing _ d
theorem calm_modCq (q : Nat) (f : Ring → Ring) (d : Dev) : Calm d (modCq q f d) := calm_modRing _ d
theorem calm_modEq (f : Ring → Ring) (d : Dev) : Calm d (modEq f d) := calm_modRing _ d

theorem calm_count (b ev n : Nat) (a : Attr) (d : Dev) : Calm d (count b ev n a d) := by
  unfold count
  apply calm_each
  intro i d
  dsimp only
  split
  · split <;> exact ⟨rfl, rfl, rfl, rfl⟩
  · exact Calm.rfl' d

theorem calm_sendMsix (v : Nat) (d : Dev) : Calm d (sendMsix v d) := by
  unfold sendMsix
  split <;> exact calm_modRing _ d

theorem calm_writeEq (e : Event) (d : Dev) : Calm d (writeEq e d) := by
  unfold writeEq
  dsimp only
  split
  · exact calm_modEq _ d
  · split
    · exact (((calm_hostWrite _ _ d).then (calm_modEq _ _)).then (calm_modEq _ _)).then (calm_sendMsix _ _)
    · exact (calm_hostWrite _ _ d).then (calm_modEq _ _)

theorem calm_postEvent (code : Nat) (data : Bytes) (d : Dev) : Calm d (postEvent code data d) := by
  unfold postEvent
  dsimp only
  split
  · exact calm_modRing _ d
  · split
    · exact calm_writeEq _ d
    · exact calm_modEq _ d

theorem calm_writeCq (c : Nat) (e : Bytes) (d : Dev) : Calm d (writeCq c e d) := by
  have h := ((calm_hostWrite (fld d (0x20800 + 0x20 * c) 6 58 * 64 + 16 * ((cq d c).wr % cqDepth d c))
    (withPhase e (phaseOf (cqDepth d c) (cq d c).wr)) d).then (calm_modCq c (fun r => { r with wr := r.wr + 1 }) _)).then
    (calm_count 17 2 1 { masters := [mSq (byteAt e 14 % 64)], priv := some 1 } _)
  unfold writeCq
  dsimp only
  split
  · exact (h.then (calm_modCq _ _ _)).then (calm_sendMsix _ _)
  · exact h

theorem calm_sqSettle (q : Nat) (d : Dev) : Calm d (sqSettle q d) := by
  unfold sqSettle
  split
  · exact calm_modSq _ _ d
  · exact Calm.rfl' d

theorem calm_accept_sq (q : Nat) (e : Bytes) (d : Dev) : Calm d (accept (sqCmd q e) d) := by
  have h := ((calm_modSq q (fun s =>
      { s with head := (s.head + 1) % sqDepth d q, waiting := none, busy := tagOf e :: s.busy }) d).then (calm_modCq (cqOf d q) (fun r => { r with reserved := r.reserved + 1 }) _)).then
    (calm_count 17 1 1 { masters := [mSq q], priv := some 1 } _)
  unfold accept
  dsimp only [sqCmd] at *
  exact h.then (calm_hostWrite _ _ _)

theorem calm_complete_sq (q : Nat) (e : Bytes) (st de r : Nat) (d : Dev) : Calm d (complete (sqCmd q e) st de r d) := by
  unfold complete
  dsimp only [sqCmd]
  have h := (calm_modSq q (fun s =>
      { s with busy := s.busy.erase (tagOf e), window := ((tagOf e, st, de, r % 2 ^ 32) :: s.window).take 4096 }) d)
  refine Calm.then ?_ (calm_sqSettle _ _)
  split
  · exact (h.then (calm_modCq _ _ _)).then (calm_writeCq _ _ _)
  · exact h.then (calm_modCq _ _ _)

/-- A command whose effect leaves alone what the end of a step looks at answers exactly its effect. -/
theorem act_calm (c : Instr) (f : Dev → Dev) (s : State) (hw : wellFormed c = true) (hl : s.live) (hc : Calm s.dev (f s.dev)) :
    act c settle f s = .next { s with dev := f s.dev } :=
  act_quiet c f s hw hl.1 (hc.quiet hl.2)

/-- A command that does not wait at the head of its ring carries no mark. -/
theorem not_slow (q : Nat) (e : Bytes) (d : Dev) (h : (sq d q).waiting = none) : isSlow (sqCmd q e) d = false := by
  simp [isSlow, sqCmd, h]

/-- What a descriptor row does with an entry that begins and completes at once. -/
theorem entryRow_done (op mode q : Nat) (e : Bytes) (d a x : Dev) (st de r : Nat) (f : Cmd → Bytes → Dev → Res)
    (hb : d.begins q e a) (ho : opOf e = op) (hm : modeOf e = mode) (hf : cmdOf op mode = some f)
    (hd : f (sqCmd q e) e a = .done st de r x) : entryRow op mode q e d = complete (sqCmd q e) st de r x := by
  obtain ⟨⟨h1, h2, h3, h4, h5, h6, h7, h8, h9, h10⟩, rfl, hn⟩ := hb
  subst ho; subst hm
  have hfind : (sq d q).window.find? (fun w => w.1 == tagOf e) = none := by
    rw [List.find?_eq_none]
    intro w hw
    have := List.any_eq_false.1 h8 w hw
    simpa using this
  have hrun : runCmd (sqCmd q e) e d = complete (sqCmd q e) st de r x := by
    unfold runCmd unslow
    simp only [not_slow q e d h4, h10, Bool.false_and, Bool.false_eq_true, if_false]
    rw [hf]
    dsimp only
    have hw := hn f
    show (match f (sqCmd q e) e d with
      | .wait y => keepWaiting (sqCmd q e) e y
      | _ => match f (sqCmd q e) e (accept (sqCmd q e) d) with
        | .done s t r d => complete (sqCmd q e) s t r d
        | .run d => d
        | .wait d => d) = _
    have hacc : f (sqCmd q e) e (accept (sqCmd q e) d) = .done st de r x := hd
    rw [hacc]
    split
    · rename_i y hy
      exact absurd hy (hw y hf)
    · rfl
  unfold entryRow
  simp [h3, h4, h5, h6]
  unfold readEntry
  have h7' : tagOf e ∉ (sq d q).busy := by simpa using h7
  simp only [h7, h9, Bool.false_eq_true, if_false, Bool.not_true, hfind]
  exact hrun

/-- As `entryRow_done`, for a command that goes on. -/
theorem entryRow_run (op mode q : Nat) (e : Bytes) (d a x : Dev) (f : Cmd → Bytes → Dev → Res)
    (hb : d.begins q e a) (ho : opOf e = op) (hm : modeOf e = mode) (hf : cmdOf op mode = some f)
    (hd : f (sqCmd q e) e a = .run x) : entryRow op mode q e d = x := by
  obtain ⟨⟨h1, h2, h3, h4, h5, h6, h7, h8, h9, h10⟩, rfl, hn⟩ := hb
  subst ho; subst hm
  have hfind : (sq d q).window.find? (fun w => w.1 == tagOf e) = none := by
    rw [List.find?_eq_none]
    intro w hw
    have := List.any_eq_false.1 h8 w hw
    simpa using this
  have hrun : runCmd (sqCmd q e) e d = x := by
    unfold runCmd unslow
    simp only [not_slow q e d h4, h10, Bool.false_and, Bool.false_eq_true, if_false]
    rw [hf]
    dsimp only
    have hacc : f (sqCmd q e) e (accept (sqCmd q e) d) = .run x := hd
    rw [hacc]
    split
    · rename_i y hy
      exact absurd hy (hn f y hf)
    · rfl
  unfold entryRow
  simp [h3, h4, h5, h6]
  unfold readEntry
  simp only [h7, h9, Bool.false_eq_true, if_false, Bool.not_true, hfind]
  exact hrun

end Sys2Proof.Machine
end

