-- ==== Sys2Proof/Laws/Exec.lean ====
section
/-! SUPPORT. What a step can do, said once: every command but those of the module's power is `act` of its effect, with the memory
errors its accesses meet; those are `actPower` of theirs. -/

namespace Sys2Proof.Machine

open Sys2Proof

/-- A command of the module's power: it acts in every power state (R487, R448, R488). -/
def powerCmd : Instr → Option (Dev → Dev)
  | .inputPowerRise => some powerRise
  | .railSequencing carrier => some (railsUp carrier)
  | .inputPowerLoss => some powerLoss
  | .thermalTrip temps => some (thermalTrip temps)
  | .tripExit => some tripExit
  | _ => none

theorem exec_power (c : Instr) (f : Dev → Dev) (h : powerCmd c = some f) (s : State) : exec c s = actPower c settle f s := by
  cases c
  case inputPowerRise => cases h; rfl
  case railSequencing => cases h; rfl
  case inputPowerLoss => cases h; rfl
  case thermalTrip => cases h; rfl
  case tripExit => cases h; rfl
  all_goals cases h

/-- The memory errors a command's accesses meet, for the commands that have such an operand. -/
def memCmd : Instr → Option (List MemErr)
  | .adapterDefine _ _ errs => some errs
  | .updateApplyStart _ errs => some errs
  | .imgWrite _ _ errs => some errs
  | .checkpoint _ _ errs => some errs
  | .lunOperationStart _ errs _ => some errs
  | .moverComplete _ _ _ errs => some errs
  | .forgeReadReq errs => some errs
  | .forgeWriteFrame errs => some errs
  | .forgeReadRsp errs => some errs
  | .collResultMemberArrive errs => some errs
  | .patrolScrubRead _ errs => some errs
  | .remapCopyDone _ _ errs => some errs
  | .cxlMemRead _ errs => some errs
  | .cxlMemWrite _ _ errs => some errs
  | _ => none

theorem exec_mem (c : Instr) (errs : List MemErr) (h : memCmd c = some errs) : ∃ f, ∀ s, exec c s = actMem c errs settle f s := by
  cases c
  case adapterDefine => cases h; exact ⟨_, fun s => rfl⟩
  case updateApplyStart => cases h; exact ⟨_, fun s => rfl⟩
  case imgWrite => cases h; exact ⟨_, fun s => rfl⟩
  case checkpoint => cases h; exact ⟨_, fun s => rfl⟩
  case lunOperationStart => cases h; exact ⟨_, fun s => rfl⟩
  case moverComplete => cases h; exact ⟨_, fun s => rfl⟩
  case forgeReadReq => cases h; exact ⟨_, fun s => rfl⟩
  case forgeWriteFrame => cases h; exact ⟨_, fun s => rfl⟩
  case forgeReadRsp => cases h; exact ⟨_, fun s => rfl⟩
  case collResultMemberArrive => cases h; exact ⟨_, fun s => rfl⟩
  case patrolScrubRead => cases h; exact ⟨_, fun s => rfl⟩
  case remapCopyDone => cases h; exact ⟨_, fun s => rfl⟩
  case cxlMemRead => cases h; exact ⟨_, fun s => rfl⟩
  case cxlMemWrite => cases h; exact ⟨_, fun s => rfl⟩
  all_goals cases h

set_option maxHeartbeats 2000000 in
theorem exec_act (c : Instr) (h : powerCmd c = none) (hm : memCmd c = none) : ∃ f, ∀ s, exec c s = act c settle f s := by
  cases c
  case inputPowerRise => cases h
  case railSequencing => cases h
  case inputPowerLoss => cases h
  case thermalTrip => cases h
  case tripExit => cases h
  case adapterDefine => cases hm
  case updateApplyStart => cases hm
  case imgWrite => cases hm
  case checkpoint => cases hm
  case lunOperationStart => cases hm
  case moverComplete => cases hm
  case forgeReadReq => cases hm
  case forgeWriteFrame => cases hm
  case forgeReadRsp => cases hm
  case collResultMemberArrive => cases hm
  case patrolScrubRead => cases hm
  case remapCopyDone => cases hm
  case cxlMemRead => cases hm
  case cxlMemWrite => cases hm
  all_goals exact ⟨_, fun s => rfl⟩

end Sys2Proof.Machine
end

