-- ==== Sys2Proof/Laws/State.lean ====
section
/-! SUPPORT. What each update of the device leaves in each of its fields; and reading a table after writing it. -/

namespace Sys2Proof.Machine

@[simp] theorem modSw_clk (f : Switch → Switch) (d : Dev) : (modSw f d).clk = d.clk := rfl
@[simp] theorem modSw_regs (f : Switch → Switch) (d : Dev) : (modSw f d).regs = d.regs := rfl
@[simp] theorem modSw_force (f : Switch → Switch) (d : Dev) : (modSw f d).force = d.force := rfl
@[simp] theorem modSw_subs (f : Switch → Switch) (d : Dev) : (modSw f d).subs = d.subs := rfl
@[simp] theorem modSw_tab (f : Switch → Switch) (d : Dev) : (modSw f d).tab = d.tab := rfl
@[simp] theorem modSw_bpm (f : Switch → Switch) (d : Dev) : (modSw f d).bpm = d.bpm := rfl
@[simp] theorem modSw_sw (f : Switch → Switch) (d : Dev) : (modSw f d).sw = f d.sw := rfl
@[simp] theorem modSw_ring (f : Switch → Switch) (d : Dev) : (modSw f d).ring = d.ring := rfl
@[simp] theorem modSw_cru (f : Switch → Switch) (d : Dev) : (modSw f d).cru = d.cru := rfl
@[simp] theorem modSw_sel (f : Switch → Switch) (d : Dev) : (modSw f d).sel = d.sel := rfl
@[simp] theorem modSw_selFlags (f : Switch → Switch) (d : Dev) : (modSw f d).selFlags = d.selFlags := rfl
@[simp] theorem modSw_mem (f : Switch → Switch) (d : Dev) : (modSw f d).mem = d.mem := rfl
@[simp] theorem modSw_forge (f : Switch → Switch) (d : Dev) : (modSw f d).forge = d.forge := rfl
@[simp] theorem modSw_adp (f : Switch → Switch) (d : Dev) : (modSw f d).adp = d.adp := rfl
@[simp] theorem modSw_fal (f : Switch → Switch) (d : Dev) : (modSw f d).fal = d.fal := rfl
@[simp] theorem modSw_tel (f : Switch → Switch) (d : Dev) : (modSw f d).tel = d.tel := rfl
@[simp] theorem modSw_hlt (f : Switch → Switch) (d : Dev) : (modSw f d).hlt = d.hlt := rfl
@[simp] theorem modSw_boot (f : Switch → Switch) (d : Dev) : (modSw f d).boot = d.boot := rfl
@[simp] theorem modSw_nv (f : Switch → Switch) (d : Dev) : (modSw f d).nv = d.nv := rfl
@[simp] theorem modSw_free (f : Switch → Switch) (d : Dev) : (modSw f d).free = d.free := rfl
@[simp] theorem modSw_todo (f : Switch → Switch) (d : Dev) : (modSw f d).todo = d.todo := rfl
@[simp] theorem modSw_evt (f : Switch → Switch) (d : Dev) : (modSw f d).evt = d.evt := rfl

@[simp] theorem modTab_clk (f : Tables → Tables) (d : Dev) : (modTab f d).clk = d.clk := rfl
@[simp] theorem modTab_regs (f : Tables → Tables) (d : Dev) : (modTab f d).regs = d.regs := rfl
@[simp] theorem modTab_force (f : Tables → Tables) (d : Dev) : (modTab f d).force = d.force := rfl
@[simp] theorem modTab_subs (f : Tables → Tables) (d : Dev) : (modTab f d).subs = d.subs := rfl
@[simp] theorem modTab_tab (f : Tables → Tables) (d : Dev) : (modTab f d).tab = f d.tab := rfl
@[simp] theorem modTab_bpm (f : Tables → Tables) (d : Dev) : (modTab f d).bpm = d.bpm := rfl
@[simp] theorem modTab_sw (f : Tables → Tables) (d : Dev) : (modTab f d).sw = d.sw := rfl
@[simp] theorem modTab_ring (f : Tables → Tables) (d : Dev) : (modTab f d).ring = d.ring := rfl
@[simp] theorem modTab_cru (f : Tables → Tables) (d : Dev) : (modTab f d).cru = d.cru := rfl
@[simp] theorem modTab_sel (f : Tables → Tables) (d : Dev) : (modTab f d).sel = d.sel := rfl
@[simp] theorem modTab_selFlags (f : Tables → Tables) (d : Dev) : (modTab f d).selFlags = d.selFlags := rfl
@[simp] theorem modTab_mem (f : Tables → Tables) (d : Dev) : (modTab f d).mem = d.mem := rfl
@[simp] theorem modTab_forge (f : Tables → Tables) (d : Dev) : (modTab f d).forge = d.forge := rfl
@[simp] theorem modTab_adp (f : Tables → Tables) (d : Dev) : (modTab f d).adp = d.adp := rfl
@[simp] theorem modTab_fal (f : Tables → Tables) (d : Dev) : (modTab f d).fal = d.fal := rfl
@[simp] theorem modTab_tel (f : Tables → Tables) (d : Dev) : (modTab f d).tel = d.tel := rfl
@[simp] theorem modTab_hlt (f : Tables → Tables) (d : Dev) : (modTab f d).hlt = d.hlt := rfl
@[simp] theorem modTab_boot (f : Tables → Tables) (d : Dev) : (modTab f d).boot = d.boot := rfl
@[simp] theorem modTab_nv (f : Tables → Tables) (d : Dev) : (modTab f d).nv = d.nv := rfl
@[simp] theorem modTab_free (f : Tables → Tables) (d : Dev) : (modTab f d).free = d.free := rfl
@[simp] theorem modTab_todo (f : Tables → Tables) (d : Dev) : (modTab f d).todo = d.todo := rfl
@[simp] theorem modTab_evt (f : Tables → Tables) (d : Dev) : (modTab f d).evt = d.evt := rfl

@[simp] theorem modRing_clk (f : Rings → Rings) (d : Dev) : (modRing f d).clk = d.clk := rfl
@[simp] theorem modRing_regs (f : Rings → Rings) (d : Dev) : (modRing f d).regs = d.regs := rfl
@[simp] theorem modRing_force (f : Rings → Rings) (d : Dev) : (modRing f d).force = d.force := rfl
@[simp] theorem modRing_subs (f : Rings → Rings) (d : Dev) : (modRing f d).subs = d.subs := rfl
@[simp] theorem modRing_tab (f : Rings → Rings) (d : Dev) : (modRing f d).tab = d.tab := rfl
@[simp] theorem modRing_bpm (f : Rings → Rings) (d : Dev) : (modRing f d).bpm = d.bpm := rfl
@[simp] theorem modRing_sw (f : Rings → Rings) (d : Dev) : (modRing f d).sw = d.sw := rfl
@[simp] theorem modRing_ring (f : Rings → Rings) (d : Dev) : (modRing f d).ring = f d.ring := rfl
@[simp] theorem modRing_cru (f : Rings → Rings) (d : Dev) : (modRing f d).cru = d.cru := rfl
@[simp] theorem modRing_sel (f : Rings → Rings) (d : Dev) : (modRing f d).sel = d.sel := rfl
@[simp] theorem modRing_selFlags (f : Rings → Rings) (d : Dev) : (modRing f d).selFlags = d.selFlags := rfl
@[simp] theorem modRing_mem (f : Rings → Rings) (d : Dev) : (modRing f d).mem = d.mem := rfl
@[simp] theorem modRing_forge (f : Rings → Rings) (d : Dev) : (modRing f d).forge = d.forge := rfl
@[simp] theorem modRing_adp (f : Rings → Rings) (d : Dev) : (modRing f d).adp = d.adp := rfl
@[simp] theorem modRing_fal (f : Rings → Rings) (d : Dev) : (modRing f d).fal = d.fal := rfl
@[simp] theorem modRing_tel (f : Rings → Rings) (d : Dev) : (modRing f d).tel = d.tel := rfl
@[simp] theorem modRing_hlt (f : Rings → Rings) (d : Dev) : (modRing f d).hlt = d.hlt := rfl
@[simp] theorem modRing_boot (f : Rings → Rings) (d : Dev) : (modRing f d).boot = d.boot := rfl
@[simp] theorem modRing_nv (f : Rings → Rings) (d : Dev) : (modRing f d).nv = d.nv := rfl
@[simp] theorem modRing_free (f : Rings → Rings) (d : Dev) : (modRing f d).free = d.free := rfl
@[simp] theorem modRing_todo (f : Rings → Rings) (d : Dev) : (modRing f d).todo = d.todo := rfl
@[simp] theorem modRing_evt (f : Rings → Rings) (d : Dev) : (modRing f d).evt = d.evt := rfl

@[simp] theorem modBpm_clk (f : Bpm → Bpm) (d : Dev) : (modBpm f d).clk = d.clk := rfl
@[simp] theorem modBpm_regs (f : Bpm → Bpm) (d : Dev) : (modBpm f d).regs = d.regs := rfl
@[simp] theorem modBpm_force (f : Bpm → Bpm) (d : Dev) : (modBpm f d).force = d.force := rfl
@[simp] theorem modBpm_subs (f : Bpm → Bpm) (d : Dev) : (modBpm f d).subs = d.subs := rfl
@[simp] theorem modBpm_tab (f : Bpm → Bpm) (d : Dev) : (modBpm f d).tab = d.tab := rfl
@[simp] theorem modBpm_bpm (f : Bpm → Bpm) (d : Dev) : (modBpm f d).bpm = f d.bpm := rfl
@[simp] theorem modBpm_sw (f : Bpm → Bpm) (d : Dev) : (modBpm f d).sw = d.sw := rfl
@[simp] theorem modBpm_ring (f : Bpm → Bpm) (d : Dev) : (modBpm f d).ring = d.ring := rfl
@[simp] theorem modBpm_cru (f : Bpm → Bpm) (d : Dev) : (modBpm f d).cru = d.cru := rfl
@[simp] theorem modBpm_sel (f : Bpm → Bpm) (d : Dev) : (modBpm f d).sel = d.sel := rfl
@[simp] theorem modBpm_selFlags (f : Bpm → Bpm) (d : Dev) : (modBpm f d).selFlags = d.selFlags := rfl
@[simp] theorem modBpm_mem (f : Bpm → Bpm) (d : Dev) : (modBpm f d).mem = d.mem := rfl
@[simp] theorem modBpm_forge (f : Bpm → Bpm) (d : Dev) : (modBpm f d).forge = d.forge := rfl
@[simp] theorem modBpm_adp (f : Bpm → Bpm) (d : Dev) : (modBpm f d).adp = d.adp := rfl
@[simp] theorem modBpm_fal (f : Bpm → Bpm) (d : Dev) : (modBpm f d).fal = d.fal := rfl
@[simp] theorem modBpm_tel (f : Bpm → Bpm) (d : Dev) : (modBpm f d).tel = d.tel := rfl
@[simp] theorem modBpm_hlt (f : Bpm → Bpm) (d : Dev) : (modBpm f d).hlt = d.hlt := rfl
@[simp] theorem modBpm_boot (f : Bpm → Bpm) (d : Dev) : (modBpm f d).boot = d.boot := rfl
@[simp] theorem modBpm_nv (f : Bpm → Bpm) (d : Dev) : (modBpm f d).nv = d.nv := rfl
@[simp] theorem modBpm_free (f : Bpm → Bpm) (d : Dev) : (modBpm f d).free = d.free := rfl
@[simp] theorem modBpm_todo (f : Bpm → Bpm) (d : Dev) : (modBpm f d).todo = d.todo := rfl
@[simp] theorem modBpm_evt (f : Bpm → Bpm) (d : Dev) : (modBpm f d).evt = d.evt := rfl

@[simp] theorem modHlt_clk (f : Health → Health) (d : Dev) : (modHlt f d).clk = d.clk := rfl
@[simp] theorem modHlt_regs (f : Health → Health) (d : Dev) : (modHlt f d).regs = d.regs := rfl
@[simp] theorem modHlt_force (f : Health → Health) (d : Dev) : (modHlt f d).force = d.force := rfl
@[simp] theorem modHlt_subs (f : Health → Health) (d : Dev) : (modHlt f d).subs = d.subs := rfl
@[simp] theorem modHlt_tab (f : Health → Health) (d : Dev) : (modHlt f d).tab = d.tab := rfl
@[simp] theorem modHlt_bpm (f : Health → Health) (d : Dev) : (modHlt f d).bpm = d.bpm := rfl
@[simp] theorem modHlt_sw (f : Health → Health) (d : Dev) : (modHlt f d).sw = d.sw := rfl
@[simp] theorem modHlt_ring (f : Health → Health) (d : Dev) : (modHlt f d).ring = d.ring := rfl
@[simp] theorem modHlt_cru (f : Health → Health) (d : Dev) : (modHlt f d).cru = d.cru := rfl
@[simp] theorem modHlt_sel (f : Health → Health) (d : Dev) : (modHlt f d).sel = d.sel := rfl
@[simp] theorem modHlt_selFlags (f : Health → Health) (d : Dev) : (modHlt f d).selFlags = d.selFlags := rfl
@[simp] theorem modHlt_mem (f : Health → Health) (d : Dev) : (modHlt f d).mem = d.mem := rfl
@[simp] theorem modHlt_forge (f : Health → Health) (d : Dev) : (modHlt f d).forge = d.forge := rfl
@[simp] theorem modHlt_adp (f : Health → Health) (d : Dev) : (modHlt f d).adp = d.adp := rfl
@[simp] theorem modHlt_fal (f : Health → Health) (d : Dev) : (modHlt f d).fal = d.fal := rfl
@[simp] theorem modHlt_tel (f : Health → Health) (d : Dev) : (modHlt f d).tel = d.tel := rfl
@[simp] theorem modHlt_hlt (f : Health → Health) (d : Dev) : (modHlt f d).hlt = f d.hlt := rfl
@[simp] theorem modHlt_boot (f : Health → Health) (d : Dev) : (modHlt f d).boot = d.boot := rfl
@[simp] theorem modHlt_nv (f : Health → Health) (d : Dev) : (modHlt f d).nv = d.nv := rfl
@[simp] theorem modHlt_free (f : Health → Health) (d : Dev) : (modHlt f d).free = d.free := rfl
@[simp] theorem modHlt_todo (f : Health → Health) (d : Dev) : (modHlt f d).todo = d.todo := rfl
@[simp] theorem modHlt_evt (f : Health → Health) (d : Dev) : (modHlt f d).evt = d.evt := rfl

@[simp] theorem modBoot_clk (f : Boot → Boot) (d : Dev) : (modBoot f d).clk = d.clk := rfl
@[simp] theorem modBoot_regs (f : Boot → Boot) (d : Dev) : (modBoot f d).regs = d.regs := rfl
@[simp] theorem modBoot_force (f : Boot → Boot) (d : Dev) : (modBoot f d).force = d.force := rfl
@[simp] theorem modBoot_subs (f : Boot → Boot) (d : Dev) : (modBoot f d).subs = d.subs := rfl
@[simp] theorem modBoot_tab (f : Boot → Boot) (d : Dev) : (modBoot f d).tab = d.tab := rfl
@[simp] theorem modBoot_bpm (f : Boot → Boot) (d : Dev) : (modBoot f d).bpm = d.bpm := rfl
@[simp] theorem modBoot_sw (f : Boot → Boot) (d : Dev) : (modBoot f d).sw = d.sw := rfl
@[simp] theorem modBoot_ring (f : Boot → Boot) (d : Dev) : (modBoot f d).ring = d.ring := rfl
@[simp] theorem modBoot_cru (f : Boot → Boot) (d : Dev) : (modBoot f d).cru = d.cru := rfl
@[simp] theorem modBoot_sel (f : Boot → Boot) (d : Dev) : (modBoot f d).sel = d.sel := rfl
@[simp] theorem modBoot_selFlags (f : Boot → Boot) (d : Dev) : (modBoot f d).selFlags = d.selFlags := rfl
@[simp] theorem modBoot_mem (f : Boot → Boot) (d : Dev) : (modBoot f d).mem = d.mem := rfl
@[simp] theorem modBoot_forge (f : Boot → Boot) (d : Dev) : (modBoot f d).forge = d.forge := rfl
@[simp] theorem modBoot_adp (f : Boot → Boot) (d : Dev) : (modBoot f d).adp = d.adp := rfl
@[simp] theorem modBoot_fal (f : Boot → Boot) (d : Dev) : (modBoot f d).fal = d.fal := rfl
@[simp] theorem modBoot_tel (f : Boot → Boot) (d : Dev) : (modBoot f d).tel = d.tel := rfl
@[simp] theorem modBoot_hlt (f : Boot → Boot) (d : Dev) : (modBoot f d).hlt = d.hlt := rfl
@[simp] theorem modBoot_boot (f : Boot → Boot) (d : Dev) : (modBoot f d).boot = f d.boot := rfl
@[simp] theorem modBoot_nv (f : Boot → Boot) (d : Dev) : (modBoot f d).nv = d.nv := rfl
@[simp] theorem modBoot_free (f : Boot → Boot) (d : Dev) : (modBoot f d).free = d.free := rfl
@[simp] theorem modBoot_todo (f : Boot → Boot) (d : Dev) : (modBoot f d).todo = d.todo := rfl
@[simp] theorem modBoot_evt (f : Boot → Boot) (d : Dev) : (modBoot f d).evt = d.evt := rfl

@[simp] theorem modTel_clk (f : Telem → Telem) (d : Dev) : (modTel f d).clk = d.clk := rfl
@[simp] theorem modTel_regs (f : Telem → Telem) (d : Dev) : (modTel f d).regs = d.regs := rfl
@[simp] theorem modTel_force (f : Telem → Telem) (d : Dev) : (modTel f d).force = d.force := rfl
@[simp] theorem modTel_subs (f : Telem → Telem) (d : Dev) : (modTel f d).subs = d.subs := rfl
@[simp] theorem modTel_tab (f : Telem → Telem) (d : Dev) : (modTel f d).tab = d.tab := rfl
@[simp] theorem modTel_bpm (f : Telem → Telem) (d : Dev) : (modTel f d).bpm = d.bpm := rfl
@[simp] theorem modTel_sw (f : Telem → Telem) (d : Dev) : (modTel f d).sw = d.sw := rfl
@[simp] theorem modTel_ring (f : Telem → Telem) (d : Dev) : (modTel f d).ring = d.ring := rfl
@[simp] theorem modTel_cru (f : Telem → Telem) (d : Dev) : (modTel f d).cru = d.cru := rfl
@[simp] theorem modTel_sel (f : Telem → Telem) (d : Dev) : (modTel f d).sel = d.sel := rfl
@[simp] theorem modTel_selFlags (f : Telem → Telem) (d : Dev) : (modTel f d).selFlags = d.selFlags := rfl
@[simp] theorem modTel_mem (f : Telem → Telem) (d : Dev) : (modTel f d).mem = d.mem := rfl
@[simp] theorem modTel_forge (f : Telem → Telem) (d : Dev) : (modTel f d).forge = d.forge := rfl
@[simp] theorem modTel_adp (f : Telem → Telem) (d : Dev) : (modTel f d).adp = d.adp := rfl
@[simp] theorem modTel_fal (f : Telem → Telem) (d : Dev) : (modTel f d).fal = d.fal := rfl
@[simp] theorem modTel_tel (f : Telem → Telem) (d : Dev) : (modTel f d).tel = f d.tel := rfl
@[simp] theorem modTel_hlt (f : Telem → Telem) (d : Dev) : (modTel f d).hlt = d.hlt := rfl
@[simp] theorem modTel_boot (f : Telem → Telem) (d : Dev) : (modTel f d).boot = d.boot := rfl
@[simp] theorem modTel_nv (f : Telem → Telem) (d : Dev) : (modTel f d).nv = d.nv := rfl
@[simp] theorem modTel_free (f : Telem → Telem) (d : Dev) : (modTel f d).free = d.free := rfl
@[simp] theorem modTel_todo (f : Telem → Telem) (d : Dev) : (modTel f d).todo = d.todo := rfl
@[simp] theorem modTel_evt (f : Telem → Telem) (d : Dev) : (modTel f d).evt = d.evt := rfl

@[simp] theorem modCru_clk (f : Crucible → Crucible) (d : Dev) : (modCru f d).clk = d.clk := rfl
@[simp] theorem modCru_regs (f : Crucible → Crucible) (d : Dev) : (modCru f d).regs = d.regs := rfl
@[simp] theorem modCru_force (f : Crucible → Crucible) (d : Dev) : (modCru f d).force = d.force := rfl
@[simp] theorem modCru_subs (f : Crucible → Crucible) (d : Dev) : (modCru f d).subs = d.subs := rfl
@[simp] theorem modCru_tab (f : Crucible → Crucible) (d : Dev) : (modCru f d).tab = d.tab := rfl
@[simp] theorem modCru_bpm (f : Crucible → Crucible) (d : Dev) : (modCru f d).bpm = d.bpm := rfl
@[simp] theorem modCru_sw (f : Crucible → Crucible) (d : Dev) : (modCru f d).sw = d.sw := rfl
@[simp] theorem modCru_ring (f : Crucible → Crucible) (d : Dev) : (modCru f d).ring = d.ring := rfl
@[simp] theorem modCru_cru (f : Crucible → Crucible) (d : Dev) : (modCru f d).cru = f d.cru := rfl
@[simp] theorem modCru_sel (f : Crucible → Crucible) (d : Dev) : (modCru f d).sel = d.sel := rfl
@[simp] theorem modCru_selFlags (f : Crucible → Crucible) (d : Dev) : (modCru f d).selFlags = d.selFlags := rfl
@[simp] theorem modCru_mem (f : Crucible → Crucible) (d : Dev) : (modCru f d).mem = d.mem := rfl
@[simp] theorem modCru_forge (f : Crucible → Crucible) (d : Dev) : (modCru f d).forge = d.forge := rfl
@[simp] theorem modCru_adp (f : Crucible → Crucible) (d : Dev) : (modCru f d).adp = d.adp := rfl
@[simp] theorem modCru_fal (f : Crucible → Crucible) (d : Dev) : (modCru f d).fal = d.fal := rfl
@[simp] theorem modCru_tel (f : Crucible → Crucible) (d : Dev) : (modCru f d).tel = d.tel := rfl
@[simp] theorem modCru_hlt (f : Crucible → Crucible) (d : Dev) : (modCru f d).hlt = d.hlt := rfl
@[simp] theorem modCru_boot (f : Crucible → Crucible) (d : Dev) : (modCru f d).boot = d.boot := rfl
@[simp] theorem modCru_nv (f : Crucible → Crucible) (d : Dev) : (modCru f d).nv = d.nv := rfl
@[simp] theorem modCru_free (f : Crucible → Crucible) (d : Dev) : (modCru f d).free = d.free := rfl
@[simp] theorem modCru_todo (f : Crucible → Crucible) (d : Dev) : (modCru f d).todo = d.todo := rfl
@[simp] theorem modCru_evt (f : Crucible → Crucible) (d : Dev) : (modCru f d).evt = d.evt := rfl

@[simp] theorem modFal_clk (f : Fallow → Fallow) (d : Dev) : (modFal f d).clk = d.clk := rfl
@[simp] theorem modFal_regs (f : Fallow → Fallow) (d : Dev) : (modFal f d).regs = d.regs := rfl
@[simp] theorem modFal_force (f : Fallow → Fallow) (d : Dev) : (modFal f d).force = d.force := rfl
@[simp] theorem modFal_subs (f : Fallow → Fallow) (d : Dev) : (modFal f d).subs = d.subs := rfl
@[simp] theorem modFal_tab (f : Fallow → Fallow) (d : Dev) : (modFal f d).tab = d.tab := rfl
@[simp] theorem modFal_bpm (f : Fallow → Fallow) (d : Dev) : (modFal f d).bpm = d.bpm := rfl
@[simp] theorem modFal_sw (f : Fallow → Fallow) (d : Dev) : (modFal f d).sw = d.sw := rfl
@[simp] theorem modFal_ring (f : Fallow → Fallow) (d : Dev) : (modFal f d).ring = d.ring := rfl
@[simp] theorem modFal_cru (f : Fallow → Fallow) (d : Dev) : (modFal f d).cru = d.cru := rfl
@[simp] theorem modFal_sel (f : Fallow → Fallow) (d : Dev) : (modFal f d).sel = d.sel := rfl
@[simp] theorem modFal_selFlags (f : Fallow → Fallow) (d : Dev) : (modFal f d).selFlags = d.selFlags := rfl
@[simp] theorem modFal_mem (f : Fallow → Fallow) (d : Dev) : (modFal f d).mem = d.mem := rfl
@[simp] theorem modFal_forge (f : Fallow → Fallow) (d : Dev) : (modFal f d).forge = d.forge := rfl
@[simp] theorem modFal_adp (f : Fallow → Fallow) (d : Dev) : (modFal f d).adp = d.adp := rfl
@[simp] theorem modFal_fal (f : Fallow → Fallow) (d : Dev) : (modFal f d).fal = f d.fal := rfl
@[simp] theorem modFal_tel (f : Fallow → Fallow) (d : Dev) : (modFal f d).tel = d.tel := rfl
@[simp] theorem modFal_hlt (f : Fallow → Fallow) (d : Dev) : (modFal f d).hlt = d.hlt := rfl
@[simp] theorem modFal_boot (f : Fallow → Fallow) (d : Dev) : (modFal f d).boot = d.boot := rfl
@[simp] theorem modFal_nv (f : Fallow → Fallow) (d : Dev) : (modFal f d).nv = d.nv := rfl
@[simp] theorem modFal_free (f : Fallow → Fallow) (d : Dev) : (modFal f d).free = d.free := rfl
@[simp] theorem modFal_todo (f : Fallow → Fallow) (d : Dev) : (modFal f d).todo = d.todo := rfl
@[simp] theorem modFal_evt (f : Fallow → Fallow) (d : Dev) : (modFal f d).evt = d.evt := rfl

@[simp] theorem modForges_clk (f : Forges → Forges) (d : Dev) : (modForges f d).clk = d.clk := rfl
@[simp] theorem modForges_regs (f : Forges → Forges) (d : Dev) : (modForges f d).regs = d.regs := rfl
@[simp] theorem modForges_force (f : Forges → Forges) (d : Dev) : (modForges f d).force = d.force := rfl
@[simp] theorem modForges_subs (f : Forges → Forges) (d : Dev) : (modForges f d).subs = d.subs := rfl
@[simp] theorem modForges_tab (f : Forges → Forges) (d : Dev) : (modForges f d).tab = d.tab := rfl
@[simp] theorem modForges_bpm (f : Forges → Forges) (d : Dev) : (modForges f d).bpm = d.bpm := rfl
@[simp] theorem modForges_sw (f : Forges → Forges) (d : Dev) : (modForges f d).sw = d.sw := rfl
@[simp] theorem modForges_ring (f : Forges → Forges) (d : Dev) : (modForges f d).ring = d.ring := rfl
@[simp] theorem modForges_cru (f : Forges → Forges) (d : Dev) : (modForges f d).cru = d.cru := rfl
@[simp] theorem modForges_sel (f : Forges → Forges) (d : Dev) : (modForges f d).sel = d.sel := rfl
@[simp] theorem modForges_selFlags (f : Forges → Forges) (d : Dev) : (modForges f d).selFlags = d.selFlags := rfl
@[simp] theorem modForges_mem (f : Forges → Forges) (d : Dev) : (modForges f d).mem = d.mem := rfl
@[simp] theorem modForges_forge (f : Forges → Forges) (d : Dev) : (modForges f d).forge = f d.forge := rfl
@[simp] theorem modForges_adp (f : Forges → Forges) (d : Dev) : (modForges f d).adp = d.adp := rfl
@[simp] theorem modForges_fal (f : Forges → Forges) (d : Dev) : (modForges f d).fal = d.fal := rfl
@[simp] theorem modForges_tel (f : Forges → Forges) (d : Dev) : (modForges f d).tel = d.tel := rfl
@[simp] theorem modForges_hlt (f : Forges → Forges) (d : Dev) : (modForges f d).hlt = d.hlt := rfl
@[simp] theorem modForges_boot (f : Forges → Forges) (d : Dev) : (modForges f d).boot = d.boot := rfl
@[simp] theorem modForges_nv (f : Forges → Forges) (d : Dev) : (modForges f d).nv = d.nv := rfl
@[simp] theorem modForges_free (f : Forges → Forges) (d : Dev) : (modForges f d).free = d.free := rfl
@[simp] theorem modForges_todo (f : Forges → Forges) (d : Dev) : (modForges f d).todo = d.todo := rfl
@[simp] theorem modForges_evt (f : Forges → Forges) (d : Dev) : (modForges f d).evt = d.evt := rfl

@[simp] theorem modMem_clk (f : Mems → Mems) (d : Dev) : (modMem f d).clk = d.clk := rfl
@[simp] theorem modMem_regs (f : Mems → Mems) (d : Dev) : (modMem f d).regs = d.regs := rfl
@[simp] theorem modMem_force (f : Mems → Mems) (d : Dev) : (modMem f d).force = d.force := rfl
@[simp] theorem modMem_subs (f : Mems → Mems) (d : Dev) : (modMem f d).subs = d.subs := rfl
@[simp] theorem modMem_tab (f : Mems → Mems) (d : Dev) : (modMem f d).tab = d.tab := rfl
@[simp] theorem modMem_bpm (f : Mems → Mems) (d : Dev) : (modMem f d).bpm = d.bpm := rfl
@[simp] theorem modMem_sw (f : Mems → Mems) (d : Dev) : (modMem f d).sw = d.sw := rfl
@[simp] theorem modMem_ring (f : Mems → Mems) (d : Dev) : (modMem f d).ring = d.ring := rfl
@[simp] theorem modMem_cru (f : Mems → Mems) (d : Dev) : (modMem f d).cru = d.cru := rfl
@[simp] theorem modMem_sel (f : Mems → Mems) (d : Dev) : (modMem f d).sel = d.sel := rfl
@[simp] theorem modMem_selFlags (f : Mems → Mems) (d : Dev) : (modMem f d).selFlags = d.selFlags := rfl
@[simp] theorem modMem_mem (f : Mems → Mems) (d : Dev) : (modMem f d).mem = f d.mem := rfl
@[simp] theorem modMem_forge (f : Mems → Mems) (d : Dev) : (modMem f d).forge = d.forge := rfl
@[simp] theorem modMem_adp (f : Mems → Mems) (d : Dev) : (modMem f d).adp = d.adp := rfl
@[simp] theorem modMem_fal (f : Mems → Mems) (d : Dev) : (modMem f d).fal = d.fal := rfl
@[simp] theorem modMem_tel (f : Mems → Mems) (d : Dev) : (modMem f d).tel = d.tel := rfl
@[simp] theorem modMem_hlt (f : Mems → Mems) (d : Dev) : (modMem f d).hlt = d.hlt := rfl
@[simp] theorem modMem_boot (f : Mems → Mems) (d : Dev) : (modMem f d).boot = d.boot := rfl
@[simp] theorem modMem_nv (f : Mems → Mems) (d : Dev) : (modMem f d).nv = d.nv := rfl
@[simp] theorem modMem_free (f : Mems → Mems) (d : Dev) : (modMem f d).free = d.free := rfl
@[simp] theorem modMem_todo (f : Mems → Mems) (d : Dev) : (modMem f d).todo = d.todo := rfl
@[simp] theorem modMem_evt (f : Mems → Mems) (d : Dev) : (modMem f d).evt = d.evt := rfl

@[simp] theorem modAdp_clk (f : Adapters → Adapters) (d : Dev) : (modAdp f d).clk = d.clk := rfl
@[simp] theorem modAdp_regs (f : Adapters → Adapters) (d : Dev) : (modAdp f d).regs = d.regs := rfl
@[simp] theorem modAdp_force (f : Adapters → Adapters) (d : Dev) : (modAdp f d).force = d.force := rfl
@[simp] theorem modAdp_subs (f : Adapters → Adapters) (d : Dev) : (modAdp f d).subs = d.subs := rfl
@[simp] theorem modAdp_tab (f : Adapters → Adapters) (d : Dev) : (modAdp f d).tab = d.tab := rfl
@[simp] theorem modAdp_bpm (f : Adapters → Adapters) (d : Dev) : (modAdp f d).bpm = d.bpm := rfl
@[simp] theorem modAdp_sw (f : Adapters → Adapters) (d : Dev) : (modAdp f d).sw = d.sw := rfl
@[simp] theorem modAdp_ring (f : Adapters → Adapters) (d : Dev) : (modAdp f d).ring = d.ring := rfl
@[simp] theorem modAdp_cru (f : Adapters → Adapters) (d : Dev) : (modAdp f d).cru = d.cru := rfl
@[simp] theorem modAdp_sel (f : Adapters → Adapters) (d : Dev) : (modAdp f d).sel = d.sel := rfl
@[simp] theorem modAdp_selFlags (f : Adapters → Adapters) (d : Dev) : (modAdp f d).selFlags = d.selFlags := rfl
@[simp] theorem modAdp_mem (f : Adapters → Adapters) (d : Dev) : (modAdp f d).mem = d.mem := rfl
@[simp] theorem modAdp_forge (f : Adapters → Adapters) (d : Dev) : (modAdp f d).forge = d.forge := rfl
@[simp] theorem modAdp_adp (f : Adapters → Adapters) (d : Dev) : (modAdp f d).adp = f d.adp := rfl
@[simp] theorem modAdp_fal (f : Adapters → Adapters) (d : Dev) : (modAdp f d).fal = d.fal := rfl
@[simp] theorem modAdp_tel (f : Adapters → Adapters) (d : Dev) : (modAdp f d).tel = d.tel := rfl
@[simp] theorem modAdp_hlt (f : Adapters → Adapters) (d : Dev) : (modAdp f d).hlt = d.hlt := rfl
@[simp] theorem modAdp_boot (f : Adapters → Adapters) (d : Dev) : (modAdp f d).boot = d.boot := rfl
@[simp] theorem modAdp_nv (f : Adapters → Adapters) (d : Dev) : (modAdp f d).nv = d.nv := rfl
@[simp] theorem modAdp_free (f : Adapters → Adapters) (d : Dev) : (modAdp f d).free = d.free := rfl
@[simp] theorem modAdp_todo (f : Adapters → Adapters) (d : Dev) : (modAdp f d).todo = d.todo := rfl
@[simp] theorem modAdp_evt (f : Adapters → Adapters) (d : Dev) : (modAdp f d).evt = d.evt := rfl

@[simp] theorem modSel_clk (f : Tab SelCtx → Tab SelCtx) (d : Dev) : (modSel f d).clk = d.clk := rfl
@[simp] theorem modSel_regs (f : Tab SelCtx → Tab SelCtx) (d : Dev) : (modSel f d).regs = d.regs := rfl
@[simp] theorem modSel_force (f : Tab SelCtx → Tab SelCtx) (d : Dev) : (modSel f d).force = d.force := rfl
@[simp] theorem modSel_subs (f : Tab SelCtx → Tab SelCtx) (d : Dev) : (modSel f d).subs = d.subs := rfl
@[simp] theorem modSel_tab (f : Tab SelCtx → Tab SelCtx) (d : Dev) : (modSel f d).tab = d.tab := rfl
@[simp] theorem modSel_bpm (f : Tab SelCtx → Tab SelCtx) (d : Dev) : (modSel f d).bpm = d.bpm := rfl
@[simp] theorem modSel_sw (f : Tab SelCtx → Tab SelCtx) (d : Dev) : (modSel f d).sw = d.sw := rfl
@[simp] theorem modSel_ring (f : Tab SelCtx → Tab SelCtx) (d : Dev) : (modSel f d).ring = d.ring := rfl
@[simp] theorem modSel_cru (f : Tab SelCtx → Tab SelCtx) (d : Dev) : (modSel f d).cru = d.cru := rfl
@[simp] theorem modSel_sel (f : Tab SelCtx → Tab SelCtx) (d : Dev) : (modSel f d).sel = f d.sel := rfl
@[simp] theorem modSel_selFlags (f : Tab SelCtx → Tab SelCtx) (d : Dev) : (modSel f d).selFlags = d.selFlags := rfl
@[simp] theorem modSel_mem (f : Tab SelCtx → Tab SelCtx) (d : Dev) : (modSel f d).mem = d.mem := rfl
@[simp] theorem modSel_forge (f : Tab SelCtx → Tab SelCtx) (d : Dev) : (modSel f d).forge = d.forge := rfl
@[simp] theorem modSel_adp (f : Tab SelCtx → Tab SelCtx) (d : Dev) : (modSel f d).adp = d.adp := rfl
@[simp] theorem modSel_fal (f : Tab SelCtx → Tab SelCtx) (d : Dev) : (modSel f d).fal = d.fal := rfl
@[simp] theorem modSel_tel (f : Tab SelCtx → Tab SelCtx) (d : Dev) : (modSel f d).tel = d.tel := rfl
@[simp] theorem modSel_hlt (f : Tab SelCtx → Tab SelCtx) (d : Dev) : (modSel f d).hlt = d.hlt := rfl
@[simp] theorem modSel_boot (f : Tab SelCtx → Tab SelCtx) (d : Dev) : (modSel f d).boot = d.boot := rfl
@[simp] theorem modSel_nv (f : Tab SelCtx → Tab SelCtx) (d : Dev) : (modSel f d).nv = d.nv := rfl
@[simp] theorem modSel_free (f : Tab SelCtx → Tab SelCtx) (d : Dev) : (modSel f d).free = d.free := rfl
@[simp] theorem modSel_todo (f : Tab SelCtx → Tab SelCtx) (d : Dev) : (modSel f d).todo = d.todo := rfl
@[simp] theorem modSel_evt (f : Tab SelCtx → Tab SelCtx) (d : Dev) : (modSel f d).evt = d.evt := rfl

@[simp] theorem setSub_clk (lp : Nat) (p : SubPort) (d : Dev) : (setSub lp p d).clk = d.clk := rfl
@[simp] theorem setSub_regs (lp : Nat) (p : SubPort) (d : Dev) : (setSub lp p d).regs = d.regs := rfl
@[simp] theorem setSub_force (lp : Nat) (p : SubPort) (d : Dev) : (setSub lp p d).force = d.force := rfl
@[simp] theorem setSub_subs (lp : Nat) (p : SubPort) (d : Dev) : (setSub lp p d).subs = tput d.subs lp p := rfl
@[simp] theorem setSub_tab (lp : Nat) (p : SubPort) (d : Dev) : (setSub lp p d).tab = d.tab := rfl
@[simp] theorem setSub_bpm (lp : Nat) (p : SubPort) (d : Dev) : (setSub lp p d).bpm = d.bpm := rfl
@[simp] theorem setSub_sw (lp : Nat) (p : SubPort) (d : Dev) : (setSub lp p d).sw = d.sw := rfl
@[simp] theorem setSub_ring (lp : Nat) (p : SubPort) (d : Dev) : (setSub lp p d).ring = d.ring := rfl
@[simp] theorem setSub_cru (lp : Nat) (p : SubPort) (d : Dev) : (setSub lp p d).cru = d.cru := rfl
@[simp] theorem setSub_sel (lp : Nat) (p : SubPort) (d : Dev) : (setSub lp p d).sel = d.sel := rfl
@[simp] theorem setSub_selFlags (lp : Nat) (p : SubPort) (d : Dev) : (setSub lp p d).selFlags = d.selFlags := rfl
@[simp] theorem setSub_mem (lp : Nat) (p : SubPort) (d : Dev) : (setSub lp p d).mem = d.mem := rfl
@[simp] theorem setSub_forge (lp : Nat) (p : SubPort) (d : Dev) : (setSub lp p d).forge = d.forge := rfl
@[simp] theorem setSub_adp (lp : Nat) (p : SubPort) (d : Dev) : (setSub lp p d).adp = d.adp := rfl
@[simp] theorem setSub_fal (lp : Nat) (p : SubPort) (d : Dev) : (setSub lp p d).fal = d.fal := rfl
@[simp] theorem setSub_tel (lp : Nat) (p : SubPort) (d : Dev) : (setSub lp p d).tel = d.tel := rfl
@[simp] theorem setSub_hlt (lp : Nat) (p : SubPort) (d : Dev) : (setSub lp p d).hlt = d.hlt := rfl
@[simp] theorem setSub_boot (lp : Nat) (p : SubPort) (d : Dev) : (setSub lp p d).boot = d.boot := rfl
@[simp] theorem setSub_nv (lp : Nat) (p : SubPort) (d : Dev) : (setSub lp p d).nv = d.nv := rfl
@[simp] theorem setSub_free (lp : Nat) (p : SubPort) (d : Dev) : (setSub lp p d).free = d.free := rfl
@[simp] theorem setSub_todo (lp : Nat) (p : SubPort) (d : Dev) : (setSub lp p d).todo = d.todo := rfl
@[simp] theorem setSub_evt (lp : Nat) (p : SubPort) (d : Dev) : (setSub lp p d).evt = d.evt := rfl

@[simp] theorem putReg_clk (off v : Nat) (d : Dev) : (putReg off v d).clk = d.clk := rfl
@[simp] theorem putReg_regs (off v : Nat) (d : Dev) : (putReg off v d).regs = tput d.regs off v := rfl
@[simp] theorem putReg_force (off v : Nat) (d : Dev) : (putReg off v d).force = d.force := rfl
@[simp] theorem putReg_subs (off v : Nat) (d : Dev) : (putReg off v d).subs = d.subs := rfl
@[simp] theorem putReg_tab (off v : Nat) (d : Dev) : (putReg off v d).tab = d.tab := rfl
@[simp] theorem putReg_bpm (off v : Nat) (d : Dev) : (putReg off v d).bpm = d.bpm := rfl
@[simp] theorem putReg_sw (off v : Nat) (d : Dev) : (putReg off v d).sw = d.sw := rfl
@[simp] theorem putReg_ring (off v : Nat) (d : Dev) : (putReg off v d).ring = d.ring := rfl
@[simp] theorem putReg_cru (off v : Nat) (d : Dev) : (putReg off v d).cru = d.cru := rfl
@[simp] theorem putReg_sel (off v : Nat) (d : Dev) : (putReg off v d).sel = d.sel := rfl
@[simp] theorem putReg_selFlags (off v : Nat) (d : Dev) : (putReg off v d).selFlags = d.selFlags := rfl
@[simp] theorem putReg_mem (off v : Nat) (d : Dev) : (putReg off v d).mem = d.mem := rfl
@[simp] theorem putReg_forge (off v : Nat) (d : Dev) : (putReg off v d).forge = d.forge := rfl
@[simp] theorem putReg_adp (off v : Nat) (d : Dev) : (putReg off v d).adp = d.adp := rfl
@[simp] theorem putReg_fal (off v : Nat) (d : Dev) : (putReg off v d).fal = d.fal := rfl
@[simp] theorem putReg_tel (off v : Nat) (d : Dev) : (putReg off v d).tel = d.tel := rfl
@[simp] theorem putReg_hlt (off v : Nat) (d : Dev) : (putReg off v d).hlt = d.hlt := rfl
@[simp] theorem putReg_boot (off v : Nat) (d : Dev) : (putReg off v d).boot = d.boot := rfl
@[simp] theorem putReg_nv (off v : Nat) (d : Dev) : (putReg off v d).nv = d.nv := rfl
@[simp] theorem putReg_free (off v : Nat) (d : Dev) : (putReg off v d).free = d.free := rfl
@[simp] theorem putReg_todo (off v : Nat) (d : Dev) : (putReg off v d).todo = d.todo := rfl
@[simp] theorem putReg_evt (off v : Nat) (d : Dev) : (putReg off v d).evt = d.evt := rfl

@[simp] theorem defer_clk (t : Todo) (d : Dev) : (defer t d).clk = d.clk := rfl
@[simp] theorem defer_regs (t : Todo) (d : Dev) : (defer t d).regs = d.regs := rfl
@[simp] theorem defer_force (t : Todo) (d : Dev) : (defer t d).force = d.force := rfl
@[simp] theorem defer_subs (t : Todo) (d : Dev) : (defer t d).subs = d.subs := rfl
@[simp] theorem defer_tab (t : Todo) (d : Dev) : (defer t d).tab = d.tab := rfl
@[simp] theorem defer_bpm (t : Todo) (d : Dev) : (defer t d).bpm = d.bpm := rfl
@[simp] theorem defer_sw (t : Todo) (d : Dev) : (defer t d).sw = d.sw := rfl
@[simp] theorem defer_ring (t : Todo) (d : Dev) : (defer t d).ring = d.ring := rfl
@[simp] theorem defer_cru (t : Todo) (d : Dev) : (defer t d).cru = d.cru := rfl
@[simp] theorem defer_sel (t : Todo) (d : Dev) : (defer t d).sel = d.sel := rfl
@[simp] theorem defer_selFlags (t : Todo) (d : Dev) : (defer t d).selFlags = d.selFlags := rfl
@[simp] theorem defer_mem (t : Todo) (d : Dev) : (defer t d).mem = d.mem := rfl
@[simp] theorem defer_forge (t : Todo) (d : Dev) : (defer t d).forge = d.forge := rfl
@[simp] theorem defer_adp (t : Todo) (d : Dev) : (defer t d).adp = d.adp := rfl
@[simp] theorem defer_fal (t : Todo) (d : Dev) : (defer t d).fal = d.fal := rfl
@[simp] theorem defer_tel (t : Todo) (d : Dev) : (defer t d).tel = d.tel := rfl
@[simp] theorem defer_hlt (t : Todo) (d : Dev) : (defer t d).hlt = d.hlt := rfl
@[simp] theorem defer_boot (t : Todo) (d : Dev) : (defer t d).boot = d.boot := rfl
@[simp] theorem defer_nv (t : Todo) (d : Dev) : (defer t d).nv = d.nv := rfl
@[simp] theorem defer_free (t : Todo) (d : Dev) : (defer t d).free = d.free := rfl
@[simp] theorem defer_todo (t : Todo) (d : Dev) : (defer t d).todo = d.todo ++ [t] := rfl
@[simp] theorem defer_evt (t : Todo) (d : Dev) : (defer t d).evt = d.evt := rfl

theorem tget_tput {α : Type} (t : Tab α) (k j : Nat) (a : α) : tget (tput t k a) j = if k = j then some a else tget t j := by
  induction t with
  | nil => simp [tput, tget]
  | cons p t ih =>
    obtain ⟨i, b⟩ := p
    unfold tput
    split
    · simp only [tget]
    · split
      · rename_i h; subst h; simp only [tget]; split <;> rfl
      · simp only [tget, ih]
        split
        · rename_i h1 h2; subst h2
          rw [if_neg h1]
        · rfl

@[simp] theorem tget_tput_self {α : Type} (t : Tab α) (k : Nat) (a : α) : tget (tput t k a) k = some a := by simp [tget_tput]

theorem tget_tput_ne {α : Type} (t : Tab α) (k j : Nat) (a : α) (h : k ≠ j) : tget (tput t k a) j = tget t j := by
  simp [tget_tput, h]

@[simp] theorem tgetD_tput_self {α : Type} (t : Tab α) (k : Nat) (a x : α) : tgetD (tput t k a) k x = a := by simp [tgetD]

theorem tgetD_tput_ne {α : Type} (t : Tab α) (k j : Nat) (a x : α) (h : k ≠ j) : tgetD (tput t k a) j x = tgetD t j x := by
  simp [tgetD, tget_tput_ne _ _ _ _ h]

theorem tget_tdel {α : Type} (t : Tab α) (k j : Nat) : tget (tdel t k) j = if k = j then none else tget t j := by
  induction t with
  | nil => simp [tdel, tget]
  | cons p t ih =>
    obtain ⟨i, b⟩ := p
    unfold tdel
    split
    · rename_i h; subst h
      simp only [tget, ih]; split <;> rfl
    · rename_i h
      simp only [tget, ih]
      split
      · rename_i h1; subst h1
        rw [if_neg (fun x => h x.symm)]
      · rfl

/-- A sub-port written reads back; every other is as it was. -/
@[simp] theorem sub_setSub_self (lp : Nat) (p : SubPort) (d : Dev) : sub (setSub lp p d) lp = p := by simp [sub]
theorem sub_setSub_ne (lp l : Nat) (p : SubPort) (d : Dev) (h : lp ≠ l) : sub (setSub lp p d) l = sub d l := by
  simp [sub, tgetD_tput_ne _ _ _ _ _ h]
@[simp] theorem sub_modSub_self (lp : Nat) (f : SubPort → SubPort) (d : Dev) : sub (modSub lp f d) lp = f (sub d lp) :=
  sub_setSub_self _ _ _
theorem sub_modSub_ne (lp l : Nat) (f : SubPort → SubPort) (d : Dev) (h : lp ≠ l) : sub (modSub lp f d) l = sub d l :=
  sub_setSub_ne _ _ _ _ h

/-- A register written reads back; every other is as it was. -/
@[simp] theorem rg_putReg_self (off v : Nat) (d : Dev) : rg (putReg off v d) off = v := by simp [rg]
theorem rg_putReg_ne (off o v : Nat) (d : Dev) (h : off ≠ o) : rg (putReg off v d) o = rg d o := by
  simp [rg, tgetD_tput_ne _ _ _ _ _ h]

end Sys2Proof.Machine
end

