-- ==== Sys2Proof/Laws/Frames.lean ====
section
/-! SUPPORT. What each shared operation can change, said once: counters, messages, events, completions, acceptance, scores. -/

namespace Sys2Proof.Machine

/-- With every counter of the block off, counting does nothing. -/
theorem count_off (b ev n : Nat) (a : Attr) (d : Dev) (h : rg d (oPmon b + 8) = 0) : count b ev n a d = d := by
  unfold count each
  generalize List.range 8 = l
  induction l with
  | nil => rfl
  | cons i l ih =>
    rw [List.foldl_cons]
    beta_reduce
    rw [h, Nat.zero_testBit, Bool.false_and, Bool.false_and, if_neg Bool.false_ne_true]
    exact ih

/-- Counting changes counter registers and the list of wraps, nothing else. -/
theorem count_only (b ev n : Nat) (a : Attr) (d : Dev) : ∃ r t, count b ev n a d = { d with regs := r, tel := t } := by
  unfold count
  have : ∀ (l : List Nat) (d : Dev), ∃ r t, each l (fun i d =>
      if (rg d (oPmon b + 8)).testBit i && !freshSet d (oPmon b + 0x40 + 8 * i) 0 && selMatch d b ev (rg d (oPmon b + 0x80 + 8 * i)) a then
        let c := rg d (oPmon b + 0x40 + 8 * i) + n
        let d := putReg (oPmon b + 0x40 + 8 * i) (c % 2 ^ 48) d
        if c < 2 ^ 48 then d
        else modTel (fun t => { t with wraps := t.wraps ++ [(b, i, attrStream b a)] }) d
      else d) d = { d with regs := r, tel := t } := by
    intro l
    induction l with
    | nil => intro d; exact ⟨_, _, rfl⟩
    | cons i l ih =>
      intro d
      show ∃ r t, each l _ _ = _
      dsimp only
      split
      · split
        · obtain ⟨r, t, h⟩ := ih (putReg (oPmon b + 0x40 + 8 * i) ((rg d (oPmon b + 0x40 + 8 * i) + n) % 2 ^ 48) d)
          exact ⟨r, t, h⟩
        · obtain ⟨r, t, h⟩ := ih (modTel (fun t => { t with wraps := t.wraps ++ [(b, i, attrStream b a)] })
            (putReg (oPmon b + 0x40 + 8 * i) ((rg d (oPmon b + 0x40 + 8 * i) + n) % 2 ^ 48) d))
          exact ⟨r, t, h⟩
      · exact ih d
  exact this _ d

/-- Two devices that differ in their rings and host memory only. -/
def RingOnly (d d' : Dev) : Prop := ∃ r, d' = { d with ring := r }

/-- Two devices that differ in registers, counters, rings and host memory only. -/
def HostOnly (d d' : Dev) : Prop := ∃ g t r, d' = { d with regs := g, tel := t, ring := r }

theorem RingOnly.then {a b c : Dev} (h : RingOnly a b) (k : RingOnly b c) : RingOnly a c := by
  obtain ⟨r, rfl⟩ := h
  obtain ⟨x, rfl⟩ := k
  exact ⟨x, rfl⟩

theorem HostOnly.then {a b c : Dev} (h : HostOnly a b) (k : HostOnly b c) : HostOnly a c := by
  obtain ⟨g, t, r, rfl⟩ := h
  obtain ⟨g', t', x, rfl⟩ := k
  exact ⟨g', t', x, rfl⟩

theorem RingOnly.host {a b : Dev} (h : RingOnly a b) : HostOnly a b := by
  obtain ⟨r, rfl⟩ := h
  exact ⟨a.regs, a.tel, r, rfl⟩

theorem HostOnly.rfl' (d : Dev) : HostOnly d d := ⟨d.regs, d.tel, d.ring, rfl⟩

theorem modRing_only (f : Rings → Rings) (d : Dev) : RingOnly d (modRing f d) := ⟨f d.ring, rfl⟩
theorem hostWrite_only (a : Nat) (b : Bytes) (d : Dev) : RingOnly d (hostWrite a b d) := modRing_only _ d
theorem modSq_only (q : Nat) (f : Sq → Sq) (d : Dev) : RingOnly d (modSq q f d) := modRing_only _ d
theorem modCq_only (q : Nat) (f : Ring → Ring) (d : Dev) : RingOnly d (modCq q f d) := modRing_only _ d
theorem modEq_only (f : Ring → Ring) (d : Dev) : RingOnly d (modEq f d) := modRing_only _ d

theorem count_host (b ev n : Nat) (a : Attr) (d : Dev) : HostOnly d (count b ev n a d) := by
  obtain ⟨r, t, h⟩ := count_only b ev n a d
  exact ⟨r, t, d.ring, h⟩

theorem sendMsix_only (v : Nat) (d : Dev) : RingOnly d (sendMsix v d) := by
  unfold sendMsix
  split <;> exact modRing_only _ _

theorem writeEq_only (e : Event) (d : Dev) : RingOnly d (writeEq e d) := by
  unfold writeEq
  dsimp only
  split
  · exact modEq_only _ _
  · split
    · exact (((hostWrite_only _ _ d).then (modEq_only _ _)).then (modEq_only _ _)).then (sendMsix_only _ _)
    · exact (hostWrite_only _ _ d).then (modEq_only _ _)

/-- An event changes the rings and host memory only. -/
theorem postEvent_only (code : Nat) (data : Bytes) (d : Dev) : RingOnly d (postEvent code data d) := by
  unfold postEvent
  dsimp only
  split
  · exact modRing_only _ _
  · split
    · exact writeEq_only _ _
    · exact modEq_only _ _

theorem writeCq_only (c : Nat) (e : Bytes) (d : Dev) : HostOnly d (writeCq c e d) := by
  have h := (((hostWrite_only (fld d (0x20800 + 0x20 * c) 6 58 * 64 + 16 * ((cq d c).wr % cqDepth d c))
    (withPhase e (phaseOf (cqDepth d c) (cq d c).wr)) d).then (modCq_only c (fun r => { r with wr := r.wr + 1 }) _)).host).then
    (count_host 17 2 1 { masters := [mSq (byteAt e 14 % 64)], priv := some 1 } _)
  unfold writeCq
  dsimp only
  split
  · exact (h.then (modCq_only _ _ _).host).then (sendMsix_only _ _).host
  · exact h

theorem sqSettle_only (q : Nat) (d : Dev) : HostOnly d (sqSettle q d) := by
  unfold sqSettle
  split
  · exact (modSq_only _ _ d).host
  · exact HostOnly.rfl' d

/-- A completion of a ring's command changes the rings, host memory and counters only. -/
theorem complete_sq_only (q : Nat) (e : Bytes) (st de r : Nat) (d : Dev) : HostOnly d (complete (sqCmd q e) st de r d) := by
  unfold complete
  dsimp only [sqCmd]
  have h := modSq_only q (fun s =>
    { s with busy := s.busy.erase (tagOf e), window := ((tagOf e, st, de, r % 2 ^ 32) :: s.window).take 4096 }) d
  refine HostOnly.then ?_ (sqSettle_only _ _)
  split
  · exact ((h.then (modCq_only _ _ _)).host).then (writeCq_only _ _ _)
  · exact (h.then (modCq_only _ _ _)).host

/-- Acceptance of a ring's command changes the rings, host memory and counters only. -/
theorem accept_sq_only (q : Nat) (e : Bytes) (d : Dev) : HostOnly d (accept (sqCmd q e) d) := by
  have h := (((modSq_only q (fun s =>
      { s with head := (s.head + 1) % sqDepth d q, waiting := none, busy := tagOf e :: s.busy }) d).then
      (modCq_only (cqOf d q) (fun r => { r with reserved := r.reserved + 1 }) _)).host).then
    (count_host 17 1 1 { masters := [mSq q], priv := some 1 } _)
  unfold accept
  dsimp only [sqCmd] at *
  exact h.then (hostWrite_only _ _ _).host

end Sys2Proof.Machine
end

