-- ==== Sys2Proof/Laws/Memory.lean ====
section
/-! SUPPORT. Memory: a read after a write, every operation keeps the canonical form, and the memories of the reset state have it. -/

namespace Sys2Proof.Machine

theorem cellGet_put (l : List Host.Cell) (k a : Nat) (b : Byte) : cellGet (cellPut l k b) a = if a = k then some b else cellGet l a := by
  induction l with
  | nil => simp only [cellPut, cellGet, eq_comm (a := k)]
  | cons p t ih =>
    obtain ⟨j, x⟩ := p
    unfold cellPut
    split
    · simp only [cellGet, eq_comm (a := k)]
    · split
      · rename_i hk
        subst hk
        simp only [cellGet]
        split <;> split <;> first | rfl | omega
      · simp only [cellGet, ih]
        split <;> split <;> first | rfl | omega

theorem cellGet_del (l : List Host.Cell) (k a : Nat) : cellGet (cellDel l k) a = if a = k then none else cellGet l a := by
  induction l with
  | nil => simp [cellDel, cellGet]
  | cons p t ih =>
    obtain ⟨j, x⟩ := p
    unfold cellDel
    split
    · rename_i hk
      subst hk
      rw [ih]
      simp only [cellGet]
      split <;> simp_all [eq_comm]
    · simp only [cellGet, ih]
      split <;> split <;> first | rfl | omega

/-- A read after a write of one byte: the byte at its address, and every other place as it was. -/
theorem memRead_memWrite (m : Memory) (k a : Nat) (b : Byte) : memRead (memWrite m k b) a = if a = k then b else memRead m a := by
  unfold memWrite
  split
  · rename_i hb
    simp only [memRead, cellGet_del]
    split
    · rename_i ha
      subst ha
      exact hb.symm
    · rfl
  · simp only [memRead, cellGet_put]
    split <;> rfl

/-- A write of a string leaves every place outside it alone. -/
theorem memRead_memWriteN_out (m : Memory) (k a : Nat) (l : Bytes) (h : a < k ∨ k + l.length ≤ a) :
    memRead (memWriteN m k l) a = memRead m a := by
  induction l generalizing m k with
  | nil => rfl
  | cons b t ih =>
    simp only [List.length_cons] at h
    rw [memWriteN, ih _ _ (by omega), memRead_memWrite, if_neg (by omega)]

/-- A string written is what its addresses read. -/
theorem memRead_memWriteN (m : Memory) (k i : Nat) (l : Bytes) (h : i < l.length) : memRead (memWriteN m k l) (k + i) = l[i] := by
  induction l generalizing m k i with
  | nil => simp at h
  | cons b t ih =>
    rw [memWriteN]
    cases i with
    | zero => rw [memRead_memWriteN_out _ _ _ _ (by omega), memRead_memWrite, Nat.add_zero, if_pos rfl]; rfl
    | succ i =>
      have := ih (memWrite m k b) (k + 1) i (by simpa using h)
      rw [show k + (i + 1) = k + 1 + i by omega, this]
      rfl

theorem memReadN_memWriteN (m : Memory) (k : Nat) (l : Bytes) : memReadN (memWriteN m k l) k l.length = l := by
  refine List.ext_getElem (by simp [memReadN]) fun i h1 h2 => ?_
  simp only [memReadN, List.getElem_map, List.getElem_range]
  exact memRead_memWriteN m k i l h2

theorem memReadN_memWriteN_out (m : Memory) (k a n : Nat) (l : Bytes) (h : a + n ≤ k ∨ k + l.length ≤ a) :
    memReadN (memWriteN m k l) a n = memReadN m a n := by
  refine List.map_congr_left fun i hi => memRead_memWriteN_out _ _ _ _ ?_
  have := List.mem_range.mp hi
  omega

theorem cellsRise_mono (l : List Host.Cell) (lo hi : Nat) (h : lo ≤ hi) (r : cellsRise hi l = true) : cellsRise lo l = true := by
  cases l with
  | nil => rfl
  | cons p t =>
    obtain ⟨a, b⟩ := p
    simp only [cellsRise, Bool.and_eq_true, decide_eq_true_eq] at r ⊢
    exact ⟨h.trans r.1, r.2⟩

theorem cellsRise_put (l : List Host.Cell) (lo k : Nat) (b : Byte) (h : lo ≤ k) (r : cellsRise lo l = true) :
    cellsRise lo (cellPut l k b) = true := by
  induction l generalizing lo with
  | nil => simp [cellPut, cellsRise, h]
  | cons p t ih =>
    obtain ⟨a, x⟩ := p
    simp only [cellsRise, Bool.and_eq_true, decide_eq_true_eq] at r
    unfold cellPut
    split
    · rename_i hk
      simp only [cellsRise, Bool.and_eq_true, decide_eq_true_eq]
      exact ⟨h, by omega, r.2⟩
    · split
      · rename_i hk
        subst hk
        simp only [cellsRise, Bool.and_eq_true, decide_eq_true_eq]
        exact ⟨h, r.2⟩
      · simp only [cellsRise, Bool.and_eq_true, decide_eq_true_eq]
        exact ⟨r.1, ih (a + 1) (by omega) r.2⟩

theorem cellsRise_del (l : List Host.Cell) (lo k : Nat) (r : cellsRise lo l = true) : cellsRise lo (cellDel l k) = true := by
  induction l generalizing lo with
  | nil => rfl
  | cons p t ih =>
    obtain ⟨a, x⟩ := p
    simp only [cellsRise, Bool.and_eq_true, decide_eq_true_eq] at r
    unfold cellDel
    split
    · exact cellsRise_mono _ lo (a + 1) (by omega) (ih (a + 1) r.2)
    · simp only [cellsRise, Bool.and_eq_true, decide_eq_true_eq]
      exact ⟨r.1, ih (a + 1) r.2⟩

theorem cellPut_mem (l : List Host.Cell) (k : Nat) (b : Byte) (p : Host.Cell) (h : p ∈ cellPut l k b) : p ∈ l ∨ p = (k, b) := by
  induction l with
  | nil => simpa [cellPut] using h
  | cons q t ih =>
    obtain ⟨a, x⟩ := q
    unfold cellPut at h
    split at h
    · simp only [List.mem_cons] at h ⊢; tauto
    · split at h
      · simp only [List.mem_cons] at h ⊢; tauto
      · simp only [List.mem_cons] at h ⊢
        rcases h with h | h
        · exact .inl (.inl h)
        · rcases ih h with h | h
          · exact .inl (.inr h)
          · exact .inr h

theorem cellDel_mem (l : List Host.Cell) (k : Nat) (p : Host.Cell) (h : p ∈ cellDel l k) : p ∈ l := by
  induction l with
  | nil => simp [cellDel] at h
  | cons q t ih =>
    obtain ⟨a, x⟩ := q
    unfold cellDel at h
    split at h
    · exact List.mem_cons_of_mem _ (ih h)
    · simp only [List.mem_cons] at h ⊢
      rcases h with h | h
      · exact .inl h
      · exact .inr (ih h)

/-- One byte written keeps the form. -/
theorem memWrite_wf (m : Memory) (a : Nat) (b : Byte) (h : m.wf = true) : (memWrite m a b).wf = true := by
  simp only [Memory.wf, Bool.and_eq_true, List.all_eq_true, decide_eq_true_eq] at h ⊢
  unfold memWrite
  split
  · exact ⟨cellsRise_del _ _ _ h.1, fun p hp => h.2 p (cellDel_mem _ _ _ hp)⟩
  · rename_i hb
    refine ⟨cellsRise_put _ _ _ _ (Nat.zero_le _) h.1, fun p hp => ?_⟩
    rcases cellPut_mem _ _ _ _ hp with h' | h'
    · exact h.2 p h'
    · subst h'; exact hb

/-- A string of bytes written keeps the form. -/
theorem memWriteN_wf (m : Memory) (a : Nat) (l : Bytes) (h : m.wf = true) : (memWriteN m a l).wf = true := by
  induction l generalizing m a with
  | nil => exact h
  | cons b t ih => exact ih _ _ (memWrite_wf _ _ _ h)

/-- The host's own stores keep the form. -/
theorem memImage_wf (m : Memory) (l : List (Nat × Byte)) (h : m.wf = true) : (memImage m l).wf = true := by
  induction l generalizing m with
  | nil => exact h
  | cons p t ih => exact ih _ (memWrite_wf _ _ _ h)

/-- Contents that become undefined list nothing. -/
theorem memUndef_wf (m : Memory) : (memUndef m).wf = true := rfl

theorem memNew_wf (space : Nat) : (memNew space).wf = true := rfl

/-- The memories of the reset state: the host's, the management core's, GDDR7, and the memories of the Forges, which list nothing. -/
theorem reset_memories_wf : State.reset.dev.ring.mem.wf = true ∧ State.reset.dev.tel.mgmt.wf = true
    ∧ State.reset.dev.mem.devs = [] ∧ State.reset.dev.forge.f = [] := by
  exact ⟨rfl, rfl, rfl, rfl⟩

end Sys2Proof.Machine
end

