-- ==== Sys2Proof/Tests/Slice0.lean ====
section
/-! SUPPORT. Tests: ill-formed commands, a witness of the hypotheses of every statement, and single steps with results from the spec. -/

open Sys2Proof Sys2Proof.Machine

/-- A submission ring is one of 64 (Table 14.1), and an entry has 64 bytes. -/
theorem test_ill_formed_entry_1 : ([.send, .recvPost, .read, .write, .collCreate, .collJoin, .collAbort, .selectOpen, .selectClose,
    .task, .imemLoad, .imemSwap, .adapterStep, .adapterClear, .biasFlipDevice, .biasFlipHost, .eptSet, .eptClear, .pathSetWrite,
    .pathSetMarkDown, .pathSetMarkUp, .pathSetClear, .mcastSetWrite, .mcastSetClear, .furrowSetPrepare] : List (Nat → Bytes →
    Instr)).all
    (fun c => !wellFormed (c 64 (List.replicate 64 0)) && !wellFormed (c 0 []) && wellFormed (c 63 (List.replicate 64 0))) = true := by
    decide

/-- A submission ring is one of 64 (Table 14.1), and an entry has 64 bytes. -/
theorem test_ill_formed_entry_2 : ([.furrowSetCommit, .furrowClear, .budgetSetWrite, .budgetSetClear, .imgRead, .imgCommit, .imgDelete,
    .fence, .nop, .memberSetFence, .memberSetUnfence, .memberSetForget, .memberSetReady, .selftest, .recoverPort, .recoverForge,
    .recoverBank, .recoverUnit, .recoverRestore, .recoverCopy, .recoverRejoin, .calWriteCalibration, .calWriteFirmware,
    .calWriteFuseAction, .calWriteDebugUnlock] : List (Nat → Bytes → Instr)).all
    (fun c => !wellFormed (c 64 (List.replicate 64 0)) && !wellFormed (c 0 []) && wellFormed (c 63 (List.replicate 64 0))) = true := by
    decide

/-- A Forge is one of 16 and a stream one of 6 (R245, R246). -/
theorem test_ill_formed_stream_1 : ([.forgeCommandStart, .forgeCommandEnd, .commandOverrun, .semaphoreWaitSatisfied, .nopInstruction,
    .endInstr, .rep, .br, .movi, .add, .sub, .andS, .orS, .xorS, .shl, .shr, .sra, .setc, .aset, .aadd, .astr, .aget, .lds, .sts, .post,
    .wait, .enq, .qd] : List (Nat → Nat → Nat → Instr)).all
    (fun c => !wellFormed (c 16 0 0) && !wellFormed (c 0 6 0) && wellFormed (c 15 5 0)) = true := by decide

/-- A Forge is one of 16 and a stream one of 6 (R245, R246). -/
theorem test_ill_formed_stream_2 : ([.id, .flg, .vld, .vst, .vbc, .vadd, .vsub, .vmul, .vfma, .viadd, .visub, .vimin, .vimax, .vicmp,
    .vcvt, .vand, .vor, .vxor, .vsel, .mov, .wld, .rdr, .sendInstruction, .tld, .mma, .tnorm, .tsmax, .tnormb, .tsmaxb] : List (Nat →
    Nat → Nat → Instr)).all
    (fun c => !wellFormed (c 16 0 0) && !wellFormed (c 0 6 0) && wellFormed (c 15 5 0)) = true := by decide

/-- A sub-port is one of 256 (R93). -/
theorem test_ill_formed_subport : ([.swathAlignLost, .neighbourUnreachable, .holdExpiry, .portTrained, .linkSignalLoss, .replayRepeat,
    .unitOpportunity] : List (Nat → Instr)).all
    (fun c => !wellFormed (c 256) && wellFormed (c 255)) = true := by decide

/-- The other ill-formed operands of links, ports, buffers and the edge: a value past each end is refused, the last one is not. -/
theorem test_ill_formed_link :
    ([.moduleReset 0, .moduleReset 4, .cxlLinkUp 3 1 true, .cxlLinkUp 16 0 true, .cxlLinkUp 16 6 true, .bankRefresh 16 0, .bankRefresh 0 16,
      .markerReceive 256 0 [], .portEnable 64 0, .portDisable 64 0, .fecUncorrectable 256 none, .fecUncorrectable 0 (some 512),
      .cellUnitReceive 256 [], .idleAdaptUnitReceive 256 [], .replayReceive 256 [], .creditLend 256 0, .creditLend 0 5,
      .bufferLendRetry 63 0, .bufferLendRetry 87 0, .bufferLendRetry 64 5, .edgeFrameReceive 256 [], .pfcRepeat 256 0, .pfcRepeat 0 8,
      .pfcFrameReceive 256 [], .pfcPauseExpiry 256 0, .pfcPauseExpiry 0 8] : List Instr).all (fun c => !wellFormed c) = true
    ∧ ([.moduleReset 1, .moduleReset 3, .cxlLinkUp 16 5 true, .bankRefresh 15 15, .markerReceive 255 0 [], .portEnable 63 0, .portDisable 63 0,
      .fecUncorrectable 255 (some 511), .creditLend 255 4, .bufferLendRetry 64 0, .bufferLendRetry 86 4, .pfcRepeat 255 7,
      .pfcPauseExpiry 255 7] : List Instr).all wellFormed = true := by decide

/-- The other ill-formed operands of rings, tables, Forges, memory, health and registers. -/
theorem test_ill_formed_units :
    ([.sqTailDoorbell 64 0 [], .cqHeadDoorbell 64 0, .watchedTailSnoop 64 0 [], .watchedTailPoll 64, .sqEntryAccept 64, .ringEnable 129 0,
      .sqDisable 64 0, .imemSwapApply 16, .updateApplyStart 4096 [], .updateApplyDone 4096, .selectWorkItem 1024, .combWaitTimeout 1024,
      .dispatchInboxReserve 16, .dispatchEnqueueRetry 16, .frameSenderPost 16 0, .forgeQsemWrite 16 0 0, .forgeQsemWrite 0 32 0,
      .forgeGsemWrite 64 0, .forgeBindWrite 16 0 0 0, .forgeBindWrite 0 256 0 0, .forgeBindWrite 0 0 4 0, .forgeDbgResume 16 0,
      .patrolScrubRead 16 [], .remapCopyDone 16 0 [], .remapCopyDone 0 1024 [], .hdmDecoderCommit 0 0 16,
      .suspectHourlyTest 10 0, .selftestRun 10 0, .selftestDone 10 0 true [], .counterWrap 0 0, .counterWrap 21 0, .counterWrap 1 8,
      .pmonEnWrite 0 0, .pmonEnWrite 21 0, .pmonCntWrite 0 0 0, .pmonCntWrite 21 0 0, .pmonCntWrite 1 8 0,
      .registerWrite (2 ^ 24 + 2 ^ 14) [0] 0] : List Instr).all (fun c => !wellFormed c) = true
    ∧ ([.sqTailDoorbell 63 0 [], .cqHeadDoorbell 63 0, .ringEnable 128 0, .imemSwapApply 15, .updateApplyStart 4095 [], .selectWorkItem 1023,
      .forgeQsemWrite 15 31 0, .forgeGsemWrite 63 0, .forgeBindWrite 15 255 3 0, .patrolScrubRead 15 [], .remapCopyDone 15 1023 [],
      .hdmDecoderCommit 0 0 15, .suspectHourlyTest 9 0, .counterWrap 1 0, .counterWrap 20 7, .pmonCntWrite 20 7 0,
      .registerWrite (2 ^ 24 + 2 ^ 14 - 4) (List.replicate 4 0) 0] : List Instr).all wellFormed = true := by decide

/-- Memory errors name a codeword of one of sixteen devices (R329, R331), flash reads one of a page's eight codewords (R352) and at most
fifteen rereads (R349). -/
theorem test_ill_formed_errors :
    ([(.adapterDefine 0 (List.replicate 64 0) ·), (.imgWrite 0 (List.replicate 64 0) ·), (.checkpoint 0 (List.replicate 64 0) ·), (.updateApplyStart 0 ·),
      (.lunOperationStart 0 · []), (.moverComplete 0 0 0 ·), (.forgeReadReq ·), (.forgeWriteFrame ·), (.forgeReadRsp ·), (.collResultMemberArrive ·),
      .patrolScrubRead 0, (.remapCopyDone 0 0 ·), (.cxlMemRead 0 ·), (.cxlMemWrite 0 [] ·)] : List (List MemErr → Instr)).all
      (fun c => !wellFormed (c [⟨16, 0, 0, 0⟩]) && !wellFormed (c [⟨0, 32 * 5592405, 0, 0⟩]) && wellFormed (c [⟨15, 0, 3, 2⟩])) = true
    ∧ ([(.lunOperationStart 0 [] ·), .retentionPatrol 0 0, (.relocation 0 ·)] : List (List NandErr → Instr)).all
      (fun c => !wellFormed (c [⟨0, 8, [none]⟩]) && !wellFormed (c [⟨0, 0, []⟩]) && !wellFormed (c [⟨0, 0, List.replicate 17 none⟩])
        && wellFormed (c [⟨0, 7, [none, some 3]⟩])) = true := by decide

/-! ### Witnesses: one theorem `test_meets_<Name>` for each statement, each clause's hypotheses at a small device. -/

set_option Elab.async false

/-- A device at the end of start-up. -/
def dUp : Dev :=
  { devReset with boot := { bootZero with perst := true, stage := 8, step6 := true, step7 := true, doneSent := true } }
/-- The state of a device, no command waiting. -/
def stOf (d : Dev) : State := { dev := d, pending := [] }
/-- A short retirement log fits. -/
theorem logFits_of {d : Dev} (h : d.nv.log.length ≤ 1088) : d.logFits := fun _ => (List.length_filter_le _ _).trans h
/-- A 64-byte entry: opcode, mode, and fields (offset, bytes, value). -/
def ent (op mode : Nat) (fs : List (Nat × Nat × Nat)) : Bytes :=
  fs.foldl (fun b f => overlay b f.1 (toLE f.2.1 f.2.2)) (toLE 1 op ++ zeros 1 ++ toLE 1 mode ++ zeros 61)
/-- `d` with entry `e` next in SQ 0, 16 entries at host address 4096, whose completions go to CQ 1 at 8192. -/
def withEntry (e : Bytes) (d : Dev) : Dev :=
  hostWrite 4096 e (modSq 0 (fun s => { s with tail := 1 })
    (putReg 0x20000 4096 (putReg (oSqCtl 0) (4 + 32 + 2 ^ 11) (putReg 0x20820 8192 (putReg (oCqCtl 1) (4 + 2 ^ 12) d)))))
/-- A result that does not wait. -/
def goesOn (r : Res) : Bool :=
  match r with
  | .wait _ => false
  | _ => true
theorem begins_of {d : Dev} {q : Nat} {e : Bytes} (f : Cmd → Bytes → Dev → Res) (hr : d.entryReady q e)
    (hf : cmdOf (opOf e) (modeOf e) = some f) (hw : goesOn (f (sqCmd q e) e d) = true) : d.begins q e (d.accepted q e) := by
  refine ⟨hr, rfl, fun g x hg h => ?_⟩
  rw [hf] at hg
  obtain rfl := Option.some.inj hg
  rw [h] at hw
  exact Bool.noConfusion hw
/-- Port 1 runs the Ollet Link and port 2 Ethernet, both in SERVICE. -/
def dLink : Dev :=
  { dUp with
    regs := [(oPortCfg 1, 1), (oPortCfg 2, 3)],
    subs := [(4, { subZero with state := .service, served := true, lock := true, lanes := 8 }),
             (8, { subZero with state := .service, served := true, lock := true, lanes := 8 })] }
theorem retries_of {d : Dev} {q : Nat} {e : Bytes} (f : Cmd → Bytes → Dev → Res)
    (hr : q < 64 ∧ e.length = 64 ∧ sqOn d q = true ∧ (sq d q).waiting = some e ∧ frameWaits d q = false
      ∧ cqFree d (cqOf d q) = true ∧ d.boot.recovery = false ∧ isSlow (sqCmd q e) d = false)
    (hf : cmdOf (opOf e) (modeOf e) = some f) (hw : goesOn (f (sqCmd q e) e d) = true) : d.retries q e (d.accepted q e) := by
  have hu : unslow (sqCmd q e) d = d := by rw [unslow, hr.2.2.2.2.2.2.2]; rfl
  refine ⟨hr.1, hr.2.1, hr.2.2.1, hr.2.2.2.1, hr.2.2.2.2.1, hr.2.2.2.2.2.1, hr.2.2.2.2.2.2.1, ?_, by rw [hu], fun g x hg h => ?_⟩
  · rw [hr.2.2.2.2.2.2.2]; exact fun h => Bool.noConfusion h
  rw [hu] at h
  rw [hf] at hg
  obtain rfl := Option.some.inj hg
  rw [h] at hw
  exact Bool.noConfusion hw
/-- `d` with entry `e` waiting at the head of SQ 0. -/
def withWaiting (e : Bytes) (d : Dev) : Dev := modSq 0 (fun s => { s with waiting := some e }) (withEntry e d)

/-- A buffer as a port fills it. -/
def bufM (dl swc : Nat) : Buf :=
  { hdr := mkHdr (zeros 16) 3 2 true true 3 9 8 dl 0 16 false 0, pay := zeros 512, owner := none, spill := false, cell := none, swc := swc, refs := 1, resv := none }
/-- Ports of the Ollet Link with credit, and requests of inputs 0, 3, 70 and 87. -/
def dMat : Dev :=
  { dLink with
    bpm := { bpmZero with bufs := (List.range 8).map fun i => (i, bufM (7 * i % 5) (i % 2)) }
    subs := (List.range 12).map fun p =>
      (4 * p, { subZero with state := .service, served := true, lock := true, lanes := 8, link := { linkZero with known := (List.range 5).map fun v => (v, 1000) } })
    sw := { switchZero with
      grant := [(1, 3)], accept := [(0, 87)]
      voq := [(0, 1, 2, 4), (3, 1, 3, 4), (3, 5, 2, 20), (70, 7, 0, 28), (87, 9, 1, 36)].map fun k =>
        (voqKey k.1 k.2.1 k.2.2.1, [{ rid := k.1 / 16, buf := k.1 / 16, tgt := .fabric k.2.2.2, committed := false }]) } }
/-- The matching of `MatchingIsValid` is not always empty. -/
theorem test_meets_MatchingIsValid : (requests dMat).length = 5 ∧ (matching 5 dMat).pairs.length = 3 := by decide +kernel
/-- A read-write field of SWC_LEN in range of the first clause of `RegisterFields`, and at a value the second clause is about. -/
theorem test_meets_RegisterFields :
    (∃ r f, regOf 0x40000 = some r ∧ f ∈ r.flds ∧ f.acc = .rw ∧ f.ok (bits 0x8000 f.lo f.w) = true)
    ∧ (∃ r f, regOf 0x40000 = some r ∧ f ∈ r.flds ∧ f.acc = .rw ∧ f.ok (bits 0x8001 f.lo f.w) = false)
    ∧ (∃ r f, regOf 0x40000 = some r ∧ f ∈ r.flds ∧ f.acc ≠ .rw ∧ f.acc ≠ .w1c)
    ∧ ∃ r f, regOf 0x40018 = some r ∧ f ∈ r.flds ∧ f.acc = .w1c ∧ (2 ^ f.lo).testBit f.lo = true :=
  ⟨⟨_, _, rfl, List.mem_cons_self, rfl, rfl⟩, ⟨_, _, rfl, List.mem_cons_self, rfl, rfl⟩,
   ⟨_, _, rfl, List.mem_cons_of_mem _ List.mem_cons_self, by decide, by decide⟩,
   ⟨_, _, rfl, List.mem_cons_of_mem _ (List.mem_cons_of_mem _ List.mem_cons_self), rfl, by decide⟩⟩
/-- Meets the hypotheses of `EveryCommandAnswers`. -/
theorem test_meets_EveryCommandAnswers :
    (let c : Instr := .swathBoundary
    wellFormed c = true)
    ∧ (let c : Instr := .bankRefresh 16 0
    wellFormed c = false) := by
  refine ⟨?_, ?_⟩
  · dsimp only; decide +kernel
  · dsimp only; decide +kernel

/-- Meets the hypotheses of `StepLeavesNoWork`. -/
theorem test_meets_StepLeavesNoWork :
    (let s : State := { dev := { dUp with clk := { clockZero with swc := 5 } }, pending := [.swathBoundary] }
    s.dev.todo = []) := by
  dsimp only; decide +kernel

/-- Meets the hypotheses of `SwathLength`. -/
theorem test_meets_SwathLength :
    (let d : Dev := dUp
    midpoint d = 0)
    ∧ (let d : Dev := { dLink with subs := [(4, { subZero with state := .service, served := true, lock := true, lanes := 8, theta := some 5 })] }
    1 ≤ midpoint d)
    ∧ (let d : Dev := { dLink with subs := [(4, { subZero with state := .service, served := true, lock := true, lanes := 8, theta := some (-5) })] }
    midpoint d ≤ -1) := by
  refine ⟨?_, ?_, ?_⟩
  · dsimp only; decide +kernel
  · dsimp only; decide +kernel
  · dsimp only; decide +kernel

/-- Meets the hypotheses of `NotOnIsInert`. -/
theorem test_meets_NotOnIsInert :
    (let c : Instr := .glbResetModule 0
    let s : State := stOf { dUp with boot := { dUp.boot with power := .tripped } }
    s.dev.boot.power ≠ .on ∧ wellFormed c = true ∧ c ≠ .inputPowerRise ∧ c ≠ .inputPowerLoss ∧ c ≠ .tripExit) := by
  dsimp only; decide +kernel

def dWarn (armed : Bool) : Dev := { dUp with boot := { dUp.boot with warnArmed := armed } }

/-- Meets the hypotheses of `PowerAndHeat`. -/
theorem test_meets_PowerAndHeat :
    (let s : State := stOf { dUp with boot := { dUp.boot with power := .off } }
    s.dev.boot.power = .off)
    ∧ (let s : State := stOf dUp
    s.dev.boot.power = .on ∨ s.dev.boot.power = .sequencing)
    ∧ (let s : State := stOf dUp
    let temps : List Int := [0, 1760]
    s.dev.boot.power ≠ .off ∧ 1 < 16 ∧ 16 * 110 ≤ temps.getD 1 0 + diodeOffset s.dev 1)
    ∧ (let s : State := stOf { dUp with boot := { dUp.boot with power := .tripped } }
    s.dev.boot.power = .tripped)
    ∧ (let s : State := stOf { dUp with boot := { dUp.boot with power := .sequencing } }
    s.dev.boot.power = .sequencing)
    ∧ (let s : State := stOf (dWarn true)
    let temps : List Int := [0, 1600, 5]
    let i := 1
    let t : Int := 1600
    s.live ∧ i < 16 ∧ t = temps.getD i 0 + diodeOffset s.dev i ∧ (∀ j, j < 16 → temps.getD j 0 + diodeOffset s.dev j ≤ t) ∧ (∀ j, j < i → temps.getD j 0 + diodeOffset s.dev j < t) ∧ 1600 ≤ t ∧ s.dev.boot.warnArmed = true)
    ∧ (let s : State := stOf (dWarn false)
    let temps : List Int := [1520, 1519]
    let i := 0
    let t : Int := 1520
    s.live ∧ i < 16 ∧ t = temps.getD i 0 + diodeOffset s.dev i ∧ (∀ j, j < 16 → temps.getD j 0 + diodeOffset s.dev j ≤ t) ∧ (∀ j, j < i → temps.getD j 0 + diodeOffset s.dev j < t) ∧ 1520 ≤ t ∧ s.dev.boot.warnArmed = false)
    ∧ (let s : State := stOf (dWarn false)
    let temps : List Int := [0, 0, 1519]
    let i := 2
    let t : Int := 1519
    s.live ∧ i < 16 ∧ t = temps.getD i 0 + diodeOffset s.dev i ∧ (∀ j, j < 16 → temps.getD j 0 + diodeOffset s.dev j ≤ t) ∧ (∀ j, j < i → temps.getD j 0 + diodeOffset s.dev j < t) ∧ t < 1520) := by
  refine ⟨?_, ?_, ?_, ?_, ?_, ?_, ?_, ?_⟩
  · dsimp only; decide +kernel
  · dsimp only; decide +kernel
  · dsimp only; decide +kernel
  · dsimp only; decide +kernel
  · dsimp only; decide +kernel
  · simp only [State.live, Dev.quiet]; decide +kernel
  · simp only [State.live, Dev.quiet]; decide +kernel
  · simp only [State.live, Dev.quiet]; decide +kernel

/-- A device whose retirement log names a lane, a unit, a Forge and rows. -/
def dLog : Dev := { dUp with
  boot := { dUp.boot with draws := 7 },
  regs := [(0x40000, 2048)],
  hlt := { healthZero with scores := [(3, 10, 0)], mgmtResets := 255, eids := [7] },
  subs := [(4, { subZero with state := .service })],
  mem := { memsZero with bias := [5, 6] },
  ring := { ringsZero with cqs := [(0, { ringZero with wr := 5 })], sqs := [(1, { sqZero with head := 3, tail := 9 })], mem := { space := 0, epoch := 0, cells := [(64, 1)] } },
  tab := { tablesZero with paths := [] },
  nv := { dUp.nv with log := [(0, 3), (1, 20), (2, 5), (3, 2 ^ 24 + 17), (3, 2 ^ 24 + 2 ^ 23 + 18), (4, 3)] } }

/-- Meets the hypotheses of `Resets`. -/
theorem test_meets_Resets :
    (let s : State := stOf dLog
    s.dev.boot.power = .on ∧ s.dev.logFits)
    ∧ (let v : BitVec 32 := 0x5A01
    v.toNat.testBit 1 = false ∧ bits v.toNat 8 8 = 0x5A)
    ∧ (let s : State := stOf dLog
    let v : BitVec 32 := 0x5A02
    s.live ∧ v.toNat.testBit 0 = false ∧ bits v.toNat 8 8 = 0x5A ∧ s.dev.cru.joins = [])
    ∧ (let s : State := stOf (modForge 2 (fun g => { g with streams := [(1, { streamZero with movers := [{ op := .mov (2 ^ 32 + 64) 0 32, ser := 1, sem := (0, 0) }] })] }) (putReg 0x440028 (256 * 64) { dLog with cru := { dLog.cru with joins := [] } }))
    let x : Flip := { cmd := ownCmd, first := 0, count := 8192, toHost := true }
    (s.live ∧ s.dev.cru.joins = []) ∧ (∃ p ∈ s.dev.forge.f, ∃ r ∈ p.2.streams, ∃ m ∈ r.2.movers, moverTouches s.dev x m = true)) := by
  refine ⟨?_, ?_, ?_, ?_⟩
  · dsimp only; exact ⟨by decide +kernel, logFits_of (by decide +kernel)⟩
  · dsimp only; decide +kernel
  · simp only [State.live, Dev.quiet]; decide +kernel
  · simp only [State.live, Dev.quiet]; decide +kernel

def dStage (k : Nat) (d : Dev) : Dev :=
  { d with boot := { bootZero with perst := true, stage := k, step7 := decide (8 ≤ k), doneSent := decide (8 ≤ k) } }
def dFw (a b : Bytes) : Dev := { dStage 1 dUp with nv := { dUp.nv with slotA := a, slotB := b } }

/-- Meets the hypotheses of `StartupSteps`. -/
theorem test_meets_StartupSteps :
    (let s : State := stOf (dStage 5 dUp)
    s.dev.boot.power = .on ∧ 5 ≤ s.dev.boot.stage ∧ s.dev.boot.recovery = false ∧ s.dev.boot.step6 = false)
    ∧ (let s : State := stOf { dUp with boot := { dUp.boot with stage := 6, step7 := false, doneSent := false }, regs := [(oPortCfg 1, 1)], subs := [(4, { subZero with state := .training })] }
    s.dev.boot.power = .on ∧ 5 ≤ s.dev.boot.stage ∧ s.dev.boot.recovery = false ∧ s.dev.boot.step7 = false ∧ portsTrained s.dev = false)
    ∧ (let s : State := stOf { dUp with boot := { dUp.boot with stage := 6, step7 := false, doneSent := false }, regs := [(oPortCfg 1, 1)], subs := [(4, { subZero with state := .service, served := true })] }
    s.dev.boot.power = .on ∧ 5 ≤ s.dev.boot.stage ∧ s.dev.boot.recovery = false ∧ s.dev.boot.step7 = false ∧ portsTrained s.dev = true ∧ fabricAligned s.dev = true ∧ s.dev.boot.step6 = true)
    ∧ (let s : State := stOf { dStage 0 dUp with boot := { (dStage 0 dUp).boot with perst := false } }
    s.dev.boot.power = .on ∧ s.dev.quiet ∧ s.dev.boot.stage = 0)
    ∧ (let s : State := stOf (dFw [] [1])
    s.dev.boot.power = .on ∧ s.dev.quiet ∧ s.dev.boot.stage = 1 ∧ s.dev.boot.recovery = false ∧ fwCheck s.dev s.dev.nv.slotA ≠ 0 ∧ fwCheck s.dev s.dev.nv.slotB ≠ 0)
    ∧ (let s : State := stOf { dStage 2 dUp with nv := { dUp.nv with cal := [] } }
    s.dev.boot.power = .on ∧ s.dev.quiet ∧ s.dev.boot.stage = 2 ∧ calCause s.dev (slice s.dev.nv.cal 0 14528) ≠ 0)
    ∧ (let s : State := stOf (dStage 3 dUp)
    s.dev.boot.power = .on ∧ s.dev.quiet ∧ s.dev.boot.stage = 3 ∧ s.dev.mem.booted = false ∧ s.dev.boot.cxlUp = false)
    ∧ (let s : State := stOf (dStage 4 dUp)
    let w := 16
    let v := 5
    s.dev.boot.power = .on ∧ s.dev.quiet ∧ [1, 2, 4, 8, 16].contains w = true ∧ 1 ≤ v ∧ v ≤ 5 ∧ s.dev.boot.stage = 4 ∧ s.dev.boot.recovery = false)
    ∧ (let s : State := stOf (dStage 4 dUp)
    s.dev.boot.power = .on ∧ s.dev.quiet ∧ s.dev.boot.stage = 4 ∧ s.dev.boot.recovery = false ∧ s.dev.boot.cxlUp = false)
    ∧ (let s : State := stOf (dStage 4 dUp)
    s.dev.boot.power = .on ∧ s.dev.quiet ∧ (s.dev.boot.stage < 5 ∨ s.dev.boot.cxlUp = false))
    ∧ (let s : State := stOf { dUp with boot := { dUp.boot with cxlUp := true } }
    s.dev.boot.power = .on ∧ s.dev.quiet ∧ ¬ (s.dev.boot.stage < 5 ∨ s.dev.boot.cxlUp = false))
    ∧ (let s : State := stOf { dUp with boot := { dUp.boot with commitSvn := true, fwSvn := 3 }, subs := [(4, { subZero with state := .service, served := true })], regs := [(oPortCfg 1, 1)] }
    s.dev.boot.power = .on ∧ s.dev.quiet ∧ s.dev.boot.commitSvn = true ∧ s.dev.nv.fuse.svn < s.dev.boot.fwSvn ∧ fabricService s.dev none = true) := by
  refine ⟨?_, ?_, ?_, ?_, ?_, ?_, ?_, ?_, ?_, ?_, ?_, ?_⟩
  · dsimp only; decide +kernel
  · dsimp only; decide +kernel
  · dsimp only; decide +kernel
  · simp only [Dev.quiet]; decide +kernel
  · simp only [Dev.quiet]; decide +kernel
  · simp only [Dev.quiet]; decide +kernel
  · simp only [Dev.quiet]; decide +kernel
  · simp only [Dev.quiet]; decide +kernel
  · simp only [Dev.quiet]; decide +kernel
  · simp only [Dev.quiet]; decide +kernel
  · simp only [Dev.quiet]; decide +kernel
  · simp only [Dev.quiet]; decide +kernel

/-- Meets the hypotheses of `SecurityCommands`. -/
theorem test_meets_SecurityCommands :
    (let s : State := stOf dUp
    let req : Bytes := [0x12, 0x82, 0, 0]
    s.live ∧ 5 ≤ s.dev.boot.stage ∧ s.dev.boot.recovery = false ∧ req.length ≤ 32768 ∧ byteAt req 0 ≠ 0 ∧ s.dev.countsOff 18 ∧ byteAt req 1 = 0x82)
    ∧ (let s : State := stOf dUp
    let req : Bytes := [0x12, 0xE0, 2, 0]
    s.live ∧ 5 ≤ s.dev.boot.stage ∧ s.dev.boot.recovery = false ∧ req.length ≤ 32768 ∧ byteAt req 0 ≠ 0 ∧ s.dev.countsOff 18 ∧ byteAt req 1 = 0xE0 ∧ (byteAt req 2).testBit 0 = false) := by
  refine ⟨?_, ?_⟩
  · simp only [State.live, Dev.quiet, Dev.countsOff]; decide +kernel
  · simp only [State.live, Dev.quiet, Dev.countsOff]; decide +kernel

/-- Meets the hypotheses of `BoundaryAdvances`. -/
theorem test_meets_BoundaryAdvances :
    (let s : State := stOf dUp
    s.live ∧ s.dev.sw.notices = [] ∧ s.dev.ring.dstPairs = [] ∧ s.dev.cru.nodes = [] ∧ s.dev.tab.budgetWait = [] ∧ s.dev.sw.rx = [] ∧ s.dev.bpm.resv = [] ∧ (∀ p ∈ s.dev.subs, p.2.state ≠ .hold ∧ p.2.policed = [])) := by
  simp only [State.live, Dev.quiet]; decide +kernel

/-- Meets the hypotheses of `SwathConfigWrites`. -/
theorem test_meets_SwathConfigWrites :
    (let s : State := stOf dUp
    let v : BitVec 32 := 0x800
    s.live ∧ s.dev.boot.recovery = false ∧ v.toNat.testBit 16 = false ∧ lenOk (bits v.toNat 0 16) = true ∧ bits v.toNat 0 16 ≠ nsCfg s.dev ∧ fabricService s.dev none = false)
    ∧ (let s : State := stOf dLink
    let v : BitVec 32 := 0x800
    s.live ∧ s.dev.boot.recovery = false ∧ v.toNat.testBit 16 = false ∧ lenOk (bits v.toNat 0 16) = true ∧ bits v.toNat 0 16 ≠ nsCfg s.dev ∧ fabricService s.dev none = true)
    ∧ (let s : State := stOf dLink
    let v : BitVec 32 := 0x400
    s.live ∧ s.dev.boot.recovery = false ∧ v.toNat.testBit 16 = false ∧ bits v.toNat 0 16 = nsCfg s.dev)
    ∧ (let s : State := stOf dUp
    let v : BitVec 32 := 0x801
    s.live ∧ s.dev.boot.recovery = false ∧ v.toNat.testBit 16 = false ∧ lenOk (bits v.toNat 0 16) = false)
    ∧ (let s : State := stOf (modSub 9 (fun p => { p with state := .hold }) dLink)
    let v : BitVec 32 := 0x10800
    let n := bits v.toNat 0 16
    s.live ∧ s.dev.boot.recovery = false ∧ v.toNat.testBit 16 = true ∧ lenOk n = true ∧ n ≠ nsCfg s.dev ∧ 4 ∈ allSubs s.dev ∧ isEdge s.dev 4 = false ∧ (sub s.dev 4).state ∈ [PortState.aligning, .service, .hold] ∧ isEdge s.dev 8 = true) := by
  refine ⟨?_, ?_, ?_, ?_, ?_⟩
  · simp only [State.live, Dev.quiet]; decide +kernel
  · simp only [State.live, Dev.quiet]; decide +kernel
  · simp only [State.live, Dev.quiet]; decide +kernel
  · simp only [State.live, Dev.quiet]; decide +kernel
  · simp only [State.live, Dev.quiet]; decide +kernel

/-- A marker unit. -/
def markUnit (seq otx node swc ns : Nat) : Bytes :=
  let b := toBE 2 node ++ toBE 6 swc ++ toBE 2 ns ++ toBE 2 otx ++ [7, 1, 0, 0] ++ toBE 2 11 ++ toBE 2 12 ++ toBE 2 13 ++ toBE 2 14 ++ toBE 2 15 ++ toBE 8 0x1234
  let b := b ++ zeros 508
  mkUnit 2 7 0 seq 9 (b ++ toBE 2 (crc16 b))

set_option maxRecDepth 100000 in
/-- Meets the hypotheses of `AlignmentEvents`. -/
theorem test_meets_AlignmentEvents :
    (let s : State := stOf (modSub 4 (fun p => { p with overs := 2, lastTheta := -9 }) dLink)
    let lp := 4
    let p := sub s.dev lp
    s.dev.boot.power = .on ∧ lp < 256 ∧ isEdge s.dev lp = false ∧ p.state = .service ∧ 2 ≤ p.overs)
    ∧ (let s : State := stOf (modSub 4 (fun p => { p with missing := 200 }) dLink)
    let lp := 4
    let p := sub s.dev lp
    s.dev.boot.power = .on ∧ lp < 256 ∧ isEdge s.dev lp = false ∧ p.state = .service ∧ p.lock = true ∧ fld s.dev 0x100010 0 8 ≤ p.missing)
    ∧ (let s : State := stOf (modSub 4 (fun p => { p with state := .hold, holdCount := 16 }) dLink)
    let lp := 4
    let p := sub s.dev lp
    s.dev.boot.power = .on ∧ lp < 256 ∧ p.state = .hold ∧ max 1 (fld s.dev (oPortHold (lp / 4)) 0 8) ≤ p.holdCount)
    ∧ (let s : State := stOf dLink
    let lp := 4
    let p := sub s.dev lp
    let u := markUnit 0 5 9 77 1024
    s.dev.boot.power = .on ∧ lp < 256 ∧ linkUp s.dev lp = true ∧ unitOk u = true ∧ uType u = 2 ∧ markerOk (uBody u) = true ∧ p.state = .service ∧ ahead (uSeq u) p.link.expect = false ∧ s.dev.quiet ∧ p.blind = 0) := by
  refine ⟨?_, ?_, ?_, ?_⟩
  · dsimp only; decide +kernel
  · dsimp only; decide +kernel
  · dsimp only; decide +kernel
  · simp only [Dev.quiet]; decide +kernel

/-- Meets the hypotheses of `PortStates`. -/
theorem test_meets_PortStates :
    (let s : State := stOf dUp
    let p := 61
    let v : BitVec 32 := 0x0000001E
    let w := writeFlds (rg s.dev (oPortCfg p)) (setBits v.toNat 0 1 1) ((regOf (oPortCfg p)).map (·.flds) |>.getD [])
    s.live ∧ p < 64 ∧ s.dev.boot.recovery = false ∧ flag s.dev (oPortCfg p) 0 = false ∧ (regOf (oPortCfg p)).isSome = true ∧ shStays (putReg (oPortCfg p) w s.dev) (rg s.dev oBpmRsv) 0 = true)
    ∧ (let s : State := stOf dLink
    let p := 1
    s.live ∧ p < 64 ∧ s.dev.boot.recovery = false ∧ flag s.dev (oPortCfg p) 0 = true)
    ∧ (let s : State := stOf (modSub 4 (fun x => { x with state := .training, lock := false }) dLink)
    let p := 1
    let lp := 4
    s.live ∧ lp / 4 = p ∧ enabled s.dev lp = true ∧ subExists s.dev lp = true ∧ (laneRate s.dev lp = 1 → breakout s.dev lp ≠ 2) ∧ trainWidth s.dev lp ≠ none ∧ isEdge s.dev lp = false ∧ (sub s.dev lp).state = .training)
    ∧ (let s : State := stOf (modSub 4 (fun x => { x with state := .aligning }) dLink)
    let p := 1
    let lp := 4
    s.live ∧ lp / 4 = p ∧ (sub s.dev lp).state = .aligning)
    ∧ (let s : State := stOf dLink
    let p := 1
    let lp := 4
    s.live ∧ lp / 4 = p ∧ (sub s.dev lp).state = .service)
    ∧ (let s : State := stOf dLink
    let p := 1
    let lp := 4
    let i := 511
    s.live ∧ lp / 4 = p ∧ i < 512 ∧ isEdge s.dev lp = false) := by
  refine ⟨?_, ?_, ?_, ?_, ?_, ?_⟩
  · simp only [State.live, Dev.quiet]; decide +kernel
  · simp only [State.live, Dev.quiet]; decide +kernel
  · simp only [State.live, Dev.quiet]; decide +kernel
  · simp only [State.live, Dev.quiet]; decide +kernel
  · simp only [State.live, Dev.quiet]; decide +kernel
  · simp only [State.live, Dev.quiet]; decide +kernel

def wHops : Bytes := [9, 13] ++ zeros 14

/-- Meets the hypotheses of `FormatsRoundTrip`. -/
theorem test_meets_FormatsRoundTrip :
    (let body : Bytes := zeros 544
    (4 : Nat) < 5 ∧ 7 < 8 ∧ 7 ≠ 5 ∧ 7 ≠ 6 ∧ 4095 < 4096 ∧ 262143 < 2 ^ 18 ∧ body.length = 544)
    ∧ (wHops.length = 16 ∧ 5 < 6 ∧ 7 < 8 ∧ 15 < 16 ∧ 16777215 < 2 ^ 24 ∧ 65535 < 65536 ∧ 255 < 256 ∧ 16 ≤ 512 ∧ 512 ≤ 512 ∧ 512 % 16 = 0) := by
  refine ⟨?_, ?_⟩
  · dsimp only; decide +kernel
  · decide +kernel

def dLink2 : Dev := modLink 4 (fun l => { l with seqNext := 7, expect := 262143, replay := [(5, []), (6, [])] }) dLink

/-- Meets the hypotheses of `LinkUnits`. -/
theorem test_meets_LinkUnits :
    (let s : State := stOf dLink2
    let lp := 4
    let u := mkUnit 0 3 77 262143 4 (mkHdr wHops 3 2 true true 3 9 8 5 0 16 false 0 ++ zeros 512)
    s.dev.boot.power = .on ∧ lp < 256 ∧ linkUp s.dev lp = true ∧ unitOk u = true ∧ (sub s.dev lp).link.resume = false ∧ uType u = 0 ∧ uSeq u = (sub s.dev lp).link.expect)
    ∧ (let s : State := stOf dLink2
    let lp := 4
    let u := mkUnit 0 7 0 0 4 []
    s.dev.boot.power = .on ∧ lp < 256 ∧ linkUp s.dev lp = true ∧ unitOk u = true ∧ (sub s.dev lp).link.resume = false ∧ uType u = 0 ∧ uSeq u ≠ (sub s.dev lp).link.expect ∧ ahead (uSeq u) (sub s.dev lp).link.expect = true)
    ∧ (let s : State := stOf dLink2
    let lp := 4
    let u := mkUnit 0 7 0 262142 4 []
    s.dev.boot.power = .on ∧ lp < 256 ∧ linkUp s.dev lp = true ∧ unitOk u = true ∧ (sub s.dev lp).link.resume = false ∧ uType u = 0 ∧ uSeq u ≠ (sub s.dev lp).link.expect ∧ ahead (uSeq u) (sub s.dev lp).link.expect = false)
    ∧ (let s : State := stOf dLink2
    let lp := 4
    let u := mkUnit 4 0 4095 262143 4 []
    s.dev.boot.power = .on ∧ lp < 256 ∧ linkUp s.dev lp = true ∧ unitOk u = true ∧ (sub s.dev lp).link.resume = false ∧ (uType u = 1 ∨ uType u = 4) ∧ ahead (uSeq u) (sub s.dev lp).link.expect = false)
    ∧ (let s : State := stOf dLink2
    let lp := 4
    let u := mkUnit 3 0 4095 262143 4 []
    let l := (sub s.dev lp).link
    s.dev.boot.power = .on ∧ lp < 256 ∧ linkUp s.dev lp = true ∧ unitOk u = true ∧ (sub s.dev lp).link.resume = false ∧ uType u = 3 ∧ ahead (uSeq u) l.expect = false ∧ l.replaySeen = none ∧ l.replay.any (fun x => x.1 == (uAck u + 1) % 2 ^ 18) = true ∧ (uAck u + 1) % 2 ^ 18 ≠ l.seqNext ∧ 0 < fld s.dev 0x100018 0 4)
    ∧ (let s : State := stOf (modLink 4 (fun l => { l with loss := true }) dLink2)
    let lp := 4
    s.dev.boot.power = .on ∧ lp < 256 ∧ linkUp s.dev lp = true ∧ (sub s.dev lp).link.resume = false ∧ (sub s.dev lp).link.loss = true) := by
  refine ⟨?_, ?_, ?_, ?_, ?_, ?_⟩
  · dsimp only; decide +kernel
  · dsimp only; decide +kernel
  · dsimp only; decide +kernel
  · dsimp only; decide +kernel
  · dsimp only; decide +kernel
  · dsimp only; decide +kernel

/-- Meets the hypotheses of `UnitOpportunities`. -/
theorem test_meets_UnitOpportunities :
    (let s : State := stOf { dLink with clk := { dLink.clk with slot := 255 } }
    let lp := 4
    let l := (sub s.dev lp).link
    s.live ∧ lp < 256 ∧ linkUp s.dev lp = true ∧ (∀ v, v < 6 → staged s.dev lp v = []) ∧ s.dev.countsOff 1 ∧ s.dev.countsOff 2 ∧ adaptSlot s.dev = true ∧ l.adaptSent < adaptUnits s.dev lp)
    ∧ (let s : State := stOf dLink
    let lp := 4
    let l := (sub s.dev lp).link
    s.live ∧ lp < 256 ∧ linkUp s.dev lp = true ∧ (∀ v, v < 6 → staged s.dev lp v = []) ∧ s.dev.countsOff 1 ∧ s.dev.countsOff 2 ∧ adaptSlot s.dev = false ∧ l.markerSent = false)
    ∧ (let s : State := stOf (modLink 4 (fun l => { l with markerSent := true, replayDue := true, changed := [2] }) dLink)
    let lp := 4
    let l := (sub s.dev lp).link
    s.live ∧ lp < 256 ∧ linkUp s.dev lp = true ∧ (∀ v, v < 6 → staged s.dev lp v = []) ∧ s.dev.countsOff 1 ∧ s.dev.countsOff 2 ∧ adaptSlot s.dev = false ∧ l.markerSent = true ∧ (sub s.dev lp).state = .service ∧ l.replayDue = true)
    ∧ (let s : State := stOf (modLink 4 (fun l => { l with seqNext := 9, replay := [(7, []), (8, [])], replayAt := some 7 }) { dLink with clk := { dLink.clk with slot := 255 } })
    let lp := 4
    let l := (sub s.dev lp).link
    s.live ∧ lp < 256 ∧ linkUp s.dev lp = true ∧ (∀ v, v < 6 → staged s.dev lp v = []) ∧ s.dev.countsOff 1 ∧ s.dev.countsOff 2 ∧ adaptSlot s.dev = true ∧ l.adaptSent < adaptUnits s.dev lp) := by
  refine ⟨?_, ?_, ?_, ?_⟩
  · simp only [State.live, Dev.quiet, Dev.countsOff]; decide +kernel
  · simp only [State.live, Dev.quiet, Dev.countsOff]; decide +kernel
  · simp only [State.live, Dev.quiet, Dev.countsOff]; decide +kernel
  · simp only [State.live, Dev.quiet, Dev.countsOff]; decide +kernel

/-- Meets the hypotheses of `CrossbarSlot`. -/
theorem test_meets_CrossbarSlot :
    (let s : State := stOf dUp
    let m : List (Nat × Nat × Nat × Nat) := []
    let rest : List (List (Nat × Nat × Nat × Nat)) := [[], [], []]
    let x := 0
    let d1 : Dev := { s.dev with clk := { s.dev.clk with now := max s.dev.clk.now (s.dev.clk.swStart + 6 * x) } }
    let d2 := each (heldAt d1 x) crossHeld d1
    let d3 := beginMatch (each m crossPair (modSw (fun w => { w with flight := rest }) d2))
    s.dev.boot.power = .on ∧ s.dev.tel.once.contains (31, 0) = false ∧ s.dev.clk.removed = none ∧ x = s.dev.clk.slot ∧ d2.sw.flight = m :: rest ∧ x < slotAfter d3 x)
    ∧ (let s : State := stOf { dUp with clk := { dUp.clk with slot := 1023 } }
    let m : List (Nat × Nat × Nat × Nat) := []
    let rest : List (List (Nat × Nat × Nat × Nat)) := [[], [], []]
    let x := 1023
    let d1 : Dev := { s.dev with clk := { s.dev.clk with now := max s.dev.clk.now (s.dev.clk.swStart + 6 * x) } }
    let d2 := each (heldAt d1 x) crossHeld d1
    let d3 := beginMatch (each m crossPair (modSw (fun w => { w with flight := rest }) d2))
    s.dev.boot.power = .on ∧ s.dev.tel.once.contains (31, 0) = false ∧ s.dev.clk.removed = none ∧ x = s.dev.clk.slot ∧ d2.sw.flight = m :: rest ∧ slotAfter d3 x ≤ x) := by
  refine ⟨?_, ?_⟩
  · dsimp only; decide +kernel
  · dsimp only; decide +kernel

/-- Meets the hypotheses of `BufferLending`. -/
theorem test_meets_BufferLending :
    (let s : State := stOf { dLink with bpm := { bpmZero with ext := [4] } }
    let lp := 4
    let vc := 4
    let x := 64
    s.live ∧ lp < 256 ∧ vc < 5 ∧ 64 ≤ x ∧ x < 87 ∧ isEdge s.dev lp = false ∧ (sub s.dev lp).state ∈ [PortState.aligning, .service, .hold] ∧ tgetD (sub s.dev lp).link.lent vc 0 < fld s.dev 0x1C0014 0 12 ∧ (useOf s.dev (ownExt lp vc)).p0 < ownMin s.dev (ownExt lp vc) ∧ p0Used s.dev < p0Cells)
    ∧ (let s : State := stOf dUp
    let lp := 4
    let vc := 4
    let x := 86
    s.live ∧ lp < 256 ∧ vc < 5 ∧ 64 ≤ x ∧ x < 87 ∧ tieWinner s.dev (rqSlot (ownInt x vc)) = none)
    ∧ (let s : State := stOf { dUp with bpm := { bpmZero with pending := true } }
    s.live ∧ s.dev.bpm.pending = true ∧ p1Used s.dev = 0)
    ∧ (let s : State := stOf dUp
    let v : BitVec 32 := 3
    s.live ∧ s.dev.boot.recovery = false ∧ deviceNow s.dev 0x1C0000 = false ∧ p1Used s.dev = 0 ∧ v.toNat % 4 = 3 ∧ s.dev.bpm.mode ≠ 3) := by
  refine ⟨?_, ?_, ?_, ?_⟩
  · simp only [State.live, Dev.quiet]; decide +kernel
  · simp only [State.live, Dev.quiet]; decide +kernel
  · simp only [State.live, Dev.quiet]; decide +kernel
  · simp only [State.live, Dev.quiet]; decide +kernel

def dEdge : Dev := { dLink with regs := dLink.regs ++ [(oEdge 8, 0x020304050607), (oEdge 8 + 8, 0x0A000001), (oEdge 8 + 0x20, 1), (oEdge 8 + 0x28, 64 + 65536)] }
def arpReq : Bytes := [0x00, 0x01, 0x08, 0x00, 0x06, 0x04, 0x00, 0x01] ++ [1, 2, 3, 4, 5, 6] ++ [10, 0, 0, 9] ++ zeros 6 ++ [10, 0, 0, 1] ++ zeros 18
/-- Meets the hypotheses of `EdgeFrames`. -/
theorem test_meets_EdgeFrames :
    (let s : State := stOf dEdge
    let lp := 8
    let f : Bytes := zeros 60 ++ [1, 2, 3, 4]
    s.live ∧ lp < 256 ∧ isEdge s.dev lp = true ∧ (sub s.dev lp).state = .service ∧ toLE 4 (crc32 (f.take (f.length - 4))) ≠ f.drop (f.length - 4))
    ∧ (let s : State := stOf dEdge
    let lp := 8
    let arp := arpReq
    let smac : Bytes := [2, 0, 0, 0, 0, 9]
    s.live ∧ lp < 256 ∧ isEdge s.dev lp = true ∧ (sub s.dev lp).state = .service ∧ smac.length = 6 ∧ arp.length = 46 ∧ ip4Valid s.dev lp = true ∧ slice arp 0 8 = [0x00, 0x01, 0x08, 0x00, 0x06, 0x04, 0x00, 0x01] ∧ slice arp 24 4 = ownIp4 s.dev lp)
    ∧ (let s : State := stOf dEdge
    let lp := 8
    let f : Bytes := [1, 1, 0, 128] ++ zeros 14 ++ [0, 9]
    let t := 7
    let q := 9
    s.live ∧ lp < 256 ∧ t < 8 ∧ beAt f 2 2 = 2 ^ t ∧ q = beAt f (4 + 2 * t) 2 ∧ q ≠ 0)
    ∧ (let s : State := stOf { dUp with clk := { dUp.clk with swc := 9 }, sw := { switchZero with reasm := [{ key := [1], ord := 4, claim := .none, code := 0xF8, idx := 0, dl := 5, late := false, cells := [] }] } }
    let n := 0
    let r : Reasm := { key := [1], ord := 4, claim := .none, code := 0xF8, idx := 0, dl := 5, late := false, cells := [] }
    s.live ∧ s.dev.sw.reasm[n]? = some r ∧ isLate s.dev r.dl = true)
    ∧ (let lp := 8
    let tc := 3
    let fr : Frame := { op := 1, src := 1, dst := 2, tc := 3, label := 0, hdr := [], data := [], xport := 0, furrow := none, direct := none, reply := 0, seq := none, org := .edge 8 3 0 }
    let s : State := stOf { modSub 8 (fun p => { p with edge := { p.edge with xoff := [(3, 1)] } }) dEdge with sw := { switchZero with tx := [(0, { fr := fr, budget := none, adm := none, sent := 0, resv := none, held := [true, false] })] } }
    s.dev.boot.power = .on ∧ lp < 256 ∧ tc < 8 ∧ tget (sub s.dev lp).edge.xoff tc ≠ none ∧ xonOf s.dev lp < ingressHeld s.dev lp tc) := by
  refine ⟨?_, ?_, ?_, ?_, ?_⟩
  · simp only [State.live, Dev.quiet]; decide +kernel
  · simp only [State.live, Dev.quiet]; decide +kernel
  · simp only [State.live, Dev.quiet]; decide +kernel
  · simp only [State.live, Dev.quiet]; decide +kernel
  · dsimp only; decide +kernel

def wFrame (dst tc n : Nat) : Frame :=
  { op := 0, src := 1, dst := dst, tc := tc, label := 0, hdr := zeros 32, data := zeros n, xport := 64, furrow := none, direct := none,
    reply := 0, seq := none, org := .select 0 0 0 }
def wEpt : EptEntry :=
  { kind := 0, isLocal := false, mcast := false, epoch := 255, tcMask := 4, idx := 0, slots := [(5, 6)], lastD := some 9, fence := none }
def wPath (down : Bool) : PathEntry := { hops := [4, 0xF8] ++ zeros 14, nhop := 2, down := down, delay := 100, node2 := none }
def wBudget : Budget := { rate := 8, burst := 16, tc := 2, xport := 1, sub := 0, vcMask := 15, allow := 8, drawn := [], old := [] }
def dRoute (e : Option EptEntry) (p : Option PathEntry) (b : Option Budget) : Dev :=
  { dLink with
    tab := { tablesZero with
      ept := (e.map (fun x => (9, x))).toList, paths := (p.map (fun x => (5, x))).toList, budgets := (b.map (fun x => (6, x))).toList },
    hlt := { healthZero with eids := [77] } }

/-- Meets the hypotheses of `AdmissionRules`. -/
theorem test_meets_AdmissionRules :
    (let fr := wFrame 0 2 40
    fr.direct = none ∧ fr.furrow = none ∧ reservedEid fr.dst = true)
    ∧ (let d : Dev := dRoute none none none
    let fr := wFrame 77 2 40
    fr.direct = none ∧ fr.furrow = none ∧ reservedEid fr.dst = false ∧ fr.dst ∈ d.hlt.eids)
    ∧ (let d : Dev := dRoute none none none
    let fr := wFrame 9 2 40
    fr.direct = none ∧ fr.furrow = none ∧ reservedEid fr.dst = false ∧ fr.dst ∉ d.hlt.eids ∧ tget d.tab.ept fr.dst = none)
    ∧ (let d : Dev := dRoute (some wEpt) none none
    let fr := wFrame 9 3 40
    fr.direct = none ∧ fr.furrow = none ∧ reservedEid fr.dst = false ∧ fr.dst ∉ d.hlt.eids ∧ tget d.tab.ept fr.dst = some wEpt ∧ wEpt.mcast = false ∧ wEpt.tcMask.testBit fr.tc = false)
    ∧ (let d : Dev := dRoute (some wEpt) none none
    let fr := wFrame 9 2 40
    tget d.tab.ept fr.dst = some wEpt ∧ wEpt.tcMask.testBit fr.tc = true ∧ (wEpt.kind ≠ 4 ∨ cellsOf fr.data.length ≤ 16) ∧ (5, 6) = wEpt.slots.getD (flowHash fr.src fr.dst fr.label % wEpt.slots.length) (0, 0) ∧ tget d.tab.paths 5 = none)
    ∧ (let d : Dev := dRoute (some wEpt) (some (wPath true)) none
    tget d.tab.paths 5 = some (wPath true) ∧ (wPath true).down = true)
    ∧ (let d : Dev := { dRoute (some wEpt) (some (wPath false)) none with subs := [] }
    tget d.tab.paths 5 = some (wPath false) ∧ (wPath false).down = false ∧ firstHopOk d (wPath false) = false)
    ∧ (let d : Dev := dRoute (some wEpt) (some (wPath false)) none
    let fr := wFrame 9 2 40
    tget d.tab.paths 5 = some (wPath false) ∧ firstHopOk d (wPath false) = true ∧ wEpt.fence = none ∧ vcOf d fr ≠ 4 ∧ 6 = 6 + popCount fr.tc wEpt.tcMask ∧ tget d.tab.budgets 6 = none)
    ∧ (let d : Dev := dRoute (some wEpt) (some (wPath false)) (some { wBudget with vcMask := 0 })
    let fr := wFrame 9 2 40
    tget d.tab.budgets 6 = some { wBudget with vcMask := 0 } ∧ (0 : Nat).testBit (vcOf d fr) = false)
    ∧ (let d : Dev := dRoute (some wEpt) (some (wPath false)) (some { wBudget with burst := 1 })
    let fr := wFrame 9 2 600
    wBudget.vcMask.testBit (vcOf d fr) = true ∧ 1 < cellsOf fr.data.length)
    ∧ (let d : Dev := dRoute (some wEpt) (some (wPath false)) (some wBudget)
    let fr := wFrame 9 2 (16 * 512 - 32)
    fr.direct = none ∧ fr.furrow = none ∧ reservedEid fr.dst = false ∧ fr.dst ∉ d.hlt.eids ∧ firstHopOk d (wPath false) = true ∧ vcOf d fr ≠ 4 ∧ wBudget.vcMask.testBit (vcOf d fr) = true ∧ cellsOf fr.data.length ≤ wBudget.burst ∧ (seqFor d fr).toOption = some 1)
    ∧ (let e : EptEntry := { wEpt with mcast := true, idx := 3, np := 0 }
    let d : Dev := dRoute (some e) none none
    let fr := wFrame 9 2 40
    fr.direct = none ∧ fr.furrow = none ∧ reservedEid fr.dst = false ∧ fr.dst ∉ d.hlt.eids ∧ tget d.tab.ept fr.dst = some e ∧ e.mcast = true ∧ tget d.tab.groups e.idx = none)
    ∧ (let e : EptEntry := { wEpt with mcast := true, idx := 3, np := 0 }
    let g : Group := { tc := 2, budget := 6, h := 2, delay := 0, targets := [] }
    let d : Dev := { dRoute (some e) none none with tab := { (dRoute (some e) none none).tab with groups := [(3, g)] } }
    let fr := wFrame 9 3 40
    reservedEid fr.dst = false ∧ fr.dst ∉ d.hlt.eids ∧ tget d.tab.ept fr.dst = some e ∧ e.mcast = true ∧ tget d.tab.groups e.idx = some g ∧ e.tcMask.testBit fr.tc = false)
    ∧ (let e : EptEntry := { wEpt with mcast := true, idx := 3, np := 0 }
    let g : Group := { tc := 1, budget := 6, h := 2, delay := 0, targets := [] }
    let d : Dev := { dRoute (some e) none none with tab := { (dRoute (some e) none none).tab with groups := [(3, g)] } }
    let fr := wFrame 9 2 40
    reservedEid fr.dst = false ∧ fr.dst ∉ d.hlt.eids ∧ tget d.tab.ept fr.dst = some e ∧ e.mcast = true ∧ tget d.tab.groups e.idx = some g ∧ e.tcMask.testBit fr.tc = true ∧ g.tc ≠ fr.tc) := by
  refine ⟨?_, ?_, ?_, ?_, ?_, ?_, ?_, ?_, ?_, ?_, ?_, ?_, ?_, ?_⟩
  · dsimp only; decide +kernel
  · dsimp only; decide +kernel
  · dsimp only; decide +kernel
  · dsimp only; decide +kernel
  · dsimp only; decide +kernel
  · dsimp only; decide +kernel
  · dsimp only; decide +kernel
  · dsimp only; decide +kernel
  · dsimp only; decide +kernel
  · dsimp only; decide +kernel
  · dsimp only; decide +kernel
  · dsimp only; decide +kernel
  · dsimp only; decide +kernel
  · dsimp only; decide +kernel

def eptW0 (kind eid slots mask : Nat) : Nat := kind * 2 + (slots - 1) * 2 ^ 16 + mask * 2 ^ 24 + eid * 2 ^ 32
def eptImg (kind eid : Nat) (slots : List Nat) : Bytes := toLE 8 (eptW0 kind eid slots.length 4) ++ toLE 8 0 ++ slots.flatMap (fun p => toLE 2 p ++ toLE 2 6)
def dEpt (old : Option EptEntry) (img : Bytes) (e : Bytes) : Dev :=
  hostWrite 65536 img (withEntry e { dRoute old (some (wPath false)) (some wBudget) with tab := { (dRoute old (some (wPath false)) (some wBudget)).tab with paths := [(5, wPath false), (6, wPath true)] } })
def eptEnt : Bytes := ent 0x30 0 [(16, 8, 65536), (8, 8, 1)]
def mOf (a : Dev) : EptImg := (eptImage (sqCmd 0 eptEnt) 65536 a).getD { eid := 0, e := wEpt, peer := none }

/-- Meets the hypotheses of `EptCommands`. -/
theorem test_meets_EptCommands :
    (let e := eptEnt
    let q := 0
    let s : State := stOf (dEpt none (eptImg 0 9 [5]) eptEnt)
    let a := s.dev.accepted q e
    let m := mOf a
    s.live ∧ s.dev.begins q e a ∧ (opOf e = 0x30 ∧ modeOf e = 0 ∧ plainOk e [(16, 8)] = true ∧ (eptImage (sqCmd q e) (leAt e 16 8) a).isSome = true ∧ tget a.tab.ept m.eid = none ∧ m.e.slots.any (fun x => decide (65535 < refsOf a x.1 + slotUses m.e.slots x.1)) = false ∧ a.tab.ept.length < 524288))
    ∧ (let e := eptEnt
    let q := 0
    let s : State := stOf (dEpt (some wEpt) (eptImg 1 9 [5]) eptEnt)
    let a := s.dev.accepted q e
    let m := mOf a
    let o := wEpt
    s.live ∧ s.dev.begins q e a ∧ ((eptImage (sqCmd q e) (leAt e 16 8) a).isSome = true ∧ tget a.tab.ept m.eid = some o ∧ o.fence = none ∧ m.e.slots.any (fun x => decide (65535 < refsOf a x.1 + slotUses m.e.slots x.1 - slotUses o.slots x.1)) = false ∧ o.slots.map (·.1) = m.e.slots.map (·.1)))
    ∧ (let e := eptEnt
    let q := 0
    let s : State := stOf (dEpt (some wEpt) (eptImg 1 9 [6, 5]) eptEnt)
    let a := s.dev.accepted q e
    let m := mOf a
    let o := wEpt
    s.live ∧ s.dev.begins q e a ∧ ((eptImage (sqCmd q e) (leAt e 16 8) a).isSome = true ∧ tget a.tab.ept m.eid = some o ∧ o.fence = none ∧ m.e.slots.any (fun x => decide (65535 < refsOf a x.1 + slotUses m.e.slots x.1 - slotUses o.slots x.1)) = false ∧ o.slots.map (·.1) ≠ m.e.slots.map (·.1)))
    ∧ (let e := ent 0x31 0 [(16, 3, 9)]
    let q := 0
    let s : State := stOf (dEpt (some wEpt) [] e)
    let a := s.dev.accepted q e
    s.live ∧ s.dev.begins q e a ∧ (opOf e = 0x31 ∧ modeOf e = 0 ∧ plainOk e [(16, 3)] = true ∧ reservedEid (leAt e 16 3) = false ∧ a.sw.tx = [])) := by
  refine ⟨?_, ?_, ?_, ?_⟩
  · dsimp only; exact ⟨by simp only [State.live, Dev.quiet]; decide +kernel, begins_of cmdEptSet (by unfold Dev.entryReady; decide +kernel) rfl (by decide +kernel), by decide +kernel⟩
  · dsimp only; exact ⟨by simp only [State.live, Dev.quiet]; decide +kernel, begins_of cmdEptSet (by unfold Dev.entryReady; decide +kernel) rfl (by decide +kernel), by decide +kernel⟩
  · dsimp only; exact ⟨by simp only [State.live, Dev.quiet]; decide +kernel, begins_of cmdEptSet (by unfold Dev.entryReady; decide +kernel) rfl (by decide +kernel), by decide +kernel⟩
  · dsimp only; exact ⟨by simp only [State.live, Dev.quiet]; decide +kernel, begins_of cmdEptClear (by unfold Dev.entryReady; decide +kernel) rfl (by decide +kernel), by decide +kernel⟩

def pathImg (hops : Bytes) (n : Nat) (recs : List (Nat × Nat)) : Bytes :=
  fit hops 16 ++ toLE 8 (n - 1 + 100 * 2 ^ 16) ++ recs.flatMap (fun r => toLE 2 r.1 ++ toLE 2 r.2 ++ zeros 4)
def dPath (img : Bytes) (e : Bytes) (ept : Tab EptEntry) : Dev :=
  hostWrite 65536 img (withEntry e { dLink with
    force := [(8, 3)], regs := (8, 3) :: dLink.regs, tab := { tablesZero with ept := ept, paths := [(5, wPath false)] } })
def pathEnt : Bytes := ent 0x32 0 [(16, 2, 5), (24, 8, 65536), (8, 8, 1)]
def pOf (a : Dev) : PathEntry :=
  let b := hostRead a 65536 24
  let w := leAt b 16 8
  let n := bits w 0 4 + 1
  { hops := slice b 0 16, nhop := n, down := false, delay := bits w 16 16,
            node2 := if n < 2 then none else ((nodeRecs (hostRead a 65536 (24 + 8 * n)) n).map (·.node))[1]? }
def pathHyp (a : Dev) (e : Bytes) : Bool :=
  let adr := leAt e 24 8
  let b := hostRead a adr 24
  let w := leAt b 16 8
  let n := bits w 0 4 + 1
  let full := hostRead a adr (24 + 8 * n)
  decide (opOf e = 0x32 ∧ modeOf e = 0 ∧ plainOk e [(16, 2), (24, 8)] = true ∧ adr % 64 = 0 ∧ bits w 4 12 = 0 ∧ bits w 32 32 = 0 ∧ recsOk a full n = true)

/-- Meets the hypotheses of `PathCommands`. -/
theorem test_meets_PathCommands :
    (let e := pathEnt
    let q := 0
    let s : State := stOf (dPath (pathImg [4, 0xF8] 2 [(3, 1), (4, 0)]) e [(9, wEpt)])
    let a := s.dev.accepted q e
    s.live ∧ s.dev.begins q e a ∧ (pathHyp a e = true ∧ refsOf a (leAt e 16 2) ≠ 0))
    ∧ (let e := pathEnt
    let q := 0
    let s : State := stOf (dPath (pathImg [4, 4, 0xF8] 3 [(3, 1), (4, 2), (5, 1)]) e [])
    let a := s.dev.accepted q e
    let p := pOf a
    let n := p.nhop
    let full := hostRead a 65536 (24 + 8 * n)
    s.live ∧ s.dev.begins q e a ∧ (pathHyp a e = true ∧ refsOf a (leAt e 16 2) = 0 ∧ hopsOk a p.hops n = true ∧ deadlineOk a (linksOf p) p.delay = true ∧ turnOk a (nodeRecs full n) (isInner (byteAt p.hops (n - 1))) = true ∧ nodesOk a p.hops n (nodeRecs full n) = true))
    ∧ (let e := pathEnt
    let q := 0
    let s : State := stOf (dPath (pathImg [4, 4, 0xF8] 3 [(3, 1), (3, 2), (5, 1)]) e [])
    let a := s.dev.accepted q e
    let p := pOf a
    let n := p.nhop
    let full := hostRead a 65536 (24 + 8 * n)
    s.live ∧ s.dev.begins q e a ∧ (pathHyp a e = true ∧ refsOf a (leAt e 16 2) = 0 ∧ hopsOk a p.hops n = true ∧ deadlineOk a (linksOf p) p.delay = true ∧ turnOk a (nodeRecs full n) (isInner (byteAt p.hops (n - 1))) = false))
    ∧ (let e := pathEnt
    let q := 0
    let s : State := stOf (dPath (pathImg [0xF8] 1 [(4, 1)]) e [])
    let a := s.dev.accepted q e
    let p := pOf a
    let n := p.nhop
    let full := hostRead a 65536 (24 + 8 * n)
    s.live ∧ s.dev.begins q e a ∧ (pathHyp a e = true ∧ refsOf a (leAt e 16 2) = 0 ∧ hopsOk a p.hops n = true ∧ deadlineOk a (linksOf p) p.delay = true ∧ turnOk a (nodeRecs full n) (isInner (byteAt p.hops (n - 1))) = true ∧ nodesOk a p.hops n (nodeRecs full n) = false))
    ∧ (let e := ent 0x32 1 [(16, 2, 5)]
    let q := 0
    let s : State := stOf (dPath [] e [])
    let a := s.dev.accepted q e
    let i := leAt e 16 2
    let p := wPath false
    s.live ∧ s.dev.begins q e a ∧ (plainOk e [(16, 2)] = true ∧ tget a.tab.paths i = some p ∧ modeOf e = 1))
    ∧ (let e := ent 0x32 2 [(16, 2, 5)]
    let q := 0
    let s : State := stOf (dPath [] e [])
    let a := s.dev.accepted q e
    let i := leAt e 16 2
    let p := wPath false
    s.live ∧ s.dev.begins q e a ∧ (plainOk e [(16, 2)] = true ∧ tget a.tab.paths i = some p ∧ modeOf e = 2))
    ∧ (let e := ent 0x32 3 [(16, 2, 5)]
    let q := 0
    let s : State := stOf (dPath [] e [])
    let a := s.dev.accepted q e
    let i := leAt e 16 2
    let p := wPath false
    s.live ∧ s.dev.begins q e a ∧ (plainOk e [(16, 2)] = true ∧ tget a.tab.paths i = some p ∧ modeOf e = 3 ∧ refsOf a i = 0))
    ∧ (let e := ent 0x32 3 [(16, 2, 5)]
    let q := 0
    let s : State := stOf (dPath [] e [(9, wEpt)])
    let a := s.dev.accepted q e
    let i := leAt e 16 2
    let p := wPath false
    s.live ∧ s.dev.begins q e a ∧ (tget a.tab.paths i = some p ∧ refsOf a i ≠ 0)) := by
  refine ⟨?_, ?_, ?_, ?_, ?_, ?_, ?_, ?_⟩
  · dsimp only; exact ⟨by simp only [State.live, Dev.quiet]; decide +kernel, begins_of cmdPathWrite (by unfold Dev.entryReady; decide +kernel) rfl (by decide +kernel), by decide +kernel⟩
  · dsimp only; exact ⟨by simp only [State.live, Dev.quiet]; decide +kernel, begins_of cmdPathWrite (by unfold Dev.entryReady; decide +kernel) rfl (by decide +kernel), by decide +kernel⟩
  · dsimp only; exact ⟨by simp only [State.live, Dev.quiet]; decide +kernel, begins_of cmdPathWrite (by unfold Dev.entryReady; decide +kernel) rfl (by decide +kernel), by decide +kernel⟩
  · dsimp only; exact ⟨by simp only [State.live, Dev.quiet]; decide +kernel, begins_of cmdPathWrite (by unfold Dev.entryReady; decide +kernel) rfl (by decide +kernel), by decide +kernel⟩
  · dsimp only; exact ⟨by simp only [State.live, Dev.quiet]; decide +kernel, begins_of (fun _ => cmdPathMark true) (by unfold Dev.entryReady; decide +kernel) rfl (by decide +kernel), by decide +kernel⟩
  · dsimp only; exact ⟨by simp only [State.live, Dev.quiet]; decide +kernel, begins_of (fun _ => cmdPathMark false) (by unfold Dev.entryReady; decide +kernel) rfl (by decide +kernel), by decide +kernel⟩
  · dsimp only; exact ⟨by simp only [State.live, Dev.quiet]; decide +kernel, begins_of (fun _ => cmdPathClear) (by unfold Dev.entryReady; decide +kernel) rfl (by decide +kernel), by decide +kernel⟩
  · dsimp only; exact ⟨by simp only [State.live, Dev.quiet]; decide +kernel, begins_of (fun _ => cmdPathClear) (by unfold Dev.entryReady; decide +kernel) rfl (by decide +kernel), by decide +kernel⟩

def grpImg : Bytes := toLE 8 (2 * 2 + 2 * 256 + 6 * 2 ^ 16 + 3 * 2 ^ 32 + 100 * 2 ^ 48) ++ toLE 4 (4 * 2 ^ 24 + 2 ^ 23) ++ toLE 4 (0xF8 * 2 ^ 24) ++ zeros 128
def gOf (a : Dev) : Group :=
  let b := hostRead a 65536 144
  let w := leAt b 0 8
  { tc := bits w 8 3, budget := bits w 16 16, h := bits w 32 4, delay := bits w 48 16, targets := groupTargets b (bits w 1 6) }

/-- Meets the hypotheses of `GroupAndBudgetCommands`. -/
theorem test_meets_GroupAndBudgetCommands :
    (let e := ent 0x33 0 [(16, 2, 65535), (24, 8, 65536)]
    let q := 0
    let s : State := stOf (dPath grpImg e [])
    let a := s.dev.accepted q e
    let b := hostRead a (leAt e 24 8) 144
    let w := leAt b 0 8
    let n := bits w 1 6
    let g := gOf a
    s.live ∧ s.dev.begins q e a ∧ (opOf e = 0x33 ∧ modeOf e = 0 ∧ plainOk e [(16, 2), (24, 8)] = true ∧ leAt e 24 8 % 64 = 0 ∧ n ≤ 32 ∧ w % 2 = 0 ∧ bits w 7 1 = 0 ∧ bits w 11 5 = 0 ∧ bits w 36 12 = 0 ∧ leAt b 136 8 = 0) ∧ ((∀ i, i < 32 → bits (leAt b (8 + 4 * i) 4) 12 11 = 0) ∧ (∀ i, n ≤ i → i < 32 → leAt b (8 + 4 * i) 4 = 0)) ∧ (deadlineOk a g.h g.delay = true ∧ g.targets.all (targetOk a) = true))
    ∧ (let e := ent 0x33 1 [(16, 2, 7)]
    let q := 0
    let s : State := stOf (dPath [] e [])
    let a := s.dev.accepted q e
    s.live ∧ s.dev.begins q e a ∧ (opOf e = 0x33 ∧ modeOf e = 1 ∧ plainOk e [(16, 2)] = true))
    ∧ (let e := ent 0x38 0 [(16, 2, 8), (24, 8, 32 + 16 * 2 ^ 16 + 2 * 2 ^ 25 + 87 * 2 ^ 32 + 15 * 2 ^ 42)]
    let q := 0
    let s : State := stOf (dPath [] e [])
    let a := s.dev.accepted q e
    let i := leAt e 16 2
    let w := leAt e 24 8
    s.live ∧ s.dev.begins q e a ∧ (opOf e = 0x38 ∧ modeOf e = 0 ∧ plainOk e [(16, 2), (24, 8)] = true ∧ 1 ≤ bits w 0 16 ∧ bits w 0 16 ≤ 32768 ∧ 1 ≤ bits w 16 9 ∧ bits w 16 9 ≤ 256 ∧ bits w 42 4 ≠ 0 ∧ bits w 28 4 = 0 ∧ bits w 39 1 = 0 ∧ bits w 46 18 = 0) ∧ ((bits w 32 7 < 64 ∧ subExists a (4 * bits w 32 7 + bits w 40 2) = true ∨ 64 ≤ bits w 32 7 ∧ bits w 32 7 ≤ 87 ∧ bits w 40 2 = 0)) ∧ (namedClash a i (bits w 25 3) (bits w 32 7) (bits w 40 2) (bits w 42 4) = false ∧ r37Ok a (bits w 32 7) (bits w 40 2) i (bits w 0 16) (bits w 42 4) 0 = true))
    ∧ (let e := ent 0x38 1 [(16, 2, 8)]
    let q := 0
    let s : State := stOf (dPath [] e [])
    let a := s.dev.accepted q e
    let i := leAt e 16 2
    s.live ∧ s.dev.begins q e a ∧ (opOf e = 0x38 ∧ modeOf e = 1 ∧ plainOk e [(16, 2)] = true ∧ budgetNamed a i = false ∧ tget a.tab.budgets i = none ∧ partReleased a i = [] ∧ i < 65536))
    ∧ (let e := ent 0x38 1 [(16, 2, 6)]
    let q := 0
    let s : State := stOf (dPath [] e [(9, wEpt)])
    let a := s.dev.accepted q e
    let i := leAt e 16 2
    s.live ∧ s.dev.begins q e a ∧ budgetNamed a i = true) := by
  refine ⟨?_, ?_, ?_, ?_, ?_⟩
  · dsimp only; exact ⟨by simp only [State.live, Dev.quiet]; decide +kernel, begins_of cmdMcastWrite (by unfold Dev.entryReady; decide +kernel) rfl (by decide +kernel), by decide +kernel, by decide +kernel, by decide +kernel⟩
  · dsimp only; exact ⟨by simp only [State.live, Dev.quiet]; decide +kernel, begins_of (fun _ => cmdMcastClear) (by unfold Dev.entryReady; decide +kernel) rfl (by decide +kernel), by decide +kernel⟩
  · dsimp only; exact ⟨by simp only [State.live, Dev.quiet]; decide +kernel, begins_of cmdBudgetWrite (by unfold Dev.entryReady; decide +kernel) rfl (by decide +kernel), by decide +kernel, by decide +kernel, by decide +kernel⟩
  · dsimp only; exact ⟨by simp only [State.live, Dev.quiet]; decide +kernel, begins_of cmdBudgetClear (by unfold Dev.entryReady; decide +kernel) rfl (by decide +kernel), by decide +kernel⟩
  · dsimp only; exact ⟨by simp only [State.live, Dev.quiet]; decide +kernel, begins_of cmdBudgetClear (by unfold Dev.entryReady; decide +kernel) rfl (by decide +kernel), by decide +kernel⟩

def wFur (gen state : Nat) : Furrow :=
  { gen := gen, state := if state = 0 then .prepared else if state = 1 then .active else .broken, inX := 64, last := false, outHop := 4, idx := 0,
    inSub := 0, first := 10, count := 2, stride := 7, src := 8, dst := 9, path := 5, queue := [], released := 0 }
def furImg (id gen count : Nat) : Bytes :=
  toLE 8 (id + gen * 2 ^ 32) ++ toLE 8 (64 + 4 * 256 + 10 * 2 ^ 32 + count * 2 ^ 48) ++ toLE 8 (7 + 8 * 2 ^ 16 + 9 * 2 ^ 40) ++ toLE 8 5
def dFur (img e : Bytes) (t : Tab Furrow) : Dev :=
  let d := dPath img e []
  { d with tab := { d.tab with furrows := t } }
def furEnt (gen : Nat) : Bytes := ent 0x34 0 [(16, 4, 70000), (20, 2, gen), (24, 8, 65536)]
def furHyp (a : Dev) (e : Bytes) : Bool :=
  let i := hostRead a (leAt e 24 8) 32
  let f := (furrowImage i).1
  decide (opOf e = 0x34 ∧ modeOf e = 0 ∧ plainOk e [(16, 6), (24, 8)] = true ∧ leAt e 24 8 % 64 = 0 ∧ (furrowImage i).2 = true
    ∧ leAt i 0 4 = leAt e 16 4 ∧ f.gen = leAt e 20 2 ∧ reservedEid f.src = false ∧ reservedEid f.dst = false ∧ furrowFieldsOk a f = true)

/-- Meets the hypotheses of `FurrowCommands`. -/
theorem test_meets_FurrowCommands :
    (let e := furEnt 3
    let q := 0
    let s : State := stOf (dFur (furImg 70000 3 2) e [])
    let a := s.dev.accepted q e
    let id := leAt e 16 4
    let f := (furrowImage (hostRead a (leAt e 24 8) 32)).1
    s.live ∧ s.dev.begins q e a ∧ (furHyp a e = true ∧ tget a.tab.furrows id = none ∧ furrowRoom a id f = true))
    ∧ (let e := furEnt 3
    let q := 0
    let s : State := stOf (dFur (furImg 70000 3 2) e [(4, wFur 9 1)])
    let a := s.dev.accepted q e
    let id := leAt e 16 4
    let f := (furrowImage (hostRead a (leAt e 24 8) 32)).1
    s.live ∧ s.dev.begins q e a ∧ (furHyp a e = true ∧ tget a.tab.furrows id = none ∧ furrowRoom a id f = false))
    ∧ (let e := furEnt 3
    let q := 0
    let s : State := stOf (dFur (furImg 70000 3 2) e [(70000, wFur 3 1)])
    let a := s.dev.accepted q e
    let id := leAt e 16 4
    let gen := leAt e 20 2
    let o := wFur 3 1
    s.live ∧ s.dev.begins q e a ∧ (furHyp a e = true ∧ tget a.tab.furrows id = some o ∧ o.gen = gen))
    ∧ (let e := furEnt 3
    let q := 0
    let s : State := stOf (dFur (furImg 70000 3 2) e [(70000, wFur 4 1)])
    let a := s.dev.accepted q e
    let id := leAt e 16 4
    let gen := leAt e 20 2
    let o := wFur 4 1
    s.live ∧ s.dev.begins q e a ∧ (furHyp a e = true ∧ tget a.tab.furrows id = some o ∧ o.gen ≠ gen ∧ ((gen + 65536 - o.gen % 65536) % 65536 = 0 ∨ 32767 < (gen + 65536 - o.gen % 65536) % 65536)))
    ∧ (let e := ent 0x34 1 [(16, 4, 70000), (20, 2, 3)]
    let q := 0
    let s : State := stOf (dFur [] e [(70000, wFur 3 0)])
    let a := s.dev.accepted q e
    let id := leAt e 16 4
    let gen := leAt e 20 2
    let f := wFur 3 0
    s.live ∧ s.dev.begins q e a ∧ (opOf e = 0x34 ∧ modeOf e = 1 ∧ plainOk e [(16, 6)] = true ∧ tget a.tab.furrows id = some f ∧ f.gen = gen ∧ f.state = .prepared))
    ∧ (let e := ent 0x34 1 [(16, 4, 70000), (20, 2, 3)]
    let q := 0
    let s : State := stOf (dFur [] e [(70000, wFur 3 1)])
    let a := s.dev.accepted q e
    let id := leAt e 16 4
    let gen := leAt e 20 2
    let f := wFur 3 1
    s.live ∧ s.dev.begins q e a ∧ (tget a.tab.furrows id = some f ∧ f.gen = gen ∧ f.state = .active))
    ∧ (let e := ent 0x34 1 [(16, 4, 70000), (20, 2, 3)]
    let q := 0
    let s : State := stOf (dFur [] e [(70000, wFur 3 2)])
    let a := s.dev.accepted q e
    let id := leAt e 16 4
    let gen := leAt e 20 2
    let f := wFur 3 2
    s.live ∧ s.dev.begins q e a ∧ (tget a.tab.furrows id = some f ∧ f.gen = gen ∧ f.state = .broken))
    ∧ (let e := ent 0x35 0 [(16, 4, 70000), (20, 2, 3)]
    let q := 0
    let s : State := stOf (dFur [] e [])
    let a := s.dev.accepted q e
    let id := leAt e 16 4
    s.live ∧ s.dev.begins q e a ∧ (opOf e = 0x35 ∧ modeOf e = 0 ∧ plainOk e [(16, 6)] = true ∧ tget a.tab.furrows id = none))
    ∧ (let e := ent 0x35 0 [(16, 4, 70000), (20, 2, 3)]
    let q := 0
    let s : State := stOf (dFur [] e [(70000, wFur 3 1)])
    let a := s.dev.accepted q e
    let id := leAt e 16 4
    let gen := leAt e 20 2
    let f := wFur 3 1
    s.live ∧ s.dev.begins q e a ∧ (tget a.tab.furrows id = some f ∧ f.gen = gen ∧ f.queue = [] ∧ (∀ p ∈ a.sw.tx, p.2.fr.furrow ≠ some id))) := by
  refine ⟨?_, ?_, ?_, ?_, ?_, ?_, ?_, ?_, ?_⟩
  · dsimp only; exact ⟨by simp only [State.live, Dev.quiet]; decide +kernel, begins_of cmdFurrowPrepare (by unfold Dev.entryReady; decide +kernel) rfl (by decide +kernel), by decide +kernel⟩
  · dsimp only; exact ⟨by simp only [State.live, Dev.quiet]; decide +kernel, begins_of cmdFurrowPrepare (by unfold Dev.entryReady; decide +kernel) rfl (by decide +kernel), by decide +kernel⟩
  · dsimp only; exact ⟨by simp only [State.live, Dev.quiet]; decide +kernel, begins_of cmdFurrowPrepare (by unfold Dev.entryReady; decide +kernel) rfl (by decide +kernel), by decide +kernel⟩
  · dsimp only; exact ⟨by simp only [State.live, Dev.quiet]; decide +kernel, begins_of cmdFurrowPrepare (by unfold Dev.entryReady; decide +kernel) rfl (by decide +kernel), by decide +kernel⟩
  · dsimp only; exact ⟨by simp only [State.live, Dev.quiet]; decide +kernel, begins_of (fun _ => cmdFurrowCommit) (by unfold Dev.entryReady; decide +kernel) rfl (by decide +kernel), by decide +kernel⟩
  · dsimp only; exact ⟨by simp only [State.live, Dev.quiet]; decide +kernel, begins_of (fun _ => cmdFurrowCommit) (by unfold Dev.entryReady; decide +kernel) rfl (by decide +kernel), by decide +kernel⟩
  · dsimp only; exact ⟨by simp only [State.live, Dev.quiet]; decide +kernel, begins_of (fun _ => cmdFurrowCommit) (by unfold Dev.entryReady; decide +kernel) rfl (by decide +kernel), by decide +kernel⟩
  · dsimp only; exact ⟨by simp only [State.live, Dev.quiet]; decide +kernel, begins_of (fun _ => cmdFurrowClear) (by unfold Dev.entryReady; decide +kernel) rfl (by decide +kernel), by decide +kernel⟩
  · dsimp only; exact ⟨by simp only [State.live, Dev.quiet]; decide +kernel, begins_of (fun _ => cmdFurrowClear) (by unfold Dev.entryReady; decide +kernel) rfl (by decide +kernel), by decide +kernel⟩

def wLow : Budget := { wBudget with old := [{ rate := 20, frames := [4], cmd := sqCmd 0 (ent 0x38 0 []) }] }
def dOld : Dev :=
  let d := dPath [] [] []
  { d with tab := { d.tab with budgets := [(6, wLow)] } }
def txOld : Tx := { fr := wFrame 9 2 40, budget := some 6, adm := none, sent := 0, resv := none, held := [] }
def eptRetry : Dev :=
  let d := hostWrite 65536 (eptImg 0 9 [5]) (withWaiting eptEnt dLink)
  { d with tab := { tablesZero with paths := [(5, wPath false)], budgets := [(6, wBudget)] } }

/-- Meets the hypotheses of `TableEvents`. -/
theorem test_meets_TableEvents :
    (let s : State := stOf dUp
    s.live)
    ∧ (let s : State := stOf dOld
    let i := 6
    let q := 0
    let e := ent 0x38 0 []
    let b : Budget := wLow
    s.live ∧ budgetKin s.dev i = [i] ∧ i < 65536 ∧ tget s.dev.tab.budgets i = some b ∧ b.old = [{ rate := 20, frames := [4], cmd := sqCmd q e }] ∧ (∀ f ∈ [4], tget s.dev.sw.tx f = none))
    ∧ (let s : State := stOf { dOld with sw := { switchZero with tx := [(4, txOld)] } }
    let i := 6
    let b : Budget := wLow
    s.live ∧ budgetKin s.dev i = [i] ∧ tget s.dev.tab.budgets i = some b ∧ b.old = [{ rate := 20, frames := [4], cmd := sqCmd 0 (ent 0x38 0 []) }] ∧ (∃ f ∈ [4], tget s.dev.sw.tx f ≠ none))
    ∧ (let s : State := stOf { dEpt (some { wEpt with fence := some [4] }) [] [] with clk := { clockZero with swc := 10 } }
    let eid : BitVec 24 := 9
    let x : EptEntry := { wEpt with fence := some [4] }
    let l := 9
    s.live ∧ tget s.dev.tab.ept eid.toNat = some x ∧ x.lastD = some l ∧ isLate s.dev l = true ∧ s.dev.sw.tx = [])
    ∧ (let s : State := stOf eptRetry
    let q := 0
    let e := eptEnt
    let a := s.dev.accepted q e
    let m := mOf a
    s.live ∧ s.dev.retries q e a ∧ (opOf e = 0x30 ∧ modeOf e = 0 ∧ plainOk e [(16, 8)] = true ∧ (eptImage (sqCmd q e) (leAt e 16 8) a).isSome = true ∧ m.peer = none ∧ tget a.tab.ept m.eid = none ∧ m.e.slots.any (fun x => decide (65535 < refsOf a x.1 + slotUses m.e.slots x.1)) = false ∧ a.tab.ept.length < 524288))
    ∧ (let s : State := stOf (dEpt (some wEpt) [] [])
    s.live ∧ s.dev.boot.recovery = false ∧ s.dev.tab.winBusy = false)
    ∧ (let s0 : Dev := dEpt (some wEpt) [] []
    let s : State := stOf { s0 with tab := { s0.tab with winBusy := true }, regs := tput s0.regs 0x200000 0x900 }
    s.live ∧ s.dev.tab.winBusy = true) := by
  refine ⟨?_, ?_, ?_, ?_, ?_, ?_, ?_⟩
  · simp only [State.live, Dev.quiet]; decide +kernel
  · simp only [State.live, Dev.quiet]; decide +kernel
  · simp only [State.live, Dev.quiet]; decide +kernel
  · simp only [State.live, Dev.quiet]; decide +kernel
  · dsimp only; exact ⟨by simp only [State.live, Dev.quiet]; decide +kernel, retries_of cmdEptSet (by decide +kernel) rfl (by decide +kernel), by decide +kernel⟩
  · simp only [State.live, Dev.quiet]; decide +kernel
  · simp only [State.live, Dev.quiet]; decide +kernel

def dRing (watch irq : Nat) : Dev :=
  let d := putReg (oSqCtl 0) (4 + 32 + 2 ^ 11 + watch * 2 ^ 12) (withEntry [] dUp)
  let d := putReg (oCqCtl 0) (4 + 2 ^ 12 + irq * 2 ^ 13 + 3 * 2 ^ 5) (putReg oEqCtl (4 + 2 ^ 12) d)
  modRing (fun r => { r with eqSeen := true, eq := { ringZero with wr := 3, rd := 1 }, cqs := [(0, { ringZero with wr := 17, rd := 15 })] }) d

/-- Meets the hypotheses of `Doorbells`. -/
theorem test_meets_Doorbells :
    (let s : State := stOf (dRing 0 0)
    let q := 0
    let v : BitVec 32 := 15
    s.live ∧ q < 64 ∧ sqOn s.dev q = true ∧ flag s.dev (oSqCtl q) 12 = false ∧ v.toNat < sqDepth s.dev q)
    ∧ (let s : State := stOf (dRing 0 0)
    let q := 0
    let v : BitVec 32 := 16
    s.live ∧ q < 64 ∧ sqOn s.dev q = true ∧ flag s.dev (oSqCtl q) 12 = false ∧ sqDepth s.dev q ≤ v.toNat)
    ∧ (let s : State := stOf (dRing 0 0)
    let q := 63
    s.live ∧ q < 64 ∧ sqOn s.dev q = false)
    ∧ (let s : State := stOf (dRing 1 0)
    let q := 0
    let v : BitVec 32 := 2
    s.live ∧ q < 64 ∧ sqOn s.dev q = true ∧ flag s.dev (oSqCtl q) 12 = true ∧ v.toNat < sqDepth s.dev q)
    ∧ (let s : State := stOf (dRing 1 0)
    let q := 0
    s.live ∧ q < 64 ∧ sqOn s.dev q = true ∧ flag s.dev (oSqCtl q) 12 = true ∧ watchedTail s.dev q < sqDepth s.dev q)
    ∧ (let s : State := stOf (dRing 0 1)
    let q := 0
    let v : BitVec 32 := 1
    let r : Ring := { cq s.dev q with rd := (cq s.dev q).rd + 2 }
    s.live ∧ q < 64 ∧ cqOn s.dev q = true ∧ headReturn (cqDepth s.dev q) (cq s.dev q) v.toNat = some 2 ∧ (flag s.dev (oCqCtl q) 13 = false ∨ r.wr ≤ r.rd))
    ∧ (let s : State := stOf (dRing 0 1)
    let q := 0
    let v : BitVec 32 := 0
    let r : Ring := { cq s.dev q with rd := (cq s.dev q).rd + 1 }
    s.live ∧ q < 64 ∧ cqOn s.dev q = true ∧ headReturn (cqDepth s.dev q) (cq s.dev q) v.toNat = some 1 ∧ flag s.dev (oCqCtl q) 13 = true ∧ r.rd < r.wr)
    ∧ (let s : State := stOf (dRing 0 0)
    let v : BitVec 32 := 2
    let n := 1
    let r : Ring := { s.dev.ring.eq with rd := s.dev.ring.eq.rd + n }
    s.live ∧ eqOn s.dev = true ∧ headReturn (eqDepth s.dev) s.dev.ring.eq v.toNat = some n ∧ (flag s.dev oEqCtl 13 = false ∨ r.wr ≤ r.rd)) := by
  refine ⟨?_, ?_, ?_, ?_, ?_, ?_, ?_, ?_⟩
  · simp only [State.live, Dev.quiet]; decide +kernel
  · simp only [State.live, Dev.quiet]; decide +kernel
  · simp only [State.live, Dev.quiet]; decide +kernel
  · simp only [State.live, Dev.quiet]; decide +kernel
  · simp only [State.live, Dev.quiet]; decide +kernel
  · simp only [State.live, Dev.quiet]; decide +kernel
  · simp only [State.live, Dev.quiet]; decide +kernel
  · simp only [State.live, Dev.quiet]; decide +kernel

/-- Meets the hypotheses of `RingControl`. -/
theorem test_meets_RingControl :
    (let s : State := stOf (dRing 0 0)
    let q := 5
    let v : BitVec 64 := 0x825
    s.live ∧ q < 64 ∧ s.dev.boot.recovery = false ∧ sqOn s.dev q = false ∧ v.toNat.testBit 12 = false ∧ flag s.dev (oSqCtl q) 12 = false)
    ∧ (let s : State := stOf (dRing 0 0)
    let q := 5
    s.live ∧ q < 64 ∧ s.dev.boot.recovery = false ∧ cqOn s.dev q = false)
    ∧ (let s : State := stOf (putReg oEqCtl 4 (dRing 0 0))
    let q := 5
    s.live ∧ q < 64 ∧ s.dev.boot.recovery = false ∧ eqOn s.dev = false ∧ s.dev.ring.eqSeen = true)
    ∧ (let s : State := stOf (modSq 0 (fun x => { x with window := [(5, 0, 0, 0)] }) (dRing 0 0))
    let q := 0
    s.live ∧ q < 64 ∧ s.dev.boot.recovery = false ∧ sqOn s.dev q = true ∧ (sq s.dev q).busy = [] ∧ s.dev.sw.tx = []) := by
  refine ⟨?_, ?_, ?_, ?_⟩
  · simp only [State.live, Dev.quiet]; decide +kernel
  · simp only [State.live, Dev.quiet]; decide +kernel
  · simp only [State.live, Dev.quiet]; decide +kernel
  · simp only [State.live, Dev.quiet]; decide +kernel

def nopEnt : Bytes := ent 0x51 0 [(8, 8, 77)]
def fenceEnt : Bytes := ent 0x50 0 [(8, 8, 77)]

/-- Meets the hypotheses of `EntriesAndFences`. -/
theorem test_meets_EntriesAndFences :
    (let s : State := stOf (withEntry nopEnt dUp)
    let q := 0
    let e := nopEnt
    s.live ∧ q < 64 ∧ s.dev.entryReady q e)
    ∧ (let s : State := stOf (modSq 0 (fun x => { x with busy := [77] }) (withEntry nopEnt dUp))
    let q := 0
    let e := nopEnt
    s.live ∧ q < 64 ∧ sqOn s.dev q = true ∧ (sq s.dev q).waiting = none ∧ (sq s.dev q).head ≠ (sq s.dev q).tail ∧ e = headEntry s.dev q ∧ (sq s.dev q).busy.contains (tagOf e) = true)
    ∧ (let s : State := stOf (modSq 0 (fun x => { x with window := [(77, 5, 0, 9)] }) (withEntry nopEnt dUp))
    let q := 0
    let e := nopEnt
    s.live ∧ q < 64 ∧ sqOn s.dev q = true ∧ (sq s.dev q).waiting = none ∧ (sq s.dev q).head ≠ (sq s.dev q).tail ∧ e = headEntry s.dev q ∧ (sq s.dev q).busy.contains (tagOf e) = false ∧ cqFree s.dev (cqOf s.dev q) = true ∧ (sq s.dev q).window.find? (fun w => w.1 == tagOf e) = some (tagOf e, 5, 0, 9))
    ∧ (let s : State := stOf (withEntry nopEnt dUp)
    let q := 0
    let e := nopEnt
    let a := s.dev.accepted q e
    s.live ∧ s.dev.begins q e a ∧ (opOf e = 0x51 ∧ modeOf e = 0 ∧ plainOk e [] = true))
    ∧ (let s : State := stOf (withEntry fenceEnt dUp)
    let q := 0
    let e := fenceEnt
    let a := s.dev.accepted q e
    s.live ∧ s.dev.begins q e a ∧ (opOf e = 0x50 ∧ modeOf e = 0 ∧ plainOk e [] = true ∧ (sq s.dev q).busy = []))
    ∧ (let s : State := stOf (modSq 0 (fun x => { x with busy := [5] }) (withEntry fenceEnt dUp))
    let q := 0
    let e := fenceEnt
    s.live ∧ s.dev.entryReady q e ∧ opOf e = 0x50 ∧ modeOf e = 0 ∧ plainOk e [] = true ∧ (∃ t ∈ (sq s.dev q).busy, t ≠ tagOf e))
    ∧ (let s : State := stOf (withWaiting fenceEnt dUp)
    let q := 0
    let e := fenceEnt
    let a := s.dev.accepted q e
    s.live ∧ s.dev.retries q e a ∧ (opOf e = 0x50 ∧ modeOf e = 0 ∧ plainOk e [] = true ∧ (sq s.dev q).busy = [])) := by
  refine ⟨?_, ?_, ?_, ?_, ?_, ?_, ?_⟩
  · simp only [State.live, Dev.quiet, Dev.entryReady]; decide +kernel
  · simp only [State.live, Dev.quiet]; decide +kernel
  · simp only [State.live, Dev.quiet]; decide +kernel
  · dsimp only; exact ⟨by simp only [State.live, Dev.quiet]; decide +kernel, begins_of cmdNop (by unfold Dev.entryReady; decide +kernel) rfl (by decide +kernel), by decide +kernel⟩
  · dsimp only; exact ⟨by simp only [State.live, Dev.quiet]; decide +kernel, begins_of cmdFence (by unfold Dev.entryReady; decide +kernel) rfl (by decide +kernel), by decide +kernel⟩
  · simp only [State.live, Dev.quiet, Dev.entryReady]; decide +kernel
  · dsimp only; exact ⟨by simp only [State.live, Dev.quiet]; decide +kernel, retries_of cmdFence (by decide +kernel) rfl (by decide +kernel), by decide +kernel⟩

def hEpt (kind idx : Nat) : EptEntry := { kind := kind, isLocal := true, mcast := false, epoch := 0, tcMask := 4, idx := idx, slots := [(5, 6)], lastD := none, fence := none }
def dHost (e : Bytes) : Dev :=
  withEntry e { dLink with tab := { tablesZero with
      ept := [(8, hEpt 0 0), (9, wEpt), (10, { wEpt with kind := 1 })], paths := [(5, wPath false)], budgets := [(6, wBudget)] } }
/-- The admission of a frame that is admitted. -/
def admOf (d : Dev) (fr : Frame) : Adm :=
  match admitFrame d fr with
  | .ok a => a
  | _ => { hops := [], nhop := 0, mcast := false, vc := 0, dl := 0, budget := none, hash := 0, rate := 0, hdr := [] }
def sendEnt : Bytes := ent 1 0 [(8, 8, 1), (16, 8, 65536), (24, 4, 64), (28, 3, 9), (31, 1, 8 + 2), (32, 2, 5)]
def readEnt : Bytes := ent 3 0 [(8, 8, 1), (16, 8, 65536), (24, 4, 16), (28, 3, 10), (31, 1, 2), (32, 8, 0x1000), (40, 2, 5)]
def writeEnt : Bytes := ent 4 0 [(8, 8, 1), (16, 8, 65536), (24, 4, 131040), (28, 3, 10), (31, 1, 0x32), (32, 8, 0x1000), (40, 2, 5), (42, 1, 63), (43, 1, 15)]

/-- Meets the hypotheses of `HostFrames`. -/
theorem test_meets_HostFrames :
    (let s : State := stOf (dHost sendEnt)
    let q := 0
    let e := sendEnt
    let src := 8
    s.live ∧ s.dev.entryReady q e ∧ modeOf e = 0 ∧ sqEid s.dev q = some src ∧ opOf e = 1 ∧ sendOk s.dev e = true)
    ∧ (let s : State := stOf (dHost readEnt)
    let q := 0
    let e := readEnt
    let src := 8
    let len := leAt e 24 4
    s.live ∧ s.dev.entryReady q e ∧ modeOf e = 0 ∧ sqEid s.dev q = some src ∧ opOf e = 3 ∧ plainOk e [(16, 26)] = true ∧ leAt e 16 8 % 64 = 0 ∧ len % 16 = 0 ∧ 16 ≤ len ∧ len ≤ 131040 ∧ byteAt e 31 ≤ 7 ∧ leAt e 32 8 < 2 ^ 48 ∧ forgeDst s.dev (leAt e 28 3) = true)
    ∧ (let s : State := stOf (dHost writeEnt)
    let q := 0
    let e := writeEnt
    let src := 8
    let len := leAt e 24 4
    let fl := byteAt e 31
    (s.live ∧ s.dev.entryReady q e ∧ modeOf e = 0 ∧ sqEid s.dev q = some src ∧ opOf e = 4 ∧ plainOk e [(16, 28)] = true ∧ leAt e 16 8 % 64 = 0 ∧ len % 16 = 0 ∧ 16 ≤ len ∧ len ≤ 131040 ∧ fl < 64 ∧ leAt e 32 8 < 2 ^ 48 ∧ forgeDst s.dev (leAt e 28 3) = true ∧ byteAt e 43 ≤ 15) ∧ (if fl.testBit 4 then (if fl.testBit 5 then byteAt e 42 ≤ 63 else byteAt e 42 ≤ 31) else fl.testBit 5 = false ∧ byteAt e 42 = 0 ∧ byteAt e 43 = 0))
    ∧ (let e := ent 2 0 [(8, 8, 1), (16, 8, 65536), (24, 4, 131072)]
    let s : State := stOf (dHost e)
    let q := 0
    let a := s.dev.accepted q e
    s.live ∧ s.dev.begins q e a ∧ (modeOf e = 0 ∧ sqEid s.dev q = some 8 ∧ opOf e = 2 ∧ plainOk e [(16, 12)] = true ∧ leAt e 16 8 % 64 = 0 ∧ 64 ≤ leAt e 24 4 ∧ leAt e 24 4 ≤ 131072))
    ∧ (let e := ent 1 0 [(8, 8, 1), (16, 8, 65536), (24, 4, 64), (28, 3, 9), (31, 1, 2), (32, 2, 5)]
    let s : State := stOf (dHost e)
    let q := 0
    let src := 8
    let fr : Frame := {
             op := byteAt e 34, src := src, dst := leAt e 28 3, tc := byteAt e 31 % 8, label := leAt e 32 2,
             hdr := frameHdr (slice e 36 20), data := hostRead s.dev (leAt e 16 8) (leAt e 24 4), xport := 84 + q % 2,
             furrow := if (byteAt e 31).testBit 5 then some (leAt e 60 4) else none, direct := none, reply := 0,
             seq := if (byteAt e 31).testBit 4 && byteAt e 34 == 0 then some (leAt e 56 4) else none,
             org := .host (sqCmd q e) ((byteAt e 31).testBit 3) 1 false }
    let a := admOf s.dev fr
    let i := 6
    let b := wBudget
    s.live ∧ s.dev.entryReady q e ∧ modeOf e = 0 ∧ sqEid s.dev q = some src ∧ opOf e = 1 ∧ sendOk s.dev e = true ∧ s.dev.leavesWhole fr a i b ∧ (byteAt e 31).testBit 3 = false)
    ∧ (let e := ent 4 0 [(8, 8, 1), (16, 8, 65536), (24, 4, 480), (28, 3, 10), (31, 1, 2), (32, 8, 0x1000), (40, 2, 5)]
    let s : State := stOf (dHost e)
    let q := 0
    let src := 8
    let len := leAt e 24 4
    let fl := byteAt e 31
    let fr : Frame := {
             op := 3, src := src, dst := leAt e 28 3, tc := fl % 8, label := leAt e 40 2,
             hdr := frameHdr (toBE 8 (leAt e 32 8) ++ toBE 1 (boolNat (fl.testBit 4) * 128 + boolNat (fl.testBit 5) * 64)
               ++ toBE 1 (byteAt e 42)), data := hostRead s.dev (leAt e 16 8) len, xport := 84 + q % 2,
             furrow := none, direct := none, reply := 0, seq := none, org := .host (sqCmd q e) (fl.testBit 3) 4 false }
    let a := admOf s.dev fr
    let i := 6
    let b := wBudget
    (s.live ∧ s.dev.entryReady q e ∧ modeOf e = 0 ∧ sqEid s.dev q = some src ∧ opOf e = 4 ∧ plainOk e [(16, 28)] = true ∧ leAt e 16 8 % 64 = 0 ∧ len % 16 = 0 ∧ 16 ≤ len ∧ len ≤ 131040 ∧ fl < 64 ∧ leAt e 32 8 < 2 ^ 48 ∧ forgeDst s.dev (leAt e 28 3) = true ∧ byteAt e 43 ≤ 15 ∧ s.dev.leavesWhole fr a i b ∧ fl.testBit 3 = false) ∧ (if fl.testBit 4 then (if fl.testBit 5 then byteAt e 42 ≤ 63 else byteAt e 42 ≤ 31) else fl.testBit 5 = false ∧ byteAt e 42 = 0 ∧ byteAt e 43 = 0)) := by
  refine ⟨?_, ?_, ?_, ?_, ?_, ?_⟩
  · simp only [State.live, Dev.quiet, Dev.entryReady]; decide +kernel
  · simp only [State.live, Dev.quiet, Dev.entryReady]; decide +kernel
  · simp only [State.live, Dev.quiet, Dev.entryReady]; decide +kernel
  · dsimp only; exact ⟨by simp only [State.live, Dev.quiet]; decide +kernel, begins_of cmdRecvPost (by unfold Dev.entryReady; decide +kernel) rfl (by decide +kernel), by decide +kernel⟩
  · simp only [State.live, Dev.quiet, Dev.entryReady, Dev.leavesWhole]; decide +kernel
  · simp only [State.live, Dev.quiet, Dev.entryReady, Dev.leavesWhole]; decide +kernel

def rxF (op flags seq ackH : Nat) (acc : Bool) (data : Bytes) : RxFrame :=
  { code := 0xF8, idx := 0, src := 9, dst := 8, tc := 2, vc := 0, dl := 100, k := 1, late := false,
    hdr := toBE 1 (16 + flags * 8) ++ toBE 1 op ++ toBE 2 1 ++ toBE 4 seq ++ toBE 4 ackH ++ (List.range 20).map (BitVec.ofNat 8), data := data, accepted := acc }
def recvCmd : Cmd := sqCmd 0 (ent 2 0 [(8, 8, 1), (16, 8, 65536), (24, 4, 131072)])
def dArr (f : RxFrame) : Dev :=
  let d := dHost []
  { d with
    sw := { switchZero with rx := [f] },
    ring := { d.ring with
      sqs := [(0, { sqZero with bufs := [(recvCmd, 65536, 64)], busy := [1, 2, 3] })], cqs := [(1, { ringZero with reserved := 3 })],
      acks := [(5, { src := 8, dst := 9, seq := 4, dl := 50000, cmd := sqCmd 0 sendEnt }), (6, { src := 8, dst := 9, seq := 9, dl := 40000, cmd := sqCmd 0 sendEnt })],
      reads := [(7, { src := 8, dst := 9, addr := 0x30000, len := 16, dl := some 40000, cmd := sqCmd 0 readEnt })],
      dstPairs := [(pairKey 9 8, { h := 4, win := [7], ackDue := false })] } }

/-- Meets the hypotheses of `HostArrivals`. -/
theorem test_meets_HostArrivals :
    (let f := rxF 0 0 5 0 false [1, 2]
    let s : State := stOf (dArr f)
    s.dev.boot.power = .on ∧ firstRx s.dev (fun f => sequenced (rxOp f) && !f.accepted && (f.code == 0xF8 || f.code == 0xFB || (f.code == 0xFC && rxOp f == 0))) = some f ∧ seqTest s.dev f.src f.dst (rxSeq f) = .accept)
    ∧ (let f := rxF 0 0 1 0 false [1, 2]
    let s : State := stOf (modRing (fun r => { r with dstPairs := [] }) (dArr f))
    s.dev.boot.power = .on ∧ firstRx s.dev (fun f => sequenced (rxOp f) && !f.accepted && (f.code == 0xF8 || f.code == 0xFB || (f.code == 0xFC && rxOp f == 0))) = some f ∧ seqTest s.dev f.src f.dst (rxSeq f) = .accept)
    ∧ (let f := rxF 0 0 4 0 false [1, 2]
    let s : State := stOf (dArr f)
    let p : DstPair := { h := 4, win := [7], ackDue := false }
    s.dev.boot.power = .on ∧ firstRx s.dev (fun f => sequenced (rxOp f) && !f.accepted && (f.code == 0xF8 || f.code == 0xFB || (f.code == 0xFC && rxOp f == 0))) = some f ∧ seqTest s.dev f.src f.dst (rxSeq f) = .dup ∧ tget s.dev.ring.dstPairs (pairKey f.src f.dst) = some p)
    ∧ (let f := rxF 0 1 5 4 true (zeros 33)
    let s : State := stOf (dArr f)
    let q := 0
    let c := recvCmd
    let a := 65536
    let n := 64
    let rest : List (Cmd × Nat × Nat) := []
    s.dev.boot.power = .on ∧ firstRx s.dev (fun f => f.code == 0xF8 && f.idx == q && rxOp f == 0 && f.accepted) = some f ∧ (sq s.dev q).bufs = (c, a, n) :: rest ∧ seqTest s.dev f.src f.dst (rxSeq f) = .accept)
    ∧ (let f := rxF 0xB 1 0 4 true []
    let s : State := stOf (dArr f)
    s.dev.boot.power = .on ∧ firstRx s.dev (fun f => rxOp f == 0xB && !(f.code == 0xFA && (f.vc == 2 || f.vc == 3))) = some f ∧ (byteAt f.hdr 0).testBit 3 = true)
    ∧ (let f := rxF 0xA 0 0 4 true []
    let s : State := stOf (dArr f)
    s.dev.boot.power = .on ∧ firstRx s.dev (fun f => f.code == 0xF8 && rxOp f == 0xA) = some f ∧ s.dev.cru.joins = [] ∧ (byteAt f.hdr 0).testBit 3 = false)
    ∧ (let f := rxF 2 0 0 4 true [1,2,3]
    let s : State := stOf (dArr f)
    let id := 7
    let p : PendRead := { src := 8, dst := 9, addr := 0x30000, len := 16, dl := some 40000, cmd := sqCmd 0 readEnt }
    s.dev.boot.power = .on ∧ firstRx s.dev (fun f => f.code == 0xF8 && rxOp f == 2) = some f ∧ (byteAt f.hdr 0).testBit 3 = false ∧ s.dev.ring.reads.find? (fun p => p.2.src == f.dst && p.2.dst == f.src && p.2.dl.isSome) = some (id, p))
    ∧ (let f := rxF 2 0 0 4 true [1,2,3]
    let s : State := stOf (dArr f)
    let id := 6
    let p : PendAck := { src := 8, dst := 9, seq := 9, dl := 40000, cmd := sqCmd 0 sendEnt }
    s.dev.boot.power = .on ∧ tget s.dev.ring.acks id = some p ∧ ackExpired s.dev p.dl = true)
    ∧ (let f := rxF 2 0 0 4 true [1,2,3]
    let s : State := stOf (dArr f)
    let id := 7
    let p : PendRead := { src := 8, dst := 9, addr := 0x30000, len := 16, dl := some 40000, cmd := sqCmd 0 readEnt }
    let dl := 40000
    s.dev.boot.power = .on ∧ tget s.dev.ring.reads id = some p ∧ p.dl = some dl ∧ ackExpired s.dev dl = true) := by
  refine ⟨?_, ?_, ?_, ?_, ?_, ?_, ?_, ?_, ?_⟩
  · dsimp only; decide +kernel
  · dsimp only; decide +kernel
  · dsimp only; decide +kernel
  · dsimp only; decide +kernel
  · dsimp only; decide +kernel
  · dsimp only; decide +kernel
  · dsimp only; decide +kernel
  · dsimp only; decide +kernel
  · dsimp only; decide +kernel

/-- Meets the hypotheses of `SequenceWindow`. -/
theorem test_meets_SequenceWindow :
    (let w : List Nat := [4294967295, 0, 1, 3]
    4294967294 < 2 ^ 32 ∧ (∀ x ∈ w, x < 2 ^ 32)) := by
  dsimp only; decide +kernel

/-- A TREE record of one node and one member. -/
def recHdr (op fmt count : Nat) : Bytes :=
  toLE 4 70000 ++ toLE 2 3 ++ toLE 1 op ++ toLE 1 fmt ++ toLE 4 (count - 1) ++ toLE 2 0 ++ zeros 2 ++ [0, 0] ++ toLE 2 4 ++ toLE 2 0 ++ zeros 4
    ++ toLE 2 9 ++ toLE 2 1 ++ zeros 34
def recTree : Bytes := recHdr 0 0 300 ++ (toLE 3 20 ++ [0] ++ toLE 2 0xFFFF ++ zeros 10) ++ (toLE 3 8 ++ [0] ++ toLE 2 0 ++ zeros 10)
def wNode (active got : Bool) : CruNode :=
  { cid := 70000, gen := 3, idx := 0, eidBase := 20, s := 1, banks := [0], active := active, token := 5, record := recHdr 0 0 300,
    nbrs := [tagEntry (toLE 3 20 ++ [0] ++ toLE 2 0xFFFF) 0 0, tagEntry (toLE 3 8) 0 3], since := 0, got := got, matched := [0], bad := [],
    groups := [], fwd := [], fin := 0 }
def wJoin : Join :=
  { cmd := sqCmd 0 (ent 0x11 0 [(8, 8, 3)]), cid := 70000, gen := 3, rank := 0, op := 0, fmt := 0, cc := 1, alg := 0, p := 1, count := 300,
    d := 1, attach := 20, s := 1, eid := 8, forge := none, src := 65536, res := 131072, perChunk := false, sem := (0, 0, 0), tc := 2,
    next := 0, got := [], flags := 1 }
def dCru (nodes : Tab CruNode) (joins : Tab Join) (creates : Tab Create) (e : Bytes) : Dev :=
  let d := dHost e
  { d with
    cru := { crucibleZero with nodes := nodes, joins := joins, creates := creates, nextId := 9 },
    tab := { d.tab with ept := d.tab.ept ++ [(20, hEpt 2 0)] } }
def createEnt : Bytes := ent 0x10 0 [(8, 8, 3), (16, 8, 65536), (24, 4, 96)]
def joinEnt : Bytes := ent 0x11 0 [(8, 8, 3), (16, 4, 70000), (20, 2, 3), (28, 4, 299), (32, 2, 1), (34, 3, 20), (40, 8, 65536), (48, 8, 131072), (57, 1, 2)]
def abortEnt : Bytes := ent 0x12 0 [(8, 8, 3), (16, 4, 70000), (20, 2, 3), (22, 1, 14)]
def wCreate (phase : Nat) (replies : Tab Nat) : Create :=
  { cmd := sqCmd 0 createEnt, cid := 70000, gen := 3, token := 3, coord := 20, nodes := [20], phase := phase, replies := replies, lost := [],
    noticed := false, since := 0 }

/-- Meets the hypotheses of `CollectiveCommands`. -/
theorem test_meets_CollectiveCommands :
    (let s : State := stOf (hostWrite 65536 recTree (dCru [] [] [] createEnt))
    let q := 0
    let e := createEnt
    let a := s.dev.accepted q e
    let b := hostRead a (leAt e 16 8) (leAt e 24 4)
    s.live ∧ s.dev.begins q e a ∧ (opOf e = 0x10 ∧ modeOf e = 0 ∧ plainOk e [(16, 12)] = true ∧ leAt e 16 8 % 64 = 0 ∧ 96 ≤ leAt e 24 4 ∧ leAt e 24 4 ≤ 64 + 16 * 131072 ∧ leAt e 24 4 = 64 + 16 * (rN b + rP b) ∧ recordOk b = true ∧ (localEids a 2 0).head? = some 20))
    ∧ (let s : State := stOf (dCru [] [] [] joinEnt)
    let q := 0
    let e := joinEnt
    let a := s.dev.accepted q e
    s.live ∧ s.dev.begins q e a ∧ (opOf e = 0x11 ∧ modeOf e = 0 ∧ joinOk (sqCmd q e) e = true) ∧ (match (joinFields e).forge with | some f => forgeEid a f | none => sqEid a q) = some 8 ∧ a.cru.joins.any (fun p => p.2.cid == (joinFields e).cid && p.2.gen == (joinFields e).gen && p.2.rank == (joinFields e).rank) = false)
    ∧ (let s : State := stOf (dCru [(1, wNode true true)] [(2, wJoin)] [] abortEnt)
    let q := 0
    let e := abortEnt
    let a := s.dev.accepted q e
    s.live ∧ s.dev.begins q e a ∧ (opOf e = 0x12 ∧ modeOf e = 0 ∧ plainOk e [(16, 7)] = true ∧ (byteAt e 22 = 7 ∨ byteAt e 22 = 0xE)))
    ∧ (let s : State := stOf { dCru [] [] [(4, wCreate 1 [])] [] with clk := { clockZero with swc := 200 } }
    let id := 4
    let cr := wCreate 1 []
    s.live ∧ tget s.dev.cru.creates id = some cr ∧ prepTimeout s.dev / 2 < swathsSince s.dev cr.since ∧ cr.replies.length < cr.nodes.length)
    ∧ (let s : State := stOf { dCru [(1, wNode false false)] [] [] [] with clk := { clockZero with swc := 200 } }
    let id := 1
    let n := wNode false false
    s.live ∧ tget s.dev.cru.nodes id = some n ∧ n.active = false ∧ prepTimeout s.dev < swathsSince s.dev n.since)
    ∧ (let g : CruGroup := { groupZero with occ := some 0 }
    let n : CruNode := { wNode true true with groups := [(0, g)] }
    let s : State := stOf { dCru [(1, { wNode true true with groups := [(0, { groupZero with occ := some 0 })] })] [] [] [] with clk := { clockZero with swc := 12 } }
    let id := 1
    let k := 0
    s.live ∧ tget s.dev.cru.nodes id = some n ∧ rIdle n.record ≠ 0 ∧ (k, g) ∈ n.groups ∧ g.occ.isSome = true ∧ rIdle n.record < swathsSince s.dev g.since) := by
  refine ⟨?_, ?_, ?_, ?_, ?_, ?_⟩
  · dsimp only; exact ⟨by simp only [State.live, Dev.quiet]; decide +kernel, begins_of cmdCollCreate (by unfold Dev.entryReady; decide +kernel) rfl (by decide +kernel), by decide +kernel⟩
  · dsimp only; exact ⟨by simp only [State.live, Dev.quiet]; decide +kernel, begins_of cmdCollJoin (by unfold Dev.entryReady; decide +kernel) rfl (by decide +kernel), by decide +kernel, by decide +kernel, by decide +kernel⟩
  · dsimp only; exact ⟨by simp only [State.live, Dev.quiet]; decide +kernel, begins_of cmdCollAbort (by unfold Dev.entryReady; decide +kernel) rfl (by decide +kernel), by decide +kernel⟩
  · simp only [State.live, Dev.quiet]; decide +kernel
  · simp only [State.live, Dev.quiet]; decide +kernel
  · simp only [State.live, Dev.quiet]; decide +kernel

/-- Meets the hypotheses of `ControlFrames`. -/
theorem test_meets_ControlFrames :
    (let id := 4
    let cr := wCreate 1 [(0, 0)]
    let d : Dev := dCru [] [] [(4, cr)] []
    tget d.cru.creates id = some cr ∧ cr.replies.length = cr.nodes.length ∧ cr.replies.all (fun p => p.2 == 0) = true ∧ cr.phase = 1)
    ∧ (let id := 4
    let cr := wCreate 2 [(0, 0)]
    let d : Dev := dCru [] [] [(4, cr)] []
    tget d.cru.creates id = some cr ∧ cr.replies.length = cr.nodes.length ∧ cr.replies.all (fun p => p.2 == 0) = true ∧ cr.phase = 2)
    ∧ (let id := 4
    let cr := wCreate 1 [(0, 2)]
    let d : Dev := dCru [] [] [(4, cr)] []
    tget d.cru.creates id = some cr ∧ cr.replies.length = cr.nodes.length ∧ ¬ cr.replies.all (fun p => p.2 == 0) = true) := by
  refine ⟨?_, ?_, ?_⟩
  · dsimp only; decide +kernel
  · dsimp only; decide +kernel
  · dsimp only; decide +kernel

def ctlF (code answered low status rank node : Nat) (data : Bytes) : RxFrame :=
  { code := 0xF9, idx := 0, src := 9, dst := 20, tc := 0, vc := 4, dl := 100, k := 1, late := false,
    hdr := [0x10, 0xC] ++ zeros 10 ++ ctlBody 70000 3 code answered low 5 status rank node, data := data, accepted := false }
def dCtl (nodes : Tab CruNode) (creates : Tab Create) (f : RxFrame) : Dev := { dCru nodes [] creates [] with sw := { switchZero with rx := [f] } }
def resData : Bytes := recHdr 0 0 300 ++ tagEntry (toLE 3 20 ++ [0] ++ toLE 2 0xFFFF) 0 0 ++ tagEntry (toLE 3 8) 0 3

/-- Meets the hypotheses of `ControlFrames2`. -/
theorem test_meets_ControlFrames2 :
    (let f := ctlF 1 0 0 0 0 0 resData
    let s : State := stOf (dCtl [] [] f)
    let a := takeRx f s.dev
    let sp := eSpread ((chunks 16 (f.data.drop 64)).getD 0 [])
    s.dev.boot.power = .on ∧ firstCtl s.dev 1 = some f ∧ nodeAt a (fCid f) f.dst = none ∧ tombAt a (fCid f) f.dst = none ∧ banksOf a f.dst sp = some [0] ∧ fWord f % 2 = cruProtect a ∧ [0].any (fun j => partOut a 6 j || decide (bankFree a j < rW (slice f.data 0 64) / sp)) = false)
    ∧ (let f := ctlF 1 0 0 0 0 0 resData
    let s : State := stOf (dCtl [(1, wNode false false)] [] f)
    let a := takeRx f s.dev
    s.dev.boot.power = .on ∧ firstCtl s.dev 1 = some f ∧ nodeAt a (fCid f) f.dst = some (1, wNode false false))
    ∧ (let f := ctlF 2 0 0 0 0 0 []
    let s : State := stOf (dCtl [(1, wNode false false)] [] f)
    let a := takeRx f s.dev
    let id := 1
    let n := wNode false false
    s.dev.boot.power = .on ∧ firstCtl s.dev 2 = some f ∧ tombFor a (fCid f) (fGen f) f.dst = false ∧ nodeAt a (fCid f) f.dst = some (id, n) ∧ n.gen = fGen f ∧ n.active = false ∧ n.token = beAt f.hdr 22 4)
    ∧ (let f := ctlF 3 0 0 0 0 0 []
    let s : State := stOf (dCtl [(1, wNode true false)] [] f)
    let a := takeRx f s.dev
    let id := 1
    let n := wNode true false
    s.dev.boot.power = .on ∧ firstCtl s.dev 3 = some f ∧ nodeAt a (fCid f) f.dst = some (id, n) ∧ n.gen = fGen f ∧ n.token = beAt f.hdr 22 4 ∧ (n.active = false ∨ n.got = false))
    ∧ (let f := ctlF 4 1 0 0 0 0 []
    let cr : Create := { wCreate 1 [] with token := 5 }
    let s : State := stOf (dCtl [] [(4, { wCreate 1 [] with token := 5 })] f)
    let a := takeRx f s.dev
    let id := 4
    s.dev.boot.power = .on ∧ firstCtl s.dev 4 = some f ∧ a.cru.creates.find? (fun p => p.2.cid == fCid f && p.2.gen == fGen f && p.2.token == beAt f.hdr 22 4 && p.2.phase == fWord f / 65536 % 256 && p.2.coord == f.dst && decide (fTail f < p.2.nodes.length)) = some (id, cr))
    ∧ (let f := ctlF 5 0 0 7 0 0 []
    let s : State := stOf (dCtl [(1, wNode true false)] [] f)
    let a := takeRx f s.dev
    let id := 1
    let n := wNode true false
    s.dev.boot.power = .on ∧ firstCtl s.dev 5 = some f ∧ nodeAt a (fCid f) f.dst = some (id, n) ∧ n.gen = fGen f)
    ∧ (let f : RxFrame := { ctlF 5 0 0 4 0 0 [] with hdr := [0x10, 0xA] ++ zeros 10 ++ ctlBody 70000 3 0 0 0 0 8 0 0 }
    let s : State := stOf (dCtl [(1, wNode true false)] [] { ctlF 5 0 0 4 0 0 [] with hdr := [0x10, 0xA] ++ zeros 10 ++ ctlBody 70000 3 0 0 0 0 8 0 0 })
    let a := takeRx f s.dev
    let id := 1
    let n := wNode true false
    s.dev.boot.power = .on ∧ firstRx s.dev (fun g => g.code == 0xF9 && rxOp g == 0xA) = some f ∧ a.cru.creates = [] ∧ beAt f.hdr 26 2 = 8 ∧ a.cru.nodes.filter (fun p => nodeServes p.2 f.dst && ((p.2.cid == fCid f && p.2.gen == fGen f) || allZero (slice f.hdr 12 10))) = [(id, n)]) := by
  refine ⟨?_, ?_, ?_, ?_, ?_, ?_, ?_⟩
  · dsimp only; decide +kernel
  · dsimp only; decide +kernel
  · dsimp only; decide +kernel
  · dsimp only; decide +kernel
  · dsimp only; decide +kernel
  · dsimp only; decide +kernel
  · dsimp only; decide +kernel

def chF (op kind c flags tail : Nat) (data : Bytes) : RxFrame :=
  { code := 0xF9, idx := 0, src := 8, dst := 20, tc := 0, vc := 3, dl := 100, k := 1, late := false,
    hdr := [0x10] ++ toBE 1 op ++ zeros 10 ++ chunkBody 70000 3 flags kind c 0 (crc32c data) tail, data := data, accepted := false }
def wData (n : Nat) : Bytes := (List.range n).map (fun i => BitVec.ofNat 8 (i + 1))
def withG (g : CruGroup) (n : CruNode) : CruNode := { n with groups := [(0, g)] }
def dChk (prot : Nat) (nodes : Tab CruNode) (f : RxFrame) : Dev := putReg 0x280000 prot (dCtl nodes [] f)

set_option maxRecDepth 100000 in
/-- Meets the hypotheses of `CollectiveChunks`. -/
theorem test_meets_CollectiveChunks :
    (let f := chF 4 0 0 0 0 (wData 480)
    let s : State := stOf (dChk 0 [] f)
    let a := takeRx f s.dev
    s.dev.boot.power = .on ∧ firstRx s.dev (fun g => g.code == 0xF9 && rxOp g == 4) = some f ∧ fWord f / 2 ^ 26 % 4 ≠ 3 ∧ tombFor a (fCid f) (fGen f) f.dst = false ∧ nodeAt a (fCid f) f.dst = none)
    ∧ (let f := chF 4 0 0 0 0 (wData 480)
    let n := wNode true false
    let s : State := stOf (dChk 0 [(1, wNode true false)] f)
    let a := takeRx f s.dev
    let id := 1
    let c := fWord f % 2 ^ 24
    let pos := 0
    (s.dev.boot.power = .on ∧ firstRx s.dev (fun g => g.code == 0xF9 && rxOp g == 4) = some f ∧ fWord f / 2 ^ 26 % 4 ≠ 3 ∧ tombFor a (fCid f) (fGen f) f.dst = false ∧ nodeAt a (fCid f) f.dst = some (id, n) ∧ n.active = true ∧ n.gen = fGen f) ∧ (c < rChunks n.record ∧ inputPos n f = some pos ∧ (rOp n.record = 6 → n.idx = 0) ∧ (fWord f / 2 ^ 26 % 4 ≠ 0 ∨ n.matched.contains (fTail f) = true)) ∧ (checkOk a n c f = true ∧ tget n.groups (groupOf n c) = none))
    ∧ (let n := wNode true false
    let s : State := stOf (dChk 1 [(1, wNode true false)] { chF 4 0 0 0 0 (zeros 480) with data := wData 480 })
    let a := takeRx { chF 4 0 0 0 0 (zeros 480) with data := wData 480 } s.dev
    checkOk a n 0 { chF 4 0 0 0 0 (zeros 480) with data := wData 480 } = false)
    ∧ (let f := chF 4 0 0 0 0 (wData 480)
    let g : CruGroup := { groupZero with occ := some 0, ins := [(0, { data := [], flags := 0, rank := 0, check := 0 })] }
    let n := withG { groupZero with occ := some 0, ins := [(0, { data := [], flags := 0, rank := 0, check := 0 })] } (wNode true false)
    let s : State := stOf (dChk 0 [(1, n)] f)
    let a := takeRx f s.dev
    let c := fWord f % 2 ^ 24
    let pos := 0
    nodeAt a (fCid f) f.dst = some (1, n) ∧ inputPos n f = some pos ∧ checkOk a n c f = true ∧ tget n.groups (groupOf n c) = some g ∧ g.occ = some c ∧ (tget g.ins pos).isSome = true)
    ∧ (let f := chF 4 0 1 0 0 (wData 480)
    let g : CruGroup := { groupZero with occ := some 0 }
    let n := withG { groupZero with occ := some 0 } (wNode true false)
    let s : State := stOf (dChk 0 [(1, n)] f)
    let a := takeRx f s.dev
    let c := fWord f % 2 ^ 24
    let pos := 0
    nodeAt a (fCid f) f.dst = some (1, n) ∧ inputPos n f = some pos ∧ c < rChunks n.record ∧ checkOk a n c f = true ∧ tget n.groups (groupOf n c) = some g ∧ g.occ = some 0 ∧ 0 < c ∧ g.last = none)
    ∧ (let g : CruGroup := { groupZero with occ := some 1, ins := [(0, { data := wData 240, flags := 0, rank := 0, check := 0 }), (1, { data := wData 240, flags := 1, rank := 0, check := 0 })], ready := some 3 }
    let n := withG { groupZero with occ := some 1, ins := [(0, { data := wData 240, flags := 0, rank := 0, check := 0 }), (1, { data := wData 240, flags := 1, rank := 0, check := 0 })], ready := some 3 } (wNode true false)
    let s : State := stOf (dCru [(1, n)] [] [] [])
    let id := 1
    let k := 0
    let c := 1
    s.dev.boot.power = .on ∧ tget s.dev.cru.nodes id = some n ∧ rAlg n.record = 0 ∧ rOp n.record ≠ 6 ∧ g.occ = some c ∧ n.groups.find? (fun p => match p.2.ready with | some t => t ≠ s.dev.clk.swc.toNat | none => false) = some (k, g) ∧ (g.ins.map (·.2)) ≠ [])
    ∧ (let f := { chF 5 1 0 0 0 (wData 480) with arrived := 5 }
    let n := wNode true false
    let s : State := stOf (dChk 0 [(1, wNode true false)] { chF 5 1 0 0 0 (wData 480) with arrived := 5 })
    let a := takeRx f s.dev
    let id := 1
    s.dev.boot.power = .on ∧ firstRx s.dev (fun g => g.code == 0xF9 && rxOp g == 5 && g.arrived != s.dev.clk.swc.toNat) = some f ∧ nodeAt a (fCid f) f.dst = some (id, n) ∧ fWord f / 2 ^ 26 % 4 = 1 ∧ tombFor a (fCid f) (fGen f) f.dst = false ∧ n.active = true ∧ n.gen = fGen f ∧ rAlg n.record = 0 ∧ rOp n.record ≠ 6 ∧ checkOk a n (fWord f % 2 ^ 24) f = true ∧ n.fwd.contains (fWord f % 2 ^ 24) = false)
    ∧ (let f : RxFrame := { chF 5 0 0 1 0 (wData 480) with code := 0xF8, src := 20, dst := 8 }
    let j := wJoin
    let s : State := stOf { dCru [] [(2, wJoin)] [] [] with sw := { switchZero with rx := [{ chF 5 0 0 1 0 (wData 480) with code := 0xF8, src := 20, dst := 8 }] } }
    let errs : List MemErr := []
    let m := takeRx f (meet errs s.dev)
    let id := 2
    let c := fWord f % 2 ^ 24
    (s.dev.boot.power = .on ∧ firstRx s.dev (fun g => (g.code == 0xF8 || g.code == 0xFB) && rxOp g == 5) = some f ∧ m.cru.joins.filter (fun p => p.2.eid == f.dst && p.2.cid == fCid f && p.2.gen == fGen f) = [(id, j)] ∧ fWord f / 2 ^ 26 % 4 = 0 ∧ j.rank = fTail f ∧ c < joinTotal j ∧ j.got.contains c = false ∧ resultBytes j c ≤ f.data.length) ∧ ((cruProtect m = 0 ∨ crc32c (slice f.data 0 (resultBytes j c)) = beAt f.hdr 26 4) ∧ j.forge = none ∧ f.code = 0xF8 ∧ j.sem.1 = 0 ∧ j.perChunk = false))
    ∧ (let f : RxFrame := { chF 5 0 0 1 0 (wData 480) with code := 0xFB, src := 20, dst := 8 }
    let j := { wJoin with forge := some 0, res := 0x2000 }
    let s : State := stOf { dCru [] [(2, { wJoin with forge := some 0, res := 0x2000 })] [] [] with sw := { switchZero with rx := [{ chF 5 0 0 1 0 (wData 480) with code := 0xFB, src := 20, dst := 8 }] } }
    let errs : List MemErr := [{ dev := 0, cw := 2048, edc := 1, symbols := 1 }]
    let m := takeRx f (meet errs s.dev)
    let id := 2
    let k := 0
    let c := fWord f % 2 ^ 24
    (s.dev.boot.power = .on ∧ firstRx s.dev (fun g => (g.code == 0xF8 || g.code == 0xFB) && rxOp g == 5) = some f ∧ m.cru.joins.filter (fun p => p.2.eid == f.dst && p.2.cid == fCid f && p.2.gen == fGen f) = [(id, j)] ∧ fWord f / 2 ^ 26 % 4 = 0 ∧ j.rank = fTail f ∧ c < joinTotal j ∧ j.got.contains c = false ∧ resultBytes j c ≤ f.data.length) ∧ ((cruProtect m = 0 ∨ crc32c (slice f.data 0 (resultBytes j c)) = beAt f.hdr 26 4) ∧ j.forge = some k ∧ forgeFenced m f.idx = false ∧ (gddrRange (resultAddr j c) (resultBytes j c)).any (fun x => inWindow s.dev x.1) = false ∧ (frameWrite k (resultAddr j c) (slice f.data 0 (resultBytes j c)) m).1 = 0 ∧ j.sem.1 = 0 ∧ j.perChunk = false))
    ∧ (let f : RxFrame := { chF 5 0 0 1 0 (wData 480) with code := 0xFB, src := 20, dst := 8 }
    let j := { wJoin with forge := some 0, res := (2 ^ 32 + 65536) }
    let s : State := stOf { dCru [] [(2, { wJoin with forge := some 0, res := (2 ^ 32 + 65536) })] [] [] with sw := { switchZero with rx := [{ chF 5 0 0 1 0 (wData 480) with code := 0xFB, src := 20, dst := 8 }] } }
    let errs : List MemErr := [{ dev := 0, cw := 2048, edc := 1, symbols := 1 }]
    let m := takeRx f (meet errs s.dev)
    let id := 2
    let k := 0
    let c := fWord f % 2 ^ 24
    (s.dev.boot.power = .on ∧ firstRx s.dev (fun g => (g.code == 0xF8 || g.code == 0xFB) && rxOp g == 5) = some f ∧ m.cru.joins.filter (fun p => p.2.eid == f.dst && p.2.cid == fCid f && p.2.gen == fGen f) = [(id, j)] ∧ fWord f / 2 ^ 26 % 4 = 0 ∧ j.rank = fTail f ∧ c < joinTotal j ∧ j.got.contains c = false ∧ resultBytes j c ≤ f.data.length) ∧ ((cruProtect m = 0 ∨ crc32c (slice f.data 0 (resultBytes j c)) = beAt f.hdr 26 4) ∧ j.forge = some k ∧ forgeFenced m f.idx = false ∧ (gddrRange (resultAddr j c) (resultBytes j c)).any (fun x => inWindow s.dev x.1) = false ∧ (frameWrite k (resultAddr j c) (slice f.data 0 (resultBytes j c)) m).1 = 0 ∧ j.sem.1 = 0 ∧ j.perChunk = false))
    ∧ (let j := wJoin
    let s : State := stOf (dCru [] [(2, wJoin)] [] [])
    let id := 2
    s.dev.boot.power = .on ∧ tget s.dev.cru.joins id = some j ∧ j.src ≠ 0 ∧ j.next < joinChunks j ∧ (j.next < j.d ∨ j.got.contains (j.next - j.d) = true)) := by
  refine ⟨?_, ?_, ?_, ?_, ?_, ?_, ?_, ?_, ?_, ?_, ?_⟩
  · dsimp only; decide +kernel
  · dsimp only; decide +kernel
  · dsimp only; decide +kernel
  · dsimp only; decide +kernel
  · dsimp only; decide +kernel
  · dsimp only; decide +kernel
  · dsimp only; decide +kernel
  · dsimp only; decide +kernel
  · dsimp only; decide +kernel
  · dsimp only; decide +kernel
  · dsimp only; decide +kernel

def ctxRec (x op : Nat) : Bytes :=
  toLE 2 x ++ toLE 2 3 ++ toLE 1 op ++ [0, 0, 0] ++ toLE 4 8 ++ toLE 2 (if op = 0 then 2 else 0) ++ zeros 2 ++ toLE 4 7 ++ toLE 4 16 ++ toLE 3 8 ++ [2]
    ++ zeros 36
def wCtx (op : Nat) : SelCtx :=
  { gen := 3, record := ctxRec 9 op, closing := false, closers := [], cur := 7, done := [], steps := [], queue := [], last := none, block := [], blockAt := 0, base := none }
def dSel (t : Tab SelCtx) (w : Bool) (e img : Bytes) : Dev :=
  let d := dCru [] [] [] e
  let d := { d with sel := t, tab := { d.tab with ept := d.tab.ept ++ [(30, hEpt 3 1)] } }
  hostWrite 65536 img (if w then modSq 0 (fun s => { s with waiting := some e }) d else d)
def openEnt : Bytes := ent 0x18 0 [(8, 8, 3), (16, 2, 9), (18, 2, 3), (24, 8, 65536)]
def closeEnt : Bytes := ent 0x18 1 [(8, 8, 3), (16, 2, 9), (18, 2, 3)]

/-- Meets the hypotheses of `SelectContexts`. -/
theorem test_meets_SelectContexts :
    (let s : State := stOf (dSel [] false openEnt (ctxRec 9 0))
    let q := 0
    let e := openEnt
    let a := s.dev.accepted q e
    let r := ctxRec 9 0
    let x := leAt e 16 2
    s.live ∧ s.dev.begins q e a ∧ (x ≤ 1023 ∧ opOf e = 0x18 ∧ modeOf e = 0 ∧ plainOk e [(16, 4), (24, 8)] = true ∧ selImage (sqCmd q e) (leAt e 24 8) a = some r ∧ tget a.sel x = none ∧ selRecordOk r = true ∧ leAt r 0 2 = x ∧ leAt r 2 2 = leAt e 18 2 ∧ partOut a 7 (x % 8) = false) ∧ ((tget a.tab.ept (xOut r)).isSome = true ∧ allotUsed a (x % 8) + xAllot r ≤ 48 * a.clk.nsNow ∧ memUsed a (x % 8) + memUnits r ≤ 16384))
    ∧ (let s : State := stOf (dSel [] true openEnt (ctxRec 9 0))
    let q := 0
    let e := openEnt
    let a := s.dev.accepted q e
    let r := ctxRec 9 0
    let x := leAt e 16 2
    s.live ∧ s.dev.retries q e a ∧ (selImage (sqCmd q e) (leAt e 24 8) a = some r ∧ tget a.sel x = none))
    ∧ (let s : State := stOf (dSel [(1, { wCtx 0 with record := overlay (ctxRec 1 0) 20 (toLE 4 (48 * 1024)) })] false openEnt (ctxRec 9 0))
    let q := 0
    let e := openEnt
    let r := ctxRec 9 0
    let x := leAt e 16 2
    (s.live ∧ s.dev.entryReady q e ∧ selImage (sqCmd q e) (leAt e 24 8) s.dev = some r ∧ tget s.dev.sel x = none) ∧ (xAllot r ≤ 48 * s.dev.clk.nsNow ∧ memUnits r ≤ 16384 ∧ (48 * s.dev.clk.nsNow < allotUsed s.dev (x % 8) + xAllot r ∨ 16384 < memUsed s.dev (x % 8) + memUnits r)))
    ∧ (let s : State := stOf (dSel [(9, wCtx 0)] false closeEnt [])
    let q := 0
    let e := closeEnt
    let a := s.dev.accepted q e
    let x := leAt e 16 2
    let c := wCtx 0
    s.live ∧ s.dev.begins q e a ∧ (opOf e = 0x18 ∧ modeOf e = 1 ∧ plainOk e [(16, 4)] = true ∧ tget a.sel x = some c ∧ c.gen = leAt e 18 2 ∧ c.steps.filter (fun p => p.2.phase ≠ .input) = [] ∧ c.closers = []))
    ∧ (let s : State := stOf (dSel [] false closeEnt [])
    let q := 0
    let e := closeEnt
    let a := s.dev.accepted q e
    let x := leAt e 16 2
    s.live ∧ s.dev.begins q e a ∧ tget a.sel x = none)
    ∧ (let st := 7
    let stp : SelStep := { stepZero with phase := .rows, disp := 0 }
    let c : SelCtx := { wCtx 5 with steps := [(7, { stepZero with phase := .rows, disp := 0 })] }
    let s : State := stOf { dSel [(9, { wCtx 5 with steps := [(7, { stepZero with phase := .rows, disp := 0 })] })] false [] [] with clk := { clockZero with swc := 5 } }
    let x := 9
    s.live ∧ tget s.dev.sel x = some c ∧ c.steps.find? (fun p => p.2.phase == .rows && p.2.left == 0 && within (xWait c.record + 1) (2 ^ 47) (swathsSince s.dev p.2.disp)) = some (st, stp)) := by
  refine ⟨?_, ?_, ?_, ?_, ?_, ?_⟩
  · dsimp only; exact ⟨by simp only [State.live, Dev.quiet]; decide +kernel, begins_of cmdSelectOpen (by unfold Dev.entryReady; decide +kernel) rfl (by decide +kernel), by decide +kernel, by decide +kernel⟩
  · dsimp only; exact ⟨by simp only [State.live, Dev.quiet]; decide +kernel, retries_of cmdSelectOpen (by decide +kernel) rfl (by decide +kernel), by decide +kernel⟩
  · simp only [State.live, Dev.quiet, Dev.entryReady]; decide +kernel
  · dsimp only; exact ⟨by simp only [State.live, Dev.quiet]; decide +kernel, begins_of cmdSelectClose (by unfold Dev.entryReady; decide +kernel) rfl (by decide +kernel), by decide +kernel⟩
  · dsimp only; exact ⟨by simp only [State.live, Dev.quiet]; decide +kernel, begins_of cmdSelectClose (by unfold Dev.entryReady; decide +kernel) rfl (by decide +kernel), by decide +kernel⟩
  · simp only [State.live, Dev.quiet]; decide +kernel

def selF (op st x word : Nat) (data : Bytes) : RxFrame :=
  { code := 0xFA, idx := 1, src := 8, dst := 30, tc := 0, vc := 0, dl := 100, k := 1, late := false,
    hdr := [0x10] ++ toBE 1 op ++ zeros 10 ++ selBody st 3 word 0 x, data := data, accepted := false }
def dSelF (t : Tab SelCtx) (f : RxFrame) : Dev := { dSel t false [] [] with sw := { switchZero with rx := [f] } }
def wWork (op : Nat) : SelCtx :=
  { wCtx op with
    queue := [7], steps := [(7, { stepZero with phase := .work 0, els := [(0, [1, 2, 3, 4]), (1, [9, 2, 3, 4]), (2, [5, 6, 7, 8])] })] }

/-- Meets the hypotheses of `SelectFrames`. -/
theorem test_meets_SelectFrames :
    (let f := { selF 9 7 9 (2 ^ 24) (wData 48) with vc := 2 }
    let s : State := stOf (dSelF [] { selF 9 7 9 (2 ^ 24) (wData 48) with vc := 2 })
    s.dev.boot.power = .on ∧ firstRx s.dev selTakes = some f ∧ f.vc = 2)
    ∧ (let f := selF 6 7 9 (2 ^ 23) (wData 16)
    let s : State := stOf (dSelF [] f)
    let a := takeRx f s.dev
    let x := selX f
    s.dev.boot.power = .on ∧ firstRx s.dev selTakes = some f ∧ f.vc ≠ 2 ∧ f.vc ≠ 3 ∧ rxOp f = 6 ∧ x % 8 = f.idx ∧ tget a.sel x = none)
    ∧ (let f := selF 6 9 9 (2 ^ 23) (wData 16)
    let k := wCtx 0
    let s : State := stOf (dSelF [(9, wCtx 0)] f)
    let a := takeRx f s.dev
    let x := selX f
    s.dev.boot.power = .on ∧ firstRx s.dev selTakes = some f ∧ tget a.sel x = some k ∧ k.closing = false ∧ k.gen = beAt f.hdr 16 2 ∧ k.done.contains (selSt f) = false ∧ 2 ≤ subMod 32 (selSt f) k.cur ∧ subMod 32 (selSt f) k.cur < 2 ^ 31)
    ∧ (let f := selF 6 8 9 (2 ^ 23 + 1) (wData 16)
    let k := wCtx 0
    let s : State := stOf (dSelF [(9, wCtx 0)] f)
    let a := takeRx f s.dev
    let x := selX f
    let els := frameEls k.record f.data
    s.dev.boot.power = .on ∧ firstRx s.dev selTakes = some f ∧ tget a.sel x = some k ∧ k.closing = false ∧ k.gen = beAt f.hdr 16 2 ∧ k.done.contains (selSt f) = false ∧ subMod 32 (selSt f) k.cur < 2 ∧ tget k.steps (selSt f) = none ∧ fWord f / 2 ^ 21 % 4 = 0 ∧ fWord f / 2 ^ 24 < xNin k.record ∧ els.length ≤ stepMost k.record)
    ∧ (let k := wWork 0
    let s : State := stOf (dSel [(9, wWork 0)] false [] [])
    let x := 9
    let st := 7
    let rest : List Nat := []
    let stp : SelStep := (tget k.steps 7).getD stepZero
    s.dev.boot.power = .on ∧ tget s.dev.sel x = some k ∧ k.queue = st :: rest ∧ (tget k.steps st).isSome = true ∧ stp.phase = .work 0 ∧ swathCome s.dev 0 = true ∧ xAllot k.record ≠ 0 ∧ xOp k.record = 0)
    ∧ (let k := wWork 3
    let s : State := stOf (dSel [(9, wWork 3)] false [] [])
    let x := 9
    tget s.dev.sel x = some k ∧ xOp k.record = 3)
    ∧ (let k := wWork 4
    let s : State := stOf (dSel [(9, wWork 4)] false [] [])
    let x := 9
    tget s.dev.sel x = some k ∧ xOp k.record = 4)
    ∧ (let k := wWork 5
    let s : State := stOf (dSel [(9, wWork 5)] false [] [])
    let x := 9
    tget s.dev.sel x = some k ∧ xOp k.record = 5)
    ∧ (let f := selF 9 7 9 (2 ^ 24) (wData 48)
    let k : SelCtx := { wCtx 5 with steps := [(7, { stepZero with phase := .rows, kept := [(67305985, [(1, 0)])] })] }
    let s : State := stOf (dSelF [(9, { wCtx 5 with steps := [(7, { stepZero with phase := .rows, kept := [(67305985, [(1, 0)])] })] })] f)
    let a := takeRx f s.dev
    let x := selX f
    let w := 16 + xD k.record * (xRfmt k.record).bytes
    s.dev.boot.power = .on ∧ firstRx s.dev (fun g => g.code == 0xFA && rxOp g == 9 && !selTakes g) = some f ∧ x % 8 = f.idx ∧ tget a.sel x = some k ∧ k.gen = beAt f.hdr 16 2 ∧ xOp k.record = 5 ∧ f.data.length % w = 0) := by
  refine ⟨?_, ?_, ?_, ?_, ?_, ?_, ?_, ?_, ?_⟩
  · dsimp only; decide +kernel
  · dsimp only; decide +kernel
  · dsimp only; decide +kernel
  · dsimp only; decide +kernel
  · dsimp only; decide +kernel
  · dsimp only; decide +kernel
  · dsimp only; decide +kernel
  · dsimp only; decide +kernel
  · dsimp only; decide +kernel

/-- A command of a stream: tag, pc, repeat, budget word, home, semaphore byte. -/
def fBytes (tag pc rep bud home sem : Nat) : Bytes :=
  toLE 4 11 ++ toLE 4 12 ++ toLE 4 13 ++ toLE 4 14 ++ toLE 4 tag ++ toLE 2 pc ++ toLE 2 rep ++ toLE 4 bud ++ toLE 2 home ++ toLE 1 sem ++ [0]
def wFCmd : FCmd := { b := fBytes 5 7 1 100 0 0, ser := 1, org := .enq 0 0, at_ := 0, mb := none, close := false }
def taskEnt (nw : Nat) : Bytes :=
  overlay (overlay (ent 0x20 0 [(8, 8, 1), (48, 1, 2 + 16)]) 16 (fBytes 5 7 1 100 0 0)) 1 (toLE 1 nw)
def dForge (e : Bytes) (n : Nat) (w : Bool) (g : Forge → Forge) : Dev :=
  let d := withEntry e dUp
  let d := if w then modSq 0 (fun y => { y with waiting := some e }) d else d
  modForge 2 g (modStrm 2 1 (fun y => { y with queue := List.replicate n wFCmd }) d)
def loadEnt : Bytes := ent 0x21 0 [(8, 8, 1), (16, 8, 65536), (24, 2, 4000), (26, 2, 2), (28, 1, 2 + 16)]
def swapEnt : Bytes := ent 0x22 0 [(8, 8, 1), (16, 1, 2)]
def wLoad : ImemLoad := { cmd := sqCmd 0 loadEnt, forge := 2, bank := 1, first := 4000, words := [77, 78] }

/-- Meets the hypotheses of `ForgeQueues`. -/
theorem test_meets_ForgeQueues :
    (let s : State := stOf (dForge (taskEnt 0) 63 false id)
    let q := 0
    let e := taskEnt 0
    let a := s.dev.accepted q e
    let f := byteAt e 48 % 16
    let st := byteAt e 48 / 16
    s.live ∧ (opOf e = 0x20 ∧ modeOf e = 0 ∧ bodyOk e [(16, 42)] = true ∧ byteAt e 1 ≤ 1 ∧ st ≤ 5 ∧ allZero (slice e 49 9) = true ∧ cmdOk st (slice e 16 32) = true) ∧ s.dev.begins q e a ∧ (forgeFenced a f = false ∧ (strm a f st).queue.length < 64))
    ∧ (let s : State := stOf (dForge (taskEnt 0) 63 true id)
    let q := 0
    let e := taskEnt 0
    let a := s.dev.accepted q e
    let f := byteAt e 48 % 16
    let st := byteAt e 48 / 16
    s.dev.retries q e a ∧ (forgeFenced a f = false ∧ (strm a f st).queue.length < 64))
    ∧ (let s : State := stOf (dForge (taskEnt 0) 64 false id)
    let q := 0
    let e := taskEnt 0
    let f := byteAt e 48 % 16
    let st := byteAt e 48 / 16
    s.dev.entryReady q e ∧ forgeFenced s.dev f = false ∧ 64 ≤ (strm s.dev f st).queue.length ∧ byteAt e 1 = 0)
    ∧ (let s : State := stOf (dForge (taskEnt 1) 64 false id)
    let q := 0
    let e := taskEnt 1
    let a := s.dev.accepted q e
    let f := byteAt e 48 % 16
    let st := byteAt e 48 / 16
    (opOf e = 0x20 ∧ modeOf e = 0 ∧ bodyOk e [(16, 42)] = true ∧ byteAt e 1 ≤ 1) ∧ s.dev.begins q e a ∧ (forgeFenced a f = false ∧ 64 ≤ (strm a f st).queue.length ∧ byteAt e 1 = 1))
    ∧ (let s : State := stOf (hostWrite 65536 (toLE 8 77 ++ toLE 8 78) (dForge loadEnt 0 false id))
    let q := 0
    let e := loadEnt
    let a := s.dev.accepted q e
    let f := byteAt e 28 % 16
    let bank := byteAt e 28 / 16
    let n := leAt e 26 2
    s.live ∧ s.dev.begins q e a ∧ (opOf e = 0x21 ∧ modeOf e = 0 ∧ plainOk e [(16, 13)] = true ∧ byteAt e 28 ≤ 31 ∧ n ≠ 0 ∧ leAt e 24 2 + n ≤ 4096 ∧ leAt e 16 8 % 64 = 0 ∧ forgeFenced a f = false ∧ (forge a f).bank ≠ bank ∧ (forge a f).swap = none))
    ∧ (let s : State := stOf (modForges (fun x => { x with loads := [(3, wLoad)] }) (dForge loadEnt 0 false id))
    let id := 3
    let l := wLoad
    s.live ∧ tget s.dev.forge.loads id = some l)
    ∧ (let s : State := stOf (dForge swapEnt 0 false id)
    let q := 0
    let e := swapEnt
    let a := s.dev.accepted q e
    s.dev.begins q e a ∧ (opOf e = 0x22 ∧ modeOf e = 0 ∧ plainOk e [(16, 1)] = true ∧ byteAt e 16 ≤ 15 ∧ forgeFenced a (byteAt e 16) = false ∧ (forge a (byteAt e 16)).swap = none))
    ∧ (let c := sqCmd 0 swapEnt
    let s : State := stOf (dForge swapEnt 0 false (fun x => { x with swap := some c }))
    let f := 2
    (s.live ∧ f < 16 ∧ (forge s.dev f).swap = some c ∧ s.dev.clk.now = s.dev.clk.swStart) ∧ (∀ st : Nat, st < 6 → (strm s.dev f st).on = false ∧ (strm s.dev f st).halted = false) ∧ (∀ p ∈ s.dev.forge.loads, p.2.forge = f → p.2.bank = (forge s.dev f).bank)) := by
  refine ⟨?_, ?_, ?_, ?_, ?_, ?_, ?_, ?_⟩
  · dsimp only; exact ⟨by simp only [State.live, Dev.quiet]; decide +kernel, by decide +kernel, begins_of cmdTask (by unfold Dev.entryReady; decide +kernel) rfl (by decide +kernel), by decide +kernel⟩
  · dsimp only; exact ⟨retries_of cmdTask (by decide +kernel) rfl (by decide +kernel), by decide +kernel⟩
  · simp only [Dev.entryReady]; decide +kernel
  · dsimp only; exact ⟨by decide +kernel, begins_of cmdTask (by unfold Dev.entryReady; decide +kernel) rfl (by decide +kernel), by decide +kernel⟩
  · dsimp only; exact ⟨by simp only [State.live, Dev.quiet]; decide +kernel, begins_of cmdImemLoad (by unfold Dev.entryReady; decide +kernel) rfl (by decide +kernel), by decide +kernel⟩
  · simp only [State.live, Dev.quiet]; decide +kernel
  · dsimp only; exact ⟨begins_of cmdImemSwap (by unfold Dev.entryReady; decide +kernel) rfl (by decide +kernel), by decide +kernel⟩
  · simp only [State.live, Dev.quiet]; decide +kernel

def fCmdB (bud home sem : Nat) : FCmd := { b := fBytes 5 7 1 bud home sem, ser := 1, org := .task (sqCmd 0 (taskEnt 0)), at_ := 0, mb := none, close := false }
def dRun (c : FCmd) (g : Stream → Stream) : Dev :=
  putReg (oForge 2) 0 (modStrm 2 1 (fun y => g { y with queue := [c, wFCmd] }) (dForge [] 0 false id))

/-- Meets the hypotheses of `ForgeCommands`. -/
theorem test_meets_ForgeCommands :
    (let c := fCmdB 6145 0 0x80
    let s : State := stOf (dRun c id)
    let f := 2
    let st := 1
    let t := 9
    let d := tick t s.dev
    let z := imemSwapApply f d
    let rest := [wFCmd]
    (s.dev.boot.power = .on ∧ f < 16 ∧ st < 6 ∧ (strm d f st).queue = c :: rest ∧ (strm z f st).on = false ∧ (strm z f st).halted = false ∧ c.mb = none) ∧ (cHome c.b = 0 ∨ 4096 * cHome c.b ≤ homeLimit z f c.b) ∧ (cSwaths c.b = false ∧ 6 * z.clk.nsNow < cBudget c.b))
    ∧ (let c := fCmdB 6135 0 0x80
    let s : State := stOf (dRun c id)
    let f := 2
    let st := 1
    let t := 9
    let d := tick t s.dev
    let z := imemSwapApply f d
    let rest := [wFCmd]
    (s.dev.boot.power = .on ∧ f < 16 ∧ st < 6 ∧ (strm d f st).queue = c :: rest ∧ (strm z f st).on = false ∧ (strm z f st).halted = false ∧ c.mb = none) ∧ (cHome c.b = 0 ∨ 4096 * cHome c.b ≤ homeLimit z f c.b) ∧ (cSwaths c.b = false ∧ cBudget c.b ≤ 6 * z.clk.nsNow ∧ cBudget c.b ≤ cyclesLeft z f z.clk.now))
    ∧ (let c := fCmdB (2 + 2 ^ 31) 0 0x80
    let s : State := stOf (dRun c id)
    let f := 2
    let st := 1
    let t := 0
    let d := tick t s.dev
    let z := imemSwapApply f d
    let rest := [wFCmd]
    (s.dev.boot.power = .on ∧ f < 16 ∧ st < 6 ∧ (strm d f st).queue = c :: rest ∧ (strm z f st).on = false ∧ (strm z f st).halted = false ∧ c.mb = none) ∧ (cHome c.b = 0 ∨ 4096 * cHome c.b ≤ homeLimit z f c.b) ∧ (cSwaths c.b = true ∧ z.clk.now = z.clk.swStart))
    ∧ (let c := fCmdB (2 + 2 ^ 31) 0 0x80
    let s : State := stOf (modForge 2 (fun x => { x with swap := some (sqCmd 0 swapEnt) }) (dRun c id))
    let f := 2
    let st := 1
    let t := 0
    let d := tick t s.dev
    let z := imemSwapApply f d
    let rest := [wFCmd]
    (s.dev.boot.power = .on ∧ f < 16 ∧ st < 6 ∧ (strm d f st).queue = c :: rest ∧ (strm z f st).on = false ∧ (strm z f st).halted = false ∧ c.mb = none) ∧ (cHome c.b = 0 ∨ 4096 * cHome c.b ≤ homeLimit z f c.b) ∧ (cSwaths c.b = true ∧ z.clk.now = z.clk.swStart))
    ∧ (let c := fCmdB 100 0 0x80
    let s : State := stOf (dRun c (fun y => { y with on := true, ended := true, limit := .cycle 9 }))
    let f := 2
    let st := 1
    let t := 9
    let d := tick t s.dev
    let rest := [wFCmd]
    let l := 9
    (s.dev.boot.power = .on ∧ f < 16 ∧ st < 6 ∧ (strm d f st).queue = c :: rest ∧ (strm d f st).on = true ∧ (strm d f st).ended = true ∧ (strm d f st).movers = []) ∧ (st = 1 → (forge d f).sends = []) ∧ ((strm d f st).limit = .cycle l ∧ (strm d f st).next ≤ nowEff d f))
    ∧ (let c := fCmdB (2 + 2 ^ 31) 0 0x80
    let w := 0
    let s : State := stOf (dRun c (fun y => { y with on := true, ended := true, limit := .swath w }))
    let f := 2
    let st := 1
    let t := 9
    let d := tick t s.dev
    let rest := [wFCmd]
    (s.dev.boot.power = .on ∧ f < 16 ∧ st < 6 ∧ (strm d f st).queue = c :: rest ∧ (strm d f st).on = true ∧ (strm d f st).ended = true ∧ (strm d f st).movers = []) ∧ (st = 1 → (forge d f).sends = []) ∧ ((strm d f st).limit = .swath w ∧ (strm d f st).next ≤ nowEff d f) ∧ (2 ^ 47 < subMod 48 d.clk.swc.toNat w ∨ d.clk.swc.toNat = w))
    ∧ (let c := fCmdB 100 0 0x80
    let s : State := stOf (dRun c (fun y => { y with on := true, limit := .cycle 9 }))
    let f := 2
    let st := 1
    let t := 9
    let d := tick t s.dev
    let rest := [wFCmd]
    let l := 9
    (s.dev.boot.power = .on ∧ f < 16 ∧ st < 6 ∧ (strm d f st).queue = c :: rest ∧ (strm d f st).on = true ∧ (strm d f st).ended = false) ∧ ((strm d f st).limit = .cycle l ∧ l ≤ nowEff d f))
    ∧ (let c := fCmdB (2 + 2 ^ 31) 0 0x80
    let w := 2 ^ 48 - 1
    let s : State := stOf (dRun c (fun y => { y with on := true, limit := .swath w }))
    let f := 2
    let st := 1
    let t := 9
    let d := tick t s.dev
    let rest := [wFCmd]
    (s.dev.boot.power = .on ∧ f < 16 ∧ st < 6 ∧ (strm d f st).queue = c :: rest ∧ (strm d f st).on = true ∧ (strm d f st).ended = false) ∧ ((strm d f st).limit = .swath w ∧ 1 ≤ subMod 48 d.clk.swc.toNat w ∧ subMod 48 d.clk.swc.toNat w ≤ 2 ^ 47)) := by
  refine ⟨?_, ?_, ?_, ?_, ?_, ?_, ?_, ?_⟩
  · dsimp only; decide +kernel
  · dsimp only; decide +kernel
  · dsimp only; decide +kernel
  · dsimp only; decide +kernel
  · dsimp only; decide +kernel
  · dsimp only; decide +kernel
  · dsimp only; decide +kernel
  · dsimp only; decide +kernel

def rxD (op : Nat) (body data : Bytes) (acc : Bool) : RxFrame :=
  { code := 0xFB, idx := 2, src := 9, dst := 30, tc := 2, vc := 0, dl := 100, k := 1, late := false,
    hdr := toBE 1 16 ++ toBE 1 op ++ toBE 2 1 ++ toBE 4 5 ++ toBE 4 0 ++ body, data := data, accepted := acc }
def dDisp (rx : List RxFrame) (g : Forge → Forge) : Dev :=
  let d := dForge [] 0 false g
  let d := putReg (bindOff 2 4 0) (5 + 3 * 2 ^ 10 + 2 * 2 ^ 18 + 2 ^ 24 + 0x1000 * 2 ^ 32) d
  let d := putReg (bindOff 2 4 1) (20 + 2 * 2 ^ 16) d
  let d := putReg (bindOff 2 4 2) (7 + 2 ^ 16 + (2 + 2 ^ 31) * 2 ^ 32) d
  { d with
    sw := { d.sw with rx := rx },
    tab := { (dHost []).tab with ept := (dHost []).tab.ept ++ [(30, hEpt 1 2)] } }
def dFrame : RxFrame := rxD 8 (toBE 4 70 ++ toBE 2 3 ++ [3, 0] ++ zeros 2 ++ toBE 4 2 ++ zeros 4 ++ toBE 2 5) ((List.range 64).map (BitVec.ofNat 8)) true
def wHandle (c : Option (List Nat)) : Handle :=
  { num := 99, bind := 4, src := 9, step := 70, gen := 3, expert := 3, ctx := 5, cells := 2, rows := 2, first := 0x1000, told := false, cmds := c }
/-- A DISPATCH frame of three cells, two of them here. -/
def rsD : Reasm :=
  { key := [9, 30, 5], ord := 3, claim := .rows 4 7 0 8 0x1000 64 8 1, code := 0xFB, idx := 2, dl := 100, late := false,
    cells := [(0, false, dFrame.hdr ++ zeros 480), (1, false, (List.range 512).map (BitVec.ofNat 8))] }

/-- Meets the hypotheses of `DispatchFrames`. -/
theorem test_meets_DispatchFrames :
    (let f := dFrame
    let s : State := stOf (dDisp [dFrame] id)
    let k := 2
    let n := (512 * beAt f.hdr 2 2 - 32) / bindRow s.dev k 4
    let top := bindMax s.dev k 4
    let b := tgetD (forge s.dev k).inbox 4 { wr := 0, ring := [] }
    let c : Claim := .rows 4 (forge s.dev k).nextHandle b.wr n (bindInbox s.dev k 4) (bindRow s.dev k 4) top 0
    let z := setClaim f c (modForge k (fun x => { x with
      nextHandle := x.nextHandle + 1, inbox := tput x.inbox 4 {
        wr := (b.wr + n) % top,
        ring := b.ring ++ (List.range n).map (fun j => ((b.wr + j) % top, some (forge s.dev k).nextHandle)) } }) s.dev)
    (s.dev.boot.power = .on ∧ k < 16 ∧ unclaimed s.dev k = [f]) ∧ s.dev.takesRows k f c z)
    ∧ (let f := dFrame
    let s : State := stOf (dDisp [dFrame] (fun x => { x with inbox := [(4, { wr := 6, ring := (List.range 6).map (fun j => (j, some 3)) })] }))
    let k := 2
    let i := 4
    let n := (512 * beAt f.hdr 2 2 - 32) / bindRow s.dev k i
    s.dev.boot.power = .on ∧ k < 16 ∧ unclaimed s.dev k = [f] ∧ forgeFenced s.dev k = false ∧ bindFor s.dev f = some i ∧ n ≤ bindMax s.dev k i ∧ bindMax s.dev k i < (tgetD (forge s.dev k).inbox i { wr := 0, ring := [] }).ring.length + n)
    ∧ (let r := rsD
    let s : State := stOf (let d := dDisp [] id; { d with sw := { d.sw with reasm := [rsD] } })
    let k := 2
    let b := 4
    let h := 7
    let st := 0
    let n := 8
    let base := 0x1000
    let rb := 64
    let top := 8
    let w := 1
    s.dev.boot.power = .on ∧ k < 16 ∧ unclaimed s.dev k = [] ∧ s.dev.sw.reasm.filter (fun r => r.code == 0xFB && r.idx == k) = [r] ∧ r.claim = .rows b h st n base rb top w)
    ∧ (let f : RxFrame := { dFrame with data := (List.range 544).map (BitVec.ofNat 8), claim := .rows 4 6 0 20 0x1000 32 20 1 }
    let s : State := stOf (dDisp [{ dFrame with data := (List.range 544).map (BitVec.ofNat 8), claim := .rows 4 6 0 20 0x1000 32 20 1 }] (fun x => { x with nextHandle := 7, inbox := [(4, { wr := 0, ring := (List.range 20).map (fun j => (j, some 6)) })] }))
    let k := 2
    let i := 4
    let h := 6
    let st := 0
    let n := 20
    let base := 0x1000
    let rb := 32
    let top := 20
    let w := 1
    let z := s.dev
    (s.dev.boot.power = .on ∧ k < 16 ∧ f.idx = k ∧ s.dev.sw.rx.filter (fun x => x.code == 0xFB && rxOp x == 8) = [f] ∧ f.claim = .rows i h st n base rb top w ∧ forgeFenced z k = false ∧ f.data.length % rb = 0) ∧ (∀ r ∈ s.dev.sw.reasm, r.code ≠ 0xFB))
    ∧ (let f := dFrame
    let s : State := stOf (dDisp [dFrame] id)
    let k := 2
    let rb := bindRow s.dev k 4
    let n := (512 * beAt f.hdr 2 2 - 32) / bindRow s.dev k 4
    let top := bindMax s.dev k 4
    let b := tgetD (forge s.dev k).inbox 4 { wr := 0, ring := [] }
    let c : Claim := .rows 4 (forge s.dev k).nextHandle b.wr n (bindInbox s.dev k 4) (bindRow s.dev k 4) top 0
    let z := setClaim f c (modForge k (fun x => { x with
      nextHandle := x.nextHandle + 1, inbox := tput x.inbox 4 {
        wr := (b.wr + n) % top,
        ring := b.ring ++ (List.range n).map (fun j => ((b.wr + j) % top, some (forge s.dev k).nextHandle)) } }) s.dev)
    (f.idx = k ∧ s.dev.sw.rx.filter (fun x => x.code == 0xFB && rxOp x == 8) = [f] ∧ forgeFenced z k = false ∧ f.data.length % rb = 0) ∧ (∀ r ∈ s.dev.sw.reasm, r.code ≠ 0xFB))
    ∧ (let hd := wHandle none
    let h := 6
    let k := 2
    let s : State := stOf (dDisp [] (fun x => { x with handles := [(h, hd)] }))
    let sts := (List.range 6).filter (fun st => (bits (bindWord s.dev k hd.bind 0) 18 6).testBit st)
    (s.dev.boot.power = .on ∧ k < 16 ∧ (forge s.dev k).handles.filter (fun p => p.2.cmds.isNone) = [(h, hd)] ∧ tget (forge s.dev k).handles h = some hd) ∧ (∀ st ∈ sts, (strm s.dev k st).queue.length < 64)) := by
  refine ⟨?_, ?_, ?_, ?_, ?_, ?_⟩
  · dsimp only; unfold Dev.takesRows; exact ⟨by decide +kernel, 4, _, _, _, by decide +kernel, by decide +kernel, by decide +kernel, rfl, rfl, by decide +kernel, rfl, by decide +kernel, rfl, rfl⟩
  · dsimp only; decide +kernel
  · dsimp only; decide +kernel
  · dsimp only; decide +kernel
  · dsimp only; decide +kernel
  · dsimp only; decide +kernel

def wSend : FSend :=
  { addr := 0x2000, len := 64, cells := 1, op := 0, dst := 9, tc := 2, label := 3, body := zeros 20, land := 0, chunk := none, sem := (1, 4), ser := 1, tag := 5, started := false }
def wMover : Mover := { op := .mov 0x100 0x200 32, ser := 1, sem := (1, 4) }

/-- Meets the hypotheses of `ForgeFrames`. -/
theorem test_meets_ForgeFrames :
    (let f := rxD 3 (toBE 8 0x500 ++ [BitVec.ofNat 8 128, 4] ++ zeros 10) ((List.range 48).map (BitVec.ofNat 8)) true
    let s : State := stOf (dDisp [f] id)
    let errs : List MemErr := []
    let o := meet errs s.dev
    let a := seqAccept f.src f.dst (rxSeq f) (takeRx f o)
    let w := beAt f.hdr 12 8
    s.dev.boot.power = .on ∧ firstForge s.dev 3 = some f ∧ seqTest s.dev f.src f.dst (rxSeq f) = .accept ∧ forgeFenced a f.idx = false ∧ w + f.data.length ≤ flmSize)
    ∧ (let f := rxD 3 (toBE 8 (2 ^ 32 + 65536) ++ [BitVec.ofNat 8 128, 4] ++ zeros 10) ((List.range 48).map (BitVec.ofNat 8)) true
    let s : State := stOf (dDisp [f] id)
    let errs : List MemErr := [{ dev := 0, cw := 2049, edc := 1, symbols := 1 }]
    let o := meet errs s.dev
    let a := seqAccept f.src f.dst (rxSeq f) (takeRx f o)
    let w := beAt f.hdr 12 8
    s.dev.boot.power = .on ∧ firstForge s.dev 3 = some f ∧ seqTest s.dev f.src f.dst (rxSeq f) = .accept ∧ forgeFenced a f.idx = false ∧ addrHeld s.dev w f.data.length = false ∧ w < 2 ^ 48 ∧ (frameWrite f.idx w f.data a).1 = 0)
    ∧ (let f := rxD 3 (toBE 8 (2 ^ 32 + 65536) ++ [BitVec.ofNat 8 128, 4] ++ zeros 10) ((List.range 48).map (BitVec.ofNat 8)) true
    let s : State := stOf (let d := dDisp [f] id; { d with mem := { d.mem with window := some (0, 0) } })
    let w := beAt f.hdr 12 8
    s.dev.boot.power = .on ∧ firstForge s.dev 3 = some f ∧ addrHeld s.dev w f.data.length = true)
    ∧ (let f := rxD 1 (toBE 8 0x500 ++ zeros 2 ++ toBE 4 1 ++ zeros 6) [] true
    let s : State := stOf (dDisp [f] id)
    let errs : List MemErr := [{ dev := 0, cw := 2049, edc := 1, symbols := 1 }]
    let o := meet errs s.dev
    let a := takeAck f (takeRx f o)
    let w := beAt f.hdr 12 8
    let n := beAt f.hdr 22 4
    s.dev.boot.power = .on ∧ firstForge s.dev 1 = some f ∧ 1 ≤ n ∧ n ≤ 256 ∧ forgeFenced a f.idx = false ∧ w + (512 * n - 32) ≤ flmSize)
    ∧ (let f := rxD 2 (zeros 20) ((List.range 48).map (BitVec.ofNat 8)) true
    let r : FRead := { dst := 9, addr := 0x700, sem := (1, 4) }
    let s : State := stOf (dDisp [f] (fun x => { x with reads := [{ r with dst := 8 }, r] }))
    let errs : List MemErr := []
    let o := meet errs s.dev
    let a := takeAck f (takeRx f o)
    (s.dev.boot.power = .on ∧ firstForge s.dev 2 = some f ∧ forgeFenced a f.idx = false) ∧ (forge a f.idx).reads.find? (fun x => x.dst == f.src) = some r ∧ r.addr + f.data.length ≤ flmSize)
    ∧ (let f := rxD 0xA (zeros 20) [] true
    let s : State := stOf (dDisp [f] id)
    let a := takeAck f (takeRx f s.dev)
    s.dev.boot.power = .on ∧ firstForge s.dev 0xA = some f ∧ forgeFenced a f.idx = false ∧ a.cru.joins.any (fun p => p.2.eid == f.dst && p.2.cid == fCid f && p.2.gen == fGen f) = false)
    ∧ (let x := wSend
    let s : State := stOf (dDisp [] (fun g => { g with sends := [x, x] }))
    let k := 2
    let t := 7
    let d := tick t s.dev
    let eid := 30
    let rest : List FSend := [x]
    s.dev.boot.power = .on ∧ k < 16 ∧ (forge d k).sends = x :: rest ∧ x.started = false ∧ chunkMayGo d x = true ∧ x.chunk = none ∧ forgeEid d k = some eid)
    ∧ (let m := wMover
    let s : State := stOf (modStrm 2 0 (fun y => { y with movers := [m, m] }) (dDisp [] id))
    let k := 2
    let st := 0
    let t := 7
    let errs : List MemErr := [{ dev := 0, cw := 2049, edc := 1, symbols := 1 }]
    let o := meet errs s.dev
    let d := tick t o
    let rest : List Mover := [m]
    let u := modStrm k st (fun y => { y with movers := rest, next := if 16 ≤ rest.length + 1 ∧ y.next < nowEff d k then nowEff d k else y.next }) d
    let r := execMover k st m (if rest.isEmpty then notBefore k st u else u)
    (s.dev.boot.power = .on ∧ k < 16 ∧ st < 6 ∧ (strm d k st).movers = m :: rest ∧ moverHeld d k m = false) ∧ (match r with | .ok _ => true | _ => false) = true) := by
  refine ⟨?_, ?_, ?_, ?_, ?_, ?_, ?_, ?_⟩
  · dsimp only; decide +kernel
  · dsimp only; decide +kernel
  · dsimp only; decide +kernel
  · dsimp only; decide +kernel
  · dsimp only; decide +kernel
  · dsimp only; decide +kernel
  · dsimp only; decide +kernel
  · dsimp only; decide +kernel

/-- Meets the hypotheses of `Semaphores`. -/
theorem test_meets_Semaphores :
    (let g := false
    let num := 4
    let n := 3
    let from_ := 1
    let s : State := stOf (dRun (fCmdB 100 0 0x80) (fun y => { y with on := true, wait := some (g, num, n, from_), limit := .cycle 90 }))
    let s : State := { s with dev := modForge 2 (fun x => { x with q := [(4, 5)] }) s.dev }
    let f := 2
    let st := 1
    let t := 9
    let d := tick t s.dev
    s.dev.boot.power = .on ∧ f < 16 ∧ st < 6 ∧ (strm d f st).wait = some (g, num, n, from_) ∧ (strm d f st).on = true ∧ (forge d f).freeze = none ∧ spent d (strm d f st) (nowEff d f) = false ∧ n ≤ semCount d f g num ∧ servedBefore d f st g num = false)
    ∧ (let s : State := stOf (dDisp [] (fun x => { x with q := [(4, 65530)] }))
    let f := 2
    let n := 31
    s.dev.quiet ∧ s.dev.boot.recovery = false ∧ f < 16 ∧ n < 32 ∧ forgeIdle s.dev f = true)
    ∧ (let s : State := stOf (dDisp [] id)
    let n := 63
    (s.dev.quiet ∧ s.dev.boot.recovery = false ∧ n < 64) ∧ (∀ f : Nat, f < 16 → forgeIdle s.dev f = true)) := by
  refine ⟨?_, ?_, ?_⟩
  · dsimp only; decide +kernel
  · simp only [Dev.quiet]; decide +kernel
  · simp only [Dev.quiet]; decide +kernel

def ins (op dst s1 s2 md imm : Nat) : Nat := op * 2 ^ 56 + dst * 2 ^ 50 + s1 * 2 ^ 44 + s2 * 2 ^ 38 + md * 2 ^ 32 + imm
/-- Stream `st` of Forge 2 runs and issues the word `w` at pc 3 in cycle 9, the hazard audit on. -/
def dIns (st w : Nat) (g : Stream → Stream) (h : Forge → Forge) : Dev :=
  let d := modStrm 2 st (fun y => g { y with
    queue := [fCmdB 100 0 0x80], pc := 3, on := true, limit := .cycle 90, next := 9,
    s := [(1, 0xFFFFFFF0), (2, 0x30), (5, 7)], a := [(1, 0x1000), (2, 0x2000), (3, 0x3000)], v := [(1, 5), (2, 9 * 2 ^ 480 + 3)] }) (dForge [] 0 false id)
  putReg (oForge 2 + 0x20) 1 (modForge 2 (fun y => h { y with imem0 := [(3, w)] }) d)

/-- Meets the hypotheses of `IssueAndLand`. -/
theorem test_meets_IssueAndLand :
    (let d := dIns 2 0 id id
    let f := 2
    let st := 2
    let x : Fetch := { f := f, st := st, e := 9, w := 0, s := strm d f st, j := 0 }
    let y : Eff := { out := [(1, .s 3 7), (1, .flags 2)], intv := 2, pc := some 7 }
    x.s = strm d x.f x.st ∧ x.s.rep = none ∧ y.pc.getD (x.s.pc + 1) ≤ 4095)
    ∧ (let f := 2
    let st := 2
    let ord := 4
    let ser := 1
    let land := 0
    let r := 31
    let v := 2 ^ 50 + 5
    let d := dIns st 0 id (fun y => { y with pend := [{ land := land, st := st, ord := ord, ser := ser, what := .s r v }] })
    land ≤ nowEff d f ∧ (forge d f).pend = [{ land := land, st := st, ord := ord, ser := ser, what := .s r v }])
    ∧ (let f := 2
    let st := 2
    let ord := 4
    let ser := 1
    let land := 0
    let r := 15
    let v := 2 ^ 50 + 5
    let d := dIns st 0 id (fun y => { y with pend := [{ land := land, st := st, ord := ord, ser := ser, what := .a r v }] })
    land ≤ nowEff d f ∧ (forge d f).pend = [{ land := land, st := st, ord := ord, ser := ser, what := .a r v }])
    ∧ (let w := ins 0x0E 0 0 0 0 0
    let st := 4
    let s : State := stOf (dIns st w id id)
    let f := 2
    let t := 9
    let d := tick t s.dev
    let x : Fetch := { f := f, st := st, e := 9, w := w, s := strm s.dev f st, j := 0 }
    s.dev.boot.power = .on ∧ f < 16 ∧ st < 6 ∧ fetchNow f st d = some x)
    ∧ (let w := ins 5 1 2 3 1 0
    let st := 4
    let s : State := stOf (dIns st w (id) (id))
    let f := 2
    let t := 9
    let d := tick t s.dev
    let x : Fetch := { f := f, st := st, e := 9, w := w, s := strm s.dev f st, j := 0 }
    s.dev.boot.power = .on ∧ (f < 16 ∧ st < 6 ∧ fetchNow f st d = some x) ∧ (iOp x.w = 5 ∧ x.w &&& (2 ^ 56 - 1 - (mDst ||| mSrc1 ||| used2 x ||| mBits 36 1)) ≠ 0))
    ∧ (let w := ins 5 1 2 32 0 0
    let st := 4
    let s : State := stOf (dIns st w (id) (id))
    let f := 2
    let t := 9
    let d := tick t s.dev
    let x : Fetch := { f := f, st := st, e := 9, w := w, s := strm s.dev f st, j := 0 }
    s.dev.boot.power = .on ∧ (f < 16 ∧ st < 6 ∧ fetchNow f st d = some x) ∧ (iOp x.w = 5 ∧ x.w &&& (2 ^ 56 - 1 - (mDst ||| mSrc1 ||| used2 x ||| mBits 36 1)) = 0) ∧ (32 ≤ iDst x.w ∨ 32 ≤ iSrc1 x.w ∨ (iX x.w = false ∧ 32 ≤ iSrc2 x.w)))
    ∧ (let w := ins 4 31 0 0 0 0xFFFFFFFF
    let st := 4
    let s : State := stOf (dIns st w (id) (id))
    let f := 2
    let t := 9
    let d := tick t s.dev
    let x : Fetch := { f := f, st := st, e := 9, w := w, s := strm s.dev f st, j := 0 }
    s.dev.boot.power = .on ∧ (f < 16 ∧ st < 6 ∧ fetchNow f st d = some x) ∧ (iOp x.w = 4 ∧ iDst x.w < 32 ∧ x.w &&& (2 ^ 56 - 1 - (mDst ||| mImm)) = 0 ∧ flag d (oForge f + 0x20) 0 = true))
    ∧ (let w := ins 0x13 4 15 0 0 1
    let st := 4
    let s : State := stOf (dIns st w (id) (fun y => { y with pend := [{ land := 19, st := 4, ord := 4, ser := 1, what := .a 15 7 }] }))
    let f := 2
    let t := 9
    let d := tick t s.dev
    let x : Fetch := { f := f, st := st, e := 9, w := w, s := strm s.dev f st, j := 0 }
    s.dev.boot.power = .on ∧ (f < 16 ∧ st < 6 ∧ fetchNow f st d = some x) ∧ (iOp x.w = 0x13 ∧ iDst x.w < 32 ∧ iSrc1 x.w < 16 ∧ x.w &&& (2 ^ 56 - 1 - (mDst ||| mSrc1 ||| mBits 0 1)) = 0 ∧ flag d (oForge f + 0x20) 0 = true ∧ pendingOn d x (1, iSrc1 x.w) = true)) := by
  refine ⟨?_, ?_, ?_, ?_, ?_, ?_, ?_, ?_⟩
  · dsimp only; decide +kernel
  · dsimp only; decide +kernel
  · dsimp only; decide +kernel
  · dsimp only; decide +kernel
  · dsimp only; decide +kernel
  · dsimp only; decide +kernel
  · dsimp only; decide +kernel
  · dsimp only; decide +kernel

/-- Meets the hypotheses of `ScalarArithmetic`. -/
theorem test_meets_ScalarArithmetic :
    (let w := ins 0x05 31 1 2 0 0
    let st := 4
    let s : State := stOf (dIns st w (id) (id))
    let f := 2
    let t := 9
    let x : Fetch := { f := f, st := st, e := 9, w := w, s := strm s.dev f st, j := 0 }
    let op := 0x05
    let extra := mBits 36 1
    s.dev.boot.power = .on ∧ s.dev.issues f st t op (mDst ||| mSrc1 ||| used2 x ||| extra) ((0, iSrc1 x.w) :: reads2 x) x ∧ (iDst x.w < 32 ∧ iSrc1 x.w < 32) ∧ (iX x.w = false → iSrc2 x.w < 32) ∧ iSat x.w = false)
    ∧ (let w := ins 0x05 31 1 0 48 0x80000000
    let st := 4
    let s : State := stOf (dIns st w (id) (id))
    let f := 2
    let t := 9
    let x : Fetch := { f := f, st := st, e := 9, w := w, s := strm s.dev f st, j := 0 }
    let op := 0x05
    let extra := mBits 36 1
    s.dev.boot.power = .on ∧ s.dev.issues f st t op (mDst ||| mSrc1 ||| used2 x ||| extra) ((0, iSrc1 x.w) :: reads2 x) x ∧ (iDst x.w < 32 ∧ iSrc1 x.w < 32) ∧ (iX x.w = false → iSrc2 x.w < 32) ∧ iSat x.w = true)
    ∧ (let w := ins 0x06 31 2 1 0 0
    let st := 4
    let s : State := stOf (dIns st w (id) (id))
    let f := 2
    let t := 9
    let x : Fetch := { f := f, st := st, e := 9, w := w, s := strm s.dev f st, j := 0 }
    let op := 0x06
    let extra := mBits 36 1
    s.dev.boot.power = .on ∧ s.dev.issues f st t op (mDst ||| mSrc1 ||| used2 x ||| extra) ((0, iSrc1 x.w) :: reads2 x) x ∧ (iDst x.w < 32 ∧ iSrc1 x.w < 32) ∧ (iX x.w = false → iSrc2 x.w < 32) ∧ iSat x.w = false)
    ∧ (let w := ins 0x06 31 1 0 48 0x7FFFFFFF
    let st := 4
    let s : State := stOf (dIns st w (id) (id))
    let f := 2
    let t := 9
    let x : Fetch := { f := f, st := st, e := 9, w := w, s := strm s.dev f st, j := 0 }
    let op := 0x06
    let extra := mBits 36 1
    s.dev.boot.power = .on ∧ s.dev.issues f st t op (mDst ||| mSrc1 ||| used2 x ||| extra) ((0, iSrc1 x.w) :: reads2 x) x ∧ (iDst x.w < 32 ∧ iSrc1 x.w < 32) ∧ (iX x.w = false → iSrc2 x.w < 32) ∧ iSat x.w = true)
    ∧ (let w := ins 0x07 31 1 2 0 0
    let st := 4
    let s : State := stOf (dIns st w (id) (id))
    let f := 2
    let t := 9
    let x : Fetch := { f := f, st := st, e := 9, w := w, s := strm s.dev f st, j := 0 }
    let op := 0x07
    let extra := 0
    s.dev.boot.power = .on ∧ s.dev.issues f st t op (mDst ||| mSrc1 ||| used2 x ||| extra) ((0, iSrc1 x.w) :: reads2 x) x ∧ (iDst x.w < 32 ∧ iSrc1 x.w < 32) ∧ (iX x.w = false → iSrc2 x.w < 32))
    ∧ (let w := ins 0x08 31 1 2 0 0
    let st := 4
    let s : State := stOf (dIns st w (id) (id))
    let f := 2
    let t := 9
    let x : Fetch := { f := f, st := st, e := 9, w := w, s := strm s.dev f st, j := 0 }
    let op := 0x08
    let extra := 0
    s.dev.boot.power = .on ∧ s.dev.issues f st t op (mDst ||| mSrc1 ||| used2 x ||| extra) ((0, iSrc1 x.w) :: reads2 x) x ∧ (iDst x.w < 32 ∧ iSrc1 x.w < 32) ∧ (iX x.w = false → iSrc2 x.w < 32))
    ∧ (let w := ins 0x09 31 1 0 32 0xFF
    let st := 4
    let s : State := stOf (dIns st w (id) (id))
    let f := 2
    let t := 9
    let x : Fetch := { f := f, st := st, e := 9, w := w, s := strm s.dev f st, j := 0 }
    let op := 0x09
    let extra := 0
    s.dev.boot.power = .on ∧ s.dev.issues f st t op (mDst ||| mSrc1 ||| used2 x ||| extra) ((0, iSrc1 x.w) :: reads2 x) x ∧ (iDst x.w < 32 ∧ iSrc1 x.w < 32) ∧ (iX x.w = false → iSrc2 x.w < 32))
    ∧ (let w := ins 0x0A 31 1 0 32 36
    let st := 4
    let s : State := stOf (dIns st w (id) (id))
    let f := 2
    let t := 9
    let x : Fetch := { f := f, st := st, e := 9, w := w, s := strm s.dev f st, j := 0 }
    let op := 0x0A
    let extra := 0
    s.dev.boot.power = .on ∧ s.dev.issues f st t op (mDst ||| mSrc1 ||| used2 x ||| extra) ((0, iSrc1 x.w) :: reads2 x) x ∧ (iDst x.w < 32 ∧ iSrc1 x.w < 32) ∧ (iX x.w = false → iSrc2 x.w < 32))
    ∧ (let w := ins 0x0B 31 1 0 32 36
    let st := 4
    let s : State := stOf (dIns st w (id) (id))
    let f := 2
    let t := 9
    let x : Fetch := { f := f, st := st, e := 9, w := w, s := strm s.dev f st, j := 0 }
    let op := 0x0B
    let extra := 0
    s.dev.boot.power = .on ∧ s.dev.issues f st t op (mDst ||| mSrc1 ||| used2 x ||| extra) ((0, iSrc1 x.w) :: reads2 x) x ∧ (iDst x.w < 32 ∧ iSrc1 x.w < 32) ∧ (iX x.w = false → iSrc2 x.w < 32))
    ∧ (let w := ins 0x0C 31 1 0 32 36
    let st := 4
    let s : State := stOf (dIns st w (id) (id))
    let f := 2
    let t := 9
    let x : Fetch := { f := f, st := st, e := 9, w := w, s := strm s.dev f st, j := 0 }
    let op := 0x0C
    let extra := 0
    s.dev.boot.power = .on ∧ s.dev.issues f st t op (mDst ||| mSrc1 ||| used2 x ||| extra) ((0, iSrc1 x.w) :: reads2 x) x ∧ (iDst x.w < 32 ∧ iSrc1 x.w < 32) ∧ (iX x.w = false → iSrc2 x.w < 32))
    ∧ (let w := ins 0x0D 31 1 2 0 0
    let st := 4
    let s : State := stOf (dIns st w (id) (id))
    let f := 2
    let t := 9
    let x : Fetch := { f := f, st := st, e := 9, w := w, s := strm s.dev f st, j := 0 }
    let op := 0x0D
    let extra := mBits 32 3
    s.dev.boot.power = .on ∧ s.dev.issues f st t op (mDst ||| mSrc1 ||| used2 x ||| extra) ((0, iSrc1 x.w) :: reads2 x) x ∧ (iDst x.w < 32 ∧ iSrc1 x.w < 32) ∧ (iX x.w = false → iSrc2 x.w < 32) ∧ iCond x.w = 0)
    ∧ (let w := ins 0x0D 31 1 2 1 0
    let st := 4
    let s : State := stOf (dIns st w (id) (id))
    let f := 2
    let t := 9
    let x : Fetch := { f := f, st := st, e := 9, w := w, s := strm s.dev f st, j := 0 }
    let op := 0x0D
    let extra := mBits 32 3
    s.dev.boot.power = .on ∧ s.dev.issues f st t op (mDst ||| mSrc1 ||| used2 x ||| extra) ((0, iSrc1 x.w) :: reads2 x) x ∧ (iDst x.w < 32 ∧ iSrc1 x.w < 32) ∧ (iX x.w = false → iSrc2 x.w < 32) ∧ iCond x.w = 1)
    ∧ (let w := ins 0x0D 31 1 2 2 0
    let st := 4
    let s : State := stOf (dIns st w (id) (id))
    let f := 2
    let t := 9
    let x : Fetch := { f := f, st := st, e := 9, w := w, s := strm s.dev f st, j := 0 }
    let op := 0x0D
    let extra := mBits 32 3
    s.dev.boot.power = .on ∧ s.dev.issues f st t op (mDst ||| mSrc1 ||| used2 x ||| extra) ((0, iSrc1 x.w) :: reads2 x) x ∧ (iDst x.w < 32 ∧ iSrc1 x.w < 32) ∧ (iX x.w = false → iSrc2 x.w < 32) ∧ iCond x.w = 2)
    ∧ (let w := ins 0x0D 31 1 2 3 0
    let st := 4
    let s : State := stOf (dIns st w (id) (id))
    let f := 2
    let t := 9
    let x : Fetch := { f := f, st := st, e := 9, w := w, s := strm s.dev f st, j := 0 }
    let op := 0x0D
    let extra := mBits 32 3
    s.dev.boot.power = .on ∧ s.dev.issues f st t op (mDst ||| mSrc1 ||| used2 x ||| extra) ((0, iSrc1 x.w) :: reads2 x) x ∧ (iDst x.w < 32 ∧ iSrc1 x.w < 32) ∧ (iX x.w = false → iSrc2 x.w < 32) ∧ iCond x.w = 3)
    ∧ (let w := ins 0x0D 31 1 2 4 0
    let st := 4
    let s : State := stOf (dIns st w (id) (id))
    let f := 2
    let t := 9
    let x : Fetch := { f := f, st := st, e := 9, w := w, s := strm s.dev f st, j := 0 }
    let op := 0x0D
    let extra := mBits 32 3
    s.dev.boot.power = .on ∧ s.dev.issues f st t op (mDst ||| mSrc1 ||| used2 x ||| extra) ((0, iSrc1 x.w) :: reads2 x) x ∧ (iDst x.w < 32 ∧ iSrc1 x.w < 32) ∧ (iX x.w = false → iSrc2 x.w < 32) ∧ iCond x.w = 4)
    ∧ (let w := ins 0x0D 31 1 2 5 0
    let st := 4
    let s : State := stOf (dIns st w (id) (id))
    let f := 2
    let t := 9
    let x : Fetch := { f := f, st := st, e := 9, w := w, s := strm s.dev f st, j := 0 }
    let op := 0x0D
    let extra := mBits 32 3
    s.dev.boot.power = .on ∧ s.dev.issues f st t op (mDst ||| mSrc1 ||| used2 x ||| extra) ((0, iSrc1 x.w) :: reads2 x) x ∧ (iDst x.w < 32 ∧ iSrc1 x.w < 32) ∧ (iX x.w = false → iSrc2 x.w < 32) ∧ iCond x.w = 5) := by
  refine ⟨?_, ?_, ?_, ?_, ?_, ?_, ?_, ?_, ?_, ?_, ?_, ?_, ?_, ?_, ?_, ?_⟩
  · simp only [Dev.issues]; decide +kernel
  · simp only [Dev.issues]; decide +kernel
  · simp only [Dev.issues]; decide +kernel
  · simp only [Dev.issues]; decide +kernel
  · simp only [Dev.issues]; decide +kernel
  · simp only [Dev.issues]; decide +kernel
  · simp only [Dev.issues]; decide +kernel
  · simp only [Dev.issues]; decide +kernel
  · simp only [Dev.issues]; decide +kernel
  · simp only [Dev.issues]; decide +kernel
  · simp only [Dev.issues]; decide +kernel
  · simp only [Dev.issues]; decide +kernel
  · simp only [Dev.issues]; decide +kernel
  · simp only [Dev.issues]; decide +kernel
  · simp only [Dev.issues]; decide +kernel
  · simp only [Dev.issues]; decide +kernel

/-- Meets the hypotheses of `ControlAndAddress`. -/
theorem test_meets_ControlAndAddress :
    (let w := 0
    let st := 5
    let s : State := stOf (dIns st w (id) (id))
    let f := 2
    let t := 9
    let x : Fetch := { f := f, st := st, e := 9, w := w, s := strm s.dev f st, j := 0 }
    s.dev.boot.power = .on ∧ s.dev.issues f st t 0x00 (0) ([]) x)
    ∧ (let w := ins 1 0 0 0 0 0
    let st := 5
    let s : State := stOf (dIns st w (fun y => { y with queue := [{ b := fBytes 5 7 2 100 0 0, ser := 1, org := .enq 0 0, at_ := 0, mb := none, close := false }] }) (id))
    let f := 2
    let t := 9
    let x : Fetch := { f := f, st := st, e := 9, w := w, s := strm s.dev f st, j := 0 }
    let c : FCmd := { b := fBytes 5 7 2 100 0 0, ser := 1, org := .enq 0 0, at_ := 0, mb := none, close := false }
    let rest : List FCmd := []
    s.dev.boot.power = .on ∧ s.dev.issues f st t 0x01 (0) ([]) x ∧ x.s.queue = c :: rest ∧ x.s.run + 1 < cRepeat c.b)
    ∧ (let w := ins 1 0 0 0 0 0
    let st := 5
    let s : State := stOf (dIns st w (fun y => { y with queue := [{ b := fBytes 5 7 1 100 0 0, ser := 1, org := .enq 0 0, at_ := 0, mb := none, close := false }] }) (id))
    let f := 2
    let t := 9
    let x : Fetch := { f := f, st := st, e := 9, w := w, s := strm s.dev f st, j := 0 }
    let c : FCmd := { b := fBytes 5 7 1 100 0 0, ser := 1, org := .enq 0 0, at_ := 0, mb := none, close := false }
    let rest : List FCmd := []
    s.dev.boot.power = .on ∧ s.dev.issues f st t 0x01 (0) ([]) x ∧ x.s.queue = c :: rest ∧ cRepeat c.b ≤ x.s.run + 1)
    ∧ (let w := ins 2 0 0 0 0 (65535 + 65536 * 6)
    let st := 5
    let s : State := stOf (dIns st w (id) (id))
    let f := 2
    let t := 9
    let d := tick t s.dev
    let x : Fetch := { f := f, st := st, e := 9, w := w, s := strm s.dev f st, j := 0 }
    let n := bits x.w 0 16
    let nextOp := iOp (fetchWord (forge d f) (x.s.pc + 1))
    s.dev.boot.power = .on ∧ s.dev.issues f st t 0x02 (mImm) ([]) x ∧ (n ≠ 0 ∧ nextOp ≠ 1 ∧ nextOp ≠ 2 ∧ nextOp ≠ 3))
    ∧ (let w := ins 2 0 0 0 0 (65536 * 6)
    let st := 5
    let s : State := stOf (dIns st w (id) (id))
    let f := 2
    let t := 9
    let x : Fetch := { f := f, st := st, e := 9, w := w, s := strm s.dev f st, j := 0 }
    let n := bits x.w 0 16
    s.dev.boot.power = .on ∧ s.dev.issues f st t 0x02 (mImm) ([]) x ∧ n = 0)
    ∧ (let w := ins 3 0 1 2 0 4095
    let st := 0
    let s : State := stOf (dIns st w (id) (id))
    let f := 2
    let t := 9
    let x : Fetch := { f := f, st := st, e := 9, w := w, s := strm s.dev f st, j := 0 }
    s.dev.boot.power = .on ∧ s.dev.issues f st t 0x03 (mSrc1 ||| mSrc2 ||| mBits 32 3 ||| mBits 0 12) (if iCond x.w = 6 then [] else [(0, iSrc1 x.w), (0, iSrc2 x.w)]) x ∧ (iSrc1 x.w < 32 ∧ iSrc2 x.w < 32 ∧ iCond x.w ≠ 7))
    ∧ (let w := ins 3 0 1 2 1 4095
    let st := 0
    let s : State := stOf (dIns st w (id) (id))
    let f := 2
    let t := 9
    let x : Fetch := { f := f, st := st, e := 9, w := w, s := strm s.dev f st, j := 0 }
    s.dev.boot.power = .on ∧ s.dev.issues f st t 0x03 (mSrc1 ||| mSrc2 ||| mBits 32 3 ||| mBits 0 12) (if iCond x.w = 6 then [] else [(0, iSrc1 x.w), (0, iSrc2 x.w)]) x ∧ (iSrc1 x.w < 32 ∧ iSrc2 x.w < 32 ∧ iCond x.w ≠ 7))
    ∧ (let w := ins 3 0 1 2 3 4095
    let st := 0
    let s : State := stOf (dIns st w (id) (id))
    let f := 2
    let t := 9
    let x : Fetch := { f := f, st := st, e := 9, w := w, s := strm s.dev f st, j := 0 }
    s.dev.boot.power = .on ∧ s.dev.issues f st t 0x03 (mSrc1 ||| mSrc2 ||| mBits 32 3 ||| mBits 0 12) (if iCond x.w = 6 then [] else [(0, iSrc1 x.w), (0, iSrc2 x.w)]) x ∧ (iSrc1 x.w < 32 ∧ iSrc2 x.w < 32 ∧ iCond x.w ≠ 7))
    ∧ (let w := ins 3 0 1 2 4 4095
    let st := 0
    let s : State := stOf (dIns st w (id) (id))
    let f := 2
    let t := 9
    let x : Fetch := { f := f, st := st, e := 9, w := w, s := strm s.dev f st, j := 0 }
    s.dev.boot.power = .on ∧ s.dev.issues f st t 0x03 (mSrc1 ||| mSrc2 ||| mBits 32 3 ||| mBits 0 12) (if iCond x.w = 6 then [] else [(0, iSrc1 x.w), (0, iSrc2 x.w)]) x ∧ (iSrc1 x.w < 32 ∧ iSrc2 x.w < 32 ∧ iCond x.w ≠ 7))
    ∧ (let w := ins 3 0 1 2 6 4095
    let st := 0
    let s : State := stOf (dIns st w (id) (id))
    let f := 2
    let t := 9
    let x : Fetch := { f := f, st := st, e := 9, w := w, s := strm s.dev f st, j := 0 }
    s.dev.boot.power = .on ∧ s.dev.issues f st t 0x03 (mSrc1 ||| mSrc2 ||| mBits 32 3 ||| mBits 0 12) (if iCond x.w = 6 then [] else [(0, iSrc1 x.w), (0, iSrc2 x.w)]) x ∧ (iSrc1 x.w < 32 ∧ iSrc2 x.w < 32 ∧ iCond x.w ≠ 7))
    ∧ (let w := ins 4 31 0 0 0 0xFFFFFFFF
    let st := 0
    let s : State := stOf (dIns st w (id) (id))
    let f := 2
    let t := 9
    let x : Fetch := { f := f, st := st, e := 9, w := w, s := strm s.dev f st, j := 0 }
    s.dev.boot.power = .on ∧ s.dev.issues f st t 0x04 (mDst ||| mImm) ([]) x ∧ iDst x.w < 32)
    ∧ (let w := ins 0x10 15 2 1 0 0
    let st := 0
    let s : State := stOf (dIns st w (id) (id))
    let f := 2
    let t := 9
    let x : Fetch := { f := f, st := st, e := 9, w := w, s := strm s.dev f st, j := 0 }
    s.dev.boot.power = .on ∧ s.dev.issues f st t 0x10 (mDst ||| mSrc1 ||| mSrc2) ([(0, iSrc1 x.w), (0, iSrc2 x.w)]) x ∧ (iDst x.w < 16 ∧ iSrc1 x.w < 32 ∧ iSrc2 x.w < 32))
    ∧ (let w := ins 0x11 15 1 1 0 0
    let st := 0
    let s : State := stOf (dIns st w (id) (id))
    let f := 2
    let t := 9
    let x : Fetch := { f := f, st := st, e := 9, w := w, s := strm s.dev f st, j := 0 }
    s.dev.boot.power = .on ∧ s.dev.issues f st t 0x11 (mDst ||| mSrc1 ||| used2 x) ((1, iSrc1 x.w) :: reads2 x) x ∧ (iDst x.w < 16 ∧ iSrc1 x.w < 16) ∧ (iX x.w = false → iSrc2 x.w < 32))
    ∧ (let w := ins 0x11 15 1 0 32 0x80000000
    let st := 0
    let s : State := stOf (dIns st w (id) (id))
    let f := 2
    let t := 9
    let x : Fetch := { f := f, st := st, e := 9, w := w, s := strm s.dev f st, j := 0 }
    s.dev.boot.power = .on ∧ s.dev.issues f st t 0x11 (mDst ||| mSrc1 ||| used2 x) ((1, iSrc1 x.w) :: reads2 x) x ∧ (iDst x.w < 16 ∧ iSrc1 x.w < 16) ∧ (iX x.w = false → iSrc2 x.w < 32))
    ∧ (let w := ins 0x12 15 1 0 0 0
    let st := 0
    let s : State := stOf (dIns st w (id) (id))
    let f := 2
    let t := 9
    let x : Fetch := { f := f, st := st, e := 9, w := w, s := strm s.dev f st, j := 0 }
    s.dev.boot.power = .on ∧ s.dev.issues f st t 0x12 (mDst ||| mBits 37 1 ||| (if iX x.w then mImm else mSrc1)) (if iX x.w then [] else [(0, iSrc1 x.w)]) x ∧ iDst x.w < 16 ∧ (iX x.w = false → iSrc1 x.w < 32))
    ∧ (let w := ins 0x12 15 0 0 32 0x80000000
    let st := 0
    let s : State := stOf (dIns st w (id) (id))
    let f := 2
    let t := 9
    let x : Fetch := { f := f, st := st, e := 9, w := w, s := strm s.dev f st, j := 0 }
    s.dev.boot.power = .on ∧ s.dev.issues f st t 0x12 (mDst ||| mBits 37 1 ||| (if iX x.w then mImm else mSrc1)) (if iX x.w then [] else [(0, iSrc1 x.w)]) x ∧ iDst x.w < 16 ∧ (iX x.w = false → iSrc1 x.w < 32))
    ∧ (let w := ins 0x13 31 4 0 0 0
    let st := 0
    let s : State := stOf (dIns st w (fun y => { y with a := [(4, 0x123456789ABC)] }) (id))
    let f := 2
    let t := 9
    let x : Fetch := { f := f, st := st, e := 9, w := w, s := strm s.dev f st, j := 0 }
    s.dev.boot.power = .on ∧ s.dev.issues f st t 0x13 (mDst ||| mSrc1 ||| mBits 0 1) ([(1, iSrc1 x.w)]) x ∧ (iDst x.w < 32 ∧ iSrc1 x.w < 16))
    ∧ (let w := ins 0x13 31 4 0 0 1
    let st := 0
    let s : State := stOf (dIns st w (fun y => { y with a := [(4, 0x123456789ABC)] }) (id))
    let f := 2
    let t := 9
    let x : Fetch := { f := f, st := st, e := 9, w := w, s := strm s.dev f st, j := 0 }
    s.dev.boot.power = .on ∧ s.dev.issues f st t 0x13 (mDst ||| mSrc1 ||| mBits 0 1) ([(1, iSrc1 x.w)]) x ∧ (iDst x.w < 32 ∧ iSrc1 x.w < 16))
    ∧ (let w := ins 0x14 31 4 0 0 0
    let st := 0
    let s : State := stOf (dIns st w (fun y => { y with a := [(4, 0xBFFFFC)] }) (fun y => { y with flm := memWriteN y.flm 0xBFFFFC [1, 2, 3, 4], side := memWriteN y.side 8 [5, 6, 7, 8] }))
    let f := 2
    let t := 9
    let x : Fetch := { f := f, st := st, e := 9, w := w, s := strm s.dev f st, j := 0 }
    let m := false
    let o := 0xBFFFFC
    s.dev.boot.power = .on ∧ s.dev.issues f st t 0x14 (mDst ||| mSrc1) ([(1, iSrc1 x.w)]) x ∧ (iDst x.w < 32 ∧ iSrc1 x.w < 16 ∧ rA x (iSrc1 x.w) % 4 = 0 ∧ localMem (rA x (iSrc1 x.w)) 4 = some (m, o)))
    ∧ (let w := ins 0x15 0 4 1 0 0
    let st := 0
    let s : State := stOf (dIns st w (fun y => { y with a := [(4, 0xBFFFFC)] }) (id))
    let f := 2
    let t := 9
    let x : Fetch := { f := f, st := st, e := 9, w := w, s := strm s.dev f st, j := 0 }
    let m := false
    let o := 0xBFFFFC
    s.dev.boot.power = .on ∧ s.dev.issues f st t 0x15 (mSrc1 ||| mSrc2) ([(1, iSrc1 x.w), (0, iSrc2 x.w)]) x ∧ (iSrc1 x.w < 16 ∧ iSrc2 x.w < 32 ∧ rA x (iSrc1 x.w) % 4 = 0 ∧ localMem (rA x (iSrc1 x.w)) 4 = some (m, o)))
    ∧ (let w := ins 0x14 31 4 0 0 0
    let st := 0
    let s : State := stOf (dIns st w (fun y => { y with a := [(4, 0x1000000 + 8)] }) (fun y => { y with flm := memWriteN y.flm 0xBFFFFC [1, 2, 3, 4], side := memWriteN y.side 8 [5, 6, 7, 8] }))
    let f := 2
    let t := 9
    let x : Fetch := { f := f, st := st, e := 9, w := w, s := strm s.dev f st, j := 0 }
    let m := true
    let o := 8
    s.dev.boot.power = .on ∧ s.dev.issues f st t 0x14 (mDst ||| mSrc1) ([(1, iSrc1 x.w)]) x ∧ (iDst x.w < 32 ∧ iSrc1 x.w < 16 ∧ rA x (iSrc1 x.w) % 4 = 0 ∧ localMem (rA x (iSrc1 x.w)) 4 = some (m, o)))
    ∧ (let w := ins 0x15 0 4 1 0 0
    let st := 0
    let s : State := stOf (dIns st w (fun y => { y with a := [(4, 0x1000000 + 8)] }) (id))
    let f := 2
    let t := 9
    let x : Fetch := { f := f, st := st, e := 9, w := w, s := strm s.dev f st, j := 0 }
    let m := true
    let o := 8
    s.dev.boot.power = .on ∧ s.dev.issues f st t 0x15 (mSrc1 ||| mSrc2) ([(1, iSrc1 x.w), (0, iSrc2 x.w)]) x ∧ (iSrc1 x.w < 16 ∧ iSrc2 x.w < 32 ∧ rA x (iSrc1 x.w) % 4 = 0 ∧ localMem (rA x (iSrc1 x.w)) 4 = some (m, o)))
    ∧ (let w := ins 0x14 31 4 0 0 0
    let st := 0
    let s : State := stOf (dIns st w (fun y => { y with a := [(4, 0x1002)] }) (id))
    let f := 2
    let t := 9
    let x : Fetch := { f := f, st := st, e := 9, w := w, s := strm s.dev f st, j := 0 }
    s.dev.boot.power = .on ∧ s.dev.issues f st t 0x14 (mDst ||| mSrc1) ([(1, iSrc1 x.w)]) x ∧ (iDst x.w < 32 ∧ iSrc1 x.w < 16 ∧ rA x (iSrc1 x.w) % 4 ≠ 0))
    ∧ (let w := ins 0x1C 31 0 0 0 0
    let st := 1
    let s : State := stOf (dIns st w (id) (id))
    let f := 2
    let t := 9
    let x : Fetch := { f := f, st := st, e := 9, w := w, s := strm s.dev f st, j := 0 }
    s.dev.boot.power = .on ∧ s.dev.issues f st t 0x1C (mDst ||| mBits 0 2) ([]) x ∧ (iDst x.w < 32 ∧ bits x.w 0 2 = 0))
    ∧ (let w := ins 0x1C 31 0 0 0 1
    let st := 1
    let s : State := stOf (dIns st w (id) (id))
    let f := 2
    let t := 9
    let x : Fetch := { f := f, st := st, e := 9, w := w, s := strm s.dev f st, j := 0 }
    s.dev.boot.power = .on ∧ s.dev.issues f st t 0x1C (mDst ||| mBits 0 2) ([]) x ∧ (iDst x.w < 32 ∧ bits x.w 0 2 = 1))
    ∧ (let w := ins 0x1C 31 0 0 0 2
    let st := 1
    let s : State := stOf (dIns st w (id) (id))
    let f := 2
    let t := 9
    let x : Fetch := { f := f, st := st, e := 9, w := w, s := strm s.dev f st, j := 0 }
    s.dev.boot.power = .on ∧ s.dev.issues f st t 0x1C (mDst ||| mBits 0 2) ([]) x ∧ (iDst x.w < 32 ∧ bits x.w 0 2 = 2))
    ∧ (let w := ins 0x1D 31 0 0 0 21
    let st := 1
    let s : State := stOf (dIns st w (fun y => { y with flags := 5 }) (fun y => { y with sendFail := true }))
    let f := 2
    let t := 9
    let x : Fetch := { f := f, st := st, e := 9, w := w, s := strm s.dev f st, j := 0 }
    s.dev.boot.power = .on ∧ s.dev.issues f st t 0x1D (mDst ||| mBits 0 5) ([]) x ∧ iDst x.w < 32)
    ∧ (let w := ins 0x1D 31 0 0 0 21
    let st := 0
    let s : State := stOf (dIns st w (fun y => { y with flags := 5 }) (fun y => { y with sendFail := true }))
    let f := 2
    let t := 9
    let x : Fetch := { f := f, st := st, e := 9, w := w, s := strm s.dev f st, j := 0 }
    s.dev.boot.power = .on ∧ s.dev.issues f st t 0x1D (mDst ||| mBits 0 5) ([]) x ∧ iDst x.w < 32) := by
  refine ⟨?_, ?_, ?_, ?_, ?_, ?_, ?_, ?_, ?_, ?_, ?_, ?_, ?_, ?_, ?_, ?_, ?_, ?_, ?_, ?_, ?_, ?_, ?_, ?_, ?_, ?_, ?_, ?_⟩
  · simp only [Dev.issues]; decide +kernel
  · simp only [Dev.issues]; decide +kernel
  · simp only [Dev.issues]; decide +kernel
  · simp only [Dev.issues]; decide +kernel
  · simp only [Dev.issues]; decide +kernel
  · simp only [Dev.issues]; decide +kernel
  · simp only [Dev.issues]; decide +kernel
  · simp only [Dev.issues]; decide +kernel
  · simp only [Dev.issues]; decide +kernel
  · simp only [Dev.issues]; decide +kernel
  · simp only [Dev.issues]; decide +kernel
  · simp only [Dev.issues]; decide +kernel
  · simp only [Dev.issues]; decide +kernel
  · simp only [Dev.issues]; decide +kernel
  · simp only [Dev.issues]; decide +kernel
  · simp only [Dev.issues]; decide +kernel
  · simp only [Dev.issues]; decide +kernel
  · simp only [Dev.issues]; decide +kernel
  · simp only [Dev.issues]; decide +kernel
  · simp only [Dev.issues]; decide +kernel
  · simp only [Dev.issues]; decide +kernel
  · simp only [Dev.issues]; decide +kernel
  · simp only [Dev.issues]; decide +kernel
  · simp only [Dev.issues]; decide +kernel
  · simp only [Dev.issues]; decide +kernel
  · simp only [Dev.issues]; decide +kernel
  · simp only [Dev.issues]; decide +kernel
  · simp only [Dev.issues]; decide +kernel

def withJoin (d : Dev) : Dev :=
  { d with
    cru := { d.cru with joins := [(2, { wJoin with eid := 30, forge := some 2 })] },
    tab := { (dHost []).tab with ept := (dHost []).tab.ept ++ [(30, hEpt 1 2)] } }

/-- Meets the hypotheses of `SyncAndMovers`. -/
theorem test_meets_SyncAndMovers :
    (let w := ins 0x18 0 31 0 0 196607
    let st := 3
    let s : State := stOf (dIns st w (id) (id))
    let f := 2
    let t := 9
    let x : Fetch := { f := f, st := st, e := 9, w := w, s := strm s.dev f st, j := 0 }
    s.dev.boot.power = .on ∧ s.dev.issues f st t (0x18) (mSrc1 ||| mBits 37 1 ||| mBits 0 (if iX x.w then 16 else 20)) ([]) x ∧ bits x.w 0 16 ≠ 0 ∧ (iX x.w = true ∨ iSrc1 x.w ≤ 31))
    ∧ (let w := ins 0x18 0 31 0 0 393215
    let st := 3
    let s : State := stOf (dIns st w (id) (id))
    let f := 2
    let t := 9
    let x : Fetch := { f := f, st := st, e := 9, w := w, s := strm s.dev f st, j := 0 }
    s.dev.boot.power = .on ∧ s.dev.issues f st t (0x18) (mSrc1 ||| mBits 37 1 ||| mBits 0 (if iX x.w then 16 else 20)) ([]) x ∧ bits x.w 0 16 ≠ 0 ∧ (iX x.w = true ∨ iSrc1 x.w ≤ 31))
    ∧ (let w := ins 0x18 0 63 0 32 65535
    let st := 3
    let s : State := stOf (dIns st w (id) (id))
    let f := 2
    let t := 9
    let x : Fetch := { f := f, st := st, e := 9, w := w, s := strm s.dev f st, j := 0 }
    s.dev.boot.power = .on ∧ s.dev.issues f st t (0x18) (mSrc1 ||| mBits 37 1 ||| mBits 0 (if iX x.w then 16 else 20)) ([]) x ∧ bits x.w 0 16 ≠ 0 ∧ (iX x.w = true ∨ iSrc1 x.w ≤ 31))
    ∧ (let w := ins 0x19 0 31 0 0 7
    let st := 3
    let s : State := stOf (dIns st w (id) (fun y => { y with q := [(31, 8)] }))
    let f := 2
    let t := 9
    let x : Fetch := { f := f, st := st, e := 9, w := w, s := strm s.dev f st, j := 0 }
    s.dev.boot.power = .on ∧ s.dev.issues f st t (0x19) (mSrc1 ||| mBits 37 1 ||| mBits 0 (if iX x.w then 16 else 20)) ([]) x ∧ bits x.w 0 16 ≠ 0 ∧ (iX x.w = true ∨ (iSrc1 x.w ≤ 31 ∧ bits x.w 16 4 = 0)))
    ∧ (let w := ins 0x19 0 31 0 0 7
    let st := 3
    let s : State := stOf (dIns st w (id) (fun y => { y with q := [(31, 6)] }))
    let f := 2
    let t := 9
    let x : Fetch := { f := f, st := st, e := 9, w := w, s := strm s.dev f st, j := 0 }
    s.dev.boot.power = .on ∧ s.dev.issues f st t (0x19) (mSrc1 ||| mBits 37 1 ||| mBits 0 (if iX x.w then 16 else 20)) ([]) x ∧ bits x.w 0 16 ≠ 0 ∧ (iX x.w = true ∨ (iSrc1 x.w ≤ 31 ∧ bits x.w 16 4 = 0)))
    ∧ (let w := ins 0x19 0 63 0 32 7
    let st := 3
    let s : State := stOf (dIns st w (id) (fun y => { y with q := [(31, 0)] }))
    let f := 2
    let t := 9
    let x : Fetch := { f := f, st := st, e := 9, w := w, s := strm s.dev f st, j := 0 }
    s.dev.boot.power = .on ∧ s.dev.issues f st t (0x19) (mSrc1 ||| mBits 37 1 ||| mBits 0 (if iX x.w then 16 else 20)) ([]) x ∧ bits x.w 0 16 ≠ 0 ∧ (iX x.w = true ∨ (iSrc1 x.w ≤ 31 ∧ bits x.w 16 4 = 0)))
    ∧ (let w := ins 0x1A 31 1 0 0 18
    let st := 3
    let s : State := stOf (dIns st w (id) (fun y => { y with flm := memWriteN y.flm 0x1000 (fBytes 5 7 0 100 0 0) }))
    let f := 2
    let t := 9
    let d := tick t s.dev
    let x : Fetch := { f := f, st := st, e := 9, w := w, s := strm s.dev f st, j := 0 }
    let to_ := bits x.w 4 3
    let b := memReadN (forge d f).flm (rA x (iSrc1 x.w)) 32
    s.dev.boot.power = .on ∧ s.dev.issues f st t (0x1A) (mDst ||| mSrc1 ||| mBits 0 7) ([(1, iSrc1 x.w)]) x ∧ (iDst x.w < 32 ∧ iSrc1 x.w < 16 ∧ bits x.w 4 3 ≤ 5 ∧ rA x (iSrc1 x.w) % 32 = 0 ∧ rA x (iSrc1 x.w) + 32 ≤ flmSize) ∧ cmdOk to_ b = false)
    ∧ (let w := ins 0x1A 31 1 0 0 18
    let st := 3
    let s : State := stOf (dIns st w (id) (fun y => { y with flm := memWriteN y.flm 0x1000 (fBytes 5 7 1 100 0 0), streams := tput y.streams 1 { streamZero with queue := List.replicate 64 wFCmd } }))
    let f := 2
    let t := 9
    let d := tick t s.dev
    let x : Fetch := { f := f, st := st, e := 9, w := w, s := strm s.dev f st, j := 0 }
    let k := bits x.w 0 4
    let to_ := bits x.w 4 3
    let b := memReadN (forge d f).flm (rA x (iSrc1 x.w)) 32
    s.dev.boot.power = .on ∧ s.dev.issues f st t (0x1A) (mDst ||| mSrc1 ||| mBits 0 7) ([(1, iSrc1 x.w)]) x ∧ (iDst x.w < 32 ∧ iSrc1 x.w < 16 ∧ bits x.w 4 3 ≤ 5 ∧ rA x (iSrc1 x.w) % 32 = 0 ∧ rA x (iSrc1 x.w) + 32 ≤ flmSize) ∧ (cmdOk to_ b = true ∧ 64 ≤ (strm d k to_).queue.length))
    ∧ (let w := ins 0x1A 31 1 0 0 18
    let st := 3
    let s : State := stOf (dIns st w (id) (fun y => { y with flm := memWriteN y.flm 0x1000 (fBytes 5 7 1 100 0 0) }))
    let f := 2
    let t := 9
    let d := tick t s.dev
    let x : Fetch := { f := f, st := st, e := 9, w := w, s := strm s.dev f st, j := 0 }
    let k := bits x.w 0 4
    let to_ := bits x.w 4 3
    let b := memReadN (forge d f).flm (rA x (iSrc1 x.w)) 32
    s.dev.boot.power = .on ∧ s.dev.issues f st t (0x1A) (mDst ||| mSrc1 ||| mBits 0 7) ([(1, iSrc1 x.w)]) x ∧ (iDst x.w < 32 ∧ iSrc1 x.w < 16 ∧ bits x.w 4 3 ≤ 5 ∧ rA x (iSrc1 x.w) % 32 = 0 ∧ rA x (iSrc1 x.w) + 32 ≤ flmSize) ∧ (cmdOk to_ b = true ∧ (strm d k to_).queue.length < 64))
    ∧ (let w := ins 0x1B 31 0 0 0 50
    let st := 3
    let s : State := stOf (dIns st w (id) (id))
    let f := 2
    let t := 9
    let x : Fetch := { f := f, st := st, e := 9, w := w, s := strm s.dev f st, j := 0 }
    s.dev.boot.power = .on ∧ s.dev.issues f st t (0x1B) (mDst ||| mBits 0 7) ([]) x ∧ (iDst x.w < 32 ∧ bits x.w 4 3 ≤ 5 ∧ bits x.w 0 4 = f))
    ∧ (let w := ins 0x1B 31 0 0 0 95
    let st := 3
    let s : State := stOf (dIns st w (id) (id))
    let f := 2
    let t := 9
    let x : Fetch := { f := f, st := st, e := 9, w := w, s := strm s.dev f st, j := 0 }
    s.dev.boot.power = .on ∧ s.dev.issues f st t (0x1B) (mDst ||| mBits 0 7) ([]) x ∧ (iDst x.w < 32 ∧ bits x.w 4 3 ≤ 5 ∧ bits x.w 0 4 ≠ f))
    ∧ (let w := ins 0x40 3 2 5 0 (128 + 31)
    let st := 0
    let s : State := stOf (dIns st w (fun y => { y with s := [(5, 64)], a := [(2, 0x1000), (3, 0x2000)] }) (id))
    let f := 2
    let t := 9
    let d := tick t s.dev
    let x : Fetch := { f := f, st := st, e := 9, w := w, s := strm s.dev f st, j := 0 }
    let n := rS x (iSrc2 x.w)
    let sem := semField x.w 0
    let u := (placeOf (rA x (iSrc1 x.w)) n).getD (.flm 0)
    let v := (placeOf (rA x (iDst x.w)) n).getD (.flm 0)
    s.dev.boot.power = .on ∧ s.dev.issues f st t (if st = 0 then 0x40 else 0x50) (mDst ||| mSrc1 ||| mSrc2 ||| mBits 0 8) ([(1, iDst x.w), (1, iSrc1 x.w), (0, iSrc2 x.w)]) x ∧ (st ≤ 1 ∧ (strm d f st).movers.length < 16 ∧ iDst x.w < 16 ∧ iSrc1 x.w < 16 ∧ iSrc2 x.w < 32 ∧ n % 64 = 0 ∧ 64 ≤ n ∧ n ≤ 2 ^ 24 ∧ rA x (iSrc1 x.w) % 64 = 0 ∧ rA x (iDst x.w) % 64 = 0) ∧ (placeOf (rA x (iSrc1 x.w)) n = some u ∧ placeOf (rA x (iDst x.w)) n = some v ∧ movOpen st u v = true ∧ semBad sem = false))
    ∧ (let w := ins 0x50 3 2 5 0 (128 + 31)
    let st := 1
    let s : State := stOf (dIns st w (fun y => { y with s := [(5, 0x40000)], a := [(2, 0x1000), (3, 0x2000)] }) (id))
    let f := 2
    let t := 9
    let d := tick t s.dev
    let x : Fetch := { f := f, st := st, e := 9, w := w, s := strm s.dev f st, j := 0 }
    let n := rS x (iSrc2 x.w)
    let sem := semField x.w 0
    let u := (placeOf (rA x (iSrc1 x.w)) n).getD (.flm 0)
    let v := (placeOf (rA x (iDst x.w)) n).getD (.flm 0)
    s.dev.boot.power = .on ∧ s.dev.issues f st t (if st = 0 then 0x40 else 0x50) (mDst ||| mSrc1 ||| mSrc2 ||| mBits 0 8) ([(1, iDst x.w), (1, iSrc1 x.w), (0, iSrc2 x.w)]) x ∧ (st ≤ 1 ∧ (strm d f st).movers.length < 16 ∧ iDst x.w < 16 ∧ iSrc1 x.w < 16 ∧ iSrc2 x.w < 32 ∧ n % 64 = 0 ∧ 64 ≤ n ∧ n ≤ 2 ^ 24 ∧ rA x (iSrc1 x.w) % 64 = 0 ∧ rA x (iDst x.w) % 64 = 0) ∧ (placeOf (rA x (iSrc1 x.w)) n = some u ∧ placeOf (rA x (iDst x.w)) n = some v ∧ movOpen st u v = true ∧ semBad sem = false))
    ∧ (let w := ins 0x40 3 2 5 0 (128 + 31)
    let st := 0
    let s : State := stOf (dIns st w (fun y => { y with s := [(5, 64)], a := [(2, 6 * 2 ^ 32), (3, 0x2000)] }) (id))
    let f := 2
    let t := 9
    let d := tick t s.dev
    let x : Fetch := { f := f, st := st, e := 9, w := w, s := strm s.dev f st, j := 0 }
    let n := rS x (iSrc2 x.w)
    let sem := semField x.w 0
    let u := (placeOf (rA x (iSrc1 x.w)) n).getD (.flm 0)
    let v := (placeOf (rA x (iDst x.w)) n).getD (.flm 0)
    s.dev.boot.power = .on ∧ s.dev.issues f st t (if st = 0 then 0x40 else 0x50) (mDst ||| mSrc1 ||| mSrc2 ||| mBits 0 8) ([(1, iDst x.w), (1, iSrc1 x.w), (0, iSrc2 x.w)]) x ∧ (st ≤ 1 ∧ (strm d f st).movers.length < 16 ∧ iDst x.w < 16 ∧ iSrc1 x.w < 16 ∧ iSrc2 x.w < 32 ∧ n % 64 = 0 ∧ 64 ≤ n ∧ n ≤ 2 ^ 24 ∧ rA x (iSrc1 x.w) % 64 = 0 ∧ rA x (iDst x.w) % 64 = 0) ∧ (placeOf (rA x (iSrc1 x.w)) n = some u ∧ placeOf (rA x (iDst x.w)) n = some v ∧ movOpen st u v = true ∧ semBad sem = false))
    ∧ (let w := ins 0x41 5 2 3 0 798
    let st := 0
    let s : State := stOf (dIns st w (fun y => { y with s := [(5, 256)], a := [(2, 0x100000), (3, 0x400)] }) (id))
    let f := 2
    let t := 9
    let d := tick t s.dev
    let x : Fetch := { f := f, st := st, e := 9, w := w, s := strm s.dev f st, j := 0 }
    let a := rA x (iSrc1 x.w)
    let pitch := rS x (iDst x.w)
    let sem := semField x.w 10
    let sc := rA x (iSrc2 x.w)
    let wide := (wldFmt (bits x.w 5 3)).getD false
    let rows := (List.range 64).map (fun r => placeOf (rowAddr a pitch r) (64 * (Num.Fmt.ofCode (bits x.w 5 3)).bytes))
    s.dev.boot.power = .on ∧ s.dev.issues f st t (0x41) (mDst ||| mSrc1 ||| mBits 0 18 ||| (if bit x.w 8 then mSrc2 else 0)) ([(0, iDst x.w), (1, iSrc1 x.w)] ++ (if bit x.w 8 then [(1, iSrc2 x.w)] else [])) x ∧ (st = 0 ∧ (strm d f st).movers.length < 16 ∧ iDst x.w < 32 ∧ iSrc1 x.w < 16) ∧ (bit x.w 8 = true → iSrc2 x.w < 16) ∧ wldFmt (bits x.w 5 3) = some wide ∧ (wide = true → bits x.w 0 4 % 2 = 0) ∧ (pitch % 64 = 0 ∧ a % 64 = 0) ∧ (bit x.w 8 = true → sc % 64 = 0) ∧ (rowsBad (if bit x.w 8 then rows ++ [placeOf sc 64] else rows) notSide = none ∧ semBad sem = false))
    ∧ (let w := ins 0x41 5 2 0 0 575
    let st := 0
    let s : State := stOf (dIns st w (fun y => { y with s := [(5, 256)], a := [(2, 0x100000), (3, 0x400)] }) (id))
    let f := 2
    let t := 9
    let d := tick t s.dev
    let x : Fetch := { f := f, st := st, e := 9, w := w, s := strm s.dev f st, j := 0 }
    let a := rA x (iSrc1 x.w)
    let pitch := rS x (iDst x.w)
    let sem := semField x.w 10
    let sc := rA x (iSrc2 x.w)
    let wide := (wldFmt (bits x.w 5 3)).getD false
    let rows := (List.range 64).map (fun r => placeOf (rowAddr a pitch r) (64 * (Num.Fmt.ofCode (bits x.w 5 3)).bytes))
    s.dev.boot.power = .on ∧ s.dev.issues f st t (0x41) (mDst ||| mSrc1 ||| mBits 0 18 ||| (if bit x.w 8 then mSrc2 else 0)) ([(0, iDst x.w), (1, iSrc1 x.w)] ++ (if bit x.w 8 then [(1, iSrc2 x.w)] else [])) x ∧ (st = 0 ∧ (strm d f st).movers.length < 16 ∧ iDst x.w < 32 ∧ iSrc1 x.w < 16) ∧ (bit x.w 8 = true → iSrc2 x.w < 16) ∧ wldFmt (bits x.w 5 3) = some wide ∧ (wide = true → bits x.w 0 4 % 2 = 0) ∧ (pitch % 64 = 0 ∧ a % 64 = 0) ∧ (bit x.w 8 = true → sc % 64 = 0) ∧ (rowsBad (if bit x.w 8 then rows ++ [placeOf sc 64] else rows) notSide = none ∧ semBad sem = false))
    ∧ (let w := ins 0x51 0 2 5 5 (11 + 16 + 128)
    let st := 1
    let s : State := stOf (dIns st w (fun y => { y with s := [(5, 256)], a := [(2, 0x100000)] }) (id))
    let f := 2
    let t := 9
    let d := tick t s.dev
    let x : Fetch := { f := f, st := st, e := 9, w := w, s := strm s.dev f st, j := 0 }
    let a := rA x (iSrc1 x.w)
    let pitch := rS x (iSrc2 x.w)
    let sem := semField x.w 8
    s.dev.boot.power = .on ∧ s.dev.issues f st t (0x51) (mSrc1 ||| mSrc2 ||| mBits 0 16 ||| mBits 32 4) ([(1, iSrc1 x.w), (0, iSrc2 x.w), (4, 8 * bits x.w 3 1 + bits x.w 0 3)]) x ∧ (st = 1 ∧ (strm d f st).movers.length < 16 ∧ iSrc1 x.w < 16 ∧ iSrc2 x.w < 32 ∧ bits x.w 4 3 ≤ 2 ∧ iRnd x.w ≤ 1 ∧ iOrm x.w ≤ 1 ∧ pitch % 64 = 0 ∧ a % 64 = 0 ∧ semBad sem = false) ∧ (∀ i : Nat, i < 64 → placeOf (rowAddr a pitch i) (64 * (Num.Fmt.ofCode (bits x.w 4 3)).bytes) = some (.flm (rowAddr a pitch i))))
    ∧ (let w := ins 0x52 0 2 5 (4 * 5) (255 + 256 * (128 + 31) + 65536 * 77)
    let st := 1
    let s : State := stOf (dIns st w (fun y => { y with s := [(5, 0 * 2 ^ 24 + 9)], a := [(2, 0xC00000 - 512 * 256)] }) (id))
    let f := 2
    let t := 9
    let d := tick t s.dev
    let x : Fetch := { f := f, st := st, e := 9, w := w, s := strm s.dev f st, j := 0 }
    let v := rS x (iSrc2 x.w)
    let cells := bits x.w 0 8 + 1
    s.dev.boot.power = .on ∧ s.dev.issues f st t (0x52) (mSrc1 ||| mSrc2 ||| mBits 32 5 ||| mBits 0 16 ||| mBits 16 16) ([(1, iSrc1 x.w), (0, iSrc2 x.w)]) x ∧ (st = 1 ∧ iSrc1 x.w < 16 ∧ iSrc2 x.w < 32 ∧ semBad (semField x.w 8) = false ∧ bits x.w 32 2 = 0 ∧ v < 2 ^ 28) ∧ (v / 2 ^ 24 = 0 ∨ v / 2 ^ 24 = 3 ∨ v / 2 ^ 24 = 6) ∧ ((forge d f).sends.length < 16 ∧ rA x (iSrc1 x.w) % 64 = 0 ∧ rA x (iSrc1 x.w) + 512 * cells ≤ flmSize))
    ∧ (let w := ins 0x52 0 2 5 (4 * 5) (255 + 256 * (128 + 31) + 65536 * 77)
    let st := 1
    let s : State := stOf (dIns st w (fun y => { y with s := [(5, 3 * 2 ^ 24 + 9)], a := [(2, 0xC00000 - 512 * 256)] }) (id))
    let f := 2
    let t := 9
    let d := tick t s.dev
    let x : Fetch := { f := f, st := st, e := 9, w := w, s := strm s.dev f st, j := 0 }
    let v := rS x (iSrc2 x.w)
    let cells := bits x.w 0 8 + 1
    s.dev.boot.power = .on ∧ s.dev.issues f st t (0x52) (mSrc1 ||| mSrc2 ||| mBits 32 5 ||| mBits 0 16 ||| mBits 16 16) ([(1, iSrc1 x.w), (0, iSrc2 x.w)]) x ∧ (st = 1 ∧ iSrc1 x.w < 16 ∧ iSrc2 x.w < 32 ∧ semBad (semField x.w 8) = false ∧ bits x.w 32 2 = 0 ∧ v < 2 ^ 28) ∧ (v / 2 ^ 24 = 0 ∨ v / 2 ^ 24 = 3 ∨ v / 2 ^ 24 = 6) ∧ ((forge d f).sends.length < 16 ∧ rA x (iSrc1 x.w) % 64 = 0 ∧ rA x (iSrc1 x.w) + 512 * cells ≤ flmSize))
    ∧ (let w := ins 0x52 0 2 5 (4 * 5) (255 + 256 * (128 + 31) + 65536 * 77)
    let st := 1
    let s : State := stOf (dIns st w (fun y => { y with s := [(5, 6 * 2 ^ 24 + 9)], a := [(2, 0xC00000 - 512 * 256)] }) (id))
    let f := 2
    let t := 9
    let d := tick t s.dev
    let x : Fetch := { f := f, st := st, e := 9, w := w, s := strm s.dev f st, j := 0 }
    let v := rS x (iSrc2 x.w)
    let cells := bits x.w 0 8 + 1
    s.dev.boot.power = .on ∧ s.dev.issues f st t (0x52) (mSrc1 ||| mSrc2 ||| mBits 32 5 ||| mBits 0 16 ||| mBits 16 16) ([(1, iSrc1 x.w), (0, iSrc2 x.w)]) x ∧ (st = 1 ∧ iSrc1 x.w < 16 ∧ iSrc2 x.w < 32 ∧ semBad (semField x.w 8) = false ∧ bits x.w 32 2 = 0 ∧ v < 2 ^ 28) ∧ (v / 2 ^ 24 = 0 ∨ v / 2 ^ 24 = 3 ∨ v / 2 ^ 24 = 6) ∧ ((forge d f).sends.length < 16 ∧ rA x (iSrc1 x.w) % 64 = 0 ∧ rA x (iSrc1 x.w) + 512 * cells ≤ flmSize))
    ∧ (let w := ins 0x52 6 2 5 (4 * 5 + 1) 0
    let st := 1
    let s : State := stOf (dIns st w (fun y => { y with s := [(5, 99), (6, 480)], a := [(2, 0x1000)] }) (fun y => { y with handles := [(6, wHandle (some [3]))] }))
    let f := 2
    let t := 9
    let d := tick t s.dev
    let x : Fetch := { f := f, st := st, e := 9, w := w, s := strm s.dev f st, j := 0 }
    let r := sendReplyKind x d
    s.dev.boot.power = .on ∧ s.dev.issues f st t (0x52) (mSrc1 ||| mSrc2 ||| mBits 32 5 ||| mBits 0 16 ||| mDst) ([(1, iSrc1 x.w), (0, iSrc2 x.w), (0, iDst x.w)]) x ∧ (st = 1 ∧ iSrc1 x.w < 16 ∧ iSrc2 x.w < 32 ∧ iDst x.w < 32 ∧ semBad (semField x.w 8) = false ∧ bits x.w 32 2 = 1) ∧ (match r with | .ok _ => true | .error _ => false) = true)
    ∧ (let w := ins 0x52 6 2 5 (4 * 5 + 2) 0
    let st := 1
    let s : State := stOf (withJoin (dIns st w (fun y => { y with s := [(5, 0), (6, 70000)], a := [(2, 0x1000)] }) (id)))
    let f := 2
    let t := 9
    let d := tick t s.dev
    let x : Fetch := { f := f, st := st, e := 9, w := w, s := strm s.dev f st, j := 0 }
    let r := sendChunk x d
    s.dev.boot.power = .on ∧ s.dev.issues f st t (0x52) (mSrc1 ||| mSrc2 ||| mBits 32 5 ||| mBits 0 16 ||| mDst) ([(1, iSrc1 x.w), (0, iSrc2 x.w), (0, iDst x.w)]) x ∧ (st = 1 ∧ iSrc1 x.w < 16 ∧ iSrc2 x.w < 32 ∧ iDst x.w < 32 ∧ semBad (semField x.w 8) = false ∧ bits x.w 32 2 = 2) ∧ (match r with | .ok _ => true | .error _ => false) = true) := by
  refine ⟨?_, ?_, ?_, ?_, ?_, ?_, ?_, ?_, ?_, ?_, ?_, ?_, ?_, ?_, ?_, ?_, ?_, ?_, ?_, ?_, ?_, ?_⟩
  · simp only [Dev.issues]; decide +kernel
  · simp only [Dev.issues]; decide +kernel
  · simp only [Dev.issues]; decide +kernel
  · simp only [Dev.issues]; decide +kernel
  · simp only [Dev.issues]; decide +kernel
  · simp only [Dev.issues]; decide +kernel
  · simp only [Dev.issues]; decide +kernel
  · simp only [Dev.issues]; decide +kernel
  · simp only [Dev.issues]; decide +kernel
  · simp only [Dev.issues]; decide +kernel
  · simp only [Dev.issues]; decide +kernel
  · simp only [Dev.issues]; decide +kernel
  · simp only [Dev.issues]; decide +kernel
  · simp only [Dev.issues]; decide +kernel
  · simp only [Dev.issues]; decide +kernel
  · simp only [Dev.issues]; decide +kernel
  · simp only [Dev.issues]; decide +kernel
  · simp only [Dev.issues]; decide +kernel
  · simp only [Dev.issues]; decide +kernel
  · simp only [Dev.issues]; decide +kernel
  · simp only [Dev.issues]; decide +kernel
  · simp only [Dev.issues]; decide +kernel

/-- Meets the hypotheses of `VectorInstructions`. -/
theorem test_meets_VectorInstructions :
    (let w := ins 0x20 31 4 0 0 0
    let st := 2
    let s : State := stOf (dIns st w (fun y => { y with a := [(4, 0xBFFFC0)] }) (fun y => { y with flm := memWriteN y.flm 0xBFFFC1 [1, 2, 3, 4], side := memWriteN y.side 66 [5, 6, 7, 8] }))
    let f := 2
    let t := 9
    let x : Fetch := { f := f, st := st, e := 9, w := w, s := strm s.dev f st, j := 0 }
    let m := false
    let o := 0xBFFFC0
    s.dev.boot.power = .on ∧ iDst x.w < 32 ∧ s.dev.issues f st t (0x20) (mDst ||| mSrc1) ([(1, iSrc1 x.w)]) x ∧ (iSrc1 x.w < 16 ∧ rA x (iSrc1 x.w) % 64 = 0 ∧ localMem (rA x (iSrc1 x.w)) 64 = some (m, o)))
    ∧ (let w := ins 0x21 0 4 2 0 0
    let st := 2
    let s : State := stOf (dIns st w (fun y => { y with a := [(4, 0xBFFFC0)] }) (id))
    let f := 2
    let t := 9
    let x : Fetch := { f := f, st := st, e := 9, w := w, s := strm s.dev f st, j := 0 }
    let m := false
    let o := 0xBFFFC0
    s.dev.boot.power = .on ∧ iDst x.w < 32 ∧ s.dev.issues f st t (0x21) (mSrc1 ||| mSrc2) ([(1, iSrc1 x.w), (2, iSrc2 x.w)]) x ∧ (iSrc1 x.w < 16 ∧ iSrc2 x.w < 32 ∧ rA x (iSrc1 x.w) % 64 = 0 ∧ localMem (rA x (iSrc1 x.w)) 64 = some (m, o)))
    ∧ (let w := ins 0x20 31 4 0 0 0
    let st := 2
    let s : State := stOf (dIns st w (fun y => { y with a := [(4, 0x1000040)] }) (fun y => { y with flm := memWriteN y.flm 0xBFFFC1 [1, 2, 3, 4], side := memWriteN y.side 66 [5, 6, 7, 8] }))
    let f := 2
    let t := 9
    let x : Fetch := { f := f, st := st, e := 9, w := w, s := strm s.dev f st, j := 0 }
    let m := true
    let o := 64
    s.dev.boot.power = .on ∧ iDst x.w < 32 ∧ s.dev.issues f st t (0x20) (mDst ||| mSrc1) ([(1, iSrc1 x.w)]) x ∧ (iSrc1 x.w < 16 ∧ rA x (iSrc1 x.w) % 64 = 0 ∧ localMem (rA x (iSrc1 x.w)) 64 = some (m, o)))
    ∧ (let w := ins 0x21 0 4 2 0 0
    let st := 2
    let s : State := stOf (dIns st w (fun y => { y with a := [(4, 0x1000040)] }) (id))
    let f := 2
    let t := 9
    let x : Fetch := { f := f, st := st, e := 9, w := w, s := strm s.dev f st, j := 0 }
    let m := true
    let o := 64
    s.dev.boot.power = .on ∧ iDst x.w < 32 ∧ s.dev.issues f st t (0x21) (mSrc1 ||| mSrc2) ([(1, iSrc1 x.w), (2, iSrc2 x.w)]) x ∧ (iSrc1 x.w < 16 ∧ iSrc2 x.w < 32 ∧ rA x (iSrc1 x.w) % 64 = 0 ∧ localMem (rA x (iSrc1 x.w)) 64 = some (m, o)))
    ∧ (let w := ins 0x22 31 2 0 0 0
    let st := 2
    let s : State := stOf (dIns st w (id) (id))
    let f := 2
    let t := 9
    let x : Fetch := { f := f, st := st, e := 9, w := w, s := strm s.dev f st, j := 0 }
    s.dev.boot.power = .on ∧ iDst x.w < 32 ∧ s.dev.issues f st t (0x22) (mDst ||| mSrc1 ||| mBits 0 3) ([(0, iSrc1 x.w)]) x ∧ (iSrc1 x.w < 32 ∧ bits x.w 0 3 ≠ 7))
    ∧ (let w := ins 0x22 31 2 0 0 1
    let st := 2
    let s : State := stOf (dIns st w (id) (id))
    let f := 2
    let t := 9
    let x : Fetch := { f := f, st := st, e := 9, w := w, s := strm s.dev f st, j := 0 }
    s.dev.boot.power = .on ∧ iDst x.w < 32 ∧ s.dev.issues f st t (0x22) (mDst ||| mSrc1 ||| mBits 0 3) ([(0, iSrc1 x.w)]) x ∧ (iSrc1 x.w < 32 ∧ bits x.w 0 3 ≠ 7))
    ∧ (let w := ins 0x22 31 2 0 0 3
    let st := 2
    let s : State := stOf (dIns st w (id) (id))
    let f := 2
    let t := 9
    let x : Fetch := { f := f, st := st, e := 9, w := w, s := strm s.dev f st, j := 0 }
    s.dev.boot.power = .on ∧ iDst x.w < 32 ∧ s.dev.issues f st t (0x22) (mDst ||| mSrc1 ||| mBits 0 3) ([(0, iSrc1 x.w)]) x ∧ (iSrc1 x.w < 32 ∧ bits x.w 0 3 ≠ 7))
    ∧ (let w := ins 0x22 31 2 0 0 4
    let st := 2
    let s : State := stOf (dIns st w (id) (id))
    let f := 2
    let t := 9
    let x : Fetch := { f := f, st := st, e := 9, w := w, s := strm s.dev f st, j := 0 }
    s.dev.boot.power = .on ∧ iDst x.w < 32 ∧ s.dev.issues f st t (0x22) (mDst ||| mSrc1 ||| mBits 0 3) ([(0, iSrc1 x.w)]) x ∧ (iSrc1 x.w < 32 ∧ bits x.w 0 3 ≠ 7))
    ∧ (let w := ins 0x23 31 1 2 0 0
    let st := 2
    let s : State := stOf (dIns st w (fun y => { y with v := [(1, 0x3F8000013F800000C0490FDB00000001FF80000012345678 + 0x9ABCDEF0 * 2 ^ 480), (2, 0x7F7FFFFF40490FDB3F80000080000001123456787FC00000 + 0x9ABCDEF1 * 2 ^ 480), (31, 0x3F000000BF800000)] }) (id))
    let f := 2
    let t := 9
    let x : Fetch := { f := f, st := st, e := 9, w := w, s := strm s.dev f st, j := 0 }
    s.dev.boot.power = .on ∧ (iDst x.w < 32 ∧ iSrc1 x.w < 32 ∧ iSrc2 x.w < 32) ∧ s.dev.issues f st t (0x23) (mDst ||| mSrc1 ||| mSrc2 ||| (mBits 0 3 ||| mBits 32 4)) ([(2, iSrc1 x.w), (2, iSrc2 x.w)] ++ []) x ∧ (bits x.w 0 3 ≤ 1 ∧ iRnd x.w ≤ 1 ∧ iOrm x.w ≤ 1))
    ∧ (let w := ins 0x24 31 1 2 1 0
    let st := 2
    let s : State := stOf (dIns st w (fun y => { y with v := [(1, 0x3F8000013F800000C0490FDB00000001FF80000012345678 + 0x9ABCDEF0 * 2 ^ 480), (2, 0x7F7FFFFF40490FDB3F80000080000001123456787FC00000 + 0x9ABCDEF1 * 2 ^ 480), (31, 0x3F000000BF800000)] }) (id))
    let f := 2
    let t := 9
    let x : Fetch := { f := f, st := st, e := 9, w := w, s := strm s.dev f st, j := 0 }
    s.dev.boot.power = .on ∧ (iDst x.w < 32 ∧ iSrc1 x.w < 32 ∧ iSrc2 x.w < 32) ∧ s.dev.issues f st t (0x24) (mDst ||| mSrc1 ||| mSrc2 ||| (mBits 0 3 ||| mBits 32 4)) ([(2, iSrc1 x.w), (2, iSrc2 x.w)] ++ []) x ∧ (bits x.w 0 3 ≤ 1 ∧ iRnd x.w ≤ 1 ∧ iOrm x.w ≤ 1))
    ∧ (let w := ins 0x25 31 1 2 4 0
    let st := 2
    let s : State := stOf (dIns st w (fun y => { y with v := [(1, 0x3F8000013F800000C0490FDB00000001FF80000012345678 + 0x9ABCDEF0 * 2 ^ 480), (2, 0x7F7FFFFF40490FDB3F80000080000001123456787FC00000 + 0x9ABCDEF1 * 2 ^ 480), (31, 0x3F000000BF800000)] }) (id))
    let f := 2
    let t := 9
    let x : Fetch := { f := f, st := st, e := 9, w := w, s := strm s.dev f st, j := 0 }
    s.dev.boot.power = .on ∧ (iDst x.w < 32 ∧ iSrc1 x.w < 32 ∧ iSrc2 x.w < 32) ∧ s.dev.issues f st t (0x25) (mDst ||| mSrc1 ||| mSrc2 ||| (mBits 0 3 ||| mBits 32 4)) ([(2, iSrc1 x.w), (2, iSrc2 x.w)] ++ []) x ∧ (bits x.w 0 3 ≤ 1 ∧ iRnd x.w ≤ 1 ∧ iOrm x.w ≤ 1))
    ∧ (let w := ins 0x26 31 1 2 5 0
    let st := 2
    let s : State := stOf (dIns st w (fun y => { y with v := [(1, 0x3F8000013F800000C0490FDB00000001FF80000012345678 + 0x9ABCDEF0 * 2 ^ 480), (2, 0x7F7FFFFF40490FDB3F80000080000001123456787FC00000 + 0x9ABCDEF1 * 2 ^ 480), (31, 0x3F000000BF800000)] }) (id))
    let f := 2
    let t := 9
    let x : Fetch := { f := f, st := st, e := 9, w := w, s := strm s.dev f st, j := 0 }
    s.dev.boot.power = .on ∧ (iDst x.w < 32 ∧ iSrc1 x.w < 32 ∧ iSrc2 x.w < 32) ∧ s.dev.issues f st t (0x26) (mDst ||| mSrc1 ||| mSrc2 ||| (mBits 0 3 ||| mBits 32 4)) ([(2, iSrc1 x.w), (2, iSrc2 x.w)] ++ [(2, iDst x.w)]) x ∧ (bits x.w 0 3 ≤ 1 ∧ iRnd x.w ≤ 1 ∧ iOrm x.w ≤ 1))
    ∧ (let w := ins 0x23 31 1 2 0 1
    let st := 2
    let s : State := stOf (dIns st w (fun y => { y with v := [(1, 0x3F8000013F800000C0490FDB00000001FF80000012345678 + 0x9ABCDEF0 * 2 ^ 480), (2, 0x7F7FFFFF40490FDB3F80000080000001123456787FC00000 + 0x9ABCDEF1 * 2 ^ 480), (31, 0x3F000000BF800000)] }) (id))
    let f := 2
    let t := 9
    let x : Fetch := { f := f, st := st, e := 9, w := w, s := strm s.dev f st, j := 0 }
    s.dev.boot.power = .on ∧ (iDst x.w < 32 ∧ iSrc1 x.w < 32 ∧ iSrc2 x.w < 32) ∧ s.dev.issues f st t (0x23) (mDst ||| mSrc1 ||| mSrc2 ||| (mBits 0 3 ||| mBits 32 4)) ([(2, iSrc1 x.w), (2, iSrc2 x.w)] ++ []) x ∧ (bits x.w 0 3 ≤ 1 ∧ iRnd x.w ≤ 1 ∧ iOrm x.w ≤ 1))
    ∧ (let w := ins 0x24 31 1 2 1 1
    let st := 2
    let s : State := stOf (dIns st w (fun y => { y with v := [(1, 0x3F8000013F800000C0490FDB00000001FF80000012345678 + 0x9ABCDEF0 * 2 ^ 480), (2, 0x7F7FFFFF40490FDB3F80000080000001123456787FC00000 + 0x9ABCDEF1 * 2 ^ 480), (31, 0x3F000000BF800000)] }) (id))
    let f := 2
    let t := 9
    let x : Fetch := { f := f, st := st, e := 9, w := w, s := strm s.dev f st, j := 0 }
    s.dev.boot.power = .on ∧ (iDst x.w < 32 ∧ iSrc1 x.w < 32 ∧ iSrc2 x.w < 32) ∧ s.dev.issues f st t (0x24) (mDst ||| mSrc1 ||| mSrc2 ||| (mBits 0 3 ||| mBits 32 4)) ([(2, iSrc1 x.w), (2, iSrc2 x.w)] ++ []) x ∧ (bits x.w 0 3 ≤ 1 ∧ iRnd x.w ≤ 1 ∧ iOrm x.w ≤ 1))
    ∧ (let w := ins 0x25 31 1 2 4 1
    let st := 2
    let s : State := stOf (dIns st w (fun y => { y with v := [(1, 0x3F8000013F800000C0490FDB00000001FF80000012345678 + 0x9ABCDEF0 * 2 ^ 480), (2, 0x7F7FFFFF40490FDB3F80000080000001123456787FC00000 + 0x9ABCDEF1 * 2 ^ 480), (31, 0x3F000000BF800000)] }) (id))
    let f := 2
    let t := 9
    let x : Fetch := { f := f, st := st, e := 9, w := w, s := strm s.dev f st, j := 0 }
    s.dev.boot.power = .on ∧ (iDst x.w < 32 ∧ iSrc1 x.w < 32 ∧ iSrc2 x.w < 32) ∧ s.dev.issues f st t (0x25) (mDst ||| mSrc1 ||| mSrc2 ||| (mBits 0 3 ||| mBits 32 4)) ([(2, iSrc1 x.w), (2, iSrc2 x.w)] ++ []) x ∧ (bits x.w 0 3 ≤ 1 ∧ iRnd x.w ≤ 1 ∧ iOrm x.w ≤ 1))
    ∧ (let w := ins 0x26 31 1 2 5 1
    let st := 2
    let s : State := stOf (dIns st w (fun y => { y with v := [(1, 0x3F8000013F800000C0490FDB00000001FF80000012345678 + 0x9ABCDEF0 * 2 ^ 480), (2, 0x7F7FFFFF40490FDB3F80000080000001123456787FC00000 + 0x9ABCDEF1 * 2 ^ 480), (31, 0x3F000000BF800000)] }) (id))
    let f := 2
    let t := 9
    let x : Fetch := { f := f, st := st, e := 9, w := w, s := strm s.dev f st, j := 0 }
    s.dev.boot.power = .on ∧ (iDst x.w < 32 ∧ iSrc1 x.w < 32 ∧ iSrc2 x.w < 32) ∧ s.dev.issues f st t (0x26) (mDst ||| mSrc1 ||| mSrc2 ||| (mBits 0 3 ||| mBits 32 4)) ([(2, iSrc1 x.w), (2, iSrc2 x.w)] ++ [(2, iDst x.w)]) x ∧ (bits x.w 0 3 ≤ 1 ∧ iRnd x.w ≤ 1 ∧ iOrm x.w ≤ 1))
    ∧ (let w := ins 0x27 31 1 2 16 3
    let st := 2
    let s : State := stOf (dIns st w (fun y => { y with v := [(1, 0x3F8000013F800000C0490FDB00000001FF80000012345678 + 0x9ABCDEF0 * 2 ^ 480), (2, 0x7F7FFFFF40490FDB3F80000080000001123456787FC00000 + 0x9ABCDEF1 * 2 ^ 480), (31, 0x3F000000BF800000)] }) (id))
    let f := 2
    let t := 9
    let x : Fetch := { f := f, st := st, e := 9, w := w, s := strm s.dev f st, j := 0 }
    s.dev.boot.power = .on ∧ (iDst x.w < 32 ∧ iSrc1 x.w < 32 ∧ iSrc2 x.w < 32) ∧ s.dev.issues f st t (0x27) (mDst ||| mSrc1 ||| mSrc2 ||| (mBits 0 3 ||| mBits 36 1)) ([(2, iSrc1 x.w), (2, iSrc2 x.w)] ++ []) x ∧ (3 ≤ bits x.w 0 3 ∧ bits x.w 0 3 ≤ 6))
    ∧ (let w := ins 0x28 31 1 2 0 3
    let st := 2
    let s : State := stOf (dIns st w (fun y => { y with v := [(1, 0x3F8000013F800000C0490FDB00000001FF80000012345678 + 0x9ABCDEF0 * 2 ^ 480), (2, 0x7F7FFFFF40490FDB3F80000080000001123456787FC00000 + 0x9ABCDEF1 * 2 ^ 480), (31, 0x3F000000BF800000)] }) (id))
    let f := 2
    let t := 9
    let x : Fetch := { f := f, st := st, e := 9, w := w, s := strm s.dev f st, j := 0 }
    s.dev.boot.power = .on ∧ (iDst x.w < 32 ∧ iSrc1 x.w < 32 ∧ iSrc2 x.w < 32) ∧ s.dev.issues f st t (0x28) (mDst ||| mSrc1 ||| mSrc2 ||| (mBits 0 3 ||| mBits 36 1)) ([(2, iSrc1 x.w), (2, iSrc2 x.w)] ++ []) x ∧ (3 ≤ bits x.w 0 3 ∧ bits x.w 0 3 ≤ 6))
    ∧ (let w := ins 0x29 31 1 2 0 3
    let st := 2
    let s : State := stOf (dIns st w (fun y => { y with v := [(1, 0x3F8000013F800000C0490FDB00000001FF80000012345678 + 0x9ABCDEF0 * 2 ^ 480), (2, 0x7F7FFFFF40490FDB3F80000080000001123456787FC00000 + 0x9ABCDEF1 * 2 ^ 480), (31, 0x3F000000BF800000)] }) (id))
    let f := 2
    let t := 9
    let x : Fetch := { f := f, st := st, e := 9, w := w, s := strm s.dev f st, j := 0 }
    s.dev.boot.power = .on ∧ (iDst x.w < 32 ∧ iSrc1 x.w < 32 ∧ iSrc2 x.w < 32) ∧ s.dev.issues f st t (0x29) (mDst ||| mSrc1 ||| mSrc2 ||| (mBits 0 3)) ([(2, iSrc1 x.w), (2, iSrc2 x.w)] ++ []) x ∧ (3 ≤ bits x.w 0 3 ∧ bits x.w 0 3 ≤ 6))
    ∧ (let w := ins 0x2A 31 1 2 0 3
    let st := 2
    let s : State := stOf (dIns st w (fun y => { y with v := [(1, 0x3F8000013F800000C0490FDB00000001FF80000012345678 + 0x9ABCDEF0 * 2 ^ 480), (2, 0x7F7FFFFF40490FDB3F80000080000001123456787FC00000 + 0x9ABCDEF1 * 2 ^ 480), (31, 0x3F000000BF800000)] }) (id))
    let f := 2
    let t := 9
    let x : Fetch := { f := f, st := st, e := 9, w := w, s := strm s.dev f st, j := 0 }
    s.dev.boot.power = .on ∧ (iDst x.w < 32 ∧ iSrc1 x.w < 32 ∧ iSrc2 x.w < 32) ∧ s.dev.issues f st t (0x2A) (mDst ||| mSrc1 ||| mSrc2 ||| (mBits 0 3)) ([(2, iSrc1 x.w), (2, iSrc2 x.w)] ++ []) x ∧ (3 ≤ bits x.w 0 3 ∧ bits x.w 0 3 ≤ 6))
    ∧ (let w := ins 0x2B 31 1 2 3 3
    let st := 2
    let s : State := stOf (dIns st w (fun y => { y with v := [(1, 0x3F8000013F800000C0490FDB00000001FF80000012345678 + 0x9ABCDEF0 * 2 ^ 480), (2, 0x7F7FFFFF40490FDB3F80000080000001123456787FC00000 + 0x9ABCDEF1 * 2 ^ 480), (31, 0x3F000000BF800000)] }) (id))
    let f := 2
    let t := 9
    let x : Fetch := { f := f, st := st, e := 9, w := w, s := strm s.dev f st, j := 0 }
    s.dev.boot.power = .on ∧ (iDst x.w < 32 ∧ iSrc1 x.w < 32 ∧ iSrc2 x.w < 32) ∧ s.dev.issues f st t (0x2B) (mDst ||| mSrc1 ||| mSrc2 ||| (mBits 0 3 ||| mBits 32 3)) ([(2, iSrc1 x.w), (2, iSrc2 x.w)] ++ []) x ∧ (3 ≤ bits x.w 0 3 ∧ bits x.w 0 3 ≤ 6 ∧ iCond x.w ≠ 4 ∧ iCond x.w ≠ 5))
    ∧ (let w := ins 0x27 31 1 2 0 4
    let st := 2
    let s : State := stOf (dIns st w (fun y => { y with v := [(1, 0x3F8000013F800000C0490FDB00000001FF80000012345678 + 0x9ABCDEF0 * 2 ^ 480), (2, 0x7F7FFFFF40490FDB3F80000080000001123456787FC00000 + 0x9ABCDEF1 * 2 ^ 480), (31, 0x3F000000BF800000)] }) (id))
    let f := 2
    let t := 9
    let x : Fetch := { f := f, st := st, e := 9, w := w, s := strm s.dev f st, j := 0 }
    s.dev.boot.power = .on ∧ (iDst x.w < 32 ∧ iSrc1 x.w < 32 ∧ iSrc2 x.w < 32) ∧ s.dev.issues f st t (0x27) (mDst ||| mSrc1 ||| mSrc2 ||| (mBits 0 3 ||| mBits 36 1)) ([(2, iSrc1 x.w), (2, iSrc2 x.w)] ++ []) x ∧ (3 ≤ bits x.w 0 3 ∧ bits x.w 0 3 ≤ 6))
    ∧ (let w := ins 0x28 31 1 2 16 4
    let st := 2
    let s : State := stOf (dIns st w (fun y => { y with v := [(1, 0x3F8000013F800000C0490FDB00000001FF80000012345678 + 0x9ABCDEF0 * 2 ^ 480), (2, 0x7F7FFFFF40490FDB3F80000080000001123456787FC00000 + 0x9ABCDEF1 * 2 ^ 480), (31, 0x3F000000BF800000)] }) (id))
    let f := 2
    let t := 9
    let x : Fetch := { f := f, st := st, e := 9, w := w, s := strm s.dev f st, j := 0 }
    s.dev.boot.power = .on ∧ (iDst x.w < 32 ∧ iSrc1 x.w < 32 ∧ iSrc2 x.w < 32) ∧ s.dev.issues f st t (0x28) (mDst ||| mSrc1 ||| mSrc2 ||| (mBits 0 3 ||| mBits 36 1)) ([(2, iSrc1 x.w), (2, iSrc2 x.w)] ++ []) x ∧ (3 ≤ bits x.w 0 3 ∧ bits x.w 0 3 ≤ 6))
    ∧ (let w := ins 0x29 31 1 2 0 4
    let st := 2
    let s : State := stOf (dIns st w (fun y => { y with v := [(1, 0x3F8000013F800000C0490FDB00000001FF80000012345678 + 0x9ABCDEF0 * 2 ^ 480), (2, 0x7F7FFFFF40490FDB3F80000080000001123456787FC00000 + 0x9ABCDEF1 * 2 ^ 480), (31, 0x3F000000BF800000)] }) (id))
    let f := 2
    let t := 9
    let x : Fetch := { f := f, st := st, e := 9, w := w, s := strm s.dev f st, j := 0 }
    s.dev.boot.power = .on ∧ (iDst x.w < 32 ∧ iSrc1 x.w < 32 ∧ iSrc2 x.w < 32) ∧ s.dev.issues f st t (0x29) (mDst ||| mSrc1 ||| mSrc2 ||| (mBits 0 3)) ([(2, iSrc1 x.w), (2, iSrc2 x.w)] ++ []) x ∧ (3 ≤ bits x.w 0 3 ∧ bits x.w 0 3 ≤ 6))
    ∧ (let w := ins 0x2A 31 1 2 0 4
    let st := 2
    let s : State := stOf (dIns st w (fun y => { y with v := [(1, 0x3F8000013F800000C0490FDB00000001FF80000012345678 + 0x9ABCDEF0 * 2 ^ 480), (2, 0x7F7FFFFF40490FDB3F80000080000001123456787FC00000 + 0x9ABCDEF1 * 2 ^ 480), (31, 0x3F000000BF800000)] }) (id))
    let f := 2
    let t := 9
    let x : Fetch := { f := f, st := st, e := 9, w := w, s := strm s.dev f st, j := 0 }
    s.dev.boot.power = .on ∧ (iDst x.w < 32 ∧ iSrc1 x.w < 32 ∧ iSrc2 x.w < 32) ∧ s.dev.issues f st t (0x2A) (mDst ||| mSrc1 ||| mSrc2 ||| (mBits 0 3)) ([(2, iSrc1 x.w), (2, iSrc2 x.w)] ++ []) x ∧ (3 ≤ bits x.w 0 3 ∧ bits x.w 0 3 ≤ 6))
    ∧ (let w := ins 0x2B 31 1 2 0 4
    let st := 2
    let s : State := stOf (dIns st w (fun y => { y with v := [(1, 0x3F8000013F800000C0490FDB00000001FF80000012345678 + 0x9ABCDEF0 * 2 ^ 480), (2, 0x7F7FFFFF40490FDB3F80000080000001123456787FC00000 + 0x9ABCDEF1 * 2 ^ 480), (31, 0x3F000000BF800000)] }) (id))
    let f := 2
    let t := 9
    let x : Fetch := { f := f, st := st, e := 9, w := w, s := strm s.dev f st, j := 0 }
    s.dev.boot.power = .on ∧ (iDst x.w < 32 ∧ iSrc1 x.w < 32 ∧ iSrc2 x.w < 32) ∧ s.dev.issues f st t (0x2B) (mDst ||| mSrc1 ||| mSrc2 ||| (mBits 0 3 ||| mBits 32 3)) ([(2, iSrc1 x.w), (2, iSrc2 x.w)] ++ []) x ∧ (3 ≤ bits x.w 0 3 ∧ bits x.w 0 3 ≤ 6 ∧ iCond x.w ≠ 4 ∧ iCond x.w ≠ 5))
    ∧ (let w := ins 0x27 31 1 2 16 5
    let st := 2
    let s : State := stOf (dIns st w (fun y => { y with v := [(1, 0x3F8000013F800000C0490FDB00000001FF80000012345678 + 0x9ABCDEF0 * 2 ^ 480), (2, 0x7F7FFFFF40490FDB3F80000080000001123456787FC00000 + 0x9ABCDEF1 * 2 ^ 480), (31, 0x3F000000BF800000)] }) (id))
    let f := 2
    let t := 9
    let x : Fetch := { f := f, st := st, e := 9, w := w, s := strm s.dev f st, j := 0 }
    s.dev.boot.power = .on ∧ (iDst x.w < 32 ∧ iSrc1 x.w < 32 ∧ iSrc2 x.w < 32) ∧ s.dev.issues f st t (0x27) (mDst ||| mSrc1 ||| mSrc2 ||| (mBits 0 3 ||| mBits 36 1)) ([(2, iSrc1 x.w), (2, iSrc2 x.w)] ++ []) x ∧ (3 ≤ bits x.w 0 3 ∧ bits x.w 0 3 ≤ 6))
    ∧ (let w := ins 0x28 31 1 2 0 5
    let st := 2
    let s : State := stOf (dIns st w (fun y => { y with v := [(1, 0x3F8000013F800000C0490FDB00000001FF80000012345678 + 0x9ABCDEF0 * 2 ^ 480), (2, 0x7F7FFFFF40490FDB3F80000080000001123456787FC00000 + 0x9ABCDEF1 * 2 ^ 480), (31, 0x3F000000BF800000)] }) (id))
    let f := 2
    let t := 9
    let x : Fetch := { f := f, st := st, e := 9, w := w, s := strm s.dev f st, j := 0 }
    s.dev.boot.power = .on ∧ (iDst x.w < 32 ∧ iSrc1 x.w < 32 ∧ iSrc2 x.w < 32) ∧ s.dev.issues f st t (0x28) (mDst ||| mSrc1 ||| mSrc2 ||| (mBits 0 3 ||| mBits 36 1)) ([(2, iSrc1 x.w), (2, iSrc2 x.w)] ++ []) x ∧ (3 ≤ bits x.w 0 3 ∧ bits x.w 0 3 ≤ 6))
    ∧ (let w := ins 0x29 31 1 2 0 5
    let st := 2
    let s : State := stOf (dIns st w (fun y => { y with v := [(1, 0x3F8000013F800000C0490FDB00000001FF80000012345678 + 0x9ABCDEF0 * 2 ^ 480), (2, 0x7F7FFFFF40490FDB3F80000080000001123456787FC00000 + 0x9ABCDEF1 * 2 ^ 480), (31, 0x3F000000BF800000)] }) (id))
    let f := 2
    let t := 9
    let x : Fetch := { f := f, st := st, e := 9, w := w, s := strm s.dev f st, j := 0 }
    s.dev.boot.power = .on ∧ (iDst x.w < 32 ∧ iSrc1 x.w < 32 ∧ iSrc2 x.w < 32) ∧ s.dev.issues f st t (0x29) (mDst ||| mSrc1 ||| mSrc2 ||| (mBits 0 3)) ([(2, iSrc1 x.w), (2, iSrc2 x.w)] ++ []) x ∧ (3 ≤ bits x.w 0 3 ∧ bits x.w 0 3 ≤ 6))
    ∧ (let w := ins 0x2A 31 1 2 0 5
    let st := 2
    let s : State := stOf (dIns st w (fun y => { y with v := [(1, 0x3F8000013F800000C0490FDB00000001FF80000012345678 + 0x9ABCDEF0 * 2 ^ 480), (2, 0x7F7FFFFF40490FDB3F80000080000001123456787FC00000 + 0x9ABCDEF1 * 2 ^ 480), (31, 0x3F000000BF800000)] }) (id))
    let f := 2
    let t := 9
    let x : Fetch := { f := f, st := st, e := 9, w := w, s := strm s.dev f st, j := 0 }
    s.dev.boot.power = .on ∧ (iDst x.w < 32 ∧ iSrc1 x.w < 32 ∧ iSrc2 x.w < 32) ∧ s.dev.issues f st t (0x2A) (mDst ||| mSrc1 ||| mSrc2 ||| (mBits 0 3)) ([(2, iSrc1 x.w), (2, iSrc2 x.w)] ++ []) x ∧ (3 ≤ bits x.w 0 3 ∧ bits x.w 0 3 ≤ 6))
    ∧ (let w := ins 0x2B 31 1 2 6 5
    let st := 2
    let s : State := stOf (dIns st w (fun y => { y with v := [(1, 0x3F8000013F800000C0490FDB00000001FF80000012345678 + 0x9ABCDEF0 * 2 ^ 480), (2, 0x7F7FFFFF40490FDB3F80000080000001123456787FC00000 + 0x9ABCDEF1 * 2 ^ 480), (31, 0x3F000000BF800000)] }) (id))
    let f := 2
    let t := 9
    let x : Fetch := { f := f, st := st, e := 9, w := w, s := strm s.dev f st, j := 0 }
    s.dev.boot.power = .on ∧ (iDst x.w < 32 ∧ iSrc1 x.w < 32 ∧ iSrc2 x.w < 32) ∧ s.dev.issues f st t (0x2B) (mDst ||| mSrc1 ||| mSrc2 ||| (mBits 0 3 ||| mBits 32 3)) ([(2, iSrc1 x.w), (2, iSrc2 x.w)] ++ []) x ∧ (3 ≤ bits x.w 0 3 ∧ bits x.w 0 3 ≤ 6 ∧ iCond x.w ≠ 4 ∧ iCond x.w ≠ 5))
    ∧ (let w := ins 0x27 31 1 2 0 6
    let st := 2
    let s : State := stOf (dIns st w (fun y => { y with v := [(1, 0x3F8000013F800000C0490FDB00000001FF80000012345678 + 0x9ABCDEF0 * 2 ^ 480), (2, 0x7F7FFFFF40490FDB3F80000080000001123456787FC00000 + 0x9ABCDEF1 * 2 ^ 480), (31, 0x3F000000BF800000)] }) (id))
    let f := 2
    let t := 9
    let x : Fetch := { f := f, st := st, e := 9, w := w, s := strm s.dev f st, j := 0 }
    s.dev.boot.power = .on ∧ (iDst x.w < 32 ∧ iSrc1 x.w < 32 ∧ iSrc2 x.w < 32) ∧ s.dev.issues f st t (0x27) (mDst ||| mSrc1 ||| mSrc2 ||| (mBits 0 3 ||| mBits 36 1)) ([(2, iSrc1 x.w), (2, iSrc2 x.w)] ++ []) x ∧ (3 ≤ bits x.w 0 3 ∧ bits x.w 0 3 ≤ 6))
    ∧ (let w := ins 0x28 31 1 2 16 6
    let st := 2
    let s : State := stOf (dIns st w (fun y => { y with v := [(1, 0x3F8000013F800000C0490FDB00000001FF80000012345678 + 0x9ABCDEF0 * 2 ^ 480), (2, 0x7F7FFFFF40490FDB3F80000080000001123456787FC00000 + 0x9ABCDEF1 * 2 ^ 480), (31, 0x3F000000BF800000)] }) (id))
    let f := 2
    let t := 9
    let x : Fetch := { f := f, st := st, e := 9, w := w, s := strm s.dev f st, j := 0 }
    s.dev.boot.power = .on ∧ (iDst x.w < 32 ∧ iSrc1 x.w < 32 ∧ iSrc2 x.w < 32) ∧ s.dev.issues f st t (0x28) (mDst ||| mSrc1 ||| mSrc2 ||| (mBits 0 3 ||| mBits 36 1)) ([(2, iSrc1 x.w), (2, iSrc2 x.w)] ++ []) x ∧ (3 ≤ bits x.w 0 3 ∧ bits x.w 0 3 ≤ 6))
    ∧ (let w := ins 0x29 31 1 2 0 6
    let st := 2
    let s : State := stOf (dIns st w (fun y => { y with v := [(1, 0x3F8000013F800000C0490FDB00000001FF80000012345678 + 0x9ABCDEF0 * 2 ^ 480), (2, 0x7F7FFFFF40490FDB3F80000080000001123456787FC00000 + 0x9ABCDEF1 * 2 ^ 480), (31, 0x3F000000BF800000)] }) (id))
    let f := 2
    let t := 9
    let x : Fetch := { f := f, st := st, e := 9, w := w, s := strm s.dev f st, j := 0 }
    s.dev.boot.power = .on ∧ (iDst x.w < 32 ∧ iSrc1 x.w < 32 ∧ iSrc2 x.w < 32) ∧ s.dev.issues f st t (0x29) (mDst ||| mSrc1 ||| mSrc2 ||| (mBits 0 3)) ([(2, iSrc1 x.w), (2, iSrc2 x.w)] ++ []) x ∧ (3 ≤ bits x.w 0 3 ∧ bits x.w 0 3 ≤ 6))
    ∧ (let w := ins 0x2A 31 1 2 0 6
    let st := 2
    let s : State := stOf (dIns st w (fun y => { y with v := [(1, 0x3F8000013F800000C0490FDB00000001FF80000012345678 + 0x9ABCDEF0 * 2 ^ 480), (2, 0x7F7FFFFF40490FDB3F80000080000001123456787FC00000 + 0x9ABCDEF1 * 2 ^ 480), (31, 0x3F000000BF800000)] }) (id))
    let f := 2
    let t := 9
    let x : Fetch := { f := f, st := st, e := 9, w := w, s := strm s.dev f st, j := 0 }
    s.dev.boot.power = .on ∧ (iDst x.w < 32 ∧ iSrc1 x.w < 32 ∧ iSrc2 x.w < 32) ∧ s.dev.issues f st t (0x2A) (mDst ||| mSrc1 ||| mSrc2 ||| (mBits 0 3)) ([(2, iSrc1 x.w), (2, iSrc2 x.w)] ++ []) x ∧ (3 ≤ bits x.w 0 3 ∧ bits x.w 0 3 ≤ 6))
    ∧ (let w := ins 0x2B 31 1 2 7 6
    let st := 2
    let s : State := stOf (dIns st w (fun y => { y with v := [(1, 0x3F8000013F800000C0490FDB00000001FF80000012345678 + 0x9ABCDEF0 * 2 ^ 480), (2, 0x7F7FFFFF40490FDB3F80000080000001123456787FC00000 + 0x9ABCDEF1 * 2 ^ 480), (31, 0x3F000000BF800000)] }) (id))
    let f := 2
    let t := 9
    let x : Fetch := { f := f, st := st, e := 9, w := w, s := strm s.dev f st, j := 0 }
    s.dev.boot.power = .on ∧ (iDst x.w < 32 ∧ iSrc1 x.w < 32 ∧ iSrc2 x.w < 32) ∧ s.dev.issues f st t (0x2B) (mDst ||| mSrc1 ||| mSrc2 ||| (mBits 0 3 ||| mBits 32 3)) ([(2, iSrc1 x.w), (2, iSrc2 x.w)] ++ []) x ∧ (3 ≤ bits x.w 0 3 ∧ bits x.w 0 3 ≤ 6 ∧ iCond x.w ≠ 4 ∧ iCond x.w ≠ 5))
    ∧ (let w := ins 0x2D 31 1 2 0 0
    let st := 2
    let s : State := stOf (dIns st w (fun y => { y with v := [(1, 0x12345 * 2 ^ 490), (2, 2 ^ 512 - 9), (31, 0xFF * 2 ^ 300)] }) (id))
    let f := 2
    let t := 9
    let x : Fetch := { f := f, st := st, e := 9, w := w, s := strm s.dev f st, j := 0 }
    s.dev.boot.power = .on ∧ (iDst x.w < 32 ∧ iSrc1 x.w < 32 ∧ iSrc2 x.w < 32) ∧ s.dev.issues f st t (0x2D) (mDst ||| mSrc1 ||| mSrc2) ([(2, iSrc1 x.w), (2, iSrc2 x.w)] ++ []) x)
    ∧ (let w := ins 0x2E 31 1 2 0 0
    let st := 2
    let s : State := stOf (dIns st w (fun y => { y with v := [(1, 0x12345 * 2 ^ 490), (2, 2 ^ 512 - 9), (31, 0xFF * 2 ^ 300)] }) (id))
    let f := 2
    let t := 9
    let x : Fetch := { f := f, st := st, e := 9, w := w, s := strm s.dev f st, j := 0 }
    s.dev.boot.power = .on ∧ (iDst x.w < 32 ∧ iSrc1 x.w < 32 ∧ iSrc2 x.w < 32) ∧ s.dev.issues f st t (0x2E) (mDst ||| mSrc1 ||| mSrc2) ([(2, iSrc1 x.w), (2, iSrc2 x.w)] ++ []) x)
    ∧ (let w := ins 0x2F 31 1 2 0 0
    let st := 2
    let s : State := stOf (dIns st w (fun y => { y with v := [(1, 0x12345 * 2 ^ 490), (2, 2 ^ 512 - 9), (31, 0xFF * 2 ^ 300)] }) (id))
    let f := 2
    let t := 9
    let x : Fetch := { f := f, st := st, e := 9, w := w, s := strm s.dev f st, j := 0 }
    s.dev.boot.power = .on ∧ (iDst x.w < 32 ∧ iSrc1 x.w < 32 ∧ iSrc2 x.w < 32) ∧ s.dev.issues f st t (0x2F) (mDst ||| mSrc1 ||| mSrc2) ([(2, iSrc1 x.w), (2, iSrc2 x.w)] ++ []) x)
    ∧ (let w := ins 0x30 31 1 2 0 0
    let st := 2
    let s : State := stOf (dIns st w (fun y => { y with v := [(1, 0x12345 * 2 ^ 490), (2, 2 ^ 512 - 9), (31, 0xFF * 2 ^ 300)] }) (id))
    let f := 2
    let t := 9
    let x : Fetch := { f := f, st := st, e := 9, w := w, s := strm s.dev f st, j := 0 }
    s.dev.boot.power = .on ∧ (iDst x.w < 32 ∧ iSrc1 x.w < 32 ∧ iSrc2 x.w < 32) ∧ s.dev.issues f st t (0x30) (mDst ||| mSrc1 ||| mSrc2) ([(2, iSrc1 x.w), (2, iSrc2 x.w)] ++ [(2, iDst x.w)]) x)
    ∧ (let w := ins 0x2C 31 1 0 0 72
    let st := 2
    let s : State := stOf (dIns st w (fun y => { y with v := [(1, 0x3F8000013F800000C0490FDB00000001FF80000012345678 + 0x9ABCDEF0 * 2 ^ 480 + 0x42FE3C00 * 2 ^ 256)] }) (id))
    let f := 2
    let t := 9
    let x : Fetch := { f := f, st := st, e := 9, w := w, s := strm s.dev f st, j := 0 }
    let sf := Num.Fmt.ofCode (bits x.w 0 3)
    let df := Num.Fmt.ofCode (bits x.w 3 3)
    let p := bits x.w 6 2
    let ws := sf.bits
    let wd := df.bits
    s.dev.boot.power = .on ∧ iDst x.w < 32 ∧ s.dev.issues f st t (0x2C) (mDst ||| mSrc1 ||| mImm ||| mBits 32 5 ||| (if iRnd x.w = 2 then mSrc2 else 0)) ((2, iSrc1 x.w) :: (if iRnd x.w = 2 then [(0, iSrc2 x.w), (0, iSrc2 x.w + 1)] else [])) x ∧ (iSrc1 x.w < 32 ∧ iRnd x.w ≤ 2 ∧ iOrm x.w ≤ 1 ∧ bits x.w 0 3 ≠ 7 ∧ bits x.w 3 3 ≠ 7) ∧ (iRnd x.w = 2 → iSrc2 x.w < 31 ∧ iSrc2 x.w % 2 = 0 ∧ df.isInt = false) ∧ p < max ws wd / min ws wd)
    ∧ (let w := ins 0x2C 31 1 0 5 65
    let st := 2
    let s : State := stOf (dIns st w (fun y => { y with v := [(1, 0x3F8000013F800000C0490FDB00000001FF80000012345678 + 0x9ABCDEF0 * 2 ^ 480 + 0x42FE3C00 * 2 ^ 256)] }) (id))
    let f := 2
    let t := 9
    let x : Fetch := { f := f, st := st, e := 9, w := w, s := strm s.dev f st, j := 0 }
    let sf := Num.Fmt.ofCode (bits x.w 0 3)
    let df := Num.Fmt.ofCode (bits x.w 3 3)
    let p := bits x.w 6 2
    let ws := sf.bits
    let wd := df.bits
    s.dev.boot.power = .on ∧ iDst x.w < 32 ∧ s.dev.issues f st t (0x2C) (mDst ||| mSrc1 ||| mImm ||| mBits 32 5 ||| (if iRnd x.w = 2 then mSrc2 else 0)) ((2, iSrc1 x.w) :: (if iRnd x.w = 2 then [(0, iSrc2 x.w), (0, iSrc2 x.w + 1)] else [])) x ∧ (iSrc1 x.w < 32 ∧ iRnd x.w ≤ 2 ∧ iOrm x.w ≤ 1 ∧ bits x.w 0 3 ≠ 7 ∧ bits x.w 3 3 ≠ 7) ∧ (iRnd x.w = 2 → iSrc2 x.w < 31 ∧ iSrc2 x.w % 2 = 0 ∧ df.isInt = false) ∧ p < max ws wd / min ws wd)
    ∧ (let w := ins 0x2C 31 1 2 2 180149776
    let st := 2
    let s : State := stOf (dIns st w (fun y => { y with v := [(1, 0x3F8000013F800000C0490FDB00000001FF80000012345678 + 0x9ABCDEF0 * 2 ^ 480 + 0x42FE3C00 * 2 ^ 256)] }) (id))
    let f := 2
    let t := 9
    let x : Fetch := { f := f, st := st, e := 9, w := w, s := strm s.dev f st, j := 0 }
    let sf := Num.Fmt.ofCode (bits x.w 0 3)
    let df := Num.Fmt.ofCode (bits x.w 3 3)
    let p := bits x.w 6 2
    let ws := sf.bits
    let wd := df.bits
    s.dev.boot.power = .on ∧ iDst x.w < 32 ∧ s.dev.issues f st t (0x2C) (mDst ||| mSrc1 ||| mImm ||| mBits 32 5 ||| (if iRnd x.w = 2 then mSrc2 else 0)) ((2, iSrc1 x.w) :: (if iRnd x.w = 2 then [(0, iSrc2 x.w), (0, iSrc2 x.w + 1)] else [])) x ∧ (iSrc1 x.w < 32 ∧ iRnd x.w ≤ 2 ∧ iOrm x.w ≤ 1 ∧ bits x.w 0 3 ≠ 7 ∧ bits x.w 3 3 ≠ 7) ∧ (iRnd x.w = 2 → iSrc2 x.w < 31 ∧ iSrc2 x.w % 2 = 0 ∧ df.isInt = false) ∧ p < max ws wd / min ws wd)
    ∧ (let w := ins 0x2C 31 1 0 0 3
    let st := 2
    let s : State := stOf (dIns st w (fun y => { y with v := [(1, 0x3F8000013F800000C0490FDB00000001FF80000012345678 + 0x9ABCDEF0 * 2 ^ 480 + 0x42FE3C00 * 2 ^ 256)] }) (id))
    let f := 2
    let t := 9
    let x : Fetch := { f := f, st := st, e := 9, w := w, s := strm s.dev f st, j := 0 }
    let sf := Num.Fmt.ofCode (bits x.w 0 3)
    let df := Num.Fmt.ofCode (bits x.w 3 3)
    let p := bits x.w 6 2
    let ws := sf.bits
    let wd := df.bits
    s.dev.boot.power = .on ∧ iDst x.w < 32 ∧ s.dev.issues f st t (0x2C) (mDst ||| mSrc1 ||| mImm ||| mBits 32 5 ||| (if iRnd x.w = 2 then mSrc2 else 0)) ((2, iSrc1 x.w) :: (if iRnd x.w = 2 then [(0, iSrc2 x.w), (0, iSrc2 x.w + 1)] else [])) x ∧ (iSrc1 x.w < 32 ∧ iRnd x.w ≤ 2 ∧ iOrm x.w ≤ 1 ∧ bits x.w 0 3 ≠ 7 ∧ bits x.w 3 3 ≠ 7) ∧ (iRnd x.w = 2 → iSrc2 x.w < 31 ∧ iSrc2 x.w % 2 = 0 ∧ df.isInt = false) ∧ p < max ws wd / min ws wd)
    ∧ (let w := ins 0x2C 31 1 0 16 96
    let st := 2
    let s : State := stOf (dIns st w (fun y => { y with v := [(1, 0x3F8000013F800000C0490FDB00000001FF80000012345678 + 0x9ABCDEF0 * 2 ^ 480 + 0x42FE3C00 * 2 ^ 256)] }) (id))
    let f := 2
    let t := 9
    let x : Fetch := { f := f, st := st, e := 9, w := w, s := strm s.dev f st, j := 0 }
    let sf := Num.Fmt.ofCode (bits x.w 0 3)
    let df := Num.Fmt.ofCode (bits x.w 3 3)
    let p := bits x.w 6 2
    let ws := sf.bits
    let wd := df.bits
    s.dev.boot.power = .on ∧ iDst x.w < 32 ∧ s.dev.issues f st t (0x2C) (mDst ||| mSrc1 ||| mImm ||| mBits 32 5 ||| (if iRnd x.w = 2 then mSrc2 else 0)) ((2, iSrc1 x.w) :: (if iRnd x.w = 2 then [(0, iSrc2 x.w), (0, iSrc2 x.w + 1)] else [])) x ∧ (iSrc1 x.w < 32 ∧ iRnd x.w ≤ 2 ∧ iOrm x.w ≤ 1 ∧ bits x.w 0 3 ≠ 7 ∧ bits x.w 3 3 ≠ 7) ∧ (iRnd x.w = 2 → iSrc2 x.w < 31 ∧ iSrc2 x.w % 2 = 0 ∧ df.isInt = false) ∧ p < max ws wd / min ws wd)
    ∧ (let w := ins 0x2C 31 1 0 16 29
    let st := 2
    let s : State := stOf (dIns st w (fun y => { y with v := [(1, 0x3F8000013F800000C0490FDB00000001FF80000012345678 + 0x9ABCDEF0 * 2 ^ 480 + 0x42FE3C00 * 2 ^ 256)] }) (id))
    let f := 2
    let t := 9
    let x : Fetch := { f := f, st := st, e := 9, w := w, s := strm s.dev f st, j := 0 }
    let sf := Num.Fmt.ofCode (bits x.w 0 3)
    let df := Num.Fmt.ofCode (bits x.w 3 3)
    let p := bits x.w 6 2
    let ws := sf.bits
    let wd := df.bits
    s.dev.boot.power = .on ∧ iDst x.w < 32 ∧ s.dev.issues f st t (0x2C) (mDst ||| mSrc1 ||| mImm ||| mBits 32 5 ||| (if iRnd x.w = 2 then mSrc2 else 0)) ((2, iSrc1 x.w) :: (if iRnd x.w = 2 then [(0, iSrc2 x.w), (0, iSrc2 x.w + 1)] else [])) x ∧ (iSrc1 x.w < 32 ∧ iRnd x.w ≤ 2 ∧ iOrm x.w ≤ 1 ∧ bits x.w 0 3 ≠ 7 ∧ bits x.w 3 3 ≠ 7) ∧ (iRnd x.w = 2 → iSrc2 x.w < 31 ∧ iSrc2 x.w % 2 = 0 ∧ df.isInt = false) ∧ p < max ws wd / min ws wd) := by
  refine ⟨?_, ?_, ?_, ?_, ?_, ?_, ?_, ?_, ?_, ?_, ?_, ?_, ?_, ?_, ?_, ?_, ?_, ?_, ?_, ?_, ?_, ?_, ?_, ?_, ?_, ?_, ?_, ?_, ?_, ?_, ?_, ?_, ?_, ?_, ?_, ?_, ?_, ?_, ?_, ?_, ?_, ?_, ?_, ?_, ?_, ?_⟩
  · simp only [Dev.issues]; decide +kernel
  · simp only [Dev.issues]; decide +kernel
  · simp only [Dev.issues]; decide +kernel
  · simp only [Dev.issues]; decide +kernel
  · simp only [Dev.issues]; decide +kernel
  · simp only [Dev.issues]; decide +kernel
  · simp only [Dev.issues]; decide +kernel
  · simp only [Dev.issues]; decide +kernel
  · simp only [Dev.issues]; decide +kernel
  · simp only [Dev.issues]; decide +kernel
  · simp only [Dev.issues]; decide +kernel
  · simp only [Dev.issues]; decide +kernel
  · simp only [Dev.issues]; decide +kernel
  · simp only [Dev.issues]; decide +kernel
  · simp only [Dev.issues]; decide +kernel
  · simp only [Dev.issues]; decide +kernel
  · simp only [Dev.issues]; decide +kernel
  · simp only [Dev.issues]; decide +kernel
  · simp only [Dev.issues]; decide +kernel
  · simp only [Dev.issues]; decide +kernel
  · simp only [Dev.issues]; decide +kernel
  · simp only [Dev.issues]; decide +kernel
  · simp only [Dev.issues]; decide +kernel
  · simp only [Dev.issues]; decide +kernel
  · simp only [Dev.issues]; decide +kernel
  · simp only [Dev.issues]; decide +kernel
  · simp only [Dev.issues]; decide +kernel
  · simp only [Dev.issues]; decide +kernel
  · simp only [Dev.issues]; decide +kernel
  · simp only [Dev.issues]; decide +kernel
  · simp only [Dev.issues]; decide +kernel
  · simp only [Dev.issues]; decide +kernel
  · simp only [Dev.issues]; decide +kernel
  · simp only [Dev.issues]; decide +kernel
  · simp only [Dev.issues]; decide +kernel
  · simp only [Dev.issues]; decide +kernel
  · simp only [Dev.issues]; decide +kernel
  · simp only [Dev.issues]; decide +kernel
  · simp only [Dev.issues]; decide +kernel
  · simp only [Dev.issues]; decide +kernel
  · simp only [Dev.issues]; decide +kernel
  · simp only [Dev.issues]; decide +kernel
  · simp only [Dev.issues]; decide +kernel
  · simp only [Dev.issues]; decide +kernel
  · simp only [Dev.issues]; decide +kernel
  · simp only [Dev.issues]; decide +kernel

/-- Meets the hypotheses of `EngineInstructions`. -/
theorem test_meets_EngineInstructions :
    (let w := ins 0x70 4 2 5 2 294911
    let st := 5
    let s : State := stOf (dIns st w (fun y => { y with s := [(5, 16), (6, 0x358637BD)], a := [(2, 0x1001), (3, 0x3003), (4, 0x5005)] }) (fun y => { y with flm := memWriteN (memWriteN y.flm 0x1001 ((List.range 8).map (fun i => toLE 4 (0x3F800000 + i * 0x123456))).flatten) 0x3003 ((List.range 8).map (fun i => toLE 4 (0x3F800000 + i * 0x123456))).flatten, side := memWriteN y.side 0x3FFF8 (toLE 4 0x3F000000 ++ toLE 4 0x40000000) }))
    let f := 2
    let t := 9
    let x : Fetch := { f := f, st := st, e := 9, w := w, s := strm s.dev f st, j := 0 }
    let n := rS x (iSrc2 x.w)
    let fi := Num.Fmt.ofCode (bits x.w 15 3)
    let fo := Num.Fmt.ofCode (bits x.w 18 3)
    let a := rA x (iSrc1 x.w)
    let o := rA x (iDst x.w)
    s.dev.boot.power = .on ∧ (bits x.w 15 3 ≤ 2 ∧ bits x.w 18 3 ≤ 2 ∧ iRnd x.w ≤ 2 ∧ iOrm x.w ≤ 1 ∧ n % 16 = 0 ∧ 16 ≤ n ∧ n ≤ 16384 ∧ a + n * fi.bytes ≤ flmSize ∧ o + n * fo.bytes ≤ flmSize ∧ st = 5 ∧ iDst x.w < 16) ∧ s.dev.issues f st t (0x70) (mDst ||| mSrc1 ||| mSrc2 ||| mBits 32 4 ||| mBits 0 22) ([(1, iDst x.w), (1, iSrc1 x.w), (0, iSrc2 x.w), (0, iSrc2 x.w + 1)]) x ∧ (iSrc1 x.w < 16 ∧ iSrc2 x.w < 31))
    ∧ (let w := ins 0x71 4 2 5 0 294911
    let st := 5
    let s : State := stOf (dIns st w (fun y => { y with s := [(5, 16), (6, 0x358637BD)], a := [(2, 0x1001), (3, 0x3003), (4, 0x5005)] }) (fun y => { y with flm := memWriteN (memWriteN y.flm 0x1001 ((List.range 8).map (fun i => toLE 4 (0x3F800000 + i * 0x123456))).flatten) 0x3003 ((List.range 8).map (fun i => toLE 4 (0x3F800000 + i * 0x123456))).flatten, side := memWriteN y.side 0x3FFF8 (toLE 4 0x3F000000 ++ toLE 4 0x40000000) }))
    let f := 2
    let t := 9
    let x : Fetch := { f := f, st := st, e := 9, w := w, s := strm s.dev f st, j := 0 }
    let n := rS x (iSrc2 x.w)
    let fi := Num.Fmt.ofCode (bits x.w 15 3)
    let fo := Num.Fmt.ofCode (bits x.w 18 3)
    let a := rA x (iSrc1 x.w)
    let o := rA x (iDst x.w)
    s.dev.boot.power = .on ∧ (bits x.w 15 3 ≤ 2 ∧ bits x.w 18 3 ≤ 2 ∧ iRnd x.w ≤ 2 ∧ iOrm x.w ≤ 1 ∧ n % 16 = 0 ∧ 16 ≤ n ∧ n ≤ 16384 ∧ a + n * fi.bytes ≤ flmSize ∧ o + n * fo.bytes ≤ flmSize ∧ st = 5 ∧ iDst x.w < 16) ∧ s.dev.issues f st t (0x71) (mDst ||| mSrc1 ||| mSrc2 ||| mBits 32 4 ||| mBits 0 21) ([(1, iDst x.w), (1, iSrc1 x.w), (0, iSrc2 x.w)]) x ∧ (iSrc1 x.w < 16 ∧ iSrc2 x.w < 32))
    ∧ (let w := ins 0x72 4 2 5 0 294911
    let st := 5
    let s : State := stOf (dIns st w (fun y => { y with s := [(5, 16), (6, 0x358637BD)], a := [(2, 0x1001), (3, 0x3003), (4, 0x5005)] }) (fun y => { y with flm := memWriteN (memWriteN y.flm 0x1001 ((List.range 8).map (fun i => toLE 4 (0x3F800000 + i * 0x123456))).flatten) 0x3003 ((List.range 8).map (fun i => toLE 4 (0x3F800000 + i * 0x123456))).flatten, side := memWriteN y.side 0x3FFF8 (toLE 4 0x3F000000 ++ toLE 4 0x40000000) }))
    let f := 2
    let t := 9
    let x : Fetch := { f := f, st := st, e := 9, w := w, s := strm s.dev f st, j := 0 }
    let n := rS x (iSrc2 x.w)
    let fi := Num.Fmt.ofCode (bits x.w 15 3)
    let fo := Num.Fmt.ofCode (bits x.w 18 3)
    let a := rA x (iSrc1 x.w)
    let o := rA x (iDst x.w)
    let g := rA x (iSrc1 x.w + 1)
    s.dev.boot.power = .on ∧ (bits x.w 15 3 ≤ 2 ∧ bits x.w 18 3 ≤ 2 ∧ iRnd x.w ≤ 2 ∧ iOrm x.w ≤ 1 ∧ n % 16 = 0 ∧ 16 ≤ n ∧ n ≤ 16384 ∧ a + n * fi.bytes ≤ flmSize ∧ o + n * fo.bytes ≤ flmSize ∧ st = 5 ∧ iDst x.w < 16) ∧ g + n * fi.bytes ≤ flmSize ∧ s.dev.issues f st t (0x72) (mDst ||| mSrc1 ||| mSrc2 ||| mBits 32 4 ||| mBits 0 22) ([(1, iDst x.w), (1, iSrc1 x.w), (0, iSrc2 x.w), (1, iSrc1 x.w + 1)]) x ∧ (iSrc1 x.w < 15 ∧ iSrc2 x.w < 32))
    ∧ (let w := ins 0x73 4 2 5 1 294911
    let st := 5
    let s : State := stOf (dIns st w (fun y => { y with s := [(5, 16), (6, 0x358637BD)], a := [(2, 0x1001), (3, 0x3003), (4, 0x5005)] }) (fun y => { y with flm := memWriteN (memWriteN y.flm 0x1001 ((List.range 8).map (fun i => toLE 4 (0x3F800000 + i * 0x123456))).flatten) 0x3003 ((List.range 8).map (fun i => toLE 4 (0x3F800000 + i * 0x123456))).flatten, side := memWriteN y.side 0x3FFF8 (toLE 4 0x3F000000 ++ toLE 4 0x40000000) }))
    let f := 2
    let t := 9
    let x : Fetch := { f := f, st := st, e := 9, w := w, s := strm s.dev f st, j := 0 }
    let n := rS x (iSrc2 x.w)
    let fi := Num.Fmt.ofCode (bits x.w 15 3)
    let fo := Num.Fmt.ofCode (bits x.w 18 3)
    let a := rA x (iSrc1 x.w)
    let o := rA x (iDst x.w)
    let g := rA x (iSrc1 x.w + 1)
    s.dev.boot.power = .on ∧ (bits x.w 15 3 ≤ 2 ∧ bits x.w 18 3 ≤ 2 ∧ iRnd x.w ≤ 2 ∧ iOrm x.w ≤ 1 ∧ n % 16 = 0 ∧ 16 ≤ n ∧ n ≤ 16384 ∧ a + n * fi.bytes ≤ flmSize ∧ o + n * fo.bytes ≤ flmSize ∧ st = 5 ∧ iDst x.w < 16) ∧ g + n * fi.bytes ≤ flmSize ∧ s.dev.issues f st t (0x73) (mDst ||| mSrc1 ||| mSrc2 ||| mBits 32 4 ||| mBits 0 22) ([(1, iDst x.w), (1, iSrc1 x.w), (0, iSrc2 x.w), (1, iSrc1 x.w + 1)]) x ∧ (iSrc1 x.w < 15 ∧ iSrc2 x.w < 32))
    ∧ (let w := ins 0x70 4 2 5 6 2162687
    let st := 5
    let s : State := stOf (dIns st w (fun y => { y with s := [(5, 32), (6, 0x358637BD)], a := [(2, 0x1001), (3, 0x3003), (4, 0x5005)] }) (fun y => { y with flm := memWriteN (memWriteN y.flm 0x1001 ((List.range 8).map (fun i => toLE 4 (0x3F800000 + i * 0x123456))).flatten) 0x3003 ((List.range 8).map (fun i => toLE 4 (0x3F800000 + i * 0x123456))).flatten, side := memWriteN y.side 0x3FFF8 (toLE 4 0x3F000000 ++ toLE 4 0x40000000) }))
    let f := 2
    let t := 9
    let x : Fetch := { f := f, st := st, e := 9, w := w, s := strm s.dev f st, j := 0 }
    let n := rS x (iSrc2 x.w)
    let fi := Num.Fmt.ofCode (bits x.w 15 3)
    let fo := Num.Fmt.ofCode (bits x.w 18 3)
    let a := rA x (iSrc1 x.w)
    let o := rA x (iDst x.w)
    s.dev.boot.power = .on ∧ (bits x.w 15 3 ≤ 2 ∧ bits x.w 18 3 ≤ 2 ∧ iRnd x.w ≤ 2 ∧ iOrm x.w ≤ 1 ∧ n % 16 = 0 ∧ 16 ≤ n ∧ n ≤ 16384 ∧ a + n * fi.bytes ≤ flmSize ∧ o + n * fo.bytes ≤ flmSize ∧ st = 5 ∧ iDst x.w < 16) ∧ s.dev.issues f st t (0x70) (mDst ||| mSrc1 ||| mSrc2 ||| mBits 32 4 ||| mBits 0 22) ([(1, iDst x.w), (1, iSrc1 x.w), (0, iSrc2 x.w), (0, iSrc2 x.w + 1)]) x ∧ (iSrc1 x.w < 16 ∧ iSrc2 x.w < 31))
    ∧ (let w := ins 0x71 4 2 5 0 65535
    let st := 5
    let s : State := stOf (dIns st w (fun y => { y with s := [(5, 32), (6, 0x358637BD)], a := [(2, 0x1001), (3, 0x3003), (4, 0x5005)] }) (fun y => { y with flm := memWriteN (memWriteN y.flm 0x1001 ((List.range 8).map (fun i => toLE 4 (0x3F800000 + i * 0x123456))).flatten) 0x3003 ((List.range 8).map (fun i => toLE 4 (0x3F800000 + i * 0x123456))).flatten, side := memWriteN y.side 0x3FFF8 (toLE 4 0x3F000000 ++ toLE 4 0x40000000) }))
    let f := 2
    let t := 9
    let x : Fetch := { f := f, st := st, e := 9, w := w, s := strm s.dev f st, j := 0 }
    let n := rS x (iSrc2 x.w)
    let fi := Num.Fmt.ofCode (bits x.w 15 3)
    let fo := Num.Fmt.ofCode (bits x.w 18 3)
    let a := rA x (iSrc1 x.w)
    let o := rA x (iDst x.w)
    s.dev.boot.power = .on ∧ (bits x.w 15 3 ≤ 2 ∧ bits x.w 18 3 ≤ 2 ∧ iRnd x.w ≤ 2 ∧ iOrm x.w ≤ 1 ∧ n % 16 = 0 ∧ 16 ≤ n ∧ n ≤ 16384 ∧ a + n * fi.bytes ≤ flmSize ∧ o + n * fo.bytes ≤ flmSize ∧ st = 5 ∧ iDst x.w < 16) ∧ s.dev.issues f st t (0x71) (mDst ||| mSrc1 ||| mSrc2 ||| mBits 32 4 ||| mBits 0 21) ([(1, iDst x.w), (1, iSrc1 x.w), (0, iSrc2 x.w)]) x ∧ (iSrc1 x.w < 16 ∧ iSrc2 x.w < 32))
    ∧ (let w := ins 0x72 4 2 5 4 2162687
    let st := 5
    let s : State := stOf (dIns st w (fun y => { y with s := [(5, 32), (6, 0x358637BD)], a := [(2, 0x1001), (3, 0x3003), (4, 0x5005)] }) (fun y => { y with flm := memWriteN (memWriteN y.flm 0x1001 ((List.range 8).map (fun i => toLE 4 (0x3F800000 + i * 0x123456))).flatten) 0x3003 ((List.range 8).map (fun i => toLE 4 (0x3F800000 + i * 0x123456))).flatten, side := memWriteN y.side 0x3FFF8 (toLE 4 0x3F000000 ++ toLE 4 0x40000000) }))
    let f := 2
    let t := 9
    let x : Fetch := { f := f, st := st, e := 9, w := w, s := strm s.dev f st, j := 0 }
    let n := rS x (iSrc2 x.w)
    let fi := Num.Fmt.ofCode (bits x.w 15 3)
    let fo := Num.Fmt.ofCode (bits x.w 18 3)
    let a := rA x (iSrc1 x.w)
    let o := rA x (iDst x.w)
    let g := rA x (iSrc1 x.w + 1)
    s.dev.boot.power = .on ∧ (bits x.w 15 3 ≤ 2 ∧ bits x.w 18 3 ≤ 2 ∧ iRnd x.w ≤ 2 ∧ iOrm x.w ≤ 1 ∧ n % 16 = 0 ∧ 16 ≤ n ∧ n ≤ 16384 ∧ a + n * fi.bytes ≤ flmSize ∧ o + n * fo.bytes ≤ flmSize ∧ st = 5 ∧ iDst x.w < 16) ∧ g + n * fi.bytes ≤ flmSize ∧ s.dev.issues f st t (0x72) (mDst ||| mSrc1 ||| mSrc2 ||| mBits 32 4 ||| mBits 0 22) ([(1, iDst x.w), (1, iSrc1 x.w), (0, iSrc2 x.w), (1, iSrc1 x.w + 1)]) x ∧ (iSrc1 x.w < 15 ∧ iSrc2 x.w < 32))
    ∧ (let w := ins 0x73 4 2 5 1 2162687
    let st := 5
    let s : State := stOf (dIns st w (fun y => { y with s := [(5, 32), (6, 0x358637BD)], a := [(2, 0x1001), (3, 0x3003), (4, 0x5005)] }) (fun y => { y with flm := memWriteN (memWriteN y.flm 0x1001 ((List.range 8).map (fun i => toLE 4 (0x3F800000 + i * 0x123456))).flatten) 0x3003 ((List.range 8).map (fun i => toLE 4 (0x3F800000 + i * 0x123456))).flatten, side := memWriteN y.side 0x3FFF8 (toLE 4 0x3F000000 ++ toLE 4 0x40000000) }))
    let f := 2
    let t := 9
    let x : Fetch := { f := f, st := st, e := 9, w := w, s := strm s.dev f st, j := 0 }
    let n := rS x (iSrc2 x.w)
    let fi := Num.Fmt.ofCode (bits x.w 15 3)
    let fo := Num.Fmt.ofCode (bits x.w 18 3)
    let a := rA x (iSrc1 x.w)
    let o := rA x (iDst x.w)
    let g := rA x (iSrc1 x.w + 1)
    s.dev.boot.power = .on ∧ (bits x.w 15 3 ≤ 2 ∧ bits x.w 18 3 ≤ 2 ∧ iRnd x.w ≤ 2 ∧ iOrm x.w ≤ 1 ∧ n % 16 = 0 ∧ 16 ≤ n ∧ n ≤ 16384 ∧ a + n * fi.bytes ≤ flmSize ∧ o + n * fo.bytes ≤ flmSize ∧ st = 5 ∧ iDst x.w < 16) ∧ g + n * fi.bytes ≤ flmSize ∧ s.dev.issues f st t (0x73) (mDst ||| mSrc1 ||| mSrc2 ||| mBits 32 4 ||| mBits 0 22) ([(1, iDst x.w), (1, iSrc1 x.w), (0, iSrc2 x.w), (1, iSrc1 x.w + 1)]) x ∧ (iSrc1 x.w < 15 ∧ iSrc2 x.w < 32)) := by
  refine ⟨?_, ?_, ?_, ?_, ?_, ?_, ?_, ?_⟩
  · simp only [Dev.issues]; decide +kernel
  · simp only [Dev.issues]; decide +kernel
  · simp only [Dev.issues]; decide +kernel
  · simp only [Dev.issues]; decide +kernel
  · simp only [Dev.issues]; decide +kernel
  · simp only [Dev.issues]; decide +kernel
  · simp only [Dev.issues]; decide +kernel
  · simp only [Dev.issues]; decide +kernel

def bindW0 : Nat := 5 + 3 * 2 ^ 10 + 2 * 2 ^ 18 + 2 ^ 24 + 0x1000 * 2 ^ 32
def dBind (v : Bool) : Dev :=
  let d := putReg (bindOff 2 4 0) (if v then bindW0 else 0) dUp
  putReg (bindOff 2 4 2) (7 + 2 ^ 16 + (2 + 2 ^ 31) * 2 ^ 32) (putReg (bindOff 2 4 1) (20 + 2 * 2 ^ 16) d)
def dHring (on : Bool) (rd wr : Nat) : Dev :=
  { putReg 0x581008 (3 + (if on then 2 ^ 11 else 0)) dUp with tel := { telemZero with hring := { ringZero with rd := rd, wr := wr, armed := true } } }

/-- Meets the hypotheses of `RegisterWrites`. -/
theorem test_meets_RegisterWrites :
    (let s : State := stOf dUp
    let off := 8
    s.live ∧ s.dev.boot.recovery = false ∧ (regOf off).isSome = true)
    ∧ (let s : State := stOf dUp
    let b := 20
    let off := oPmon b + 8
    s.live ∧ s.dev.boot.recovery = false ∧ (regOf off).isSome = true ∧ 1 ≤ b ∧ b ≤ 20)
    ∧ (let s : State := stOf dUp
    let b := 1
    let n := 7
    let off := oPmon b + 0x40 + 8 * n
    s.live ∧ s.dev.boot.recovery = false ∧ (regOf off).isSome = true ∧ 1 ≤ b ∧ b ≤ 20 ∧ n < 8)
    ∧ (let s : State := stOf dUp
    let off := 0x540000
    s.live ∧ s.dev.boot.recovery = false ∧ (regOf off).isSome = true)
    ∧ (let s : State := stOf dUp
    let off := 0x500010
    let w := ((regOf off).map (·.bytes)).getD 0
    let b : Bytes := List.replicate w 0xFF
    let cyc := 3
    (s.live ∧ s.dev.boot.recovery = false ∧ (tick cyc s.dev).boot.recovery = false ∧ (regOf off).isSome = true ∧ b.length = w) ∧ (off % w = 0 ∧ w ≠ 0))
    ∧ (let s : State := stOf dUp
    let off := 0x100000
    let b : Bytes := [1, 2]
    (s.live ∧ s.dev.boot.recovery = false ∧ off < 2 ^ 24) ∧ (b.length < 4 ∨ off % b.length ≠ 0))
    ∧ (let s : State := stOf dUp
    let off := 0x100004
    let b : Bytes := [1, 2, 3, 4, 5, 6, 7, 8]
    (s.live ∧ s.dev.boot.recovery = false ∧ off < 2 ^ 24) ∧ (b.length < 4 ∨ off % b.length ≠ 0))
    ∧ (let s : State := stOf { dUp with ring := { ringsZero with msix := [(127, (0x1234, 77, false))] } }
    let k := 127
    let a := 0x1234
    let y := 77
    let m := false
    let cyc := 3
    let b : Bytes := [255, 254, 253, 252]
    s.live ∧ s.dev.boot.recovery = false ∧ k < 128 ∧ b.length = 4 ∧ tgetD (tick cyc s.dev).ring.msix k (0, 0, true) = (a, y, m) ∧ (tick cyc s.dev).ring.pba.contains k = false)
    ∧ (let s : State := stOf (dBind false)
    let f := 2
    let i := 4
    let w := 0
    let v : BitVec 64 := 0x1234567800FFFFFF
    (s.live ∧ s.dev.boot.recovery = false ∧ f < 16 ∧ i < 256 ∧ w < 4 ∧ (regOf (bindOff f i w)).isSome = true ∧ (bindWord s.dev f i 0).testBit 24 = false) ∧ (w ≠ 0 ∨ v.toNat.testBit 24 = false))
    ∧ (let s : State := stOf (dBind false)
    let f := 2
    let i := 4
    let w := 0
    let v : BitVec 64 := BitVec.ofNat 64 bindW0
    (s.live ∧ s.dev.boot.recovery = false ∧ f < 16 ∧ i < 256 ∧ w < 4 ∧ (regOf (bindOff f i w)).isSome = true ∧ (bindWord s.dev f i 0).testBit 24 = false ∧ w = 0 ∧ v.toNat.testBit 24 = true) ∧ bindOk (putReg (bindOff f i w) (writeFlds (rg s.dev (bindOff f i w)) v.toNat (((regOf (bindOff f i w)).map (·.flds)).getD [])) s.dev) f i = true)
    ∧ (let s : State := stOf (dBind true)
    let f := 2
    let i := 4
    let w := 3
    let v : BitVec 64 := 0x1234567800FFFFFF
    (s.live ∧ s.dev.boot.recovery = false ∧ f < 16 ∧ i < 256 ∧ w < 4 ∧ (regOf (bindOff f i w)).isSome = true ∧ (bindWord s.dev f i 0).testBit 24 = true) ∧ (w ≠ 0 ∨ v.toNat.testBit 24 = true))
    ∧ (let s : State := stOf (modStrm 2 1 (fun y => { y with halted := true, started := 5, queue := [wFCmd] }) (modStrm 2 3 (fun y => { y with halted := true, started := 5, queue := [wFCmd] }) dUp))
    let f := 2
    s.live ∧ s.dev.boot.recovery = false ∧ f < 16)
    ∧ (let s : State := stOf (dHring false 3 7)
    s.live ∧ s.dev.boot.recovery = false ∧ flag s.dev 0x581008 11 = false)
    ∧ (let s : State := stOf (dHring true 3 7)
    let v : BitVec 32 := 6
    let n := 3
    s.live ∧ s.dev.boot.recovery = false ∧ flag s.dev 0x581008 11 = true ∧ headReturn (2 ^ fld s.dev 0x581008 0 4) s.dev.tel.hring (v.toNat % 4096) = some n) := by
  refine ⟨?_, ?_, ?_, ?_, ?_, ?_, ?_, ?_, ?_, ?_, ?_, ?_, ?_, ?_⟩
  · simp only [State.live, Dev.quiet]; decide +kernel
  · simp only [State.live, Dev.quiet]; decide +kernel
  · simp only [State.live, Dev.quiet]; decide +kernel
  · simp only [State.live, Dev.quiet]; decide +kernel
  · simp only [State.live, Dev.quiet]; decide +kernel
  · simp only [State.live, Dev.quiet]; decide +kernel
  · simp only [State.live, Dev.quiet]; decide +kernel
  · simp only [State.live, Dev.quiet]; decide +kernel
  · simp only [State.live, Dev.quiet]; decide +kernel
  · simp only [State.live, Dev.quiet]; decide +kernel
  · simp only [State.live, Dev.quiet]; decide +kernel
  · simp only [State.live, Dev.quiet]; decide +kernel
  · simp only [State.live, Dev.quiet]; decide +kernel
  · simp only [State.live, Dev.quiet]; decide +kernel

def adpRec (opt : Nat) : Bytes :=
  toLE 2 4095 ++ [2, BitVec.ofNat 8 opt] ++ toLE 2 64 ++ toLE 2 1 ++ toLE 4 0x1000 ++ toLE 4 0x11000 ++ toLE 8 (3 * 2 ^ 32) ++ toLE 8 (if opt = 0 then 0 else 3 * 2 ^ 32 + 4096)
    ++ toLE 8 0x1234 ++ toLE 4 0 ++ toLE 4 (if opt = 0 then 0 else 0x3F000000) ++ toLE 4 (if opt = 2 then 0x3F000000 else 0) ++ toLE 4 0 ++ zeros 8
def wSlot (u : Option Update) : Slot :=
  { record := adpRec 1, version := 6, t := 5, p1 := 0x3F800000, p2 := 0x3F800000, flags := 0, upd := u }
def wUpd (ap : Bool) : Update := { cmd := sqCmd 0 [], grad := 3 * 2 ^ 32 + 8192, gs := 127, lr := 0x3F000000, applying := ap, began := 7 }
def dAdp (sl : Tab Slot) (mbs : List MicroBatch) (e : Bytes) (w : Bool) : Dev :=
  let d := dForge e 0 w id
  let d := putReg (oStash 2) (8 * 2 ^ 8 + 0x80) d
  { modGddr 2 (fun g => { g with trained := true }) d with adp := { slots := sl, mbs := mbs } }
def wMb (par : Nat) : MicroBatch :=
  { slot := 4095, id := 1, forge := 2, version := par, units := 0, ext := none, old := [], backward := false, recompute := false,
    again := false, failed := false, dropped := false, live := [3], closed := [], past := [] }
def defEnt : Bytes := ent 0x28 0 [(8, 8, 1), (32, 8, 65536)]
def stepEnt (v : Nat) : Bytes := ent 0x28 1 [(8, 8, 1), (16, 2, 4095), (18, 1, 127), (20, 4, 0x3F000000), (24, 4, v), (32, 8, 3 * 2 ^ 32 + 8192)]
def clrEnt : Bytes := ent 0x28 2 [(8, 8, 1), (16, 2, 4095)]
def fwdEnt : Bytes := overlay (overlay (taskEnt 0) 49 [5]) 50 (toLE 2 4095 ++ toLE 4 77 ++ toLE 2 3)

/-- Meets the hypotheses of `Adapters`. -/
theorem test_meets_Adapters :
    (let s : State := stOf (hostWrite 65536 (adpRec 1) (dAdp [] [] defEnt false))
    let q := 0
    let e := defEnt
    let errs : List MemErr := [{ dev := 3, cw := 0, edc := 1, symbols := 1 }]
    let a := (meet errs s.dev).accepted q e
    let r := hostRead a (leAt e 32 8) 64
    (s.live ∧ memErrsOk errs = true) ∧ (meet errs s.dev).begins q e a ∧ (opOf e = 0x28 ∧ modeOf e = 0 ∧ plainOk e [(32, 8)] = true ∧ leAt e 32 8 % 64 = 0 ∧ tget a.adp.slots (sSlot r) = none ∧ adpRecOk a r = true) ∧ (match gAddrRead 2 (sMaster r) (masterBytes r) a with | (.ok _, d1) => decide ((gAddrWrite 2 (sState r) (zeros (stateBytes r)) d1).1 = 0) | _ => false) = true)
    ∧ (let sl := wSlot none
    let s : State := stOf (dAdp [(4095, sl)] [] clrEnt false)
    let q := 0
    let e := clrEnt
    let a := s.dev.accepted q e
    s.live ∧ s.dev.begins q e a ∧ (opOf e = 0x28 ∧ modeOf e = 2 ∧ plainOk e [(16, 2)] = true ∧ leAt e 16 2 ≤ 4095 ∧ tget a.adp.slots (leAt e 16 2) = some sl ∧ bankRefs a (leAt e 16 2) 0 = 0 ∧ bankRefs a (leAt e 16 2) 1 = 0 ∧ sl.upd = none))
    ∧ (let sl := wSlot none
    let s : State := stOf (dAdp [(4095, sl)] [] (stepEnt 6) false)
    let q := 0
    let e := stepEnt 6
    let a := s.dev.accepted q e
    s.live ∧ s.dev.begins q e a ∧ (opOf e = 0x28 ∧ modeOf e = 1 ∧ plainOk e [(16, 3), (20, 8), (32, 8)] = true ∧ leAt e 16 2 ≤ 4095 ∧ leAt e 32 8 < 2 ^ 48 ∧ tget a.adp.slots (leAt e 16 2) = some sl ∧ (gddrRange (leAt e 32 8) (masterBytes sl.record)).isSome = true ∧ sl.upd = none ∧ leAt e 24 4 = sl.version % 2 ^ 32))
    ∧ (let sl := wSlot none
    let s : State := stOf (dAdp [(4095, sl)] [] (stepEnt 6) true)
    let q := 0
    let e := stepEnt 6
    let a := s.dev.accepted q e
    s.live ∧ s.dev.retries q e a ∧ (tget a.adp.slots (leAt e 16 2) = some sl ∧ (gddrRange (leAt e 32 8) (masterBytes sl.record)).isSome = true ∧ sl.upd = none ∧ leAt e 24 4 = sl.version % 2 ^ 32))
    ∧ (let sl := wSlot (some (wUpd false))
    let s : State := stOf (dAdp [(4095, sl)] [] (stepEnt 7) false)
    let q := 0
    let e := stepEnt 7
    s.live ∧ s.dev.entryReady q e ∧ opOf e = 0x28 ∧ modeOf e = 1 ∧ plainOk e [(16, 3), (20, 8), (32, 8)] = true ∧ leAt e 16 2 ≤ 4095 ∧ leAt e 32 8 < 2 ^ 48 ∧ tget s.dev.adp.slots (leAt e 16 2) = some sl ∧ (gddrRange (leAt e 32 8) (masterBytes sl.record)).isSome = true ∧ sl.upd.isSome = true ∧ leAt e 24 4 = (sl.version + 1) % 2 ^ 32)
    ∧ (let sl := wSlot none
    let s : State := stOf (dAdp [(4095, sl)] [] fwdEnt false)
    let q := 0
    let e := fwdEnt
    let a := s.dev.accepted q e
    let f := byteAt e 48 % 16
    let st := byteAt e 48 / 16
    let slot := leAt e 50 2
    let id := leAt e 52 4
    let units := leAt e 56 2
    let ext := placeExtent a f units
    s.live ∧ s.dev.begins q e a ∧ (opOf e = 0x20 ∧ modeOf e = 0 ∧ bodyOk e [(16, 42)] = true ∧ byteAt e 1 ≤ 1 ∧ st ≤ 5 ∧ byteAt e 49 ≤ 7 ∧ byteAt e 49 % 4 = 1 ∧ slot ≤ 4095 ∧ cmdOk st (slice e 16 32) = true ∧ forgeFenced a f = false ∧ tget a.adp.slots slot = some sl) ∧ (byteAt sl.record 2 % 16 = f ∧ findMb a slot id = none ∧ neverFits a f units = false ∧ (strm a f st).queue.length < 64 ∧ a.adp.mbs.length < 4096 ∧ units ≠ 0 ∧ ext.isSome = true))
    ∧ (let sl := wSlot none
    let s : State := stOf (dAdp [(4095, sl)] [] fwdEnt true)
    let q := 0
    let e := fwdEnt
    let a := s.dev.accepted q e
    let f := byteAt e 48 % 16
    let st := byteAt e 48 / 16
    let slot := leAt e 50 2
    let id := leAt e 52 4
    let units := leAt e 56 2
    let ext := placeExtent a f units
    s.dev.retries q e a ∧ (byteAt sl.record 2 % 16 = f ∧ findMb a slot id = none ∧ neverFits a f units = false ∧ (strm a f st).queue.length < 64 ∧ units ≠ 0 ∧ ext.isSome = true))
    ∧ (let u := wUpd false
    let sl := wSlot (some u)
    let s : State := stOf (dAdp [(4095, sl)] [wMb 7] [] false)
    let k := 4095
    s.live ∧ k ≤ 4095 ∧ tget s.dev.adp.slots k = some sl ∧ sl.upd = some u ∧ s.dev.clk.now = s.dev.clk.swStart ∧ u.applying = false ∧ bankRefs s.dev k ((sl.version + 1) % 2) ≠ 0)
    ∧ (let u := wUpd false
    let sl := wSlot (some u)
    let s : State := stOf (dAdp [(4095, sl)] [wMb 6] [] false)
    let k := 4095
    s.live ∧ k ≤ 4095 ∧ tget s.dev.adp.slots k = some sl ∧ sl.upd = some u ∧ s.dev.clk.now = s.dev.clk.swStart ∧ u.applying = false ∧ bankRefs s.dev k ((sl.version + 1) % 2) = 0)
    ∧ (let u := wUpd true
    let sl := wSlot (some u)
    let s : State := stOf (dAdp [(4095, sl)] [wMb 6] [] false)
    let k := 4095
    s.live ∧ k ≤ 4095 ∧ tget s.dev.adp.slots k = some sl ∧ sl.upd = some u ∧ s.dev.clk.now = s.dev.clk.swStart ∧ u.applying = true ∧ u.began ≠ s.dev.clk.swc.toNat) := by
  refine ⟨?_, ?_, ?_, ?_, ?_, ?_, ?_, ?_, ?_, ?_⟩
  · dsimp only; exact ⟨by simp only [State.live, Dev.quiet]; decide +kernel, begins_of cmdAdapterDefine (by unfold Dev.entryReady; decide +kernel) rfl (by decide +kernel), by decide +kernel, by decide +kernel⟩
  · dsimp only; exact ⟨by simp only [State.live, Dev.quiet]; decide +kernel, begins_of cmdAdapterClear (by unfold Dev.entryReady; decide +kernel) rfl (by decide +kernel), by decide +kernel⟩
  · dsimp only; exact ⟨by simp only [State.live, Dev.quiet]; decide +kernel, begins_of cmdAdapterStep (by unfold Dev.entryReady; decide +kernel) rfl (by decide +kernel), by decide +kernel⟩
  · dsimp only; exact ⟨by simp only [State.live, Dev.quiet]; decide +kernel, retries_of cmdAdapterStep (by decide +kernel) rfl (by decide +kernel), by decide +kernel⟩
  · simp only [State.live, Dev.quiet, Dev.entryReady]; decide +kernel
  · dsimp only; exact ⟨by simp only [State.live, Dev.quiet]; decide +kernel, begins_of cmdTask (by unfold Dev.entryReady; decide +kernel) rfl (by decide +kernel), by decide +kernel, by decide +kernel⟩
  · dsimp only; exact ⟨retries_of cmdTask (by decide +kernel) rfl (by decide +kernel), by decide +kernel⟩
  · simp only [State.live, Dev.quiet]; decide +kernel
  · simp only [State.live, Dev.quiet]; decide +kernel
  · simp only [State.live, Dev.quiet]; decide +kernel

def flipEnt (mode first n : Nat) : Bytes := ent 0x29 mode [(8, 8, 1), (16, 2, first), (18, 2, n)]
def dMem (e : Bytes) (bias : List Nat) (flips : Tab Flip) : Dev :=
  let d := putReg 0x440028 (1 + 256 * 2) (withEntry e dUp)
  let d := modMem (fun m => { m with bias := bias, flips := flips }) d
  modGddr 3 (fun g => { g with trained := true, remap := [(5, { row := 77, valid := false, spareFailed := false })] }) d
def wFlip (h : Bool) : Flip := { cmd := sqCmd 0 (flipEnt 0 0 3), first := 0, count := 3, toHost := h }

/-- Meets the hypotheses of `MemoryRows`. -/
theorem test_meets_MemoryRows :
    (let e := flipEnt 0 0 3
    let s : State := stOf (dMem e [1, 9] [(2, { wFlip false with first := 40 })])
    let q := 0
    let a := s.dev.accepted q e
    let x : Flip := { cmd := sqCmd q e, first := leAt e 16 2, count := leAt e 18 2, toHost := false }
    s.live ∧ s.dev.begins q e a ∧ (opOf e = 0x29 ∧ modeOf e = 0 ∧ plainOk e [(16, 4)] = true ∧ 1 ≤ leAt e 18 2 ∧ leAt e 18 2 ≤ 8192 ∧ 2 ^ 21 * (leAt e 16 2 + leAt e 18 2) ≤ (cxlWindow a).2) ∧ (a.mem.flips.any (fun p => flipsMeet p.2 x) = true ∨ flipChanges a x ≠ []))
    ∧ (let e := flipEnt 0 2 3
    let s : State := stOf (dMem e [2, 3, 4] [])
    let q := 0
    let a := s.dev.accepted q e
    let x : Flip := { cmd := sqCmd q e, first := leAt e 16 2, count := leAt e 18 2, toHost := false }
    s.live ∧ s.dev.begins q e a ∧ (opOf e = 0x29 ∧ modeOf e = 0 ∧ plainOk e [(16, 4)] = true ∧ 1 ≤ leAt e 18 2 ∧ leAt e 18 2 ≤ 8192 ∧ 2 ^ 21 * (leAt e 16 2 + leAt e 18 2) ≤ (cxlWindow a).2 ∧ a.mem.flips.any (fun p => flipsMeet p.2 x) = false ∧ flipChanges a x = []))
    ∧ (let e := flipEnt 1 0 3
    let s : State := stOf (dMem e [1, 9] [(2, { wFlip false with first := 2 })])
    let q := 0
    let a := s.dev.accepted q e
    let x : Flip := { cmd := sqCmd q e, first := leAt e 16 2, count := leAt e 18 2, toHost := true }
    s.live ∧ s.dev.begins q e a ∧ (opOf e = 0x29 ∧ modeOf e = 1 ∧ plainOk e [(16, 4)] = true ∧ 1 ≤ leAt e 18 2 ∧ leAt e 18 2 ≤ 8192 ∧ 2 ^ 21 * (leAt e 16 2 + leAt e 18 2) ≤ (cxlWindow a).2) ∧ (a.mem.flips.any (fun p => flipsMeet p.2 x) = true ∨ flipChanges a x ≠ []))
    ∧ (let e := flipEnt 1 2 3
    let s : State := stOf (dMem e [1, 9] [])
    let q := 0
    let a := s.dev.accepted q e
    let x : Flip := { cmd := sqCmd q e, first := leAt e 16 2, count := leAt e 18 2, toHost := true }
    s.live ∧ s.dev.begins q e a ∧ (opOf e = 0x29 ∧ modeOf e = 1 ∧ plainOk e [(16, 4)] = true ∧ 1 ≤ leAt e 18 2 ∧ leAt e 18 2 ≤ 8192 ∧ 2 ^ 21 * (leAt e 16 2 + leAt e 18 2) ≤ (cxlWindow a).2 ∧ a.mem.flips.any (fun p => flipsMeet p.2 x) = false ∧ flipChanges a x = []))
    ∧ (let x := wFlip false
    let s : State := stOf (modMem (fun m => { m with cxlWait := [(2 ^ 30, none)] }) (dMem [] [1, 9] [(2, { x with first := 40 }), (4, x), (5, { x with first := 2 })]))
    let id := 4
    (s.live ∧ tget s.dev.mem.flips id = some x ∧ x.toHost = false) ∧ (∀ p ∈ s.dev.mem.flips, p.1 < id → flipsMeet p.2 x = false) ∧ (∀ r ∈ s.dev.mem.cxlWait, cxlTouches x r = false))
    ∧ (let x := wFlip true
    let s : State := stOf (modStrm 2 1 (fun y => { y with movers := [wMover] }) (dMem [] [1, 9] [(4, x)]))
    let id := 4
    (s.live ∧ tget s.dev.mem.flips id = some x ∧ x.toHost = true) ∧ (∀ p ∈ s.dev.mem.flips, p.1 < id → flipsMeet p.2 x = false) ∧ (∀ p ∈ s.dev.forge.f, ∀ y ∈ p.2.streams, ∀ m ∈ y.2.movers, moverTouches s.dev x m = false))
    ∧ (let s : State := stOf (dMem [] [] [])
    let i := 3
    let bank := 15
    s.live ∧ i < 16 ∧ bank < 16 ∧ (gddr s.dev i).trained = true ∧ inWindow s.dev i = false)
    ∧ (let s : State := stOf (dMem [] [] [])
    let i := 4
    let bank := 15
    s.live ∧ i < 16 ∧ bank < 16 ∧ (gddr s.dev i).trained = false)
    ∧ (let s : State := stOf (modMem (fun m => { m with window := some (3, 0) }) (dMem [] [] []))
    let i := 3
    let bank := 15
    s.live ∧ i < 16 ∧ bank < 16 ∧ (gddr s.dev i).trained = true ∧ inWindow s.dev i = true)
    ∧ (let s : State := stOf (modGddr 3 (fun g => { g with scrub := groups - 1, scrubAt := 0 }) (putReg 0x440018 (256 + 24) (dMem [] [] [])))
    let i := 3
    let g := gddr s.dev i
    let errs : List MemErr := []
    (s.live ∧ i < 16 ∧ memErrsOk errs = true ∧ flag s.dev 0x440018 8 = true ∧ g.trained = true ∧ g.failed = false ∧ inWindow s.dev i = false ∧ g.scrubAt ≤ s.dev.clk.now * groups) ∧ (∀ k : Nat, k < 32 → cwLost g (32 * g.scrub + k) = false))
    ∧ (let s : State := stOf (modGddr 3 (fun g => { g with scrub := groups - 1, scrubAt := 0 }) (putReg 0x440018 (256 + 24) (dMem [] [] [])))
    let i := 3
    let g := gddr s.dev i
    let errs : List MemErr := [{ dev := 3, cw := 32 * (groups - 1) + 31, edc := 0, symbols := 1 }]
    (s.live ∧ i < 16 ∧ memErrsOk errs = true ∧ flag s.dev 0x440018 8 = true ∧ g.trained = true ∧ g.failed = false ∧ inWindow s.dev i = false ∧ g.scrubAt ≤ s.dev.clk.now * groups) ∧ (∀ k : Nat, k < 32 → cwLost g (32 * g.scrub + k) = false))
    ∧ (let s : State := stOf (modGddr 3 (fun g => { g with scrub := groups - 1, scrubAt := 0 }) (putReg 0x440018 (256 + 24) (dMem [] [] [])))
    let i := 3
    let g := gddr s.dev i
    let errs : List MemErr := [{ dev := 3, cw := 32 * (groups - 1) + 31, edc := 0, symbols := 2 }]
    (s.live ∧ i < 16 ∧ memErrsOk errs = true ∧ flag s.dev 0x440018 8 = true ∧ g.trained = true ∧ g.failed = false ∧ inWindow s.dev i = false ∧ g.scrubAt ≤ s.dev.clk.now * groups) ∧ (∀ k : Nat, k < 32 → cwLost g (32 * g.scrub + k) = false))
    ∧ (let s : State := stOf (dMem [] [] [])
    let i := 3
    let k := 5
    let x : Remap := { row := 77, valid := false, spareFailed := false }
    s.live ∧ i < 16 ∧ k < 1024 ∧ tget (gddr s.dev i).remap k = some x ∧ x.valid = false ∧ rowCws x.row (gddr s.dev i).bad = []) := by
  refine ⟨?_, ?_, ?_, ?_, ?_, ?_, ?_, ?_, ?_, ?_, ?_, ?_, ?_⟩
  · dsimp only; exact ⟨by simp only [State.live, Dev.quiet]; decide +kernel, begins_of (cmdBiasFlip false) (by unfold Dev.entryReady; decide +kernel) rfl (by decide +kernel), by decide +kernel, by decide +kernel⟩
  · dsimp only; exact ⟨by simp only [State.live, Dev.quiet]; decide +kernel, begins_of (cmdBiasFlip false) (by unfold Dev.entryReady; decide +kernel) rfl (by decide +kernel), by decide +kernel⟩
  · dsimp only; exact ⟨by simp only [State.live, Dev.quiet]; decide +kernel, begins_of (cmdBiasFlip true) (by unfold Dev.entryReady; decide +kernel) rfl (by decide +kernel), by decide +kernel, by decide +kernel⟩
  · dsimp only; exact ⟨by simp only [State.live, Dev.quiet]; decide +kernel, begins_of (cmdBiasFlip true) (by unfold Dev.entryReady; decide +kernel) rfl (by decide +kernel), by decide +kernel⟩
  · simp only [State.live, Dev.quiet]; decide +kernel
  · simp only [State.live, Dev.quiet]; decide +kernel
  · simp only [State.live, Dev.quiet]; decide +kernel
  · simp only [State.live, Dev.quiet]; decide +kernel
  · simp only [State.live, Dev.quiet]; decide +kernel
  · simp only [State.live, Dev.quiet]; decide +kernel
  · simp only [State.live, Dev.quiet]; decide +kernel
  · simp only [State.live, Dev.quiet]; decide +kernel
  · simp only [State.live, Dev.quiet]; decide +kernel

/-- All 1,024 entries of the remap table, entry 5 still copying. -/
def remapFull : Tab Remap := (List.range 1024).map (fun j => (j, { row := j, valid := decide (j ≠ 5), spareFailed := false }))
def dRemap : Dev := modGddr 3 (fun g => { g with remap := remapFull }) (dMem [] [] [])
def dRemapped : Dev := modGddr 3 (fun g => { g with remap := tput g.remap 5 { row := 5, valid := true, spareFailed := false } }) dRemap
theorem remap_copying : (stOf dRemap).live ∧ 3 < 16 ∧ 5 < 1024 ∧ tget (gddr dRemap 3).remap 5 = some { row := 5, valid := false, spareFailed := false } ∧ rowCws 5 (gddr dRemap 3).bad = [] := by
  refine ⟨?_, ?_, ?_, ?_, ?_⟩
  · unfold State.live Dev.quiet; decide +kernel
  · decide
  · decide
  · decide +kernel
  · decide +kernel
theorem tget_row {α : Type} (f : Nat → α) (l : List Nat) (j : Nat) (h : j ∈ l) : tget (l.map (fun i => (i, f i))) j = some (f j) := by
  induction l with
  | nil => cases h
  | cons a t ih =>
    simp only [List.map_cons, tget]
    split
    · next e => rw [e]
    · next e => exact ih ((List.mem_cons.mp h).resolve_left (Ne.symm e))
theorem remap_all_valid : (List.range 1024).all (fun j => ((tget (gddr dRemapped 3).remap j).map (·.valid)) == some true) = true := by
  have h : (gddr dRemapped 3).remap = tput remapFull 5 { row := 5, valid := true, spareFailed := false } := by
    simp only [dRemapped, dRemap, gddr, modGddr, modMem, tgetD_tput_self]
  rw [List.all_eq_true]
  intro j hj
  rw [h, tget_tput]
  split
  · rfl
  · next e => rw [remapFull, tget_row _ _ _ hj]; simpa using Ne.symm e

/-- Meets the hypotheses of `MemoryRows`. -/
theorem test_meets_MemoryRows_more :
    (((stOf dRemap).live ∧ 3 < 16 ∧ 5 < 1024 ∧ tget (gddr dRemap 3).remap 5 = some { row := 5, valid := false, spareFailed := false } ∧ rowCws 5 (gddr dRemap 3).bad = []) ∧ (List.range 1024).all (fun j => ((tget (gddr dRemapped 3).remap j).map (·.valid)) == some true) = true) := by
  exact ⟨remap_copying, remap_all_valid⟩

/-- Meets the hypotheses of `MemoryRows`. -/
theorem test_meets_MemoryRows_more_more :
    (let s : State := stOf { dMem [] [] [] with clk := { clockZero with swc := 0x1800 } }
    let i := 3
    s.live ∧ i = s.dev.clk.swc.toNat / 2 ^ s.dev.clk.retrainNow % 16 ∧ s.dev.clk.swc.toNat % 2 ^ s.dev.clk.retrainNow = 0 ∧ s.dev.clk.slot = 0 ∧ s.dev.mem.window = none)
    ∧ (let s : State := stOf (modForge 3 (fun g => { g with freeze := some 0 }) (modMem (fun m => { m with window := some (3, 0) }) (modGddr 3 (fun g => { g with owed := [2] }) (dMem [] [] []))))
    let i := 3
    let t := 0
    s.live ∧ s.dev.mem.window = some (i, t) ∧ 440 ≤ s.dev.clk.nsNow)
    ∧ (let s : State := stOf ((let d := modForge 3 (fun g => { g with freeze := some 0 }) (modMem (fun m => { m with window := some (3, 0) }) (modGddr 3 (fun g => { g with owed := [2] }) (dMem [] [] []))); { d with clk := { d.clk with nsNow := 256, swStart := 1536, now := 1536, swc := 1 } }))
    let i := 3
    let t := 0
    s.live ∧ s.dev.mem.window = some (i, t) ∧ s.dev.clk.nsNow < 440 ∧ t ≠ s.dev.clk.swStart)
    ∧ (let s : State := stOf (dMem [] [] [])
    s.live ∧ s.dev.mem.window = none)
    ∧ (let s : State := stOf (let d := modMem (fun m => { m with window := some (3, 0) }) (dMem [] [] []); { d with clk := { d.clk with nsNow := 256 } })
    let i := 3
    let t := 0
    s.live ∧ s.dev.mem.window = some (i, t) ∧ s.dev.clk.nsNow < 440 ∧ t = s.dev.clk.swStart)
    ∧ (let s : State := stOf (modBoot (fun b => { b with hdmCommit := true }) (dMem [] [1] []))
    let dpa := 0x1234567
    let errs : List MemErr := []
    let f := (cxlWindow s.dev).1 + dpa / 64 * 64
    let io := ofFlat f
    let i := io.1
    let off := io.2
    let r := gRead i off 64 4 (count 17 4 1 { priv := some 1, addr := some f } (modMem (fun m => { m with answer := [] }) (meet errs s.dev)))
    let b := r.1.getD []
    (s.live ∧ s.dev.boot.hdmCommit = true ∧ memErrsOk errs = true ∧ dpa < (cxlWindow s.dev).2 ∧ cxlHeld dpa s.dev = false ∧ r.1 = some b) ∧ s.dev.mem.bias.contains ((blockOf s.dev f).getD 0) = false)
    ∧ (let s : State := stOf (modBoot (fun b => { b with hdmCommit := true }) (dMem [] [1] []))
    let dpa := 0x1234567
    let errs : List MemErr := [{ dev := (ofFlat (0x1234567 / 64 * 64 + 0x10000000)).1, cw := (ofFlat (0x1234567 / 64 * 64 + 0x10000000)).2 / 16, edc := 0, symbols := 1 }]
    let f := (cxlWindow s.dev).1 + dpa / 64 * 64
    let io := ofFlat f
    let i := io.1
    let off := io.2
    let r := gRead i off 64 4 (count 17 4 1 { priv := some 1, addr := some f } (modMem (fun m => { m with answer := [] }) (meet errs s.dev)))
    let b := r.1.getD []
    (s.live ∧ s.dev.boot.hdmCommit = true ∧ memErrsOk errs = true ∧ dpa < (cxlWindow s.dev).2 ∧ cxlHeld dpa s.dev = false ∧ r.1 = some b) ∧ s.dev.mem.bias.contains ((blockOf s.dev f).getD 0) = false)
    ∧ (let s : State := stOf (modMem (fun m => { m with window := some ((ofFlat ((cxlWindow (dMem [] [1] [])).1 + 0x1234567 / 64 * 64)).1, 0) }) (modBoot (fun b => { b with hdmCommit := true }) (dMem [] [1] [])))
    let dpa := 0x1234567
    let errs : List MemErr := [{ dev := 3, cw := 2, edc := 0, symbols := 1 }]
    let f := (cxlWindow s.dev).1 + dpa / 64 * 64
    (s.live ∧ s.dev.boot.hdmCommit = true ∧ memErrsOk errs = true ∧ dpa < (cxlWindow s.dev).2 ∧ cxlHeld dpa s.dev = true) ∧ s.dev.mem.bias.contains ((blockOf s.dev f).getD 0) = false)
    ∧ (let s : State := stOf (modBoot (fun b => { b with hdmCommit := true }) (dMem [] [1] []))
    let dpa := 0x1234567
    let errs : List MemErr := [{ dev := 3, cw := 2, edc := 0, symbols := 1 }]
    let b : Bytes := [1, 2, 3]
    let f := (cxlWindow s.dev).1 + dpa
    (s.live ∧ s.dev.boot.hdmCommit = true ∧ memErrsOk errs = true ∧ b ≠ [] ∧ b.length ≤ 64 ∧ dpa / 64 = (dpa + b.length - 1) / 64 ∧ dpa < (cxlWindow s.dev).2) ∧ (cxlHeld dpa s.dev = false ∧ s.dev.mem.bias.contains ((blockOf s.dev f).getD 0) = false)) := by
  refine ⟨?_, ?_, ?_, ?_, ?_, ?_, ?_, ?_, ?_⟩
  · simp only [State.live, Dev.quiet]; decide +kernel
  · simp only [State.live, Dev.quiet]; decide +kernel
  · simp only [State.live, Dev.quiet]; decide +kernel
  · simp only [State.live, Dev.quiet]; decide +kernel
  · simp only [State.live, Dev.quiet]; decide +kernel
  · simp only [State.live, Dev.quiet]; decide +kernel
  · simp only [State.live, Dev.quiet]; decide +kernel
  · simp only [State.live, Dev.quiet]; decide +kernel
  · simp only [State.live, Dev.quiet]; decide +kernel

/-- Meets the hypotheses of `MemoryRows`. -/
theorem test_meets_MemoryRows_more_more_more :
    (let s : State := stOf (modBoot (fun b => { b with hdmCommit := true }) (dMem [] [1, 9] []))
    let dpa := 0x1234567
    let errs : List MemErr := [{ dev := 3, cw := 2, edc := 0, symbols := 1 }]
    let b : Bytes := [1, 2, 3]
    let f := (cxlWindow s.dev).1 + dpa
    (s.live ∧ s.dev.boot.hdmCommit = true ∧ memErrsOk errs = true ∧ b ≠ [] ∧ b.length ≤ 64 ∧ dpa / 64 = (dpa + b.length - 1) / 64 ∧ dpa < (cxlWindow s.dev).2) ∧ (cxlHeld dpa s.dev = false ∧ blockOf s.dev f = some 9 ∧ s.dev.mem.bias.contains 9 = true))
    ∧ (let s : State := stOf (modMem (fun m => { m with window := some ((ofFlat ((cxlWindow (dMem [] [1] [])).1 + 0x1234567)).1, 0) }) (modBoot (fun b => { b with hdmCommit := true }) (dMem [] [1] [])))
    let dpa := 0x1234567
    let errs : List MemErr := [{ dev := 3, cw := 2, edc := 0, symbols := 1 }]
    let b : Bytes := [1, 2, 3]
    (s.live ∧ s.dev.boot.hdmCommit = true ∧ memErrsOk errs = true ∧ b ≠ [] ∧ b.length ≤ 64 ∧ dpa / 64 = (dpa + b.length - 1) / 64 ∧ dpa < (cxlWindow s.dev).2) ∧ cxlHeld dpa s.dev = true)
    ∧ (let s : State := stOf (modBoot (fun b => { b with cxlProto := true }) (dMem [] [1, 9] []))
    let base := 2 ^ 28 * 5
    let size := 2 ^ 29
    let ways := 0
    let ok := true
    (s.live ∧ ways < 16) ∧ (ok = true ↔ base % 2 ^ 28 = 0 ∧ size = (cxlWindow s.dev).2 ∧ size ≠ 0 ∧ ways = 0 ∧ s.dev.boot.cxlProto = true)) := by
  refine ⟨?_, ?_, ?_⟩
  · simp only [State.live, Dev.quiet]; decide +kernel
  · simp only [State.live, Dev.quiet]; decide +kernel
  · simp only [State.live, Dev.quiet]; decide +kernel

def wMan : Manifest :=
  { id := 9, ver := 3, rev := 0, ckpt := false, len := 6000, p := 4096, ppb := 64, w := 2, crc := 0, stripes := [[5120, 5121]], seq := 4 }
/-- A READY store of two channels, one image and blocks as listed. -/
def wFal (g : Fallow → Fallow) : Fallow :=
  g { fallowZero with
    mode := .ready, geom := some { page := 4096, ppb := 64, blocks := 8, luns := 1 }, targets := [(0, 0), (1, 0)], chans := [0, 1],
    cat := { ids := [(9, (wMan, 4096 * 6144))], table := none, pages := [(6144, 1)] }, seq := 5, top := 5,
    blks := [(0, { st := .root, erases := 0, pages := [], bad := [], reads := 0 }), (1, { st := .root, erases := 0, pages := [], bad := [], reads := 0 }),
             (5120, { st := .used, erases := 2, pages := [(0, .image 9 3 0 (zeros 48))], bad := [], reads := 0 }),
             (5121, { st := .used, erases := 2, pages := [], bad := [], reads := 0 }), (6144, { st := .used, erases := 1, pages := [], bad := [], reads := 0 })], nextId := 11 }
def dFal (e : Bytes) (w : Bool) (g : Fallow → Fallow) : Dev :=
  let d := withEntry e dUp
  let d := if w then modSq 0 (fun y => { y with waiting := some e }) d else d
  { d with fal := wFal g }
def imgEnt (op ver off len fl : Nat) : Bytes :=
  ent op 0 [(8, 8, 1), (16, 4, 9), (20, 4, ver), (24, 8, off), (32, 8, len), (40, 8, if fl = 4 then 3 * 2 ^ 32 else 65536), (48, 1, fl)]
def wOpen (ver written : Nat) : OpenVer := { id := 9, ver := ver, written := written, held := [], pages := 0, stripes := [], all := [] }
def cmtEnt (ver len : Nat) : Bytes := ent 0x42 0 [(8, 8, 1), (16, 4, 9), (20, 4, ver), (24, 8, len)]
def delEnt (ver : Nat) : Bytes := ent 0x43 0 [(8, 8, 1), (16, 4, 9), (20, 4, ver)]
def ckpEnt : Bytes := ent 0x44 0 [(8, 8, 1), (16, 4, 9), (20, 4, 4), (24, 8, 65536), (32, 2, 1)]
def wRead (left prio : Nat) : ImgRead := { cmd := sqCmd 0 (imgEnt 0x40 0 0 64 0), man := wMan, forge := false, dst := 65536, len := 64, prio := prio, since := 0, left := left, status := 0 }

set_option maxRecDepth 100000 in
/-- Meets the hypotheses of `ImageCommands`. -/
theorem test_meets_ImageCommands :
    (let e := imgEnt 0x40 0 4000 1000 2
    let s : State := stOf (dFal e false id)
    let q := 0
    let a := s.dev.accepted q e
    let m := wMan
    let b := 4096 * 6144
    (s.dev.boot.power = .on ∧ a.fal.mode = .ready ∧ imgIdOk (leAt e 16 4) = true) ∧ s.dev.begins q e a ∧ (opOf e = 0x40 ∧ modeOf e = 0 ∧ plainOk e [(16, 33)] = true ∧ byteAt e 48 ≤ 7 ∧ falAddrOk (sqCmd q e) ((byteAt e 48).testBit 2) (leAt e 40 8) (leAt e 32 8) = true ∧ tget a.fal.cat.ids (leAt e 16 4) = some (m, b) ∧ leAt e 20 4 = 0 ∧ leAt e 24 8 + leAt e 32 8 ≤ m.len))
    ∧ (let e := imgEnt 0x41 4 0 4096 0
    let s : State := stOf (dFal e false id)
    let q := 0
    let errs : List MemErr := [{ dev := 3, cw := 0, edc := 1, symbols := 1 }]
    let a := (meet errs s.dev).accepted q e
    let o := wOpen 4 0
    let a0 := modFal (fun f => { f with opens := f.opens ++ [o] }) a
    let n := leAt e 24 8 + leAt e 32 8 - o.written
    let b := hostRead a0 (leAt e 40 8 + (o.written - leAt e 24 8)) n
    let a1 := a0
    let pp := placePages 5 o.id o.ver (.write a1.fal.nextId) ((List.range ((o.held ++ b).length / (fgeom a1).page)).map (fun i => slice (o.held ++ b) (i * (fgeom a1).page) (fgeom a1).page)) o.pages o.stripes a1
    (s.dev.boot.power = .on ∧ a.fal.mode = .ready ∧ imgIdOk (leAt e 16 4) = true ∧ memErrsOk errs = true) ∧ (opOf e = 0x41 ∧ modeOf e = 0 ∧ plainOk e [(16, 33)] = true ∧ byteAt e 48 = 0 ∧ leAt e 20 4 ≠ 0 ∧ leAt e 24 8 % 4096 = 0 ∧ leAt e 32 8 % 4096 = 0 ∧ leAt e 32 8 ≠ 0 ∧ leAt e 24 8 + leAt e 32 8 ≤ imgMax ∧ falAddrOk (sqCmd q e) (byteAt e 48 == 4) (leAt e 40 8) (leAt e 32 8) = true ∧ tget a.fal.cat.ids (leAt e 16 4) = some (wMan, 4096 * 6144) ∧ wMan.ver < leAt e 20 4 ∧ openOf a (leAt e 16 4) = none ∧ leAt e 24 8 = 0 ∧ a.fal.opens.length < 64 ∧ pp.2.2.1 = true) ∧ (meet errs s.dev).begins q e a)
    ∧ (let e := imgEnt 0x41 4 4096 8192 4
    let o : OpenVer := { wOpen 4 8192 with held := [], pages := 2, stripes := [[2048, 2049]] }
    let s : State := stOf (dFal e true (fun f => { f with opens := [o] }))
    let q := 0
    let a := s.dev.accepted q e
    (s.dev.boot.power = .on ∧ a.fal.mode = .ready ∧ imgIdOk (leAt e 16 4) = true) ∧ (opOf e = 0x41 ∧ modeOf e = 0 ∧ plainOk e [(16, 33)] = true ∧ byteAt e 48 = 4 ∧ leAt e 20 4 ≠ 0 ∧ leAt e 24 8 % 4096 = 0 ∧ leAt e 32 8 % 4096 = 0 ∧ leAt e 32 8 ≠ 0 ∧ leAt e 24 8 + leAt e 32 8 ≤ imgMax ∧ falAddrOk (sqCmd q e) (byteAt e 48 == 4) (leAt e 40 8) (leAt e 32 8) = true ∧ wMan.ver < leAt e 20 4 ∧ openOf a (leAt e 16 4) = some o ∧ o.ver = leAt e 20 4 ∧ leAt e 24 8 ≤ o.written ∧ o.written < leAt e 24 8 + leAt e 32 8) ∧ s.dev.retries q e a)
    ∧ (let e := cmtEnt 3 6000
    let s : State := stOf (dFal e false id)
    let q := 0
    let a := s.dev.accepted q e
    s.dev.begins q e a ∧ (a.fal.mode = .ready ∧ opOf e = 0x42 ∧ modeOf e = 0 ∧ plainOk e [(16, 16)] = true ∧ leAt e 20 4 ≠ 0 ∧ leAt e 24 8 ≤ imgMax ∧ tget a.fal.cat.ids (leAt e 16 4) = some (wMan, 4096 * 6144) ∧ wMan.ver = leAt e 20 4))
    ∧ (let e := cmtEnt 4 0
    let o := wOpen 4 0
    let s : State := stOf (dFal e false (fun f => { f with opens := [o] }))
    let q := 0
    let a := s.dev.accepted q e
    s.dev.begins q e a ∧ (a.fal.mode = .ready ∧ opOf e = 0x42 ∧ modeOf e = 0 ∧ plainOk e [(16, 16)] = true ∧ leAt e 20 4 ≠ 0 ∧ leAt e 24 8 ≤ imgMax ∧ wMan.ver ≠ leAt e 20 4 ∧ openOf a (leAt e 16 4) = some o ∧ o.ver = leAt e 20 4 ∧ leAt e 24 8 ≤ o.written ∧ o.written < leAt e 24 8 + 4096))
    ∧ (let e := delEnt 3
    let s : State := stOf (dFal e false id)
    let q := 0
    let a := s.dev.accepted q e
    s.dev.begins q e a ∧ (a.fal.mode = .ready ∧ opOf e = 0x43 ∧ modeOf e = 0 ∧ plainOk e [(16, 8)] = true ∧ leAt e 20 4 ≠ 0 ∧ openOf a (leAt e 16 4) = none ∧ tget a.fal.cat.ids (leAt e 16 4) = some (wMan, 4096 * 6144) ∧ wMan.ver = leAt e 20 4))
    ∧ (let e := delEnt 2
    let s : State := stOf (dFal e false id)
    let q := 0
    let a := s.dev.accepted q e
    s.dev.begins q e a ∧ (openOf a (leAt e 16 4) = none ∧ leAt e 20 4 < wMan.ver))
    ∧ (let e := ckpEnt
    let s : State := stOf (hostWrite 65536 (toLE 2 4095) { dFal e false id with adp := { slots := [(4095, wSlot none)], mbs := [] } })
    let q := 0
    let errs : List MemErr := []
    let a := (meet errs s.dev).accepted q e
    let b := (image (sqCmd q e) (leAt e 24 8) (2 * leAt e 32 2) a).getD []
    let l := (List.range (leAt e 32 2)).map (fun i => leAt b (2 * i) 2)
    (meet errs s.dev).begins q e a ∧ (memErrsOk errs = true ∧ a.fal.mode = .ready ∧ opOf e = 0x44 ∧ modeOf e = 0 ∧ plainOk e [(16, 19), (36, 12)] = true ∧ leAt e 20 4 ≠ 0 ∧ 1 ≤ leAt e 32 2 ∧ leAt e 32 2 ≤ 4096 ∧ byteAt e 34 = 0 ∧ allZero (slice e 36 12) = true ∧ image (sqCmd q e) (leAt e 24 8) (2 * leAt e 32 2) a = some b ∧ wMan.ver ≠ leAt e 20 4 ∧ l = [4095]) ∧ (∀ k ∈ l, (tget a.adp.slots k).isSome = true) ∧ (l.map (fun k => match tget a.adp.slots k with | some x => slotImageBytes x.record | none => 0)).sum ≤ imgMax)
    ∧ (let r := wRead 0 0
    let s : State := stOf (dFal [] false (fun f => { f with reads := [(7, r)] }))
    let id := 7
    s.dev.boot.power = .on ∧ tget s.dev.fal.reads id = some r ∧ r.left = 0)
    ∧ (let r := wRead 2 1
    let s : State := stOf { dFal [] false (fun f => { f with reads := [(7, r)] }) with clk := { clockZero with swc := 100000 } }
    let id := 7
    s.dev.boot.power = .on ∧ tget s.dev.fal.reads id = some r ∧ r.prio ≠ 0 ∧ r.since + 64 * fld s.dev 0x480000 0 8 ≤ s.dev.clk.swc.toNat)
    ∧ (let w : ImgWrite := { cmd := sqCmd 0 (imgEnt 0x41 4 0 4096 0), id := 9, ver := 4, left := 0 }
    let s : State := stOf (dFal [] false (fun f => { f with writes := [(7, w)], opens := [wOpen 4 8192] }))
    let n := 7
    s.dev.boot.power = .on ∧ tget s.dev.fal.writes n = some w ∧ w.left = 0) := by
  refine ⟨?_, ?_, ?_, ?_, ?_, ?_, ?_, ?_, ?_, ?_, ?_⟩
  · dsimp only; exact ⟨by decide +kernel, begins_of cmdImgRead (by unfold Dev.entryReady; decide +kernel) rfl (by decide +kernel), by decide +kernel⟩
  · dsimp only; exact ⟨by decide +kernel, by decide +kernel, begins_of cmdImgWrite (by unfold Dev.entryReady; decide +kernel) rfl (by decide +kernel)⟩
  · dsimp only; exact ⟨by decide +kernel, by decide +kernel, retries_of cmdImgWrite (by decide +kernel) rfl (by decide +kernel)⟩
  · dsimp only; exact ⟨begins_of cmdImgCommit (by unfold Dev.entryReady; decide +kernel) rfl (by decide +kernel), by decide +kernel⟩
  · dsimp only; exact ⟨begins_of cmdImgCommit (by unfold Dev.entryReady; decide +kernel) rfl (by decide +kernel), by decide +kernel⟩
  · dsimp only; exact ⟨begins_of cmdImgDelete (by unfold Dev.entryReady; decide +kernel) rfl (by decide +kernel), by decide +kernel⟩
  · dsimp only; exact ⟨begins_of cmdImgDelete (by unfold Dev.entryReady; decide +kernel) rfl (by decide +kernel), by decide +kernel⟩
  · dsimp only; exact ⟨begins_of cmdCheckpoint (by unfold Dev.entryReady; decide +kernel) rfl (by decide +kernel), by decide +kernel, by decide +kernel, by decide +kernel⟩
  · dsimp only; decide +kernel
  · dsimp only; decide +kernel
  · dsimp only; decide +kernel

def wProg (b : Nat) : LunOp := { cls := 5, ord := 3, job := .prog b 1 (.image 9 4 0 (zeros 48)) (.write 7) }
def wErase : LunOp := { cls := 8, ord := 3, job := .erase 5121 6 }
def wLuns (wait : List LunOp) (run : Option LunOp) (n : Nat) : Tab Lun := [(lunOf 5120, { wait := wait, run := run, since8 := n }), (lunOf 5121, { wait := wait, run := run, since8 := n })]

/-- Meets the hypotheses of `FlashOperations`. -/
theorem test_meets_FlashOperations :
    (let s : State := stOf (dFal [] false (fun f => { f with luns := wLuns [wProg 5120, wErase] none 30 }))
    let l := 0
    let o := wProg 5120
    let errs : List MemErr := []
    let nand : List NandErr := []
    s.dev.boot.power = .on ∧ memErrsOk errs = true ∧ nandErrsOk nand = true ∧ (lun s.dev l).run = none ∧ nextOp s.dev (lun s.dev l) = some o ∧ o.job = .prog 5120 1 (.image 9 4 0 (zeros 48)) (.write 7))
    ∧ (let s : State := stOf (dFal [] false (fun f => { f with luns := wLuns [wProg 5120, wErase] none 31 }))
    let l := 0
    let o := wErase
    let errs : List MemErr := []
    let nand : List NandErr := []
    s.dev.boot.power = .on ∧ memErrsOk errs = true ∧ nandErrsOk nand = true ∧ (lun s.dev l).run = none ∧ nextOp s.dev (lun s.dev l) = some o ∧ o.job = .erase 5121 6)
    ∧ (let n := 7
    let b := 5120
    let page := 0
    let off := 5
    let len := 9
    let dst := 65536
    let o : LunOp := { cls := 7, ord := 2, job := .read n b page off len dst }
    let s : State := stOf (dFal [] false (fun f => { f with reads := [(7, { wRead 2 0 with forge := false })], luns := wLuns [wProg 5120, o] none 3 }))
    let l := 0
    let errs : List MemErr := []
    let nand : List NandErr := []
    let r := { wRead 2 0 with forge := false }
    let x := zeros 48
    s.dev.boot.power = .on ∧ memErrsOk errs = true ∧ nandErrsOk nand = true ∧ (lun s.dev l).run = none ∧ nextOp s.dev (lun s.dev l) = some o ∧ o.job = .read n b page off len dst ∧ tget s.dev.fal.reads n = some r ∧ (fblk s.dev b).bad = [] ∧ tget (fblk s.dev b).pages page = some (.image 9 3 0 x) ∧ off + len ≤ x.length)
    ∧ (let n := 7
    let b := 5120
    let page := 0
    let off := 5
    let len := 9
    let dst := (3 * 2 ^ 32)
    let o : LunOp := { cls := 7, ord := 2, job := .read n b page off len dst }
    let s : State := stOf (dFal [] false (fun f => { f with reads := [(7, { wRead 2 0 with forge := true })], luns := wLuns [wProg 5120, o] none 3 }))
    let l := 0
    let errs : List MemErr := [{ dev := 3, cw := 0, edc := 1, symbols := 1 }]
    let nand : List NandErr := [{ page := 0, cw := 0, tries := [some 60] }]
    let r := { wRead 2 0 with forge := true }
    s.dev.boot.power = .on ∧ memErrsOk errs = true ∧ nandErrsOk nand = true ∧ (lun s.dev l).run = none ∧ nextOp s.dev (lun s.dev l) = some o ∧ o.job = .read n b page off len dst ∧ tget s.dev.fal.reads n = some r)
    ∧ (let n := 7
    let b := 5120
    let page := 0
    let off := 5
    let len := 9
    let dst := 65536
    let o : LunOp := { cls := 7, ord := 2, job := .read n b page off len dst }
    let s : State := stOf (dFal [] false (fun f => { f with reads := [(7, { wRead 2 0 with forge := false })], luns := wLuns [wProg 5120, o] none 3 }))
    let l := 0
    let errs : List MemErr := []
    let nand : List NandErr := [{ page := 0, cw := 0, tries := [none] }]
    let r := { wRead 2 0 with forge := false }
    s.dev.boot.power = .on ∧ memErrsOk errs = true ∧ nandErrsOk nand = true ∧ (lun s.dev l).run = none ∧ nextOp s.dev (lun s.dev l) = some o ∧ o.job = .read n b page off len dst ∧ tget s.dev.fal.reads n = some r)
    ∧ (let k := 5120
    let page := 1
    let p : FPage := .image 9 4 0 (zeros 48)
    let own : FOwner := .write 7
    let s : State := stOf (dFal [] false (fun f => { f with luns := wLuns [wProg 5120, wErase] (some (wProg 5120)) 3, writes := [(7, { cmd := sqCmd 0 [], id := 9, ver := 4, left := 1 })], opens := [{ wOpen 4 8192 with stripes := [[5120, 5121]] }] }))
    let l := 0
    s.dev.boot.power = .on ∧ (lun s.dev l).run = some { cls := 5, ord := 3, job := .prog k page p own })
    ∧ (let k := 5121
    let n := 6
    let s : State := stOf (dFal [] false (fun f => { f with luns := wLuns [] (some wErase) 3, batches := [(6, { left := [5121], blks := [5121], noted := true })] }))
    let l := 1
    s.dev.boot.power = .on ∧ (lun s.dev l).run = some { cls := 8, ord := 3, job := .erase k n })
    ∧ (let k : Catalogue := { ids := [], table := none, pages := [(6144, 0)] }
    let c : FCommit := { no := 7, cmd := sqCmd 0 [], kind := .write, id := 9, ver := 4, len := 5, step := 4, left := 0, mans := [], cat := some k, seq := 6 }
    let o := wOpen 4 8192
    let rest : List FCommit := []
    let s : State := stOf (dFal [] false (fun f => { f with commits := [c], opens := [o] }))
    s.dev.boot.power = .on ∧ s.dev.fal.commits = c :: rest ∧ c.step = 4 ∧ c.left = 0 ∧ c.cat = some k ∧ k.table = none ∧ c.kind = .write ∧ openOf s.dev c.id = some o ∧ o.ver = c.ver ∧ s.dev.fal.retiredSince = false ∧ s.dev.fal.replIn = [])
    ∧ (let s : State := stOf (dFal [] false id)
    let b := 5120
    let page := 0
    let nand : List NandErr := [{ page := 0, cw := 0, tries := [some 97] }]
    let p : FPage := .image 9 3 0 (zeros 48)
    s.dev.boot.power = .on ∧ s.dev.fal.mode = .ready ∧ nandErrsOk nand = true ∧ tget (fblk s.dev b).pages page = some p)
    ∧ (let d := dFal [] false id
    let b := 5120
    let page := 0
    let k := 0
    let nand : List NandErr := [{ page := 0, cw := 1, tries := [some 97] }]
    (tget (fblk d b).bad (8 * page + k) = none ∧ persLevels d = 0) ∧ (∀ e ∈ nand, (e.page == page && e.cw == k) = false))
    ∧ (let d := dFal [] false id
    let b := 5120
    let page := 0
    let k := 0
    let e : NandErr := { page := 0, cw := 0, tries := [some 97, some 5] }
    let nand : List NandErr := [e]
    let n := 97
    tget (fblk d b).bad (8 * page + k) = none ∧ persLevels d = 0 ∧ nand.find? (fun e => e.page == page && e.cw == k) = some e ∧ e.tries = some n :: [some 5])
    ∧ (let d := dFal [] false id
    let b := 5120
    let page := 0
    let k := 0
    let e : NandErr := { page := 0, cw := 0, tries := [none, some 5] }
    let nand : List NandErr := [e]
    tget (fblk d b).bad (8 * page + k) = none ∧ persLevels d = 0 ∧ nand.find? (fun e => e.page == page && e.cw == k) = some e ∧ e.tries = none :: [some 5])
    ∧ (let s : State := stOf (dFal [] false (fun f => { f with reloc := [5120] }))
    let b := 5120
    let r := takeBlk (bCh b) false s.dev
    let n := r.1.getD 0
    let nand : List NandErr := [{ page := 0, cw := 0, tries := [none] }]
    s.dev.boot.power = .on ∧ nandErrsOk nand = true ∧ s.dev.fal.mode = .ready ∧ s.dev.fal.reloc.contains b = true ∧ s.dev.fal.opens = [] ∧ s.dev.fal.commits = [] ∧ allOps s.dev = [] ∧ r.1 = some n)
    ∧ (let s : State := stOf (dFal [] false (fun f => { f with retiredSince := true }))
    s.dev.boot.power = .on ∧ s.dev.fal.mode = .ready ∧ s.dev.fal.commits = [] ∧ s.dev.fal.retiredSince = true)
    ∧ (let s : State := stOf (dFal [] false (fun f => { f with blks := tput f.blks 7168 { st := .bad, erases := 3, pages := [(1, .note [])], bad := [], reads := 4 } }))
    let v : BitVec 32 := 0xA501
    s.dev.boot.power = .on ∧ s.dev.boot.recovery = false ∧ bits v.toNat 8 8 = 0xA5 ∧ v.toNat % 2 = 1 ∧ s.dev.fal.mode = .ready ∧ falBusy s.dev = false)
    ∧ (let s : State := stOf (dFal [] false (fun f => { f with mode := .blank, marks := [7169] }))
    let v : BitVec 32 := 0xA501
    s.dev.boot.power = .on ∧ s.dev.boot.recovery = false ∧ bits v.toNat 8 8 = 0xA5 ∧ v.toNat % 2 = 1 ∧ s.dev.fal.mode = .blank ∧ falBusy s.dev = false ∧ 7169 ∈ s.dev.fal.marks) := by
  refine ⟨?_, ?_, ?_, ?_, ?_, ?_, ?_, ?_, ?_, ?_, ?_, ?_, ?_, ?_, ?_, ?_⟩
  · dsimp only; decide +kernel
  · dsimp only; decide +kernel
  · dsimp only; decide +kernel
  · dsimp only; decide +kernel
  · dsimp only; decide +kernel
  · dsimp only; decide +kernel
  · dsimp only; decide +kernel
  · dsimp only; decide +kernel
  · dsimp only; decide +kernel
  · dsimp only; decide +kernel
  · dsimp only; decide +kernel
  · dsimp only; decide +kernel
  · dsimp only; decide +kernel
  · dsimp only; decide +kernel
  · dsimp only; decide +kernel
  · dsimp only; decide +kernel

def rxM (op : Nat) (body data : Bytes) (vc seq : Nat) : RxFrame :=
  { code := 0xFC, idx := 0, src := 9, dst := 40, tc := 2, vc := vc, dl := 100, k := 1, late := false,
    hdr := toBE 1 16 ++ toBE 1 op ++ toBE 2 1 ++ toBE 4 seq ++ toBE 4 0 ++ body, data := data, accepted := true }
def mFur (inn : Bool) : Furrow :=
  { gen := 3, state := .active, inX := 64, last := true, outHop := 0xFC, idx := 0, inSub := 0, first := 3, count := 4, stride := 1,
    src := if inn then 9 else 40, dst := if inn then 40 else 9, path := 5, queue := [], released := 0 }
def dMgmt (rx : List RxFrame) (inn : Bool) (g : Fallow → Fallow) : Dev :=
  let d := dHost []
  { d with
    sw := { d.sw with rx := rx }, fal := wFal g,
    tab := { d.tab with ept := d.tab.ept ++ [(40, hEpt 5 0)], furrows := [(7, mFur inn)] } }
def rData : Bytes := (List.range 48).map (BitVec.ofNat 8)
def replF : RxFrame := rxM 0 (toBE 4 77 ++ toBE 2 0 ++ toBE 4 0 ++ toBE 4 4 ++ toBE 4 (crc32c rData) ++ toBE 2 0) rData 5 5
def wRepl : Repl := { cmd := sqCmd 0 [], id := 77, ver := 4, reps := [(7, 9, none), (8, 10, none)], since := 0, src := 40 }

/-- Meets the hypotheses of `Replicas`. -/
theorem test_meets_Replicas :
    (let f := replF
    let s : State := stOf (dMgmt [f] true id)
    let r := replInOf s.dev f
    let x := fit f.data (4096 * ceilDiv f.data.length 4096)
    let res := imgPut ownCmd r.id r.ver (32768 * beAt f.hdr 18 4) x.length (fun o n d => (.ok (slice x o n), d)) s.dev
    (s.dev.boot.power = .on ∧ firstRx s.dev (fun f => f.code == 0xFC && rxOp f == 0 && f.accepted && beAt f.hdr 22 4 ≠ 0) = some f ∧ fromFurrow s.dev f = true ∧ r.status = 0 ∧ crc32c f.data = beAt f.hdr 26 4 ∧ s.dev.fal.mode = .ready ∧ imgIdOk r.id = true ∧ (beAt f.hdr 30 2).testBit 0 = false ∧ seqTest s.dev f.src f.dst (rxSeq f) = .accept) ∧ (match res with | .run _ => true | _ => false) = true)
    ∧ (let f := rxM 0xC (toBE 4 77 ++ toBE 2 0 ++ toBE 4 0 ++ toBE 4 4 ++ toBE 2 2 ++ toBE 4 0) [] 0 0
    let p := (6, wRepl)
    let s : State := stOf (dMgmt [f] true (fun x => { x with repls := [p] }))
    (s.dev.boot.power = .on ∧ firstRx s.dev (fun f => f.code == 0xFC && rxOp f == 0xC && fCode f == 0) = some f ∧ beAt f.hdr 22 4 ≠ 0) ∧ s.dev.fal.repls.find? (fun p => p.2.id == fCid f && p.2.ver == beAt f.hdr 22 4 && p.2.src == f.dst && p.2.reps.any (fun q => q.2.1 == f.src && q.2.2.isNone)) = some p)
    ∧ (let r := wRepl
    let n := 6
    let s : State := stOf { dMgmt [] true (fun x => { x with repls := [(n, r)] }) with clk := { clockZero with swc := 10000000 } }
    s.dev.boot.power = .on ∧ tget s.dev.fal.repls n = some r ∧ r.since + 1024 * fld s.dev 0x480000 16 8 ≤ s.dev.clk.swc.toNat) := by
  refine ⟨?_, ?_, ?_⟩
  · dsimp only; decide +kernel
  · dsimp only; decide +kernel
  · dsimp only; decide +kernel

def memEnt (mode eid : Nat) : Bytes := ent 0x60 mode [(8, 8, 1), (16, 3, eid)]
def tstEnt (k i : Nat) : Bytes := ent 0x70 0 [(8, 8, 1), (16, 1, k), (20, 4, i)]
def dHlt (e : Bytes) (g : Health → Health) : Dev := { withEntry e dUp with hlt := g { healthZero with eids := [5, 6] } }
def wTest (run : Bool) : SelfTest := { kind := 4, idx := 3, cause := 0, running := run, waiters := [sqCmd 0 (tstEnt 4 3)] }

/-- Meets the hypotheses of `HealthCommands`. -/
theorem test_meets_HealthCommands :
    (let e := memEnt 0 77
    let s : State := stOf (dHlt e id)
    let q := 0
    let a := s.dev.accepted q e
    s.dev.begins q e a ∧ (opOf e = 0x60 ∧ plainOk e [(16, 3)] = true ∧ modeOf e = 0 ∧ reservedEid (leAt e 16 3) = false ∧ a.hlt.eids.contains (leAt e 16 3) = false ∧ a.hlt.eids.length < 4096))
    ∧ (let e := memEnt 1 6
    let s : State := stOf (dHlt e id)
    let q := 0
    let a := s.dev.accepted q e
    s.dev.begins q e a ∧ (opOf e = 0x60 ∧ plainOk e [(16, 3)] = true ∧ modeOf e = 1 ∧ reservedEid (leAt e 16 3) = false))
    ∧ (let e := memEnt 2 6
    let s : State := stOf (dHlt e id)
    let q := 0
    let a := s.dev.accepted q e
    s.dev.begins q e a ∧ (opOf e = 0x60 ∧ plainOk e [(16, 3)] = true ∧ modeOf e = 2 ∧ reservedEid (leAt e 16 3) = false))
    ∧ (let e := memEnt 3 0
    let s : State := stOf (dHlt e id)
    let q := 0
    let a := s.dev.accepted q e
    s.dev.begins q e a ∧ (opOf e = 0x60 ∧ plainOk e [(16, 3)] = true ∧ modeOf e = 3 ∧ leAt e 16 3 = 0))
    ∧ (let e := tstEnt 4 3
    let s : State := stOf { dHlt e id with nv := { nonVolFactory with log := [(4, 3)] } }
    let q := 0
    let a := s.dev.accepted q e
    s.dev.begins q e a ∧ (opOf e = 0x70 ∧ modeOf e = 0 ∧ plainOk e [(16, 1), (20, 4)] = true ∧ partIdxOk (byteAt e 16) (leAt e 20 4) = true ∧ partRetired a (byteAt e 16) (leAt e 20 4) = true))
    ∧ (let e := tstEnt 4 3
    let s : State := stOf (dHlt e id)
    let q := 0
    let a := s.dev.accepted q e
    s.dev.begins q e a ∧ (opOf e = 0x70 ∧ modeOf e = 0 ∧ plainOk e [(16, 1), (20, 4)] = true ∧ partIdxOk (byteAt e 16) (leAt e 20 4) = true ∧ partRetired a (byteAt e 16) (leAt e 20 4) = false))
    ∧ (let kind := 4
    let idx := 3
    let t := wTest false
    let s : State := stOf (dHlt [] (fun h => { h with tests := [t] }))
    s.dev.boot.power = .on ∧ t ∈ s.dev.hlt.tests ∧ t.kind = kind ∧ t.idx = idx ∧ t.running = false ∧ kind < 10 ∧ testWindow s.dev kind idx = true)
    ∧ (let kind := 4
    let idx := 3
    let t := wTest true
    let s : State := stOf (modForge 3 (fun g => { g with freeze := some 0 }) (dHlt [] (fun h => { h with tests := [t, { t with idx := 5 }] })))
    (s.dev.boot.power = .on ∧ kind < 10) ∧ s.dev.hlt.tests.find? (fun t => t.kind == kind && t.idx == idx && t.running) = some t)
    ∧ (let s : State := stOf { dHlt [] (fun h => { h with hour := 4, scores := [(partKey 4 3, (77, 3)), (partKey 0 500, (9, 0))], tests := [wTest false] }) with clk := { clockZero with now := 5 * 3600 * 3300000000 } }
    let h := 4
    s.dev.boot.power = .on ∧ h = s.dev.hlt.hour ∧ h < s.dev.clk.now / (3600 * 3300000000))
    ∧ (let kind := 4
    let idx := 3
    let s : State := stOf (dHlt [] (fun h => { h with scores := [(partKey 4 3, (60000, 3))] }))
    s.dev.boot.power = .on ∧ kind < 10 ∧ fld s.dev 0x500008 16 16 ≤ scoreOf s.dev kind idx ∧ partRetired s.dev kind idx = false) := by
  refine ⟨?_, ?_, ?_, ?_, ?_, ?_, ?_, ?_, ?_, ?_⟩
  · dsimp only; exact ⟨begins_of (fun _ => cmdMemberFence) (by unfold Dev.entryReady; decide +kernel) rfl (by decide +kernel), by decide +kernel⟩
  · dsimp only; exact ⟨begins_of (fun _ => cmdMemberUnfence) (by unfold Dev.entryReady; decide +kernel) rfl (by decide +kernel), by decide +kernel⟩
  · dsimp only; exact ⟨begins_of (fun _ => cmdMemberForget) (by unfold Dev.entryReady; decide +kernel) rfl (by decide +kernel), by decide +kernel⟩
  · dsimp only; exact ⟨begins_of (fun _ => cmdMemberReady) (by unfold Dev.entryReady; decide +kernel) rfl (by decide +kernel), by decide +kernel⟩
  · dsimp only; exact ⟨begins_of cmdSelftest (by unfold Dev.entryReady; decide +kernel) rfl (by decide +kernel), by decide +kernel⟩
  · dsimp only; exact ⟨begins_of cmdSelftest (by unfold Dev.entryReady; decide +kernel) rfl (by decide +kernel), by decide +kernel⟩
  · dsimp only; decide +kernel
  · dsimp only; decide +kernel
  · dsimp only; decide +kernel
  · dsimp only; decide +kernel

def recEnt (kind arg : Nat) : Bytes := ent 0x71 0 [(8, 8, 1), (16, 4, 555), (20, 1, kind), (24, 8, arg)]
def wSeq (kind arg step : Nat) : RecSeq :=
  { id := 555, kind := kind, arg := arg, step := step, restarts := 0, cmd := sqCmd 0 (recEnt kind arg), since := 0, mode := none, slots := [4095], got := [],
    sole := false, silence := 16, srcEid := 9, furrow := (7, 3) }
def dRec (rx : List RxFrame) (inn : Bool) (e : Bytes) (w : Bool) (l : List RecSeq) (g : Fallow → Fallow) : Dev :=
  let d := withEntry e { dMgmt rx inn g with hlt := { healthZero with seqs := l } }
  if w then modSq 0 (fun y => { y with waiting := some e }) d else d
def copyRec : Bytes := toLE 3 9 ++ [0] ++ toLE 4 7 ++ toLE 2 3 ++ toLE 2 1 ++ toLE 2 16 ++ zeros 2 ++ toLE 8 131072 ++ zeros 40

/-- Meets the hypotheses of `RecoverySequences`. -/
theorem test_meets_RecoverySequences :
    (let e := recEnt 1 (12)
    let s : State := stOf (hostWrite 131072 (toLE 2 4095) (hostWrite 65536 copyRec (dRec [] false e false [] id)))
    let q := 0
    let a := s.dev.accepted q e
    let xx := newSeq (sqCmd q e) (leAt e 16 4) (byteAt e 20) (leAt e 24 8) a
    let x := xx.getD (wSeq 0 0 0)
    let z := modHlt (fun h => { h with seqs := h.seqs ++ [x] }) a
    (s.dev.boot.power = .on ∧ opOf e = 0x71 ∧ modeOf e = 0 ∧ plainOk e [(16, 5), (24, 8)] = true ∧ leAt e 16 4 < 0xFFFF0000 ∧ a.hlt.outcomes.find? (fun o => o.1 == leAt e 16 4) = none ∧ findSeq a (leAt e 16 4) = none ∧ xx = some x ∧ a.hlt.seqs.length < 16 ∧ seqHeld z x = false ∧ byteAt e 20 = 1) ∧ s.dev.begins q e a)
    ∧ (let e := recEnt 2 (3)
    let s : State := stOf (hostWrite 131072 (toLE 2 4095) (hostWrite 65536 copyRec (dRec [] false e false [] id)))
    let q := 0
    let a := s.dev.accepted q e
    let xx := newSeq (sqCmd q e) (leAt e 16 4) (byteAt e 20) (leAt e 24 8) a
    let x := xx.getD (wSeq 0 0 0)
    let z := modHlt (fun h => { h with seqs := h.seqs ++ [x] }) a
    (s.dev.boot.power = .on ∧ opOf e = 0x71 ∧ modeOf e = 0 ∧ plainOk e [(16, 5), (24, 8)] = true ∧ leAt e 16 4 < 0xFFFF0000 ∧ a.hlt.outcomes.find? (fun o => o.1 == leAt e 16 4) = none ∧ findSeq a (leAt e 16 4) = none ∧ xx = some x ∧ a.hlt.seqs.length < 16 ∧ seqHeld z x = false ∧ byteAt e 20 = 2) ∧ s.dev.begins q e a)
    ∧ (let e := recEnt 2 (3)
    let s : State := stOf (hostWrite 131072 (toLE 2 4095) (hostWrite 65536 copyRec (dRec [] false e true [] id)))
    let q := 0
    let a := s.dev.accepted q e
    let xx := newSeq (sqCmd q e) (leAt e 16 4) (byteAt e 20) (leAt e 24 8) a
    let x := xx.getD (wSeq 0 0 0)
    let z := modHlt (fun h => { h with seqs := h.seqs ++ [x] }) a
    (s.dev.boot.power = .on ∧ opOf e = 0x71 ∧ modeOf e = 0 ∧ plainOk e [(16, 5), (24, 8)] = true ∧ leAt e 16 4 < 0xFFFF0000 ∧ a.hlt.outcomes.find? (fun o => o.1 == leAt e 16 4) = none ∧ findSeq a (leAt e 16 4) = none ∧ xx = some x ∧ a.hlt.seqs.length < 16 ∧ seqHeld z x = false ∧ byteAt e 20 = 2) ∧ s.dev.retries q e a)
    ∧ (let e := recEnt 3 (5)
    let s : State := stOf (hostWrite 131072 (toLE 2 4095) (hostWrite 65536 copyRec (dRec [] false e false [] id)))
    let q := 0
    let a := s.dev.accepted q e
    let xx := newSeq (sqCmd q e) (leAt e 16 4) (byteAt e 20) (leAt e 24 8) a
    let x := xx.getD (wSeq 0 0 0)
    let z := modHlt (fun h => { h with seqs := h.seqs ++ [x] }) a
    (s.dev.boot.power = .on ∧ opOf e = 0x71 ∧ modeOf e = 0 ∧ plainOk e [(16, 5), (24, 8)] = true ∧ leAt e 16 4 < 0xFFFF0000 ∧ a.hlt.outcomes.find? (fun o => o.1 == leAt e 16 4) = none ∧ findSeq a (leAt e 16 4) = none ∧ xx = some x ∧ a.hlt.seqs.length < 16 ∧ seqHeld z x = false ∧ byteAt e 20 = 3) ∧ s.dev.begins q e a)
    ∧ (let e := recEnt 4 (5)
    let s : State := stOf (hostWrite 131072 (toLE 2 4095) (hostWrite 65536 copyRec (dRec [] false e false [] id)))
    let q := 0
    let a := s.dev.accepted q e
    let xx := newSeq (sqCmd q e) (leAt e 16 4) (byteAt e 20) (leAt e 24 8) a
    let x := xx.getD (wSeq 0 0 0)
    let z := modHlt (fun h => { h with seqs := h.seqs ++ [x] }) a
    (s.dev.boot.power = .on ∧ opOf e = 0x71 ∧ modeOf e = 0 ∧ plainOk e [(16, 5), (24, 8)] = true ∧ leAt e 16 4 < 0xFFFF0000 ∧ a.hlt.outcomes.find? (fun o => o.1 == leAt e 16 4) = none ∧ findSeq a (leAt e 16 4) = none ∧ xx = some x ∧ a.hlt.seqs.length < 16 ∧ seqHeld z x = false ∧ byteAt e 20 = 4) ∧ s.dev.begins q e a)
    ∧ (let e := recEnt 5 (9 + 3 * 2 ^ 32)
    let s : State := stOf (hostWrite 131072 (toLE 2 4095) (hostWrite 65536 copyRec (dRec [] false e false [] (fun x => { x with cat := { x.cat with ids := [(9, ({ wMan with ckpt := true, len := 20 }, 4096 * 6144))] } }))))
    let q := 0
    let a := s.dev.accepted q e
    let xx := newSeq (sqCmd q e) (leAt e 16 4) (byteAt e 20) (leAt e 24 8) a
    let x := xx.getD (wSeq 0 0 0)
    let z := modHlt (fun h => { h with seqs := h.seqs ++ [x] }) a
    (s.dev.boot.power = .on ∧ opOf e = 0x71 ∧ modeOf e = 0 ∧ plainOk e [(16, 5), (24, 8)] = true ∧ leAt e 16 4 < 0xFFFF0000 ∧ a.hlt.outcomes.find? (fun o => o.1 == leAt e 16 4) = none ∧ findSeq a (leAt e 16 4) = none ∧ xx = some x ∧ a.hlt.seqs.length < 16 ∧ seqHeld z x = false ∧ byteAt e 20 = 5) ∧ (match restoreRun x.id x.arg (seqAt x.id 1 z) with | .over_ st _ _ => decide (st ≠ 0xFF) | .fault _ _ => false) = true ∧ s.dev.begins q e a)
    ∧ (let e := recEnt 6 (65536)
    let s : State := stOf (hostWrite 131072 (toLE 2 4095) (hostWrite 65536 copyRec (dRec [] false e false [] id)))
    let q := 0
    let a := s.dev.accepted q e
    let xx := newSeq (sqCmd q e) (leAt e 16 4) (byteAt e 20) (leAt e 24 8) a
    let x := xx.getD (wSeq 0 0 0)
    let z := modHlt (fun h => { h with seqs := h.seqs ++ [x] }) a
    (s.dev.boot.power = .on ∧ opOf e = 0x71 ∧ modeOf e = 0 ∧ plainOk e [(16, 5), (24, 8)] = true ∧ leAt e 16 4 < 0xFFFF0000 ∧ a.hlt.outcomes.find? (fun o => o.1 == leAt e 16 4) = none ∧ findSeq a (leAt e 16 4) = none ∧ xx = some x ∧ a.hlt.seqs.length < 16 ∧ seqHeld z x = false ∧ byteAt e 20 = 6) ∧ (match copySeq x.id x z with | .over_ _ _ _ => true | .fault _ _ => false) = true ∧ s.dev.begins q e a)
    ∧ (let e := recEnt 7 (0)
    let s : State := stOf (hostWrite 131072 (toLE 2 4095) (hostWrite 65536 copyRec (dRec [] false e false [] id)))
    let q := 0
    let a := s.dev.accepted q e
    let xx := newSeq (sqCmd q e) (leAt e 16 4) (byteAt e 20) (leAt e 24 8) a
    let x := xx.getD (wSeq 0 0 0)
    let z := modHlt (fun h => { h with seqs := h.seqs ++ [x] }) a
    (s.dev.boot.power = .on ∧ opOf e = 0x71 ∧ modeOf e = 0 ∧ plainOk e [(16, 5), (24, 8)] = true ∧ leAt e 16 4 < 0xFFFF0000 ∧ a.hlt.outcomes.find? (fun o => o.1 == leAt e 16 4) = none ∧ findSeq a (leAt e 16 4) = none ∧ xx = some x ∧ a.hlt.seqs.length < 16 ∧ seqHeld z x = false ∧ byteAt e 20 = 7) ∧ s.dev.begins q e a)
    ∧ (let x := wSeq 1 1 4
    let id := 555
    let s : State := stOf (dRec [] false [] false [x] (fun y => y))
    (s.dev.boot.power = .on ∧ findSeq s.dev id = some x ∧ x.step ≠ 0 ∧ x.kind = 1) ∧ (∀ lp ∈ subsOf s.dev x.arg, (sub s.dev lp).state = .service))
    ∧ (let f := rxM 0xC (toBE 4 7 ++ toBE 2 3 ++ toBE 4 0x10000000 ++ toBE 4 555 ++ zeros 6) (slotList [4095]) 0 0
    let s : State := stOf { dRec [f] false [] false [] id with adp := { slots := [(4095, wSlot none)], mbs := [] } }
    let w := mFur false
    (s.dev.boot.power = .on ∧ firstRx s.dev (fun f => f.code == 0xFC && rxOp f == 0xC && fCode f == 0x10) = some f ∧ furrowFrom s.dev (fCid f) f.dst = some w ∧ w.gen = fGen f ∧ w.dst = f.src ∧ mgmtEid s.dev = some f.dst ∧ slotsIn f.data ≠ []) ∧ (∀ k ∈ slotsIn f.data, (tget s.dev.adp.slots k).isSome = true))
    ∧ (let f := rxM 0 (toBE 4 555 ++ toBE 2 0 ++ toBE 4 0 ++ toBE 4 0 ++ toBE 4 (crc32c rData) ++ toBE 2 0) rData 5 5
    let x := wSeq 6 65536 3
    let s : State := stOf (dRec [f] true [] false [x] id)
    let b := x.got ++ f.data.take (f.data.length - beAt f.hdr 16 2)
    let r := copyWrite b x.got.length (modSeq x.id (fun y => { y with got := b }) (modSeq x.id (fun y => { y with since := s.dev.clk.swc.toNat }) (seqAccept f.src f.dst (rxSeq f) (takeRx f s.dev))))
    (s.dev.boot.power = .on ∧ firstRx s.dev (fun f => f.code == 0xFC && rxOp f == 0 && f.accepted && beAt f.hdr 22 4 == 0) = some f) ∧ s.dev.hlt.seqs.find? (fun x => x.kind == 6 && x.id == fCid f && x.step == 3 && x.srcEid == f.src) = some x ∧ (fromFurrow s.dev f = true ∧ seqTest s.dev f.src f.dst (rxSeq f) = .accept ∧ crc32c f.data = beAt f.hdr 26 4 ∧ 32768 * beAt f.hdr 18 4 = x.got.length ∧ r.1 = 0))
    ∧ (let x := wSeq 6 65536 3
    let id := 555
    let s : State := stOf { dRec [] true [] false [x] (fun y => y) with clk := { clockZero with swc := 17 } }
    s.dev.boot.power = .on ∧ findSeq s.dev id = some x ∧ x.kind = 6 ∧ x.step = 3 ∧ x.sole = false ∧ x.silence < swathsSince s.dev x.since)
    ∧ (let f := rxM 0xA (zeros 14 ++ toBE 2 7 ++ zeros 4) [] 0 0
    let x := wSeq 6 65536 3
    let s : State := stOf (dRec [f] true [] false [x, { wSeq 6 65536 2 with id := 4 }] id)
    (s.dev.boot.power = .on ∧ firstRx s.dev (fun f => f.code == 0xFC && rxOp f == 0xA) = some f) ∧ (beAt f.hdr 26 2 % 256 = 4 ∨ beAt f.hdr 26 2 % 256 = 7) ∧ s.dev.hlt.seqs.filter (fun x => x.kind == 6 && x.step == 3 && (x.srcEid == f.src || (x.furrow.1 == fCid f && x.id == beAt f.hdr 22 4))) = [x] ∧ x.sole = false) := by
  refine ⟨?_, ?_, ?_, ?_, ?_, ?_, ?_, ?_, ?_, ?_, ?_, ?_, ?_⟩
  · dsimp only; exact ⟨by decide +kernel, begins_of cmdRecover (by unfold Dev.entryReady; decide +kernel) rfl (by decide +kernel)⟩
  · dsimp only; exact ⟨by decide +kernel, begins_of cmdRecover (by unfold Dev.entryReady; decide +kernel) rfl (by decide +kernel)⟩
  · dsimp only; exact ⟨by decide +kernel, retries_of cmdRecover (by decide +kernel) rfl (by decide +kernel)⟩
  · dsimp only; exact ⟨by decide +kernel, begins_of cmdRecover (by unfold Dev.entryReady; decide +kernel) rfl (by decide +kernel)⟩
  · dsimp only; exact ⟨by decide +kernel, begins_of cmdRecover (by unfold Dev.entryReady; decide +kernel) rfl (by decide +kernel)⟩
  · dsimp only; exact ⟨by decide +kernel, by decide +kernel, begins_of cmdRecover (by unfold Dev.entryReady; decide +kernel) rfl (by decide +kernel)⟩
  · dsimp only; exact ⟨by decide +kernel, by decide +kernel, begins_of cmdRecover (by unfold Dev.entryReady; decide +kernel) rfl (by decide +kernel)⟩
  · dsimp only; exact ⟨by decide +kernel, begins_of cmdRecover (by unfold Dev.entryReady; decide +kernel) rfl (by decide +kernel)⟩
  · dsimp only; decide +kernel
  · dsimp only; decide +kernel
  · dsimp only; decide +kernel
  · dsimp only; decide +kernel
  · dsimp only; decide +kernel

def ret0 : Bytes := [0xF8] ++ zeros 15 ++ [0, 0] ++ toBE 2 100
def reqF (code off arg : Nat) (rest : Bytes) : RxFrame := rxM 0xC (toBE 4 off ++ toBE 2 33 ++ toBE 4 (code * 2 ^ 24 + arg) ++ zeros 10) (ret0 ++ rest) 0 0
def dTel (rx : List RxFrame) (g : Telem → Telem) : Dev :=
  let d := { dUp with tab := { tablesZero with ept := [(40, hEpt 5 0)] } }
  { d with sw := { d.sw with rx := rx }, tel := g telemZero }

/-- Meets the hypotheses of `Telemetry`. -/
theorem test_meets_Telemetry :
    (let w := (11, 3, some (2, 1, 7))
    let b := 11
    let n := 3
    let s : State := stOf (dTel [] (fun t => { t with wraps := [(12, 3, none), w] }))
    (s.dev.boot.power = .on ∧ 1 ≤ b ∧ b ≤ 20 ∧ n < 8 ∧ flag s.dev (oPmon b + 0x80 + 8 * n) 13 = false) ∧ s.dev.tel.wraps.find? (fun w => w.1 == b && w.2.1 == n) = some w)
    ∧ (let s : State := stOf { dLink with clk := { clockZero with swc := 1024 }, subs := dLink.subs.map (fun p => (p.1, { p.2 with bytes := (2 ^ 40 + 7, 9) })) }
    s.dev.boot.power = .on ∧ windowDue s.dev = true)
    ∧ (let b : Buf := { hdr := zeros 32, pay := zeros 480, owner := none, spill := false, cell := none, swc := 0, refs := 2, resv := none }
    let x : Sample := { buf := 4, swc := 9, lp := 4, tx := true, slot := 2, seq := 6 }
    let rest : List Sample := [{ x with seq := 7 }]
    let s : State := stOf { putReg (0x580000 + 16) (2 ^ 16) (dTel [] id) with sw := { switchZero with samples := x :: rest }, bpm := { bpmZero with bufs := [(4, b)] } }
    s.dev.boot.power = .on ∧ s.dev.sw.samples = x :: rest ∧ buf s.dev x.buf = some b)
    ∧ (let f := reqF 0x20 8 1 []
    let s : State := stOf (dTel [f] id)
    s.dev.boot.power = .on ∧ firstMgmt s.dev 0x20 = some f ∧ pathOk f = true)
    ∧ (let f := reqF 0x21 0x540000 0 (toLE 4 77)
    let s : State := stOf (dTel [f] id)
    (s.dev.boot.power = .on ∧ firstMgmt s.dev 0x21 = some f ∧ pathOk f = true) ∧ (hosted s.dev = false ∨ (0x540000 ≤ beAt f.hdr 12 4 ∧ beAt f.hdr 12 4 < 0x5C0000)))
    ∧ (let f := reqF 0x21 0x53FFFC 0 (toLE 4 77)
    let s : State := stOf { withEntry [] (dTel [f] id) with tab := { tablesZero with ept := [(40, hEpt 5 0)] } }
    (s.dev.boot.power = .on ∧ firstMgmt s.dev 0x21 = some f ∧ pathOk f = true ∧ hosted s.dev = true) ∧ (beAt f.hdr 12 4 < 0x540000 ∨ 0x5C0000 ≤ beAt f.hdr 12 4))
    ∧ (let f := reqF 0x22 0 0 (memEnt 1 6 ++ zeros 16)
    let s : State := stOf (dTel [f] id)
    let l := tgetD s.dev.tel.queues f.src []
    s.dev.boot.power = .on ∧ firstMgmt s.dev 0x22 = some f ∧ pathOk f = true ∧ l.length < 16)
    ∧ (let f := reqF 0x23 0 2 []
    let s : State := stOf (dTel [f] (fun t => { t with ring := [zeros 144, [1], [2], [3]], read := 1 }))
    s.dev.boot.power = .on ∧ firstMgmt s.dev 0x23 = some f ∧ pathOk f = true ∧ beAt f.hdr 18 4 % 64 ≠ 0)
    ∧ (let s : State := stOf (modForge 3 (fun g => { g with flm := memWriteN g.flm 0x1000 [1, 2, 3, 4, 5, 6, 7, 8] }) (modBoot (fun b => { b with scope := 2 }) (putReg 0x5C0000 (1 + 8 * 3 + 256 * 0x1000) dUp)))
    let a := fld s.dev 0x5C0000 8 32
    s.dev.boot.power = .on ∧ s.dev.boot.recovery = false ∧ s.dev.boot.scope.toNat.testBit 1 = true ∧ fld s.dev 0x5C0000 0 3 = 1 ∧ a + 8 ≤ flmSize) := by
  refine ⟨?_, ?_, ?_, ?_, ?_, ?_, ?_, ?_, ?_⟩
  · dsimp only; decide +kernel
  · dsimp only; decide +kernel
  · dsimp only; decide +kernel
  · dsimp only; decide +kernel
  · dsimp only; decide +kernel
  · dsimp only; decide +kernel
  · dsimp only; decide +kernel
  · dsimp only; decide +kernel
  · dsimp only; decide +kernel
/-- Stream 4 of Forge 2 with TLD or MMA, whatever its opcode, and a descriptor in T5. -/
def dEng (n i : Nat) (desc : Bytes) : State :=
  stOf (dIns 4 (n * 2 ^ 56 + i) (fun y => { y with t := [(5, desc)] }) id)
/-- Its instruction. -/
def xEng (n i : Nat) (desc : Bytes) : Fetch :=
  { f := 2, st := 4, e := 9, w := n * 2 ^ 56 + i, s := strm (dEng n i desc).dev 2 4, j := 0 }
theorem eng_tld : ∀ n : Nat, n < 256 →
    let i := ins 0 7 1 0 0 0
    let s := dEng n i []
    let x := xEng n i []
    (2 < 16 ∧ 4 < 6 ∧ fetchNow 2 4 (tick 9 s.dev) = some x ∧ iOp x.w = n ∧ x.w &&& (2 ^ 56 - 1 - (mDst ||| mSrc1)) = 0
      ∧ (flag (tick 9 s.dev) (oForge 2 + 0x20) 0 = false ∨ ∀ r ∈ [(1, iSrc1 x.w)], pendingOn (tick 9 s.dev) x r = false))
    ∧ iDst x.w < 8 ∧ iSrc1 x.w < 16 ∧ rA x (iSrc1 x.w) % 16 = 0 ∧ rA x (iSrc1 x.w) + 16 ≤ flmSize := by decide +kernel
/-- Meets the hypotheses of the first clause of `EngineInstructions`, whatever the opcode of TLD. -/
theorem test_meets_EngineInstructions_tld :
    let i := ins 0 7 1 0 0 0
    let s := dEng Config.opTld.toNat i []
    let x := xEng Config.opTld.toNat i []
    s.dev.boot.power = .on ∧ s.dev.issues 2 4 9 Config.opTld.toNat (mDst ||| mSrc1) [(1, iSrc1 x.w)] x
      ∧ iDst x.w < 8 ∧ iSrc1 x.w < 16 ∧ rA x (iSrc1 x.w) % 16 = 0 ∧ rA x (iSrc1 x.w) + 16 ≤ flmSize :=
  ⟨rfl, eng_tld _ Config.opTld.isLt⟩
/-- A descriptor of flow 2 that loads its stationary tile from slot 5 and streams slot 7. -/
def wDesc : Bytes := zeros 10 ++ [5, 7, 0x63, 1, 0, 0]
theorem eng_mma : ∀ n : Nat, n < 256 →
    let i := ins 0 0 5 1 4 0
    let s := dEng n i wDesc
    let x := xEng n i wDesc
    (2 < 16 ∧ 4 < 6 ∧ fetchNow 2 4 (tick 9 s.dev) = some x ∧ iOp x.w = n
      ∧ x.w &&& (2 ^ 56 - 1 - (mSrc1 ||| mSrc2 ||| mBits 32 4 ||| mBits 37 1)) = 0
      ∧ (flag (tick 9 s.dev) (oForge 2 + 0x20) 0 = false ∨ ∀ r ∈ mmaReads x, pendingOn (tick 9 s.dev) x r = false))
    ∧ iSrc1 x.w < 8 ∧ iSrc2 x.w < 16 ∧ mmaBad x = none ∧ (tileDesc (rT x (iSrc1 x.w))).flow = 2 := by decide +kernel
/-- Meets the hypotheses of the second clause of `EngineInstructions`, whatever the opcode of MMA. -/
theorem test_meets_EngineInstructions_mma :
    let i := ins 0 0 5 1 4 0
    let s := dEng Config.opMma.toNat i wDesc
    let x := xEng Config.opMma.toNat i wDesc
    s.dev.boot.power = .on
      ∧ s.dev.issues 2 4 9 Config.opMma.toNat (mSrc1 ||| mSrc2 ||| mBits 32 4 ||| mBits 37 1) (mmaReads x) x
      ∧ iSrc1 x.w < 8 ∧ iSrc2 x.w < 16 ∧ mmaBad x = none ∧ (tileDesc (rT x (iSrc1 x.w))).flow = 2 :=
  ⟨rfl, eng_mma _ Config.opMma.isLt⟩
theorem eng_undefined : ∀ n : Nat, n < 3 →
    fetchNow 2 4 (tick 9 (dEng (0x60 + n) 0 []).dev) = some (xEng (0x60 + n) 0 []) ∧ iOp (xEng (0x60 + n) 0 []).w = 0x60 + n := by
  decide +kernel
/-- Meets the hypotheses of the clause of `IssueAndLand` about an opcode without a meaning: one of 96 to 98 has none, whatever the
opcodes of TLD and MMA. -/
theorem test_meets_IssueAndLand_undefined :
    ∃ n, n < 3 ∧ (dEng (0x60 + n) 0 []).dev.boot.power = .on
      ∧ fetchNow 2 4 (tick 9 (dEng (0x60 + n) 0 []).dev) = some (xEng (0x60 + n) 0 [])
      ∧ opDefined (iOp (xEng (0x60 + n) 0 []).w) = false := by
  have h : ∃ n, n < 3 ∧ 0x60 + n ≠ Config.opTld.toNat ∧ 0x60 + n ≠ Config.opMma.toNat := by
    generalize Config.opTld.toNat = a
    generalize Config.opMma.toNat = b
    by_cases h0 : 0x60 ≠ a ∧ 0x60 ≠ b
    · exact ⟨0, by omega, by omega, by omega⟩
    · by_cases h1 : 0x61 ≠ a ∧ 0x61 ≠ b
      · exact ⟨1, by omega, by omega, by omega⟩
      · exact ⟨2, by omega, by omega, by omega⟩
  obtain ⟨n, hn, h1, h2⟩ := h
  have e := (eng_undefined n hn).2
  refine ⟨n, hn, rfl, (eng_undefined n hn).1, ?_⟩
  rw [e]
  have := hn
  simp only [opDefined, within, Bool.or_eq_false_iff, beq_eq_false_iff_ne, ne_eq, h1, h2, not_false_eq_true, and_true, Bool.and_eq_false_iff, decide_eq_false_iff_not]
  omega

/-! Clauses on a calibration record or a firmware image. Those that name a value `Config` leaves open (a digest, a signature's
verdict, an ID) are met under a premise that fixes it. -/

/-- A calibration record of serial number 5, its CRC right. -/
def calHead : Bytes := toLE 4 1 ++ toLE 4 14528 ++ toLE 8 5
def calBody : Bytes := calHead ++ (zeros 14508 ++ [])
def calEx : Bytes := calBody ++ toLE 4 (crc32c calBody)
theorem calBody_length : calBody.length = 14524 := by
  simp only [calBody, calHead, List.length_append, toLE_length, zeros_length, List.length_nil]
theorem calEx_length : calEx.length = 14528 := by
  simp only [calEx, List.length_append, calBody_length, toLE_length]
theorem calEx_left (off n : Nat) (h : off + n ≤ 16) : slice calEx off n = slice calHead off n := by
  rw [calEx, slice_left _ _ _ _ (by rw [calBody_length]; omega), calBody, slice_left _ _ _ _ h]
theorem calEx_zeros (off n : Nat) (h : 16 ≤ off) (h2 : off + n ≤ 14524) : slice calEx off n = zeros n := by
  rw [calEx, slice_left _ _ _ _ (by rw [calBody_length]; omega), calBody, slice_zeros _ _ _ _ _ h (by simpa [calHead, toLE_length] using h2)]
theorem calEx_zero : calZero calEx = true := by
  have hb : ∀ i, 16 ≤ i → i < 14524 → byteAt calEx i = 0 := fun i h1 h2 => by
    have := calEx_zeros i 1 h1 (by omega)
    rw [slice_eq_map] at this
    simp [zeros] at this
    simp [byteAt, this]
  simp only [calZero, Bool.and_eq_true, List.all_eq_true, beq_iff_eq]
  refine ⟨⟨⟨?_, fun l hl => ?_⟩, ?_⟩, ?_⟩
  · rw [calEx_zeros _ _ (by decide) (by decide), allZero_zeros]
  · have := List.mem_range.mp hl
    exact ⟨hb _ (by omega) (by omega), by rw [leAt, calEx_zeros _ _ (by omega) (by omega), leNat_zeros]⟩
  · rw [calEx_zeros _ _ (by decide) (by decide), allZero_zeros]
  · rw [calEx_zeros _ _ (by decide) (by decide), allZero_zeros]
theorem calEx_cause (d : Dev) (h : d.nv.fuse.serial = 5) : calCause d calEx = 0 := by
  have h1 : slice calEx 0 14524 = calBody := calBody_length ▸ slice_append_left calBody _
  have h2 : slice calEx 14524 4 = toLE 4 (crc32c calBody) := by
    have := slice_append_right calBody (toLE 4 (crc32c calBody))
    rwa [calBody_length, toLE_length] at this
  have h3 : leAt calEx 14524 4 = crc32c calBody := by rw [leAt, h2, leNat_toLE]; exact Nat.mod_eq_of_lt (crc32c_lt _)
  have f : ∀ off n, off + n ≤ 16 → leAt calEx off n = leAt calHead off n := fun off n hn => congrArg leNat (calEx_left off n hn)
  rw [calCause, if_neg (by rw [f _ _ (by decide)]; decide), if_neg (by rw [f _ _ (by decide)]; decide),
    if_neg (by rw [f _ _ (by decide), h]; decide), if_neg (by rw [h1, h3]; exact fun h => h rfl)]
/-- `d` with serial number 5. -/
def ser5 (d : Dev) : Dev := { d with nv := { d.nv with fuse := { d.nv.fuse with serial := 5 } } }
/-- Meets the hypotheses of the clause of `StartupSteps` about a good calibration record. -/
theorem test_meets_StartupSteps_cal :
    let s : State := stOf (ser5 { dStage 2 dUp with nv := { dUp.nv with cal := calEx } })
    s.dev.boot.power = .on ∧ s.dev.quiet ∧ s.dev.boot.stage = 2 ∧ calCause s.dev (slice s.dev.nv.cal 0 14528) = 0 := by
  refine ⟨rfl, by simp only [Dev.quiet]; decide +kernel, rfl, ?_⟩
  have h : slice calEx 0 14528 = calEx := calEx_length ▸ slice_all calEx
  exact (congrArg (calCause _) h).trans (calEx_cause _ rfl)

/-- CAL_WRITE entry of a mode, with its record of `n` bytes at host address 65536. -/
def calEnt (mode n : Nat) : Bytes := ent 0x72 mode [(16, 8, 65536), (24, 4, n)]
/-- `d` with such an entry at the head of SQ 0, and `img` in host memory. -/
def calDev (e img : Bytes) (d : Dev) : Dev := hostWrite 65536 img (withEntry e (ser5 d))
theorem entryReady_hostWrite {d : Dev} {q : Nat} {e : Bytes} (k : Nat) (b : Bytes) (h : d.entryReady q e)
    (hk : entryAddr d q (sq d q).head + 64 ≤ k) : (hostWrite k b d).entryReady q e := by
  obtain ⟨h1, h2, h3, h4, h5, h6, h7⟩ := h
  exact ⟨h1, h2, h3, h4, h5, (memReadN_memWriteN_out _ _ _ _ _ (.inl hk)).trans h6, h7⟩
theorem withRecord_goes (c : Cmd) (e : Bytes) (f : Nat → Bool) (d : Dev) (go : Bytes → Dev → Res) (h : d.boot.calBusy = none)
    (hg : ∀ b d', goesOn (go b d') = true) : goesOn (withRecord c e f d go) = true := by
  unfold withRecord
  split
  · rfl
  · simp only [h, Option.isSome_none, Bool.false_eq_true, if_false]
    split
    · rfl
    · exact hg _ _
theorem authRun_goes (k l : Nat) (b : Bytes) (d : Dev) (go : Dev → Res) (hg : ∀ d', goesOn (go d') = true) :
    goesOn (authRun k l b d go) = true := by
  unfold authRun
  dsimp only
  split
  · rfl
  · split
    · rfl
    · exact hg _
theorem cal_goes (m : Nat) (hm : m < 4) (c : Cmd) (e : Bytes) (d : Dev) (h : d.boot.calBusy = none) :
    ∃ f, cmdOf 0x72 m = some f ∧ goesOn (f c e d) = true := by
  have re : ∀ r : Res, goesOn r = true → goesOn (match r with
      | .done s t r d' => if d'.boot.draws = d.boot.draws then .done s t r (newNonce d') else .done s t r d'
      | x => x) = true := fun r hr => by
    split
    · split <;> rfl
    · exact hr
  match m, hm with
  | 0, _ =>
    refine ⟨_, rfl, withRecord_goes c e _ d _ h fun b d' => ?_⟩
    dsimp only
    split <;> rfl
  | 1, _ =>
    refine ⟨_, rfl, withRecord_goes c e _ d _ h fun b d' => ?_⟩
    dsimp only
    repeat' split
    all_goals rfl
  | 2, _ =>
    refine ⟨_, rfl, re _ (withRecord_goes c e _ d _ h fun b d' => authRun_goes _ _ _ _ _ fun d'' => ?_)⟩
    dsimp only
    split <;> rfl
  | 3, _ =>
    refine ⟨_, rfl, re _ (withRecord_goes c e _ d _ h fun b d' => ?_)⟩
    dsimp only
    split
    · rfl
    · exact authRun_goes _ _ _ _ _ fun d'' => rfl
theorem calDev_begins (m n : Nat) (hm : m < 4) (img : Bytes) (d : Dev) (hr : (withEntry (calEnt m n) (ser5 d)).entryReady 0 (calEnt m n))
    (ha : entryAddr (withEntry (calEnt m n) (ser5 d)) 0 (sq (withEntry (calEnt m n) (ser5 d)) 0).head = 4096)
    (ho : opOf (calEnt m n) = 0x72 ∧ modeOf (calEnt m n) = m) (hb : d.boot.calBusy = none) :
    (calDev (calEnt m n) img d).begins 0 (calEnt m n) ((calDev (calEnt m n) img d).accepted 0 (calEnt m n)) := by
  obtain ⟨f, hf, hg⟩ := cal_goes m hm (sqCmd 0 (calEnt m n)) (calEnt m n) (calDev (calEnt m n) img d) hb
  exact begins_of f (entryReady_hostWrite _ _ hr (by omega)) (by rw [ho.1, ho.2]; exact hf) hg
theorem calDev_read (e img : Bytes) (d : Dev) (h : hostRead ((calDev e img d).accepted 0 e) 65536 img.length = hostRead (calDev e img d) 65536 img.length) :
    img = hostRead ((calDev e img d).accepted 0 e) 65536 img.length := by
  rw [h, hostRead]
  exact (memReadN_memWriteN _ _ _).symm
theorem rg_modRing (f : Rings → Rings) (d : Dev) (o : Nat) : rg (modRing f d) o = rg d o := by simp only [rg, modRing]
theorem fld_modRing (f : Rings → Rings) (d : Dev) (o lo w : Nat) : fld (modRing f d) o lo w = fld d o lo w := by
  simp only [fld, rg_modRing]
/-- Acceptance writes the head at byte 0 of its line, here the line at 0, and nothing else of host memory. -/
theorem accepted_read (q : Nat) (e : Bytes) (d : Dev) (a n : Nat) (hc : rg d (oPmon 17 + 8) = 0) (ha : fld d (0x20008 + 0x20 * q) 6 58 = 0)
    (h : 4 ≤ a) : hostRead (d.accepted q e) a n = hostRead d a n := by
  simp only [Dev.accepted, accept, sqCmd]
  have hx : ∀ (f g : Rings → Rings) a, count 17 1 1 a (modRing f (modRing g d)) = modRing f (modRing g d) := fun f g a =>
    count_off _ _ _ _ _ (by rw [rg_modRing, rg_modRing, hc])
  simp only [modCq, modSq, hx, fld_modRing, ha, Nat.zero_mul, hostWrite, hostRead]
  exact memReadN_memWriteN_out _ _ _ _ _ (.inr (by rw [toLE_length]; omega))
theorem calDev_read0 (m n : Nat) (img : Bytes) (d : Dev) (hc : rg (withEntry (calEnt m n) (ser5 d)) (oPmon 17 + 8) = 0)
    (ha : fld (withEntry (calEnt m n) (ser5 d)) 0x20008 6 58 = 0) :
    img = hostRead ((calDev (calEnt m n) img d).accepted 0 (calEnt m n)) 65536 img.length := by
  refine calDev_read _ img d ?_
  refine accepted_read 0 _ _ _ _ ?_ ?_ (by decide)
  · rw [calDev, hostWrite, rg_modRing, hc]
  · rw [calDev, hostWrite, fld_modRing]; exact ha
/-- Meets the hypotheses of the clause of `SecurityCommands` about mode 0. -/
theorem test_meets_SecurityCommands_calibration :
    let e := calEnt 0 14528
    let s : State := stOf (calDev e calEx dUp)
    let a := s.dev.accepted 0 e
    s.live ∧ s.dev.begins 0 e a ∧ opOf e = 0x72 ∧ plainOk e [(16, 12)] = true ∧ leAt e 16 8 % 64 = 0 ∧ a.boot.calBusy = none
      ∧ calEx = hostRead a (leAt e 16 8) 14528 ∧ modeOf e = 0 ∧ leAt e 24 4 = 14528 ∧ calCause a calEx = 0 ∧ calZero calEx = true := by
  have h16 : leAt (calEnt 0 14528) 16 8 = 65536 := by decide
  refine ⟨⟨rfl, ?_⟩, calDev_begins 0 14528 (by decide) calEx dUp ?_ ?_ ?_ rfl, ?_, ?_, ?_, rfl, ?_, ?_, ?_, calEx_cause _ rfl, calEx_zero⟩
  · simp only [Dev.quiet]; exact ⟨rfl, by decide, by decide, by decide⟩
  · simp only [Dev.entryReady]; decide +kernel
  · decide +kernel
  · decide
  · decide
  · decide
  · rw [h16]
  · have h := calDev_read0 0 14528 calEx dUp (by decide +kernel) (by decide +kernel)
    rw [calEx_length] at h
    rw [h16]
    exact h
  · decide
  · decide

/-- Keys of zeros that verify whatever they are given, and a payload of zeros with a digest of zeros: values `Config` leaves open. -/
def KeysVerify : Prop :=
  (∀ m g, Config.rsaVerify (zeros 512) m g = true) ∧ (∀ m g, Config.slhVerify (zeros 64) m g = true) ∧ Config.sha384 (zeros 4096) = zeros 48
/-- Fuses that name those keys. -/
def keyed (d : Dev) : Dev :=
  { d with nv := { d.nv with fuse := { d.nv.fuse with serial := 5, keyHash := [Config.sha384 (zeros 512), [], Config.sha384 (zeros 64)] } }
           boot := { d.boot with nonce := 7 } }
theorem headed_left (h : Bytes) (n k off w : Nat) (hh : h.length = k) (hl : off + w ≤ k) :
    leAt (h ++ (zeros n ++ [])) off w = leAt h off w := congrArg leNat (slice_left _ _ _ _ (by omega))
theorem headed_byte (h : Bytes) (n k i : Nat) (hh : h.length = k) (hl : i < k) : byteAt (h ++ (zeros n ++ [])) i = byteAt h i := by
  simp only [byteAt, List.getD_append _ _ _ _ (show i < h.length by omega)]
theorem headed_zero (h : Bytes) (n k off w : Nat) (hh : h.length = k) (h1 : k ≤ off) (h2 : off + w ≤ k + n) :
    slice (h ++ (zeros n ++ [])) off w = zeros w := slice_zeros _ _ _ _ _ (by omega) (by omega)
theorem keySteps_zero (d : Dev) (b : Bytes) (hv : KeysVerify) (h1 : slice b 256 512 = zeros 512) (h2 : slice b 768 64 = zeros 64)
    (hr : d.nv.fuse.revoked = 0) (hk : d.nv.fuse.keyHash = [Config.sha384 (zeros 512), [], Config.sha384 (zeros 64)]) :
    keySteps d b 0 0 = 0 := by
  simp only [keySteps, h1, h2, hr, hk, hv.1, hv.2.1, List.getD_cons_zero, List.getD_cons_succ]
  simp
/-- The first 20 bytes of a firmware image of generation `g`, whose keys and signatures are zeros. -/
def fwHead (g : Nat) : Bytes := toLE 4 0x43464B57 ++ toLE 2 1 ++ toLE 2 1 ++ toLE 4 g ++ toLE 1 3 ++ toLE 3 0 ++ toLE 4 4096
def fwImg (g : Nat) : Bytes := fwHead g ++ (zeros 24556 ++ [])
theorem fwHead_length (g : Nat) : (fwHead g).length = 20 := by simp only [fwHead, List.length_append, toLE_length]
theorem fwImg_length (g : Nat) : (fwImg g).length = 24576 := by
  simp only [fwImg, List.length_append, fwHead_length, zeros_length, List.length_nil]
theorem fwImg_le (g off w : Nat) (h : off + w ≤ 20) : leAt (fwImg g) off w = leAt (fwHead g) off w := headed_left _ _ _ _ _ (fwHead_length g) h
theorem fwImg_byte (g i : Nat) (h : i < 20) : byteAt (fwImg g) i = byteAt (fwHead g) i := headed_byte _ _ _ _ (fwHead_length g) h
theorem fwImg_zero (g off w : Nat) (h : 20 ≤ off) (h2 : off + w ≤ 24576) : slice (fwImg g) off w = zeros w :=
  headed_zero _ _ _ _ _ (fwHead_length g) h (by omega)
theorem fwHead_ok (g : Nat) (hg : g = 1 ∨ g = 2) : leAt (fwHead g) 0 4 = 0x43464B57 ∧ leAt (fwHead g) 4 2 = 1 ∧ leAt (fwHead g) 6 2 = 1
    ∧ byteAt (fwHead g) 12 = 3 ∧ byteAt (fwHead g) 13 = 0 ∧ byteAt (fwHead g) 14 = 0 ∧ byteAt (fwHead g) 15 = 0 ∧ leAt (fwHead g) 16 4 = 4096
    ∧ leAt (fwHead g) 8 4 = g := by
  rcases hg with rfl | rfl <;> decide
theorem fwImg_ok (g : Nat) (hg : g = 1 ∨ g = 2) (d : Dev) (hv : KeysVerify) (hs : d.nv.fuse.svn ≤ 3) (hr : d.nv.fuse.revoked = 0)
    (hk : d.nv.fuse.keyHash = [Config.sha384 (zeros 512), [], Config.sha384 (zeros 64)]) : fwCheck d (fwImg g) = 0 := by
  obtain ⟨e1, e2, e3, e4, e5, e6, e7, e8, -⟩ := fwHead_ok g hg
  have hf : fwFormOk (fwImg g) = true := by
    simp only [fwFormOk, fwPayload, fwImg_le _ _ _ (show 0 + 4 ≤ 20 by decide), fwImg_le _ _ _ (show 4 + 2 ≤ 20 by decide),
      fwImg_le _ _ _ (show 6 + 2 ≤ 20 by decide), fwImg_le _ _ _ (show 16 + 4 ≤ 20 by decide), fwImg_byte _ _ (show 12 < 20 by decide),
      fwImg_byte _ _ (show 13 < 20 by decide), fwImg_byte _ _ (show 14 < 20 by decide), fwImg_byte _ _ (show 15 < 20 by decide),
      e1, e2, e3, e4, e5, e6, e7, e8, fwImg_zero _ 68 188 (by decide) (by decide), fwImg_zero _ 644 124 (by decide) (by decide),
      fwImg_zero _ 816 16 (by decide) (by decide), fwImg_zero _ 17440 3040 (by decide) (by decide), allZero_zeros]
    decide
  have hp : fwPayload (fwImg g) = 4096 := (fwImg_le g 16 4 (by decide)).trans e8
  unfold fwCheck
  rw [hf, fwImg_byte _ _ (show 12 < 20 by decide), fwImg_byte _ _ (show 13 < 20 by decide), fwImg_byte _ _ (show 14 < 20 by decide), e4, e5, e6,
    if_neg (by decide), if_neg (by omega),
    keySteps_zero d _ hv (fwImg_zero _ 256 512 (by decide) (by decide)) (fwImg_zero _ 768 64 (by decide) (by decide)) hr hk, hp,
    fwImg_zero _ 20480 4096 (by decide) (by decide), fwImg_zero _ 20 48 (by decide) (by decide), hv.2.2]
  exact if_neg (fun h => h rfl)
/-- Meets the hypotheses of the clauses of `StartupSteps` about firmware that boots, from slot B alone, slot A alone and the later of both. -/
theorem test_meets_StartupSteps_firmware (hv : KeysVerify) :
    let st (a b : Bytes) : State := stOf (keyed { dStage 1 dUp with nv := { dUp.nv with slotA := a, slotB := b } })
    (∀ a b, (st a b).dev.boot.power = .on ∧ (st a b).dev.quiet ∧ (st a b).dev.boot.stage = 1 ∧ (st a b).dev.boot.recovery = false)
    ∧ (let s := st [] (fwImg 1); fwCheck s.dev s.dev.nv.slotA ≠ 0 ∧ fwCheck s.dev s.dev.nv.slotB = 0)
    ∧ (let s := st (fwImg 2) []; fwCheck s.dev s.dev.nv.slotA = 0 ∧ fwCheck s.dev s.dev.nv.slotB ≠ 0)
    ∧ (let s := st (fwImg 1) (fwImg 2); fwCheck s.dev s.dev.nv.slotA = 0 ∧ fwCheck s.dev s.dev.nv.slotB = 0
        ∧ fwGen s.dev.nv.slotA < fwGen s.dev.nv.slotB) := by
  have g (n : Nat) (hn : n = 1 ∨ n = 2) : fwGen (fwImg n) = n := (fwImg_le n 8 4 (by decide)).trans (fwHead_ok n hn).2.2.2.2.2.2.2.2
  have b (d : Dev) : fwCheck d [] ≠ 0 := by
    have : fwFormOk [] = false := by decide +kernel
    simp [fwCheck, this]
  refine ⟨fun x y => ⟨rfl, ?_, rfl, rfl⟩, ⟨b _, fwImg_ok 1 (.inl rfl) _ hv (by decide) rfl rfl⟩,
    ⟨fwImg_ok 2 (.inr rfl) _ hv (by decide) rfl rfl, b _⟩,
    ⟨fwImg_ok 1 (.inl rfl) _ hv (by decide) rfl rfl, fwImg_ok 2 (.inr rfl) _ hv (by decide) rfl rfl, ?_⟩⟩
  · have hq : (dStage 1 dUp).quiet := by simp only [Dev.quiet]; decide +kernel
    exact hq
  · show fwGen (fwImg 1) < fwGen (fwImg 2)
    rw [g 1 (.inl rfl), g 2 (.inr rfl)]
    decide

/-- `d` keyed, with a CAL_WRITE entry of a mode at the head of SQ 0 and its record in host memory. -/
def keyDev (e img : Bytes) (d : Dev) : Dev := hostWrite 65536 img (withEntry e (keyed d))
theorem keyDev_meets (m n : Nat) (hm : m < 4) (img : Bytes) (hn : img.length = n)
    (h : (withEntry (calEnt m n) (keyed dUp)).entryReady 0 (calEnt m n)
      ∧ entryAddr (withEntry (calEnt m n) (keyed dUp)) 0 (sq (withEntry (calEnt m n) (keyed dUp)) 0).head = 4096
      ∧ (opOf (calEnt m n) = 0x72 ∧ modeOf (calEnt m n) = m ∧ plainOk (calEnt m n) [(16, 12)] = true ∧ leAt (calEnt m n) 16 8 = 65536
        ∧ leAt (calEnt m n) 24 4 = n)
      ∧ rg (withEntry (calEnt m n) (keyed dUp)) (oPmon 17 + 8) = 0 ∧ fld (withEntry (calEnt m n) (keyed dUp)) 0x20008 6 58 = 0) :
    let e := calEnt m n
    let s : State := stOf (keyDev e img dUp)
    let a := s.dev.accepted 0 e
    s.live ∧ s.dev.begins 0 e a ∧ opOf e = 0x72 ∧ plainOk e [(16, 12)] = true ∧ leAt e 16 8 % 64 = 0 ∧ a.boot.calBusy = none
      ∧ img = hostRead a (leAt e 16 8) n ∧ modeOf e = m ∧ leAt e 24 4 = n := by
  obtain ⟨h1, h2, ⟨h3, h4, h5, h6, h7⟩, h8, h9⟩ := h
  obtain ⟨f, hf, hg⟩ := cal_goes m hm (sqCmd 0 (calEnt m n)) (calEnt m n) (keyDev (calEnt m n) img dUp) rfl
  have hq : dUp.quiet := by simp only [Dev.quiet]; decide +kernel
  have hm : hostRead ((keyDev (calEnt m n) img dUp).accepted 0 (calEnt m n)) 65536 n = hostRead (keyDev (calEnt m n) img dUp) 65536 n := by
    refine accepted_read 0 _ _ _ _ ?_ ?_ (by decide)
    · rw [keyDev, hostWrite, rg_modRing, h8]
    · rw [keyDev, hostWrite, fld_modRing]; exact h9
  obtain ⟨g', t, r, hy⟩ := accept_sq_only 0 (calEnt m n) (keyDev (calEnt m n) img dUp)
  refine ⟨⟨rfl, hq⟩, begins_of f (entryReady_hostWrite _ _ h1 (by omega)) (by rw [h3, h4]; exact hf) hg, h3, h5, by rw [h6], ?_, ?_, h4, h7⟩
  · exact congrArg (fun d => d.boot.calBusy) hy
  · rw [h6, stOf, hm, hostRead, ← hn]
    exact (memReadN_memWriteN _ _ _).symm
theorem calEnt_meets (m n : Nat) (h : (m, n) = (1, 24576) ∨ (m, n) = (2, 17440) ∨ (m, n) = (3, 17440)) :
    (withEntry (calEnt m n) (keyed dUp)).entryReady 0 (calEnt m n)
      ∧ entryAddr (withEntry (calEnt m n) (keyed dUp)) 0 (sq (withEntry (calEnt m n) (keyed dUp)) 0).head = 4096
      ∧ (opOf (calEnt m n) = 0x72 ∧ modeOf (calEnt m n) = m ∧ plainOk (calEnt m n) [(16, 12)] = true ∧ leAt (calEnt m n) 16 8 = 65536
        ∧ leAt (calEnt m n) 24 4 = n)
      ∧ rg (withEntry (calEnt m n) (keyed dUp)) (oPmon 17 + 8) = 0 ∧ fld (withEntry (calEnt m n) (keyed dUp)) 0x20008 6 58 = 0 := by
  simp only [Dev.entryReady]
  rcases h with h | h | h <;> obtain ⟨rfl, rfl⟩ := Prod.mk.inj h <;> decide +kernel
/-- A record of modes 2 and 3 for module 5 and nonce 7, whose keys and signatures are zeros. -/
def authHead (kind mask : Nat) : Bytes := toLE 4 kind ++ toLE 8 5 ++ toLE 32 7 ++ toLE 4 0 ++ toLE 4 mask
def authImg (kind mask : Nat) : Bytes := authHead kind mask ++ (zeros 17388 ++ [])
theorem authHead_length (k m : Nat) : (authHead k m).length = 52 := by simp only [authHead, List.length_append, toLE_length]
theorem authImg_le (k m off w : Nat) (h : off + w ≤ 52) : leAt (authImg k m) off w = leAt (authHead k m) off w :=
  headed_left _ _ _ _ _ (authHead_length k m) h
theorem authImg_byte (k m i : Nat) (h : i < 52) : byteAt (authImg k m) i = byteAt (authHead k m) i := headed_byte _ _ _ _ (authHead_length k m) h
theorem authImg_zero (k m off w : Nat) (h : 52 ≤ off) (h2 : off + w ≤ 17440) : slice (authImg k m) off w = zeros w :=
  headed_zero _ _ _ _ _ (authHead_length k m) h (by omega)
theorem authImg_ok (k m lim : Nat) (hk : (k, m, lim) = (2, 2, 16) ∨ (k, m, lim) = (3, 5, 8)) (d : Dev) (hv : KeysVerify)
    (hs : d.nv.fuse = (keyed dUp).nv.fuse) (hn : d.boot.nonce = 7) : authCheck d k lim (authImg k m) = 0 ∧ leAt (authImg k m) 48 4 = m
      ∧ byteAt (authImg k m) 44 = 0 ∧ byteAt (authImg k m) 45 = 0 := by
  have e : leAt (authHead k m) 0 4 = k ∧ leAt (authHead k m) 4 8 = 5 ∧ leAt (authHead k m) 46 2 = 0 ∧ byteAt (authHead k m) 44 = 0
      ∧ byteAt (authHead k m) 45 = 0 ∧ leAt (authHead k m) 48 4 = m ∧ leAt (authHead k m) 12 32 = 7 ∧ m < lim := by
    rcases hk with hk | hk <;> simp only [Prod.mk.injEq] at hk <;> obtain ⟨rfl, rfl, rfl⟩ := hk <;> decide
  obtain ⟨e1, e2, e3, e4, e5, e6, e7, e8⟩ := e
  have f1 := authImg_le k m 0 4 (by decide)
  have f2 := authImg_le k m 4 8 (by decide)
  have f3 := authImg_le k m 46 2 (by decide)
  have f4 := authImg_byte k m 44 (by decide)
  have f5 := authImg_byte k m 45 (by decide)
  have f6 := authImg_le k m 48 4 (by decide)
  have f7 := authImg_le k m 12 32 (by decide)
  refine ⟨?_, f6.trans e6, f4.trans e4, f5.trans e5⟩
  have hk : keySteps d (authImg k m) 0 0 = 0 := keySteps_zero d _ hv (authImg_zero _ _ 256 512 (by decide) (by decide))
    (authImg_zero _ _ 768 64 (by decide) (by decide)) (congrArg (·.revoked) hs) (congrArg (·.keyHash) hs)
  have hz : d.nv.fuse.serial.toNat = 5 := by rw [hs]; rfl
  unfold authCheck
  rw [f1, f2, f3, f4, f5, f6, f7, e1, e2, e3, e4, e5, e6, e7, hz, hn, hk, authImg_zero _ _ 52 204 (by decide) (by decide),
    authImg_zero _ _ 644 124 (by decide) (by decide), authImg_zero _ _ 816 16 (by decide) (by decide), allZero_zeros, allZero_zeros, allZero_zeros,
    if_neg (by simp; omega), if_neg (by decide)]
  rfl
/-- Meets the hypotheses of the clause of `SecurityCommands` about mode 1. -/
theorem test_meets_SecurityCommands_firmware (hv : KeysVerify) :
    let e := calEnt 1 24576
    let s : State := stOf (keyDev e (fwImg 2) dUp)
    let a := s.dev.accepted 0 e
    (s.live ∧ s.dev.begins 0 e a ∧ opOf e = 0x72 ∧ plainOk e [(16, 12)] = true ∧ leAt e 16 8 % 64 = 0 ∧ a.boot.calBusy = none
      ∧ fwImg 2 = hostRead a (leAt e 16 8) 24576 ∧ modeOf e = 1 ∧ leAt e 24 4 = 24576)
      ∧ 24576 = 20480 + fwPayload (fwImg 2) ∧ fwCheck a (fwImg 2) = 0 ∧ a.boot.fwGen < fwGen (fwImg 2) := by
  obtain ⟨g', t, r, hy⟩ := accept_sq_only 0 (calEnt 1 24576) (keyDev (calEnt 1 24576) (fwImg 2) dUp)
  have hn := congrArg Dev.nv hy
  have hb := congrArg Dev.boot hy
  have e := fwHead_ok 2 (.inr rfl)
  refine ⟨keyDev_meets 1 24576 (by decide) (fwImg 2) (fwImg_length 2) (calEnt_meets _ _ (.inl rfl)), ?_, ?_, ?_⟩
  · have h : fwPayload (fwImg 2) = 4096 := (fwImg_le 2 16 4 (by decide)).trans e.2.2.2.2.2.2.2.1
    rw [h]
  · refine fwImg_ok 2 (.inr rfl) _ hv ?_ ?_ ?_
    · have h : _ = 0 := congrArg (fun x => x.fuse.svn) hn
      exact le_of_eq_of_le h (by decide)
    · exact congrArg (fun x => x.fuse.revoked) hn
    · exact congrArg (fun x => x.fuse.keyHash) hn
  · have h : fwGen (fwImg 2) = 2 := (fwImg_le 2 8 4 (by decide)).trans e.2.2.2.2.2.2.2.2
    have h2 : _ = 0 := congrArg (fun x => x.fwGen) hb
    rw [h]
    exact lt_of_eq_of_lt h2 (by decide)
/-- Meets the hypotheses of the clause of `SecurityCommands` about mode 2. -/
theorem test_meets_SecurityCommands_fuse (hv : KeysVerify) :
    let e := calEnt 2 17440
    let s : State := stOf (keyDev e (authImg 2 2) dUp)
    let a := s.dev.accepted 0 e
    let b := authImg 2 2
    let r := a.nv.fuse.revoked ||| BitVec.ofNat 4 (leAt b 48 4)
    (s.live ∧ s.dev.begins 0 e a ∧ opOf e = 0x72 ∧ plainOk e [(16, 12)] = true ∧ leAt e 16 8 % 64 = 0 ∧ a.boot.calBusy = none
      ∧ b = hostRead a (leAt e 16 8) 17440 ∧ modeOf e = 2 ∧ leAt e 24 4 = 17440)
      ∧ authCheck a 2 16 b = 0 ∧ (leAt b 48 4).testBit (byteAt b 44) = false ∧ (leAt b 48 4).testBit (2 + byteAt b 45) = false
      ∧ r.toNat % 4 ≠ 3 ∧ r.toNat / 4 ≠ 3 := by
  obtain ⟨g', t, r, hy⟩ := accept_sq_only 0 (calEnt 2 17440) (keyDev (calEnt 2 17440) (authImg 2 2) dUp)
  have hn := congrArg (fun x => x.nv.fuse) hy
  have hb := congrArg (fun x => x.boot.nonce) hy
  have hr : _ = (0 : BitVec 4) := congrArg (fun x => x.nv.fuse.revoked) hy
  obtain ⟨e1, e2, e3, e4⟩ := authImg_ok 2 2 16 (.inl rfl) _ hv hn hb
  refine ⟨keyDev_meets 2 17440 (by decide) (authImg 2 2) (by simp only [authImg, List.length_append, authHead_length, zeros_length, List.length_nil])
    (calEnt_meets _ _ (.inr (.inl rfl))), e1, ?_⟩
  rw [e2, e3, e4, show ((stOf (keyDev (calEnt 2 17440) (authImg 2 2) dUp)).dev.accepted 0 (calEnt 2 17440)).nv.fuse.revoked = 0 from hr]
  decide
/-- Meets the hypotheses of the clause of `SecurityCommands` about mode 3. -/
theorem test_meets_SecurityCommands_debug (hv : KeysVerify) (hd : Config.debugDisable = false) :
    let e := calEnt 3 17440
    let s : State := stOf (keyDev e (authImg 3 5) dUp)
    let a := s.dev.accepted 0 e
    (s.live ∧ s.dev.begins 0 e a ∧ opOf e = 0x72 ∧ plainOk e [(16, 12)] = true ∧ leAt e 16 8 % 64 = 0 ∧ a.boot.calBusy = none
      ∧ authImg 3 5 = hostRead a (leAt e 16 8) 17440 ∧ modeOf e = 3 ∧ leAt e 24 4 = 17440)
      ∧ a.nv.fuse.debugOff = false ∧ authCheck a 3 8 (authImg 3 5) = 0 := by
  obtain ⟨g', t, r, hy⟩ := accept_sq_only 0 (calEnt 3 17440) (keyDev (calEnt 3 17440) (authImg 3 5) dUp)
  have hn := congrArg (fun x => x.nv.fuse) hy
  have hb := congrArg (fun x => x.boot.nonce) hy
  refine ⟨keyDev_meets 3 17440 (by decide) (authImg 3 5) (by simp only [authImg, List.length_append, authHead_length, zeros_length, List.length_nil])
    (calEnt_meets _ _ (.inr (.inr rfl))), ?_, (authImg_ok 3 5 8 (.inr rfl) _ hv hn hb).1⟩
  exact (congrArg (fun x => x.nv.fuse.debugOff) hy).trans hd
/-- A personality table of one list of planes, for a flash ID of zeros, in two 64-byte units at flat address 0. -/
def persTab : Bytes :=
  let b := zeros 6 ++ [1] ++ zeros 65
  b ++ toLE 4 (crc32c b) ++ zeros 52
def persDev : Dev :=
  { dUp with mem := { memsZero with devs := [(0, { gddrZero 0 with mem := memWriteN (gddrZero 0).mem 0 persTab })] } }
theorem pair_of_fst {α β : Type} (r : α × β) (a : α) (h : r.1 = a) : r = (a, r.2) := by
  rw [← h]
/-- Meets the hypotheses of the clause of `FlashOperations` about a personality table that is accepted. -/
theorem test_meets_FlashOperations_pers (hid : Config.readId = zeros 6) :
    let s : State := stOf persDev
    let v : BitVec 64 := 0x2000000000
    let r := flatRead 1 (v.toNat % 2 ^ 36) (bits v.toNat 36 14)
      (putReg 0x480038 (writeFlds (rg s.dev 0x480038) (setBits v.toNat 50 1 1) ((regOf 0x480038).map (·.flds)).get!) s.dev)
    s.live ∧ s.dev.boot.recovery = false ∧ v.toNat % 2 ^ 36 % 64 = 0 ∧ r = (some persTab, r.2) ∧ persOk persTab (bits v.toNat 36 14) = true := by
  refine ⟨⟨rfl, ?_⟩, rfl, by decide, pair_of_fst _ _ ?_, ?_⟩
  · simp only [Dev.quiet]; decide +kernel
  · decide +kernel
  · rw [persOk, hid]
    decide +kernel

/-! ### Worked examples of the spec, and its check values. -/

open Sys2Proof.Num (convert addI)

/-- "For the nine ASCII bytes "123456789" this function gives 0x29B1" (R60) and CRC-32C "gives 0xE306_9283" (R197). -/
theorem test_crc_check_values :
    crc16 [0x31, 0x32, 0x33, 0x34, 0x35, 0x36, 0x37, 0x38, 0x39] = 0x29B1
    ∧ crc32c [0x31, 0x32, 0x33, 0x34, 0x35, 0x36, 0x37, 0x38, 0x39] = 0xE3069283 := by decide +kernel
/-- Example 0.1: byte 16 is 0x6A and bytes 24 and 25 are 0x1F and 0x40. -/
theorem test_example_0_1 :
    let h : Bytes := zeros 16 ++ [0x6A] ++ zeros 7 ++ [0x1F, 0x40] ++ zeros 6
    hVc h = 3 ∧ hTc h = 2 ∧ hFirst h = true ∧ hLast h = false ∧ hDl h = 8000 := by decide +kernel
/-- Examples 2.1 and 2.3: D = n + 10 for h = 3, k = 16, b = 8 at 1,024 slots, and D = n + 21 for h = 5, k = 256, b = 32 at 512. -/
theorem test_examples_2_1_and_2_3 :
    deadline { dUp with clk := { clockZero with swc := 100 } } 3 281 (ceilDiv 16 8) = 110
    ∧ deadline { dUp with clk := { clockZero with swc := 100, nsNow := 512 } } 5 545 (ceilDiv 256 32) = 121 := by decide +kernel
/-- Port 2 at 1.6 Tb/s, A = 256, with one Furrow of 64 cell positions (Example 2.2). -/
def dEx : Dev :=
  { dUp with
    regs := [(0x40010, 0xB8), (oPortCfg 2, 1), (oVcw 2, 0x03010404)]
    tab := { tablesZero with
      furrows := [(1, { gen := 0, state := .active, inX := 5, last := false, outHop := 8, idx := 0, inSub := 0, first := 0, count := 64,
                        stride := 16, src := 1, dst := 2, path := 0, queue := [], released := 0 })] } }
/-- Example 2.2: C = 674, R_cal = 4, M = 14, avail = 592; 24 flows of 8 cells on VC0 pass R37 and a 25th does not. -/
theorem test_example_2_2 :
    capacity dEx 8 = 674 ∧ calCells dEx 8 = 4 ∧ mgmtCells dEx 8 = 14 ∧ avail dEx 2 0 = 592
    ∧ r37Ok dEx 2 0 0 192 1 0 = true ∧ r37Ok dEx 2 0 0 200 1 0 = false ∧ r37Ok dEx 2 0 0 49 4 0 = true ∧ r37Ok dEx 2 0 0 50 4 0 = false
    ∧ r37Ok dEx 2 0 0 148 8 0 = true ∧ r37Ok dEx 2 0 0 149 8 0 = false := by decide +kernel
/-- Example 6.1: 1 + 2^-11 to FP16 under RNE, RTZ and SR. -/
theorem test_example_6_1 :
    convert .fp32 .fp16 .rne 0 false 0x3F801000 = some (0x3C00, 0) ∧ convert .fp32 .fp16 .rtz 0 false 0x3F801000 = some (0x3C00, 0)
    ∧ convert .fp32 .fp16 (.sr 0x6B000000) 0 false 0x3F801000 = some (0x3C01, 0)
    ∧ convert .fp32 .fp16 (.sr 0x9A000000) 0 false 0x3F801000 = some (0x3C00, 0) := by decide +kernel
/-- Example 6.2: 70,000, its negative, 65,519 and 65,520 to FP16. -/
theorem test_example_6_2 :
    convert .fp32 .fp16 .rne 0 false 0x4788B800 = some (0x7BFF, Num.fOVF) ∧ convert .fp32 .fp16 .rtz 1 false 0x4788B800 = some (0x7C00, Num.fOVF)
    ∧ convert .fp32 .fp16 .rne 0 false 0xC788B800 = some (0xFBFF, Num.fOVF) ∧ convert .fp32 .fp16 .rtz 1 false 0xC788B800 = some (0xFC00, Num.fOVF)
    ∧ convert .fp32 .fp16 .rne 1 false 0x477FEF00 = some (0x7BFF, 0) ∧ convert .fp32 .fp16 .rne 0 false 0x477FF000 = some (0x7BFF, Num.fOVF)
    ∧ convert .fp32 .fp16 .rne 1 false 0x477FF000 = some (0x7C00, Num.fOVF) ∧ convert .fp32 .fp16 .rtz 0 false 0x477FF000 = some (0x7BFF, 0) := by
  decide +kernel
/-- Example 6.3: scale sums outside the exponent range of FP32. -/
theorem test_example_6_3 :
    drainElem .fp32 .rne 0 0x2B800000 0x64 0x3C = (0x7B800000, 0) ∧ drainElem .fp16 .rne 0 0x2B800000 0x64 0x3C = (0x7BFF, Num.fOVF)
    ∧ drainElem .fp32 .rne 0 0x3FC00000 0x64 0x3C = (0x7F7FFFFF, Num.fOVF) ∧ drainElem .fp32 .rne 1 0x3FC00000 0x64 0x3C = (0x7F800000, Num.fOVF)
    ∧ drainElem .fp16 .rne 0 0x3FC00000 0x64 0x3C = (0x7BFF, Num.fOVF) ∧ drainElem .fp32 .rne 0 0x71800000 0x80 0x80 = (0, Num.fUNF)
    ∧ drainElem .fp16 .rne 0 0x71800000 0x80 0x80 = (0, Num.fUNF) ∧ drainElem .fp32 .rne 0 0 0x80 0x64 = (0, 0) := by decide +kernel
/-- Example 6.4: integer sums and conversions. -/
theorem test_example_6_4 :
    addI .int16 true 30000 5000 = (0x7FFF, Num.fIOV) ∧ addI .int16 false 30000 5000 = (0x88B8, 0)
    ∧ convert .uint8 .int8 .rne 0 true 200 = some (127, Num.fIOV) ∧ convert .uint8 .int8 .rne 0 false 200 = some (0xC8, 0)
    ∧ convert .int32 .uint8 .rne 0 true 0xFFFFFFFB = some (0, Num.fIOV) ∧ convert .int32 .uint8 .rne 0 false 0xFFFFFFFB = some (0xFB, 0)
    ∧ convert .fp16 .int8 .rne 0 false 0x7E01 = some (0, Num.fINV) ∧ convert .fp32 .int8 .rne 0 false 0xC3966000 = some (0x80, Num.fIOV)
    ∧ convert .fp32 .int32 .rne 0 false 0xC0300000 = some (0xFFFFFFFD, 0) ∧ convert .fp32 .int32 .rtz 0 false 0xC0300000 = some (0xFFFFFFFE, 0)
    ∧ convert .fp16 .int32 .rne 0 false 0x4100 = some (2, 0) := by decide +kernel
/-- Example 7.1: 1.0 + 2^-11 is a tie in FP16, and 2^-11 + 0 is exact. -/
theorem test_example_7_1 :
    Num.addF .fp16 .rne 0 0x3C00 0x1000 = (0x3C00, 0) ∧ Num.addF .fp16 .rne 0 0x1000 0 = (0x1000, 0) := by decide +kernel
/-- A SAMPLE record with invT = 1.0, top_p = 0.9 and min_p = 0.2 in FP32 (Example 8.1). -/
def recEx : Bytes := zeros 36 ++ toLE 4 0x3F800000 ++ toLE 4 0x3F666666 ++ toLE 4 0x3E4CCCCD ++ zeros 16
/-- Example 8.1: the order of the pairs, and q = 0.606531 and 0.173774, rounded to six places, for 1.5 and 0.25 beside 2.0. -/
theorem test_example_8_1 :
    sortBy (selLe .fp32 false) [(0x40000000, 17), (0x3FC00000, 9), (0x3FC00000, 3), (0x3E800000, 40)]
      = [(0x40000000, 17), (0x3FC00000, 3), (0x3FC00000, 9), (0x3E800000, 40)]
    ∧ (sampleQ recEx 0x40000000 0x40000000).1 = 0x3F800000
    ∧ (convert .fp32 .int32 .rne 0 false (Num.mulF .fp32 .rne 0 (sampleQ recEx 0x40000000 0x3FC00000).1 0x49742400).1) = some (606531, 0)
    ∧ (convert .fp32 .int32 .rne 0 false (Num.mulF .fp32 .rne 0 (sampleQ recEx 0x40000000 0x3E800000).1 0x49742400).1) = some (173774, 0) := by
  decide +kernel
/-- Example 8.2: with cap 2, token 2 loses expert 5 and keeps expert 6; one row of 2,064 bytes takes 5 cells and two take 9. -/
theorem test_example_8_2 :
    (capTokens 2 [(0, [(2, 1), (5, 1)]), (1, [(0, 1), (5, 1)]), (2, [(5, 1), (6, 1)]), (3, [(2, 1), (7, 1)])] []).map (fun p => (p.1, p.2.map (·.1)))
      = [(0, [2, 5]), (1, [0, 5]), (2, [6]), (3, [2, 7])]
    ∧ cellsOf 2064 = 5 ∧ cellsOf 4128 = 9 := by decide +kernel
/-- Example 9.1: G = 232 is too little at 20 Swaths for 4,722,688 bytes, and enough at 21. -/
theorem test_example_9_1 :
    homeLimit dUp 5 (zeros 24 ++ toLE 4 (20 + 2 ^ 31) ++ zeros 36) = 4649280
    ∧ homeLimit dUp 5 (zeros 24 ++ toLE 4 (21 + 2 ^ 31) ++ zeros 36) = 4886848 := by decide +kernel
/-- Example 12.1: the flat address 1,000,000,123 in all three views. -/
theorem test_example_12_1 :
    ofFlat 1000000123 = (5, 62499963) ∧ flatOf 5 62499963 = 1000000123
    ∧ cwBlock (62499963 / 16) = 1098631 ∧ cwRow (gddrZero 5) (62499963 / 16) = 34332 ∧ cwRows (62499963 / 16) = [34332, 34332] := by
  decide +kernel
/-- Example 18.1: SHP_POL, EDGE_ACFG and a binding. -/
theorem test_example_18_1 :
    oShpPol 54 5 = 0x2486D4 ∧ oEdge 54 + 0x20 = 0x1045A0 ∧ (oForge 5 + 0x1000 + 32 * 10 + 0x10 = 0x351150) ∧ oPmon 15 + 0x80 + 24 = 0x543C98 := by
  decide
end

section
/-! SUPPORT. Bit fields: reading one after writing one. And the register layouts: no field of a register reaches into another. -/

namespace Sys2Proof.Machine

/-! ### Bit fields -/

theorem testBit_bits (v lo w i : Nat) : (bits v lo w).testBit i = (decide (i < w) && v.testBit (lo + i)) := by
  rw [bits, Nat.testBit_mod_two_pow, Nat.testBit_div_two_pow, Nat.add_comm]

/-- A number with a field replaced, laid out as its high bits, the field, and its low bits. -/
theorem setBits_eq (v lo w x : Nat) :
    setBits v lo w x = 2 ^ lo * (2 ^ w * (v / 2 ^ lo / 2 ^ w) + x % 2 ^ w) + v % 2 ^ lo := by
  have hlow := Nat.div_add_mod v (2 ^ lo)
  have hhigh := Nat.div_add_mod (v / 2 ^ lo) (2 ^ w)
  rw [setBits, bits]
  generalize v / 2 ^ lo = q at *
  rw [← hhigh, Nat.mul_add] at hlow
  rw [Nat.mul_add, Nat.mul_comm (q % _), Nat.mul_comm (x % _)]
  omega

theorem testBit_setBits (v lo w x i : Nat) :
    (setBits v lo w x).testBit i = if lo ≤ i ∧ i < lo + w then x.testBit (i - lo) else v.testBit i := by
  rw [setBits_eq, Nat.testBit_two_pow_mul_add _ (Nat.mod_lt _ (Nat.two_pow_pos lo)),
    Nat.testBit_two_pow_mul_add _ (Nat.mod_lt _ (Nat.two_pow_pos w))]
  simp only [Nat.testBit_mod_two_pow, Nat.testBit_div_two_pow]
  rcases Nat.lt_or_ge i lo with below | above
  · simp [below, Nat.not_le.2 below]
  · rcases Nat.lt_or_ge i (lo + w) with inside | beyond
    · simp [above, inside, Nat.not_lt.2 above, show i - lo < w by omega]
    · simp [Nat.not_lt.2 above, Nat.not_lt.2 beyond, show ¬ i - lo < w by omega, show i - lo - w + w + lo = i by omega]

@[simp] theorem bits_setBits_same (v lo w x : Nat) : bits (setBits v lo w x) lo w = x % 2 ^ w := by
  refine Nat.eq_of_testBit_eq fun i => ?_
  rw [testBit_bits, testBit_setBits, Nat.testBit_mod_two_pow]
  by_cases hi : i < w <;> simp [hi]

theorem bits_setBits_apart {v lo w x lo' w' : Nat} (h : lo + w ≤ lo' ∨ lo' + w' ≤ lo) :
    bits (setBits v lo w x) lo' w' = bits v lo' w' := by
  refine Nat.eq_of_testBit_eq fun i => ?_
  rw [testBit_bits, testBit_bits, testBit_setBits]
  by_cases hi : i < w'
  · rw [if_neg (by omega)]
  · simp [hi]

@[simp] theorem bits_mod_self (v lo w : Nat) : bits v lo w % 2 ^ w = bits v lo w := Nat.mod_mod _ _

/-! ### Layouts -/

/-- Two fields have no bit in common. -/
@[reducible] def Fld.Apart (f g : Fld) : Prop := f.lo + f.w ≤ g.lo ∨ g.lo + g.w ≤ f.lo

/-- A W1C field is one bit (R7). -/
@[reducible] def Fld.Shaped (f : Fld) : Prop := f.acc = .w1c → f.w = 1

/-- Fields that can stand in one register: each of its shape, no two with a bit in common. -/
@[reducible] def LaidOut (fs : List Fld) : Prop := (∀ f ∈ fs, f.Shaped) ∧ fs.Pairwise Fld.Apart

/-- The check of one line of a block's table: the register there, if there is one, is laid out. -/
def regLaidOut (r : Option Reg) : Bool := r.all fun r => decide (LaidOut r.flds)

@[simp] theorem regLaidOut_none : regLaidOut none = true := rfl

theorem regLaidOut_ite {c : Prop} [Decidable c] {a b : Option Reg} (ha : regLaidOut a = true) (hb : regLaidOut b = true) :
    regLaidOut (if c then a else b) = true := by
  split
  · exact ha
  · exact hb

theorem regLaidOut_some {r : Reg} (h : regLaidOut (some r) = true) : LaidOut r.flds := of_decide_eq_true h

@[simp] theorem regLaidOut_regGlb (o : Nat) : regLaidOut (regGlb o) = true := by
  unfold regGlb
  split <;> rfl

@[simp] theorem regLaidOut_regRing (o : Nat) : regLaidOut (regRing o) = true := by
  unfold regRing
  repeat' split
  all_goals rfl

@[simp] theorem regLaidOut_regSwath (o : Nat) : regLaidOut (regSwath o) = true := by
  unfold regSwath
  split <;> rfl

@[simp] theorem regLaidOut_regPort (p o : Nat) : regLaidOut (regPort p o) = true := by
  unfold regPort
  split <;> rfl

@[simp] theorem regLaidOut_regLink (o : Nat) : regLaidOut (regLink o) = true := by
  unfold regLink
  repeat' with_reducible apply regLaidOut_ite
  · split <;> rfl
  · rfl
  · split <;> rfl
  · rfl
  · rfl

@[simp] theorem regLaidOut_regSch (o : Nat) : regLaidOut (regSch o) = true := by
  unfold regSch
  split <;> rfl

@[simp] theorem regLaidOut_regBpm (o : Nat) : regLaidOut (regBpm o) = true := by
  unfold regBpm
  split <;> rfl

@[simp] theorem regLaidOut_regEpt (o : Nat) : regLaidOut (regEpt o) = true := by
  unfold regEpt
  repeat' split
  all_goals rfl

@[simp] theorem regLaidOut_regShp (o : Nat) : regLaidOut (regShp o) = true := by
  unfold regShp
  repeat' split
  all_goals rfl

@[simp] theorem regLaidOut_regHlt (o : Nat) : regLaidOut (regHlt o) = true := by
  unfold regHlt
  split <;> rfl

@[simp] theorem regLaidOut_regSec (o : Nat) : regLaidOut (regSec o) = true := by
  unfold regSec
  split <;> rfl

@[simp] theorem regLaidOut_regPmon (o : Nat) : regLaidOut (regPmon o) = true := by
  unfold regPmon
  repeat' with_reducible apply regLaidOut_ite
  all_goals rfl

@[simp] theorem regLaidOut_regSmp (o : Nat) : regLaidOut (regSmp o) = true := by
  unfold regSmp
  repeat' split
  all_goals rfl

@[simp] theorem regLaidOut_regDbg (o : Nat) : regLaidOut (regDbg o) = true := by
  unfold regDbg
  split <;> rfl

@[simp] theorem regLaidOut_regCru (o : Nat) : regLaidOut (regCru o) = true := by
  unfold regCru
  repeat' split
  all_goals rfl

@[simp] theorem regLaidOut_regSel (o : Nat) : regLaidOut (regSel o) = true := by
  unfold regSel
  repeat' split
  all_goals rfl

@[simp] theorem regLaidOut_regForge (f o : Nat) : regLaidOut (regForge f o) = true := by
  unfold regForge
  repeat' split
  all_goals rfl

@[simp] theorem regLaidOut_regAdp (o : Nat) : regLaidOut (regAdp o) = true := by
  unfold regAdp
  repeat' split
  all_goals rfl

@[simp] theorem regLaidOut_regMem (o : Nat) : regLaidOut (regMem o) = true := by
  unfold regMem
  split <;> rfl

@[simp] theorem regLaidOut_regFal (o : Nat) : regLaidOut (regFal o) = true := by
  unfold regFal
  split <;> rfl

/-- No register of BAR0 has two fields with a bit in common, and each of its W1C fields is one bit. -/
theorem regLaidOut_regOf (off : Nat) : regLaidOut (regOf off) = true := by
  unfold regOf
  repeat' with_reducible apply regLaidOut_ite
  all_goals simp

theorem laidOut_of_regOf {off : Nat} {r : Reg} (h : regOf off = some r) : LaidOut r.flds :=
  regLaidOut_some (h ▸ regLaidOut_regOf off)

/-! ### A write of a register, field by field -/

/-- What a write of `v` over `old` leaves in a field (R7, R9, R10). -/
def fldNew (old v : Nat) (f : Fld) : Nat :=
  match f.acc with
  | .rw => rwNew old v f
  | .w1c => if v.testBit f.lo then 0 else bits old f.lo f.w
  | _ => bits old f.lo f.w

theorem rwNew_of_ok {old v : Nat} {f : Fld} (h : f.ok (bits v f.lo f.w) = true) : rwNew old v f = bits v f.lo f.w := by
  simp [rwNew, h]

theorem rwNew_of_reserved {old v : Nat} {f : Fld} (h : f.ok (bits v f.lo f.w) = false) :
    rwNew old v f = bits old f.lo f.w := by
  simp [rwNew, h]

theorem fldNew_rw {old v : Nat} {f : Fld} (h : f.acc = .rw) : fldNew old v f = rwNew old v f := by
  simp [fldNew, h]

theorem fldNew_w1c {old v : Nat} {f : Fld} (h : f.acc = .w1c) :
    fldNew old v f = if v.testBit f.lo then 0 else bits old f.lo f.w := by
  simp [fldNew, h]

theorem fldNew_other {old v : Nat} {f : Fld} (hrw : f.acc ≠ .rw) (hw1c : f.acc ≠ .w1c) :
    fldNew old v f = bits old f.lo f.w := by
  unfold fldNew
  split
  · contradiction
  · contradiction
  · rfl

@[simp] theorem rwNew_mod (old v : Nat) (f : Fld) : rwNew old v f % 2 ^ f.w = rwNew old v f := by
  cases hok : f.ok (bits v f.lo f.w)
  · rw [rwNew_of_reserved hok, bits_mod_self]
  · rw [rwNew_of_ok hok, bits_mod_self]

/-- A field's new value fits the field. -/
@[simp] theorem fldNew_mod (old v : Nat) (f : Fld) : fldNew old v f % 2 ^ f.w = fldNew old v f := by
  unfold fldNew
  repeat' split
  all_goals simp

/-- What one field adds to a write: it is set to its new value, or it keeps its bits and the write goes past it. -/
theorem writeFlds_cons (old v : Nat) {f : Fld} (fs : List Fld) (hf : f.Shaped) :
    writeFlds old v (f :: fs) = setBits (writeFlds old v fs) f.lo f.w (fldNew old v f)
    ∨ writeFlds old v (f :: fs) = writeFlds old v fs ∧ fldNew old v f = bits old f.lo f.w := by
  cases hacc : f.acc with
  | rw => left; simp [writeFlds, fldNew, hacc]
  | w1c =>
    cases hv : v.testBit f.lo
    · right; simp [writeFlds, fldNew, hacc, hv]
    · left; simp [writeFlds, fldNew, hacc, hv, hf hacc]
  | ro | dv | wo => right; simp [writeFlds, fldNew, hacc]

/-- A write leaves what none of its fields covers. -/
theorem bits_writeFlds_apart (old v : Nat) (f : Fld) (fs : List Fld) (hshape : ∀ g ∈ fs, g.Shaped)
    (hapart : ∀ g ∈ fs, g.Apart f) : bits (writeFlds old v fs) f.lo f.w = bits old f.lo f.w := by
  induction fs with
  | nil => rfl
  | cons g fs ih =>
    rw [List.forall_mem_cons] at hshape hapart
    have hrest := ih hshape.2 hapart.2
    rcases writeFlds_cons old v fs hshape.1 with h | ⟨h, -⟩
    · rw [h, bits_setBits_apart hapart.1, hrest]
    · rw [h, hrest]

/-- Each field of a laid-out register takes its own new value, whatever the write does to the others. -/
theorem bits_writeFlds_of_mem (old v : Nat) {f : Fld} {fs : List Fld} (hfs : LaidOut fs) (hf : f ∈ fs) :
    bits (writeFlds old v fs) f.lo f.w = fldNew old v f := by
  obtain ⟨hshape, hapart⟩ := hfs
  induction fs with
  | nil => cases hf
  | cons g fs ih =>
    rw [List.forall_mem_cons] at hshape
    obtain ⟨hg, hshape⟩ := hshape
    obtain ⟨hgfs, hapart⟩ := List.pairwise_cons.1 hapart
    rcases List.mem_cons.1 hf with rfl | hmem
    · have hrest := bits_writeFlds_apart old v f fs hshape fun g hmem => (hgfs g hmem).symm
      rcases writeFlds_cons old v fs hg with h | ⟨h, hkeep⟩
      · rw [h, bits_setBits_same, fldNew_mod]
      · rw [h, hrest, hkeep]
    · have hrest := ih hmem hshape hapart
      rcases writeFlds_cons old v fs hg with h | ⟨h, -⟩
      · rw [h, bits_setBits_apart (hgfs f hmem), hrest]
      · rw [h, hrest]

end Sys2Proof.Machine

open Sys2Proof Sys2Proof.Machine

/-- Settles O51: the fields of every register have no bit in common, so each takes its own new value. -/
theorem registerFields : Obligations.RegisterFields := by
  unfold Obligations.RegisterFields
  intro off old v r f hr hf
  have hlaid := laidOut_of_regOf hr
  have hnew := bits_writeFlds_of_mem old v hlaid hf
  refine ⟨fun hrw hok => ?_, fun hrw hres => ?_, fun hw1c => ?_, fun hrw hw1c => ?_⟩
  · rw [hnew, fldNew_rw hrw, rwNew_of_ok hok]
  · rw [hnew, fldNew_rw hrw, rwNew_of_reserved hres]
  · have hw := hlaid.1 f hf hw1c
    rw [fldNew_w1c hw1c, hw] at hnew
    exact hnew
  · rw [hnew, fldNew_other hrw hw1c]

end

section
/-! SUPPORT. What taking sub-ports out of service does (R131, R500): the clock, every register but the BPM's event flags and the
other sub-ports' states stay; then writes of SWATH_CFG (R25, R26). -/

namespace Sys2Proof.Machine

/-! ### Out of service -/

/-- `d'` is `d` with the sub-ports of `l` flushed and back in training or alignment; their lock, the other sub-ports' states, the
clock and every register but the BPM's event flags are as they were. -/
structure TakenOut (l : List Nat) (d d' : Dev) : Prop where
  clk : d'.clk = d.clk
  regs : ∀ off, off ≠ oBpmEvt → rg d' off = rg d off
  lock : ∀ lp, (sub d' lp).lock = (sub d lp).lock
  state : ∀ lp, (sub d' lp).state =
    if lp ∈ l then (if (sub d lp).lock then .aligning else .training) else (sub d lp).state
  fresh : ∀ lp, lp ∈ l ∨ (sub d lp).fresh = true → (sub d' lp).fresh = true

/-- No sub-port is taken out. -/
abbrev PortsStay (d d' : Dev) : Prop := TakenOut [] d d'

theorem TakenOut.trans {l m : List Nat} {a b c : Dev} (h : TakenOut l a b) (k : TakenOut m b c) : TakenOut (l ++ m) a c where
  clk := k.clk.trans h.clk
  regs off hoff := (k.regs off hoff).trans (h.regs off hoff)
  lock lp := (k.lock lp).trans (h.lock lp)
  state lp := by
    rw [k.state, h.state, h.lock]
    by_cases hm : lp ∈ m <;> simp [hm]
  fresh lp hlp := by
    refine k.fresh lp ?_
    rcases hlp with hlp | hlp
    · rcases List.mem_append.1 hlp with hl | hm
      · exact .inr (h.fresh lp (.inl hl))
      · exact .inl hm
    · exact .inr (h.fresh lp (.inr hlp))

/-- Where clock, registers and sub-ports are the same, no sub-port is taken out. -/
theorem PortsStay.of_eq {d d' : Dev} (hclk : d'.clk = d.clk) (hregs : ∀ off, off ≠ oBpmEvt → rg d' off = rg d off)
    (hsubs : d'.subs = d.subs) : PortsStay d d' where
  clk := hclk
  regs := hregs
  lock lp := by rw [sub, hsubs, sub]
  state lp := by simp [sub, hsubs]
  fresh lp := by simp [sub, hsubs]

theorem PortsStay.refl (d : Dev) : PortsStay d d := .of_eq rfl (fun _ _ => rfl) rfl

theorem PortsStay.trans {a b c : Dev} (h : PortsStay a b) (k : PortsStay b c) : PortsStay a c := TakenOut.trans h k

/-- A step that takes out the sub-ports `g a` for each `a` takes out all of them over a list. -/
theorem takenOut_each {α : Type} {g : α → List Nat} {f : α → Dev → Dev} (hf : ∀ a d, TakenOut (g a) d (f a d)) (l : List α)
    (d : Dev) : TakenOut (l.flatMap g) d (each l f d) := by
  induction l generalizing d with
  | nil => exact PortsStay.refl d
  | cons a l ih => exact (hf a d).trans (ih (f a d))

theorem portsStay_each {α : Type} {f : α → Dev → Dev} (hf : ∀ a d, PortsStay d (f a d)) (l : List α) (d : Dev) :
    PortsStay d (each l f d) := by
  have h := takenOut_each hf l d
  rwa [List.flatMap_eq_nil_iff.2 fun _ _ => rfl] at h

/-! ### Operations that take no sub-port out -/

theorem portsStay_modSw (f : Switch → Switch) (d : Dev) : PortsStay d (modSw f d) := .of_eq rfl (fun _ _ => rfl) rfl
theorem portsStay_modTab (f : Tables → Tables) (d : Dev) : PortsStay d (modTab f d) := .of_eq rfl (fun _ _ => rfl) rfl
theorem portsStay_modBpm (f : Bpm → Bpm) (d : Dev) : PortsStay d (modBpm f d) := .of_eq rfl (fun _ _ => rfl) rfl
theorem portsStay_defer (t : Todo) (d : Dev) : PortsStay d (defer t d) := .of_eq rfl (fun _ _ => rfl) rfl

theorem portsStay_postEvent (code : Nat) (data : Bytes) (d : Dev) : PortsStay d (postEvent code data d) := by
  obtain ⟨r, h⟩ := postEvent_only code data d
  rw [h]
  exact .of_eq rfl (fun _ _ => rfl) rfl

/-- A change of sub-port `lp` alone takes out the sub-ports of `l`, which are `lp` or none: `lp` then is flushed already. -/
theorem takenOut_modSub {l : List Nat} {lp : Nat} {f : SubPort → SubPort} {d : Dev} (hl : ∀ i ∈ l, i = lp)
    (hlock : ∀ p, (f p).lock = p.lock)
    (hstate : ∀ p, (f p).state = if lp ∈ l then (if p.lock then .aligning else .training) else p.state)
    (hfresh : ∀ p, p.fresh = true → (f p).fresh = true) (hflushed : lp ∈ l → (sub d lp).fresh = true) :
    TakenOut l d (modSub lp f d) := by
  have hother : ∀ i, lp ≠ i → i ∉ l := fun i h hi => h (hl i hi).symm
  refine ⟨rfl, fun _ _ => rfl, fun i => ?_, fun i => ?_, fun i hi => ?_⟩ <;> rcases eq_or_ne lp i with rfl | h
  · rw [sub_modSub_self, hlock]
  · rw [sub_modSub_ne _ _ _ _ h]
  · rw [sub_modSub_self, hstate]
  · rw [sub_modSub_ne _ _ _ _ h, if_neg (hother i h)]
  · rw [sub_modSub_self]
    exact hfresh _ (hi.elim hflushed id)
  · rw [sub_modSub_ne _ _ _ _ h]
    exact hi.resolve_left (hother i h)

/-- A change of a sub-port that keeps its state and its lock, and a fresh flag that is set, takes no sub-port out. -/
theorem portsStay_modSub {lp : Nat} {f : SubPort → SubPort} {d : Dev} (hlock : ∀ p, (f p).lock = p.lock)
    (hstate : ∀ p, (f p).state = p.state) (hfresh : ∀ p, p.fresh = true → (f p).fresh = true) :
    PortsStay d (modSub lp f d) :=
  takenOut_modSub (by simp) hlock (by simpa using hstate) hfresh (by simp)

theorem portsStay_setEvt_bpm (i : Nat) (d : Dev) : PortsStay d (setEvt oBpmEvt i d) :=
  .of_eq rfl (fun _ hoff => rg_putReg_ne _ _ _ d hoff.symm) rfl

theorem portsStay_gather (dst status detail : Nat) (body : Bytes) (d : Dev) : PortsStay d (gather dst status detail body d) := by
  unfold gather
  split
  · exact .refl d
  · dsimp only
    split <;> exact portsStay_modSw _ d

theorem portsStay_relevel (d : Dev) : PortsStay d (relevel d) := by
  unfold relevel
  refine (portsStay_modBpm _ d).trans (portsStay_each (fun i d => ?_) _ _)
  dsimp only
  split
  · exact portsStay_setEvt_bpm _ d
  · exact ((portsStay_setEvt_bpm _ d).trans (portsStay_modBpm _ _)).trans (portsStay_postEvent _ _ _)

theorem portsStay_uncharge (o : Nat) (spill : Bool) (d : Dev) : PortsStay d (uncharge o spill d) :=
  (portsStay_modBpm _ d).trans (portsStay_relevel _)

theorem portsStay_resvTake (id : Nat) (d : Dev) : PortsStay d (resvTake id d) := by
  unfold resvTake
  split
  · exact portsStay_modBpm _ d
  · exact .refl d

theorem portsStay_freeBuf (n : Nat) (d : Dev) : PortsStay d (freeBuf n d) := by
  unfold freeBuf
  split
  · exact .refl d
  · rename_i b _
    have hresv : PortsStay d (match b.resv with
        | some id => resvTake id (modBpm (fun p => { p with bufs := tdel p.bufs n }) d)
        | none => modBpm (fun p => { p with bufs := tdel p.bufs n }) d) := by
      split
      · exact (portsStay_modBpm _ d).trans (portsStay_resvTake _ _)
      · exact portsStay_modBpm _ d
    dsimp only
    split
    · exact hresv.trans (portsStay_uncharge _ _ _)
    · exact hresv

theorem portsStay_dropRef (n : Nat) (d : Dev) : PortsStay d (dropRef n d) := by
  unfold dropRef
  split
  · exact .refl d
  · split
    · exact portsStay_freeBuf n d
    · exact portsStay_modBpm _ d

/-! ### The flush (R131) and the realignment (R500) -/

theorem portsStay_flushQueues (lp : Nat) (d : Dev) : PortsStay d (flushQueues lp d) := by
  unfold flushQueues
  refine PortsStay.trans ?_ (portsStay_each (fun n d => ?_) _ _)
  · exact (portsStay_modSw _ d).trans (portsStay_modSub (fun _ => rfl) (fun _ => rfl) fun _ => id)
  · split
    · exact (portsStay_gather _ _ _ _ d).trans (portsStay_dropRef n _)
    · exact .refl d

theorem portsStay_breakFurrow (lp fid : Nat) (d : Dev) : PortsStay d (breakFurrow lp fid d) := by
  have hcell : ∀ (r : Ref) (d : Dev), PortsStay d (match buf d r.buf with
      | some b => dropRef r.buf (if r.towards lp then gather (hSrc b.hdr) 4 0 [] d else d)
      | none => d) := fun r d => by
    split
    · split
      · exact (portsStay_gather _ _ _ _ d).trans (portsStay_dropRef _ _)
      · exact portsStay_dropRef _ d
    · exact .refl d
  unfold breakFurrow
  split
  · exact .refl d
  · split
    · exact .refl d
    · rename_i f _ _
      have hbroken := ((portsStay_each hcell f.queue d).trans
        (portsStay_modTab (fun t => { t with furrows := tput t.furrows fid { f with state := .broken, queue := [] } }) _)).trans
        (portsStay_relevel _)
      dsimp only
      split
      · exact hbroken.trans (portsStay_defer _ _)
      · exact hbroken.trans (portsStay_postEvent _ _ _)

theorem portsStay_returnCredits (lp : Nat) (d : Dev) : PortsStay d (returnCredits lp d) := by
  unfold returnCredits
  exact (portsStay_each (fun _ d => portsStay_each (fun _ d => portsStay_uncharge _ _ d) _ d) _ d).trans
    (portsStay_modSub (fun _ => rfl) (fun _ => rfl) fun _ => id)

theorem portsStay_reportReplay (lp : Nat) (d : Dev) : PortsStay d (reportReplay lp d) := by
  unfold reportReplay
  exact portsStay_each (fun _ d => portsStay_gather _ _ _ _ d) _ d

/-- A flush changes no sub-port's state: those who flush set the next one. -/
theorem portsStay_flushSub (lp : Nat) (d : Dev) : PortsStay d (flushSub lp d) := by
  unfold flushSub
  have hqueues := (portsStay_flushQueues lp d).trans
    (portsStay_each (portsStay_breakFurrow lp) (furrowsOn (flushQueues lp d) lp) _)
  exact ((hqueues.trans (portsStay_reportReplay lp _)).trans (portsStay_returnCredits lp _)).trans
    (portsStay_modSub (fun _ => rfl) (fun _ => rfl) fun _ _ => rfl)

@[simp] theorem flushSub_fresh (lp : Nat) (d : Dev) : (sub (flushSub lp d) lp).fresh = true := by
  unfold flushSub
  rw [sub_modSub_self]

/-- The sub-ports a realignment takes out of service: those of the fabric that are aligning, in SERVICE or in HOLD. -/
def realigns (d : Dev) : List Nat :=
  (allSubs d).filter fun lp =>
    !isEdge d lp && ((sub d lp).state == .aligning || (sub d lp).state == .service || (sub d lp).state == .hold)

/-- One sub-port flushed and put back to training or alignment. -/
def takeOut (lp : Nat) (d : Dev) : Dev :=
  modSub lp (fun p => { p with state := if p.lock then .aligning else .training, unreach := false, holdCount := 0, told := [] })
    (flushSub lp d)

theorem realign_eq (d : Dev) :
    realign d = let e := each (realigns d) takeOut d
      { e with clk := { e.clk with realigned := true } } := rfl

theorem takeOut_takenOut (lp : Nat) (d : Dev) : TakenOut [lp] d (takeOut lp d) :=
  TakenOut.trans (portsStay_flushSub lp d)
    (takenOut_modSub (by simp) (fun _ => rfl) (by simp) (fun _ => id) fun _ => flushSub_fresh lp d)

/-- A realignment takes out of service just these, and marks the clock realigned. -/
theorem realign_takenOut (d : Dev) :
    TakenOut (realigns d) { d with clk := { d.clk with realigned := true } } (realign d) := by
  obtain ⟨hclk, hrg, hlock, hstate, hfresh⟩ := takenOut_each takeOut_takenOut (realigns d) d
  rw [List.flatMap_singleton'] at hstate hfresh
  rw [realign_eq]
  exact ⟨congrArg (fun c : Clock => { c with realigned := true }) hclk, hrg, hlock, hstate, hfresh⟩

theorem realign_clk (d : Dev) : (realign d).clk = { d.clk with realigned := true } := (realign_takenOut d).clk

theorem nsCfg_realign (d : Dev) : nsCfg (realign d) = nsCfg d :=
  congrArg (fun v => bits v 0 16) ((realign_takenOut d).regs oSwathCfg (by decide))

theorem rg_portCfg_realign (d : Dev) (p : Nat) : rg (realign d) (oPortCfg p) = rg d (oPortCfg p) :=
  (realign_takenOut d).regs (oPortCfg p) (by unfold oPortCfg oBpmEvt; omega)

theorem isEdge_realign (d : Dev) (lp : Nat) : isEdge (realign d) lp = isEdge d lp := by
  rw [isEdge, flag, rg_portCfg_realign, isEdge, flag]

theorem subsOf_realign (d : Dev) (p : Nat) : subsOf (realign d) p = subsOf d p := by
  simp only [subsOf, breakout, fld, rg_portCfg_realign]

theorem allSubs_realign (d : Dev) : allSubs (realign d) = allSubs d :=
  congrArg ((List.range 64).flatMap ·) (funext (subsOf_realign d))

theorem mem_realigns {d : Dev} {lp : Nat} :
    lp ∈ realigns d ↔ lp ∈ allSubs d ∧ isEdge d lp = false ∧ (sub d lp).state ∈ [PortState.aligning, .service, .hold] := by
  simp [realigns, or_assoc]

/-- A sub-port that the realignment takes out of service trains or aligns again, flushed. -/
theorem sub_realign_of_mem {d : Dev} {lp : Nat} (h : lp ∈ realigns d) :
    (sub (realign d) lp).state = (if (sub d lp).lock then .aligning else .training) ∧ (sub (realign d) lp).fresh = true :=
  ⟨((realign_takenOut d).state lp).trans (if_pos h), (realign_takenOut d).fresh lp (.inl h)⟩

theorem state_realign_of_not_mem {d : Dev} {lp : Nat} (h : lp ∉ realigns d) :
    (sub (realign d) lp).state = (sub d lp).state :=
  ((realign_takenOut d).state lp).trans (if_neg h)

/-- After a realignment no fabric sub-port is in SERVICE, so nothing forbids a new length. -/
theorem fabricService_realign (d : Dev) : fabricService (realign d) none = false := by
  unfold fabricService
  rw [List.any_eq_false, allSubs_realign]
  intro lp hsub
  rw [isEdge_realign]
  by_cases h : lp ∈ realigns d
  · rw [(sub_realign_of_mem h).1]
    split <;> simp
  · rw [state_realign_of_not_mem h]
    refine fun hserv => h (mem_realigns.2 ⟨hsub, ?_⟩)
    simp only [Bool.and_eq_true, Bool.not_eq_true', beq_iff_eq] at hserv
    obtain ⟨⟨-, hfab⟩, hserv⟩ := hserv
    exact ⟨hfab, by simp [hserv]⟩

/-! ### Writes of SWATH_CFG (R25, R26, R500) -/

section
variable {v : Nat} {d z : Dev}

/-- What a write of SWATH_CFG finds in place once bit 16 has realigned the ports. -/
def beforeLength (v : Nat) (d : Dev) : Dev := if v.testBit 16 then realign d else d

theorem beforeLength_plain (h : v.testBit 16 = false) : beforeLength v d = d := by simp [beforeLength, h]
theorem beforeLength_realign (h : v.testBit 16 = true) : beforeLength v d = realign d := by simp [beforeLength, h]

theorem writeSwathCfg_eq (hz : beforeLength v d = z) :
    writeSwathCfg v d = if !lenOk (bits v 0 16) || bits v 0 16 == nsCfg z then z
      else if fabricService z none then setEvt oSwathStat 9 z else putFld oSwathCfg 0 16 (bits v 0 16) z := by
  subst hz
  rfl

theorem writeSwathCfg_ignored (hz : beforeLength v d = z) (h : lenOk (bits v 0 16) = false ∨ bits v 0 16 = nsCfg z) :
    writeSwathCfg v d = z := by
  rw [writeSwathCfg_eq hz, if_pos (by simpa using h)]

theorem writeSwathCfg_refused (hz : beforeLength v d = z) (hok : lenOk (bits v 0 16) = true) (hne : bits v 0 16 ≠ nsCfg z)
    (hs : fabricService z none = true) : writeSwathCfg v d = setEvt oSwathStat 9 z := by
  rw [writeSwathCfg_eq hz, if_neg (by simpa [hok] using hne), if_pos hs]

theorem writeSwathCfg_stored (hz : beforeLength v d = z) (hok : lenOk (bits v 0 16) = true) (hne : bits v 0 16 ≠ nsCfg z)
    (hs : fabricService z none = false) : writeSwathCfg v d = putFld oSwathCfg 0 16 (bits v 0 16) z := by
  rw [writeSwathCfg_eq hz, if_neg (by simpa [hok] using hne), hs, if_neg Bool.false_ne_true]

end

/-- SWATH_CFG has no W1C bit, so a write of it reaches its rule as it came. -/
theorem spare_swathCfg (v : Nat) (d : Dev) : spare oSwathCfg v d = v := by
  simp [spare, oSwathCfg, regOf, regSwath, r32, rwIf, wo]

theorem writeReg_swathCfg (v : Nat) (d : Dev) (h : d.boot.recovery = false) : writeReg oSwathCfg v d = writeSwathCfg v d := by
  unfold writeReg
  simp only [spare_swathCfg, h]
  simp [oSwathCfg]

/-- The value SWATH_REALIGN writes has the length of its operand and bit 16 set. -/
theorem bits_withRealign (v : Nat) : bits (setBits v 16 1 1) 0 16 = bits v 0 16 := bits_setBits_apart (.inr (by decide))

theorem testBit_withRealign (v : Nat) : (setBits v 16 1 1).testBit 16 = true := by
  simp [testBit_setBits]

theorem withRealign_of_testBit {v : Nat} (h : v.testBit 16 = true) : setBits v 16 1 1 = v := by
  refine Nat.eq_of_testBit_eq fun i => ?_
  rw [testBit_setBits]
  split
  · rw [show i = 16 by omega, h]
    decide
  · rfl

/-- On a machine that is ON, a command writing SWATH_CFG does what the register's own rule does with its value. -/
theorem exec_swathCfgWrite {s : State} (v : BitVec 32) (hs : s.live) (hr : s.dev.boot.recovery = false) :
    exec (.swathCfgWrite v) s = .next { s with dev := settle (writeSwathCfg v.toNat s.dev) } :=
  writeReg_swathCfg v.toNat s.dev hr ▸ act_next (.swathCfgWrite v) (writeReg oSwathCfg v.toNat) s rfl hs.1

theorem exec_swathRealign {s : State} (v : BitVec 32) (hs : s.live) (hr : s.dev.boot.recovery = false) :
    exec (.swathRealign v) s = .next { s with dev := settle (writeSwathCfg (setBits v.toNat 16 1 1) s.dev) } :=
  writeReg_swathCfg (setBits v.toNat 16 1 1) s.dev hr ▸
    act_next (.swathRealign v) (writeReg oSwathCfg (setBits v.toNat 16 1 1)) s rfl hs.1

end Sys2Proof.Machine

open Sys2Proof Sys2Proof.Machine

/-- Settles O12: a write is the register's rule, case by case; a realignment leaves no fabric sub-port in SERVICE and the length
register as it was, so after it the rule only ignores or stores. -/
theorem swathConfigWrites : Obligations.SwathConfigWrites := by
  unfold Obligations.SwathConfigWrites
  intro s v hs hr n z
  have hlen := bits_withRealign v.toNat
  have hz := beforeLength_realign (d := s.dev) (testBit_withRealign v.toNat)
  refine ⟨fun hplain => ⟨fun h => ?_, fun hok hne => ⟨fun hfree => ?_, fun hserv => ?_⟩⟩, fun hbit => ?_, fun h => ?_,
    fun hok hne => ?_, realign_clk s.dev, fun lp hsub hfab hst => ?_, fun lp hedge => ?_⟩
  · rw [exec_swathCfgWrite v hs hr, writeSwathCfg_ignored (beforeLength_plain hplain) h, settle_quiet _ hs.2]
  · rw [exec_swathCfgWrite v hs hr, writeSwathCfg_stored (beforeLength_plain hplain) hok hne hfree,
      settle_quiet _ ((calm_putFld _ _ _ _ s.dev).quiet hs.2)]
  · rw [exec_swathCfgWrite v hs hr, writeSwathCfg_refused (beforeLength_plain hplain) hok hne hserv,
      settle_quiet _ ((calm_setEvt _ _ s.dev).quiet hs.2)]
  · rw [exec_swathCfgWrite v hs hr, exec_swathRealign v hs hr, withRealign_of_testBit hbit]
  · rw [exec_swathRealign v hs hr, writeSwathCfg_ignored hz (by rwa [hlen, nsCfg_realign])]
  · rw [exec_swathRealign v hs hr, writeSwathCfg_stored hz (by rwa [hlen]) (by rwa [hlen, nsCfg_realign])
      (fabricService_realign s.dev), hlen]
  · exact sub_realign_of_mem (mem_realigns.2 ⟨hsub, hfab, hst⟩)
  · exact state_realign_of_not_mem fun h => by simp [(mem_realigns.1 h).2.1] at hedge

end

section
/-! SUPPORT. What `exec` answers, in its three forms; then what it leaves on the list of work. -/

set_option Elab.async false

namespace Sys2Proof.Machine

open Sys2Proof

/-- Every command is run by `act`, by `actMem` with its memory errors, or, if it is one of the module's power, by `actPower`. -/
theorem exec_forms (c : Instr) :
    (∃ f, ∀ s, exec c s = act c settle f s) ∨ (∃ errs f, ∀ s, exec c s = actMem c errs settle f s)
      ∨ ∃ f, powerCmd c = some f ∧ ∀ s, exec c s = actPower c settle f s := by
  rcases hp : powerCmd c with _ | f
  · rcases hm : memCmd c with _ | errs
    · exact .inl (exec_act c hp hm)
    · obtain ⟨f, hf⟩ := exec_mem c errs hm
      exact .inr (.inl ⟨errs, f, hf⟩)
  · exact .inr (.inr ⟨f, rfl, exec_power c f hp⟩)

theorem act_answers (c : Instr) (g f : Dev → Dev) (s : State) : ∃ d, act c g f s = .next { s with dev := d } := by
  unfold act
  split
  · split
    · exact ⟨_, rfl⟩
    · exact ⟨s.dev, rfl⟩
  · exact ⟨s.dev, rfl⟩

theorem act_illFormed {c : Instr} (h : wellFormed c = false) (g f : Dev → Dev) (s : State) : act c g f s = .next s := by
  simp [act, h]

theorem actPower_answers (c : Instr) (g f : Dev → Dev) (s : State) : ∃ d, actPower c g f s = .next { s with dev := d } := by
  unfold actPower
  split
  · exact ⟨_, rfl⟩
  · exact ⟨s.dev, rfl⟩

theorem actPower_illFormed {c : Instr} (h : wellFormed c = false) (g f : Dev → Dev) (s : State) :
    actPower c g f s = .next s := by
  simp [actPower, h]

/-- What a command answers is the state with another device. -/
theorem exec_answers (c : Instr) (s : State) : ∃ d, exec c s = .next { s with dev := d } := by
  rcases exec_forms c with ⟨f, h⟩ | ⟨errs, f, h⟩ | ⟨f, -, h⟩
  · rw [h]; exact act_answers c settle f s
  · rw [h]; exact act_answers c _ _ s
  · rw [h]; exact actPower_answers c settle f s

theorem exec_illFormed {c : Instr} (hw : wellFormed c = false) (s : State) : exec c s = .next s := by
  rcases exec_forms c with ⟨f, h⟩ | ⟨errs, f, h⟩ | ⟨f, -, h⟩
  · rw [h, act_illFormed hw]
  · rw [h, actMem, act_illFormed hw]
  · rw [h, actPower_illFormed hw]

/-! ### The work list -/

@[simp] theorem unmeet_todo (errs : List MemErr) (d : Dev) : (unmeet errs d).todo = d.todo := by
  unfold unmeet
  split <;> rfl

/-- Where the end of a command clears the list, `act` leaves nothing on a list that was empty. -/
theorem act_todo {c : Instr} {g f : Dev → Dev} {s t : State} (hg : ∀ d, (g d).todo = []) (h : act c g f s = .next t)
    (hs : s.dev.todo = []) : t.dev.todo = [] := by
  unfold act at h
  split at h
  · split at h
    · obtain rfl := Host.Outcome.next.inj h
      exact hg _
    · obtain rfl := Host.Outcome.next.inj h
      exact hs
  · obtain rfl := Host.Outcome.next.inj h
    exact hs

theorem actPower_todo {c : Instr} {f : Dev → Dev} {s t : State} (hf : ∀ d, (f d).boot.power ≠ .on → (f d).todo = d.todo)
    (h : actPower c settle f s = .next t) (hs : s.dev.todo = []) : t.dev.todo = [] := by
  unfold actPower at h
  split at h
  · obtain rfl := Host.Outcome.next.inj h
    dsimp only
    split
    · exact settle_todo _
    · next hp => rw [hf _ hp, hs]
  · obtain rfl := Host.Outcome.next.inj h
    exact hs

/-! ### The retirement log at a reset (R403) -/

/-- `d'` is `d` but for its GDDR7, registers, the cycles of their W1C bits and the work left. -/
def MemOnly (d d' : Dev) : Prop := ∃ m r e t, d' = { d with mem := m, regs := r, evt := e, todo := t }

theorem MemOnly.refl (d : Dev) : MemOnly d d := ⟨d.mem, d.regs, d.evt, d.todo, rfl⟩

theorem MemOnly.then {a b c : Dev} (h : MemOnly a b) (k : MemOnly b c) : MemOnly a c := by
  obtain ⟨m, r, e, t, rfl⟩ := h
  obtain ⟨m', r', e', t', rfl⟩ := k
  exact ⟨m', r', e', t', rfl⟩

theorem memOnly_each {α : Type} {f : α → Dev → Dev} (hf : ∀ a d, MemOnly d (f a d)) (l : List α) (d : Dev) :
    MemOnly d (each l f d) := by
  induction l generalizing d with
  | nil => exact .refl d
  | cons a l ih => exact (hf a d).then (ih (f a d))

theorem memOnly_modGddr (i : Nat) (f : Gddr → Gddr) (d : Dev) : MemOnly d (modGddr i f d) := ⟨_, d.regs, d.evt, d.todo, rfl⟩
theorem memOnly_setEvt (off i : Nat) (d : Dev) : MemOnly d (setEvt off i d) := ⟨d.mem, _, _, d.todo, rfl⟩
theorem memOnly_defer (t : Todo) (d : Dev) : MemOnly d (defer t d) := ⟨d.mem, d.regs, d.evt, _, rfl⟩

theorem memOnly_when {b : Bool} {f : Dev → Dev} {d : Dev} (h : MemOnly d (f d)) : MemOnly d (when b f d) := by
  unfold when
  split
  · exact h
  · exact .refl d

theorem memOnly_remapValid (i k : Nat) (e : Remap) (d : Dev) : MemOnly d (remapValid i k e d) :=
  (memOnly_modGddr _ _ d).then (memOnly_when (memOnly_setEvt _ _ _))

theorem memOnly_fenceRow (i row : Nat) (d : Dev) : MemOnly d (fenceRow i row d) := by
  unfold fenceRow
  dsimp only
  split
  · exact .refl d
  · split
    · exact (memOnly_modGddr _ _ d).then (memOnly_setEvt _ _ _)
    · exact memOnly_defer _ d

/-- A spare row that fails is marked, and the row it served takes its place (R338). -/
def respared (g : Gddr) (row : Nat) : Gddr × Nat :=
  match g.remap.find? (fun p => spareRow p.1 == row && p.2.valid) with
  | some (k, e) => ({ g with remap := tput g.remap k { e with spareFailed := true } }, e.row)
  | none => (g, row)

/-- A row remapped: one with a serving entry stays; else the lowest free entry serves it, or it is fenced. -/
theorem remapRow_eq (i row : Nat) (done : Bool) (d : Dev) :
    remapRow i row done d =
      let p := respared (gddr d i) row
      let d := modGddr i (fun _ => p.1) d
      if p.1.remap.any (fun x => x.2.row == p.2 && !x.2.spareFailed) then d
      else match freeRemap p.1 with
        | none => fenceRow i p.2 d
        | some k =>
          let e : Remap := { row := p.2, valid := false, spareFailed := false }
          if done then remapValid i k e d else modGddr i (fun g => { g with remap := tput g.remap k e }) d := by
  unfold remapRow respared
  generalize hf : freeRemap = f
  dsimp only <;> cases (gddr d i).remap.find? fun p => spareRow p.1 == row && p.2.valid <;> rfl

theorem memOnly_remapRow (i row : Nat) (done : Bool) (d : Dev) : MemOnly d (remapRow i row done d) := by
  rw [remapRow_eq]
  dsimp only
  have hd := memOnly_modGddr i (fun _ => (respared (gddr d i) row).1) d
  split
  · exact hd
  · refine hd.then ?_
    split
    · exact memOnly_fenceRow _ _ _
    · split
      · exact memOnly_remapValid _ _ _ _
      · exact memOnly_modGddr _ _ _

/-- What one entry of the retirement log does when it is applied. -/
def applyEntry (p : Nat × Nat) (d : Dev) : Dev :=
  match p.1 with
  | 2 => modGddr p.2 (fun g => { g with failed := true }) d
  | 3 => remapRow (p.2 / 2 ^ 24) (p.2 % 2 ^ 24) true d
  | _ => d

theorem applyLog_eq (d : Dev) : applyLog d = each d.nv.log applyEntry d := rfl

theorem memOnly_applyEntry (p : Nat × Nat) (d : Dev) : MemOnly d (applyEntry p d) := by
  unfold applyEntry
  split
  · exact memOnly_modGddr _ _ d
  · exact memOnly_remapRow _ _ _ d
  · exact .refl d

theorem memOnly_applyLog (d : Dev) : MemOnly d (applyLog d) := memOnly_each memOnly_applyEntry _ d

/-! ### Commands of the module's power -/

theorem moduleReset_power (kind : Nat) (d : Dev) : (moduleReset kind d).boot.power = d.boot.power := by
  obtain ⟨m, r, e, t, h⟩ := memOnly_applyLog { devReset with
    regs := nodeReset d.nv.fuse.serial, force := nodeReset d.nv.fuse.serial,
    ring := { devReset.ring with mem := d.ring.mem }, mem := { devReset.mem with devs := lostGddr d },
    forge := { devReset.forge with f := lostForge d }, fal := fallowReset d.fal,
    tel := { devReset.tel with mgmt := memUndef d.tel.mgmt },
    boot := { devReset.boot with
      power := d.boot.power, groups := d.boot.groups, carrier := d.boot.carrier, perst := d.boot.perst,
      nonce := Config.random d.boot.draws, draws := d.boot.draws + 1, lastReset := kind, modReset := kind,
      hostDown := decide (kind = 2) },
    nv := d.nv, free := d.free }
  unfold moduleReset
  rw [h]

theorem release_power (d : Dev) : (release d).boot.power = d.boot.power := by
  unfold release
  split <;> rfl

theorem resetNow_power (kind : Nat) (d : Dev) : (resetNow kind d).boot.power = d.boot.power := by
  unfold resetNow
  split
  · rw [moduleReset_power]; rfl
  · rw [release_power, moduleReset_power]

/-- A command of the module's power that leaves the module not ON leaves the list of work as it was. -/
theorem powerCmd_todo {c : Instr} {f : Dev → Dev} (h : powerCmd c = some f) (d : Dev) (hp : (f d).boot.power ≠ .on) :
    (f d).todo = d.todo := by
  cases c
  case inputPowerRise => cases h; unfold powerRise; split <;> rfl
  case inputPowerLoss => cases h; unfold powerLoss; split <;> rfl
  case tripExit => cases h; unfold tripExit; split <;> rfl
  case thermalTrip => cases h; unfold thermalTrip; split <;> rfl
  case railSequencing =>
    cases h
    unfold railsUp at hp ⊢
    split
    · next hs =>
      rw [if_pos hs, resetNow_power] at hp
      exact absurd rfl hp
    · rfl
  all_goals cases h

theorem exec_todo {c : Instr} {s t : State} (h : exec c s = .next t) (hs : s.dev.todo = []) : t.dev.todo = [] := by
  rcases exec_forms c with ⟨f, hf⟩ | ⟨errs, f, hf⟩ | ⟨f, hp, hf⟩
  · rw [hf] at h; exact act_todo settle_todo h hs
  · rw [hf] at h
    exact act_todo (fun d => (unmeet_todo errs _).trans (settle_todo d)) h hs
  · rw [hf] at h; exact actPower_todo (powerCmd_todo hp) h hs

end Sys2Proof.Machine

open Sys2Proof Sys2Proof.Machine

/-- Settles O1: by the definition of a step. -/
theorem stepRunsFront : Obligations.StepRunsFront := by
  unfold Obligations.StepRunsFront
  exact ⟨fun _ _ _ => rfl, fun _ => rfl⟩

/-- Settles O2: every command runs through `act`, `actMem` or `actPower`, none of which faults or refuses. -/
theorem everyCommandAnswers : Obligations.EveryCommandAnswers := by
  unfold Obligations.EveryCommandAnswers
  exact fun c s => ⟨exec_answers c s, fun hw => exec_illFormed hw s⟩

/-- Settles O4: a command ends in `settle`, or it is one of the module's power that leaves the module not ON and adds no work. -/
theorem stepLeavesNoWork : Obligations.StepLeavesNoWork := by
  unfold Obligations.StepLeavesNoWork
  intro s t h hs
  unfold step at h
  split at h
  · obtain rfl := Host.Outcome.next.inj h
    exact hs
  · exact exec_todo h hs

end

section
/-! SUPPORT. Module resets: the retirement log fits, so nothing is left to do; what a reset leaves (R403, R413 to R416, R468). -/

set_option Elab.async false

namespace Sys2Proof.Machine

/-! ### Registers at their reset values -/

theorem regReset_sqCtl {q : Nat} (h : q < 64) : regReset (oSqCtl q) = 4 := by
  have all : ∀ q < 64, regReset (oSqCtl q) = 4 := by decide
  exact all q h

theorem regReset_cqCtl {c : Nat} (h : c < 64) : regReset (oCqCtl c) = 4 := by
  have all : ∀ c < 64, regReset (oCqCtl c) = 4 := by decide
  exact all c h

theorem rg_devReset {off : Nat} (h : off ≠ 8) : rg devReset off = regReset off := by
  rw [rg, tgetD, devReset, nodeReset, tget, if_neg (Ne.symm h)]
  rfl

/-! ### The remap entries a log takes -/

@[simp] theorem gddr_modGddr_self (i : Nat) (f : Gddr → Gddr) (d : Dev) : gddr (modGddr i f d) i = f (gddr d i) := by
  simp [gddr, modGddr, modMem]

theorem gddr_modGddr_ne {i j : Nat} (h : i ≠ j) (f : Gddr → Gddr) (d : Dev) : gddr (modGddr i f d) j = gddr d j := by
  simp [gddr, modGddr, modMem, tgetD_tput_ne _ _ _ _ _ h]

@[simp] theorem gddr_setEvt (off b : Nat) (d : Dev) (i : Nat) : gddr (setEvt off b d) i = gddr d i := rfl

@[simp] theorem gddr_when_setEvt (c : Bool) (off b : Nat) (d : Dev) (i : Nat) :
    gddr (when c (setEvt off b) d) i = gddr d i := by
  cases c <;> rfl

/-- The remap entries of a device that are taken (R338). -/
def usedEntries (t : Tab Remap) : Finset Nat := (Finset.range 1024).filter fun k => (tget t k).isSome

/-- The rows of a device that are remapped or fenced. -/
def rowsTaken (g : Gddr) : Nat := (usedEntries g.remap).card + g.fenced.length

/-- An entry written takes at most one more place, and none if it was taken. -/
theorem usedEntries_put (t : Tab Remap) (k : Nat) (e : Remap) : usedEntries (tput t k e) ⊆ insert k (usedEntries t) := by
  intro j hj
  simp only [usedEntries, Finset.mem_filter, Finset.mem_range, tget_tput, Finset.mem_insert] at hj ⊢
  obtain ⟨hlt, hsome⟩ := hj
  split at hsome
  · next h => exact .inl h.symm
  · exact .inr ⟨hlt, hsome⟩

theorem tget_isSome_of_mem {α : Type} {t : Tab α} {k : Nat} {a : α} (h : (k, a) ∈ t) : (tget t k).isSome := by
  induction t with
  | nil => cases h
  | cons p t ih =>
    obtain ⟨j, b⟩ := p
    unfold tget
    split
    · rfl
    · next hne =>
      refine ih ((List.mem_cons.1 h).resolve_left fun heq => hne ?_)
      exact (congrArg Prod.fst heq).symm

/-- Marking a spare row as failed takes no further place. -/
theorem rowsTaken_respared (g : Gddr) (row : Nat) : rowsTaken (respared g row).1 ≤ rowsTaken g := by
  unfold respared
  split
  · next k e h =>
    refine Nat.add_le_add_right (Finset.card_le_card fun j hj => ?_) _
    rcases Finset.mem_insert.1 (usedEntries_put g.remap k _ hj) with rfl | hj'
    · simp only [usedEntries, Finset.mem_filter] at hj ⊢
      exact ⟨hj.1, tget_isSome_of_mem (List.mem_of_find?_eq_some h)⟩
    · exact hj'
  · exact le_refl _

/-- With no entry free, all 1,024 are taken. -/
theorem usedEntries_full {g : Gddr} (h : freeRemap g = none) : (usedEntries g.remap).card = 1024 := by
  have hall : usedEntries g.remap = Finset.range 1024 := by
    refine Finset.filter_true_of_mem fun k hk => ?_
    have := List.find?_eq_none.1 h k (by simpa using hk)
    simpa [Option.isSome_iff_ne_none] using this
  rw [hall, Finset.card_range]

/-- A row fenced while there is room for it is on the list, and nothing is left to do. -/
theorem fenceRow_room {i row : Nat} {d : Dev} (h : (gddr d i).fenced.length < 64) :
    (fenceRow i row d).todo = d.todo ∧ rowsTaken (gddr (fenceRow i row d) i) ≤ rowsTaken (gddr d i) + 1
      ∧ ∀ j, i ≠ j → gddr (fenceRow i row d) j = gddr d j := by
  unfold fenceRow
  dsimp only
  split
  · exact ⟨rfl, Nat.le_succ _, fun _ _ => rfl⟩
  · refine ⟨rfl, ?_, fun j hj => ?_⟩
    · rw [gddr_setEvt, gddr_modGddr_self]
      simp only [rowsTaken, List.length_cons]
      omega
    · rw [gddr_setEvt, gddr_modGddr_ne hj]

theorem rowsTaken_put (g : Gddr) (k : Nat) (e : Remap) : rowsTaken { g with remap := tput g.remap k e } ≤ rowsTaken g + 1 := by
  have := (Finset.card_le_card (usedEntries_put g.remap k e)).trans (Finset.card_insert_le _ _)
  simp only [rowsTaken] at this ⊢
  omega

theorem remapValid_takes (i k : Nat) (e : Remap) (d : Dev) :
    (remapValid i k e d).todo = d.todo ∧ rowsTaken (gddr (remapValid i k e d) i) ≤ rowsTaken (gddr d i) + 1
      ∧ ∀ j, i ≠ j → gddr (remapValid i k e d) j = gddr d j := by
  refine ⟨?_, ?_, fun j hj => ?_⟩
  · unfold remapValid when
    dsimp only
    split <;> rfl
  · unfold remapValid
    rw [gddr_when_setEvt, gddr_modGddr_self]
    exact rowsTaken_put _ _ _
  · unfold remapValid
    rw [gddr_when_setEvt, gddr_modGddr_ne hj]

/-- A row of the log takes at most one place of its device, while the device has one. -/
theorem remapRow_room {i row : Nat} {d : Dev} (h : rowsTaken (gddr d i) < 1088) :
    (remapRow i row true d).todo = d.todo ∧ rowsTaken (gddr (remapRow i row true d) i) ≤ rowsTaken (gddr d i) + 1
      ∧ ∀ j, i ≠ j → gddr (remapRow i row true d) j = gddr d j := by
  have hle := rowsTaken_respared (gddr d i) row
  rw [remapRow_eq]
  dsimp only
  generalize hp : respared (gddr d i) row = p at hle ⊢
  have hself : gddr (modGddr i (fun _ => p.1) d) i = p.1 := gddr_modGddr_self _ _ _
  split
  · exact ⟨rfl, by rw [hself]; omega, fun j hj => gddr_modGddr_ne hj _ _⟩
  · split
    · next hnone =>
      have hroom : (gddr (modGddr i (fun _ => p.1) d) i).fenced.length < 64 := by
        have := usedEntries_full hnone
        rw [hself]
        unfold rowsTaken at hle h
        omega
      obtain ⟨ht, hr, ho⟩ := fenceRow_room (row := p.2) hroom
      exact ⟨ht, by rw [hself] at hr; omega, fun j hj => (ho j hj).trans (gddr_modGddr_ne hj _ _)⟩
    · next k _ =>
      obtain ⟨ht, hr, ho⟩ := remapValid_takes i k { row := p.2, valid := false, spareFailed := false } (modGddr i (fun _ => p.1) d)
      rw [if_pos rfl]
      exact ⟨ht, by rw [hself] at hr; omega, fun j hj => (ho j hj).trans (gddr_modGddr_ne hj _ _)⟩

/-- Entries of a log that name a row of device `i`. -/
def rowsLogged (l : List (Nat × Nat)) (i : Nat) : Nat := (l.filter (fun p => p.1 == 3 && p.2 / 2 ^ 24 == i)).length

/-- A log that names no more rows of a device than it has places for leaves nothing to do. -/
theorem applyLog_room (l : List (Nat × Nat)) (d : Dev) (h : ∀ i, rowsTaken (gddr d i) + rowsLogged l i ≤ 1088) :
    (each l applyEntry d).todo = d.todo := by
  induction l generalizing d with
  | nil => rfl
  | cons p l ih =>
    suffices hone : (applyEntry p d).todo = d.todo ∧ ∀ i, rowsTaken (gddr (applyEntry p d) i) + rowsLogged l i ≤ 1088 from
      (ih _ hone.2).trans hone.1
    obtain ⟨kind, idx⟩ := p
    have hcons : ∀ i, rowsLogged ((kind, idx) :: l) i = rowsLogged l i + if kind = 3 ∧ idx / 2 ^ 24 = i then 1 else 0 := by
      intro i
      simp only [rowsLogged, List.filter_cons]
      by_cases hk : kind = 3 ∧ idx / 2 ^ 24 = i
      · rw [if_pos (by simpa using hk), if_pos hk, List.length_cons]
      · rw [if_neg (by simpa using hk), if_neg hk, Nat.add_zero]
    have hle : ∀ i, rowsTaken (gddr d i) + rowsLogged l i ≤ 1088 := fun i =>
      le_trans (by rw [hcons]; omega) (h i)
    unfold applyEntry
    split
    · refine ⟨rfl, fun i => ?_⟩
      rcases eq_or_ne idx i with rfl | hne
      · rw [gddr_modGddr_self]; exact hle idx
      · rw [gddr_modGddr_ne hne]; exact hle i
    · next hkind =>
      have hthis := h (idx / 2 ^ 24)
      rw [hcons, if_pos ⟨hkind, rfl⟩] at hthis
      obtain ⟨ht, hr, ho⟩ := remapRow_room (i := idx / 2 ^ 24) (row := idx % 2 ^ 24) (d := d) (by omega)
      refine ⟨ht, fun i => ?_⟩
      rcases eq_or_ne (idx / 2 ^ 24) i with rfl | hne
      · dsimp only; omega
      · dsimp only; rw [ho i hne]; exact hle i
    · exact ⟨rfl, hle⟩

/-! ### What a module reset leaves -/

/-- A module reset before the retirement log is applied. -/
def resetBase (kind : Nat) (d : Dev) : Dev :=
  { devReset with
    regs := nodeReset d.nv.fuse.serial, force := nodeReset d.nv.fuse.serial,
    ring := { ringsZero with mem := d.ring.mem }, mem := { memsZero with devs := lostGddr d },
    forge := { forgesZero with f := lostForge d }, fal := fallowReset d.fal,
    tel := { telemZero with mgmt := memUndef d.tel.mgmt },
    boot := { bootZero with
      power := d.boot.power, groups := d.boot.groups, carrier := d.boot.carrier, perst := d.boot.perst,
      nonce := Config.random d.boot.draws, draws := d.boot.draws + 1, lastReset := kind, modReset := kind,
      hostDown := decide (kind = 2) },
    nv := d.nv, free := d.free }

theorem moduleReset_eq (kind : Nat) (d : Dev) : moduleReset kind d = applyLog (resetBase kind d) := rfl

theorem tget_range_map {α : Type} (n : Nat) (f : Nat → α) (i : Nat) :
    tget ((List.range n).map fun j => (j, f j)) i = if i < n then some (f i) else none := by
  have key : ∀ l : List Nat, tget (l.map fun j => (j, f j)) i = if i ∈ l then some (f i) else none := fun l => by
    induction l with
    | nil => rfl
    | cons j l ih =>
      rw [List.map_cons, tget, ih]
      by_cases hj : j = i
      · subst hj; simp
      · simp [hj, Ne.symm hj]
  simpa using key (List.range n)

theorem rowsTaken_resetBase (kind : Nat) (d : Dev) (i : Nat) : rowsTaken (gddr (resetBase kind d) i) = 0 := by
  have hempty : (gddr (resetBase kind d) i).remap = [] ∧ (gddr (resetBase kind d) i).fenced = [] := by
    unfold gddr resetBase lostGddr
    dsimp only
    rw [tgetD, tget_range_map]
    split <;> exact ⟨rfl, rfl⟩
  rw [rowsTaken, usedEntries, hempty.1, hempty.2]
  simp [tget]

/-- Where the retirement log fits, a reset leaves nothing to do. -/
theorem moduleReset_todo {d : Dev} (kind : Nat) (h : d.logFits) : (moduleReset kind d).todo = [] := by
  rw [moduleReset_eq, applyLog_eq]
  refine applyLog_room _ _ fun i => ?_
  rw [rowsTaken_resetBase, Nat.zero_add]
  exact h i

/-- After a reset nothing is left for the end of a step. -/
theorem moduleReset_quiet {d : Dev} (kind : Nat) (h : d.logFits) : (moduleReset kind d).quiet := by
  have ht := moduleReset_todo kind h
  obtain ⟨m, r, e, t, heq⟩ := memOnly_applyLog (resetBase kind d)
  rw [moduleReset_eq, heq] at ht ⊢
  subst ht
  refine ⟨rfl, ?_, ?_, ?_⟩ <;> exact fun _ hx => nomatch hx

theorem moduleReset_wasReset (kind : Nat) (d : Dev) (hp : d.boot.power = .on) :
    d.wasReset kind { moduleReset kind d with boot := { (moduleReset kind d).boot with
      perst := if kind = 2 then false else d.boot.perst,
      stage := if kind ≠ 2 ∧ d.boot.perst = true then 1 else 0 } } := by
  obtain ⟨m, r, e, t, heq⟩ := memOnly_applyLog (resetBase kind d)
  rw [moduleReset_eq, heq]
  exact ⟨rfl, rfl, rfl, rfl, rfl, rfl, rfl, rfl, rfl, rfl, rfl, rfl, hp, rfl, rfl, rfl, rfl, rfl⟩

end Sys2Proof.Machine

open Sys2Proof Sys2Proof.Machine

/-- Settles O5: no register but GLB_NODE is listed at reset, so each reads the value its layout gives. -/
theorem resetValues : Obligations.ResetValues := by
  unfold Obligations.ResetValues
  intro d
  refine ⟨rfl, fun off => rg_devReset, rfl, rfl, rfl, rfl, rfl, rfl, rfl, rfl, rfl, rfl, rfl, fun _ => rfl, rfl, rfl, rfl,
    rfl, rfl, rfl, fun q hq => ?_, fun c hc => ?_, by decide, fun _ _ => rfl, rfl, rfl, rfl⟩
  · show (rg devReset (oSqCtl q)).testBit 11 = false
    rw [rg_devReset (by unfold oSqCtl; omega), regReset_sqCtl hq]
    decide
  · show (rg devReset (oCqCtl c)).testBit 12 = false
    rw [rg_devReset (by unfold oCqCtl; omega), regReset_cqCtl hc]
    decide

end

section
/-! SUPPORT. Power states, the thermal limits, and the resets (R405, R413 to R416, R448, R487 to R489). -/

set_option Elab.async false

namespace Sys2Proof.Machine

open Sys2Proof

/-! ### Module resets -/

/-- A module reset in one line: what `moduleReset` leaves, and start-up through its first step where PERST# is high. -/
theorem resetNow_wasReset {d : Dev} (kind : Nat) (hp : d.boot.power = .on) : d.wasReset kind (resetNow kind d) := by
  unfold resetNow
  split
  · next hk =>
    subst hk
    obtain ⟨m, r, e, t, heq⟩ := memOnly_applyLog (resetBase 2 (modBoot (fun b => { b with perst := false }) d))
    rw [moduleReset_eq, heq]
    exact ⟨rfl, rfl, rfl, rfl, rfl, rfl, rfl, rfl, rfl, rfl, rfl, rfl, hp, rfl, rfl, rfl, rfl, rfl⟩
  · next hk =>
    obtain ⟨m, r, e, t, heq⟩ := memOnly_applyLog (resetBase kind d)
    rw [moduleReset_eq, heq, release]
    have hperst : (if kind = 2 then false else d.boot.perst) = d.boot.perst := if_neg hk
    split
    · next hr =>
      refine ⟨rfl, rfl, rfl, rfl, rfl, rfl, rfl, rfl, rfl, rfl, rfl, rfl, hp, rfl, hperst.symm, ?_, rfl, rfl⟩
      exact (if_pos ⟨hk, hr.1⟩).symm
    · next hr =>
      refine ⟨rfl, rfl, rfl, rfl, rfl, rfl, rfl, rfl, rfl, rfl, rfl, rfl, hp, rfl, hperst.symm, ?_, rfl, rfl⟩
      exact (if_neg fun h => hr ⟨h.2, rfl⟩).symm

theorem quiet_modBoot {f : Boot → Boot} {d : Dev} (h : d.quiet) : (modBoot f d).quiet := h

theorem resetNow_quiet {d : Dev} (kind : Nat) (h : d.logFits) : (resetNow kind d).quiet := by
  unfold resetNow
  split
  · exact moduleReset_quiet 2 (d := modBoot _ d) h
  · unfold release
    split
    · exact quiet_modBoot (moduleReset_quiet kind h)
    · exact moduleReset_quiet kind h

/-- A reset of the module leaves its rail groups and its flash carrier. -/
theorem resetNow_carrier (kind : Nat) (d : Dev) :
    (resetNow kind d).boot.groups = d.boot.groups ∧ (resetNow kind d).boot.carrier = d.boot.carrier := by
  have hbase : ∀ k (x : Dev), (moduleReset k x).boot.groups = x.boot.groups ∧ (moduleReset k x).boot.carrier = x.boot.carrier :=
    fun k x => by
      obtain ⟨m, r, e, t, heq⟩ := memOnly_applyLog (resetBase k x)
      rw [moduleReset_eq, heq]
      exact ⟨rfl, rfl⟩
  unfold resetNow
  split
  · exact hbase 2 _
  · unfold release
    split <;> exact hbase kind d

/-- A command that resets the module answers the reset machine. -/
theorem act_reset {c : Instr} {s : State} (kind : Nat) (hw : wellFormed c = true) (hp : s.dev.boot.power = .on)
    (h : s.dev.logFits) :
    ∃ d, act c settle (resetNow kind) s = .next { s with dev := d } ∧ s.dev.wasReset kind d :=
  ⟨_, act_quiet c _ s hw hp (resetNow_quiet kind h), resetNow_wasReset kind hp⟩

/-! ### Power states -/

/-- A command of the module's power that leaves the module not ON answers its effect alone. -/
theorem actPower_notOn {c : Instr} {f : Dev → Dev} {s : State} (hw : wellFormed c = true) (hp : (f s.dev).boot.power ≠ .on) :
    actPower c settle f s = .next { s with dev := f s.dev } := by
  simp [actPower, hw, hp]

theorem actPower_quiet {c : Instr} {f : Dev → Dev} {s : State} (hw : wellFormed c = true) (hq : (f s.dev).quiet) :
    actPower c settle f s = .next { s with dev := f s.dev } := by
  simp [actPower, hw, settle_quiet _ hq]

theorem exec_inputPowerRise {s : State} (h : s.dev.boot.power = .off) :
    exec .inputPowerRise s = .next { s with dev := modBoot (fun b => { b with power := .sequencing, groups := 0 }) s.dev } := by
  have hf : powerRise s.dev = modBoot (fun b => { b with power := .sequencing, groups := 0 }) s.dev := if_pos h
  rw [exec_power .inputPowerRise _ rfl, actPower_notOn rfl (by rw [hf]; simp [modBoot]), hf]

theorem exec_inputPowerLoss {s : State} (h : s.dev.boot.power = .on ∨ s.dev.boot.power = .sequencing) :
    exec .inputPowerLoss s = .next { s with dev := modBoot (fun b => { b with power := .off, groups := 0 }) s.dev } := by
  have hf : powerLoss s.dev = modBoot (fun b => { b with power := .off, groups := 0 }) s.dev := if_pos h
  rw [exec_power .inputPowerLoss _ rfl, actPower_notOn rfl (by rw [hf]; simp [modBoot]), hf]

theorem exec_tripExit {s : State} (h : s.dev.boot.power = .tripped) :
    exec .tripExit s = .next { s with dev := modBoot (fun b => { b with power := .off }) s.dev } := by
  have hf : tripExit s.dev = modBoot (fun b => { b with power := .off }) s.dev := if_pos h
  rw [exec_power .tripExit _ rfl, actPower_notOn rfl (by rw [hf]; simp [modBoot]), hf]

theorem tjs_getD {temps : List Int} {d : Dev} {i : Nat} (h : i < 16) :
    (tjs temps d).getD i 0 = temps.getD i 0 + diodeOffset d i := by
  simp [tjs, List.getD_eq_getElem?_getD, h]

theorem tjs_length (temps : List Int) (d : Dev) : (tjs temps d).length = 16 := by simp [tjs]

theorem exec_thermalTrip {s : State} {temps : List Int} (hp : s.dev.boot.power ≠ .off) {i : Nat} (hi : i < 16)
    (ht : 16 * 110 ≤ temps.getD i 0 + diodeOffset s.dev i) :
    exec (.thermalTrip temps) s = .next { s with dev := modBoot (fun b => { b with power := .tripped, groups := 0 }) s.dev } := by
  have hhot : (tjs temps s.dev).any (fun t => decide (16 * 110 ≤ t)) = true :=
    List.any_eq_true.2 ⟨_, List.mem_map.2 ⟨i, List.mem_range.2 hi, rfl⟩, decide_eq_true ht⟩
  have hf : thermalTrip temps s.dev = modBoot (fun b => { b with power := .tripped, groups := 0 }) s.dev :=
    if_pos (by rw [hhot]; simpa using hp)
  rw [exec_power (.thermalTrip temps) _ rfl, actPower_notOn rfl (by rw [hf]; simp [modBoot]), hf]

/-- Rails that come up start a reset of kind 1 (R489). -/
theorem exec_railSequencing {s : State} (carrier : Bool) (h : s.dev.boot.power = .sequencing) (hl : s.dev.logFits) :
    ∃ d, exec (.railSequencing carrier) s = .next { s with dev := d }
      ∧ d.boot.power = .on ∧ d.boot.groups = (if carrier then 6 else 5) ∧ d.boot.carrier = carrier ∧ d.boot.lastReset = 1
      ∧ d.boot.stage = (if s.dev.boot.perst then 1 else 0) ∧ d.nv = s.dev.nv := by
  have hf : railsUp carrier s.dev =
      resetNow 1 (modBoot (fun b => { b with power := .on, carrier := carrier, groups := if carrier then 6 else 5 }) s.dev) :=
    if_pos h
  refine ⟨_, (exec_power (.railSequencing carrier) _ rfl s).trans (actPower_quiet rfl ?_), ?_⟩
  · rw [hf]
    exact resetNow_quiet 1 hl
  · rw [hf]
    obtain ⟨hnv, -, -, -, -, -, -, -, -, -, -, hkind, hon, -, -, hstage, -, -⟩ := resetNow_wasReset (d :=
      modBoot (fun b => { b with power := .on, carrier := carrier, groups := if carrier then 6 else 5 }) s.dev) 1 rfl
    obtain ⟨hgroups, hcarrier⟩ := resetNow_carrier 1
      (modBoot (fun b => { b with power := .on, carrier := carrier, groups := if carrier then 6 else 5 }) s.dev)
    exact ⟨hon, hgroups, hcarrier, hkind, hstage.trans (if_congr (and_iff_right (by decide)) rfl rfl), hnv⟩

/-! ### The hottest diode (R448) -/

/-- `p` is the first place of the largest of the first `n + 1` values, and that value. -/
def FirstMax (l : List Int) (n : Nat) (p : Nat × Int) : Prop :=
  p.1 ≤ n ∧ p.2 = l.getD p.1 0 ∧ (∀ j, j ≤ n → l.getD j 0 ≤ p.2) ∧ ∀ j, j < p.1 → l.getD j 0 < p.2

theorem firstMax_foldl (l : List Int) (n : Nat) : FirstMax l n
    ((List.range (n + 1)).foldl (fun m i => if m.2 < l.getD i 0 then (i, l.getD i 0) else m) (0, l.getD 0 0)) := by
  induction n with
  | zero =>
    have hkeep : ((List.range 1).foldl (fun m i => if m.2 < l.getD i 0 then (i, l.getD i 0) else m) (0, l.getD 0 0)) =
        (0, l.getD 0 0) := if_neg (lt_irrefl (l.getD 0 0))
    rw [hkeep]
    exact ⟨le_refl 0, rfl, fun j hj => by rw [Nat.le_zero.1 hj], fun j hj => absurd hj (Nat.not_lt_zero j)⟩
  | succ n ih =>
    rw [List.range_succ, List.foldl_concat]
    obtain ⟨hle, hval, hmax, hfirst⟩ := ih
    split
    · next hlt =>
      refine ⟨le_refl _, rfl, fun j hj => ?_, fun j hj => (hmax j (Nat.lt_succ_iff.1 hj)).trans_lt hlt⟩
      rcases Nat.le_succ_iff.1 hj with h | rfl
      · exact ((hmax j h).trans_lt hlt).le
      · exact le_refl _
    · next hge =>
      refine ⟨hle.trans (Nat.le_succ n), hval, fun j hj => ?_, hfirst⟩
      rcases Nat.le_succ_iff.1 hj with h | rfl
      · exact hmax j h
      · exact not_lt.1 hge

/-- There is but one first place of the largest value. -/
theorem FirstMax.unique {l : List Int} {n : Nat} {p q : Nat × Int} (hp : FirstMax l n p) (hq : FirstMax l n q) : p = q := by
  obtain ⟨hple, hpval, hpmax, hpfirst⟩ := hp
  obtain ⟨hqle, hqval, hqmax, hqfirst⟩ := hq
  have hval : p.2 = q.2 := le_antisymm (hpval ▸ hqmax p.1 hple) (hqval ▸ hpmax q.1 hqle)
  have hpq : ¬ p.1 < q.1 := fun h => absurd (hqfirst _ h) (by rw [← hpval, hval]; exact lt_irrefl _)
  have hqp : ¬ q.1 < p.1 := fun h => absurd (hpfirst _ h) (by rw [← hqval, hval]; exact lt_irrefl _)
  exact Prod.ext (by omega) hval

/-- The diode of the largest reading, the lowest of equal ones, is the hottest. -/
theorem hottest_eq {temps : List Int} {d : Dev} {i : Nat} {t : Int} (hi : i < 16) (ht : t = temps.getD i 0 + diodeOffset d i)
    (hmax : ∀ j, j < 16 → temps.getD j 0 + diodeOffset d j ≤ t) (hfirst : ∀ j, j < i → temps.getD j 0 + diodeOffset d j < t) :
    hottest (tjs temps d) = (i, t) := by
  have hhot : FirstMax (tjs temps d) 15 (hottest (tjs temps d)) := by
    rw [hottest, tjs_length]
    exact firstMax_foldl _ 15
  refine hhot.unique ⟨by omega, ?_, fun j hj => ?_, fun j hj => ?_⟩
  · rw [tjs_getD hi, ht]
  · rw [tjs_getD (by omega)]
    exact hmax j (by omega)
  · have : j < 16 := by dsimp only at hj; omega
    rw [tjs_getD this]
    exact hfirst j hj

/-- What THERMAL_WARN does once diode `i` is known to be the hottest, at `t` (R448). -/
def warnOf (i : Nat) (t : Int) (d : Dev) : Dev :=
  if 16 * 100 ≤ t ∧ d.boot.warnArmed = true then
    postEvent 0x208 (toLE 1 i ++ toLE 1 (wrap 8 (t / 16))) (setEvt oSecTherm 12
      (modBoot (fun b => { b with tj := t / 16, diode := i, warnArmed := false }) d))
  else if t < 16 * 95 then modBoot (fun b => { b with tj := t / 16, diode := i, warnArmed := true }) d
  else modBoot (fun b => { b with tj := t / 16, diode := i }) d

theorem thermalWarn_eq {temps : List Int} {d : Dev} {i : Nat} {t : Int} (h : hottest (tjs temps d) = (i, t)) :
    thermalWarn temps d = warnOf i t d := by
  unfold thermalWarn
  dsimp only
  rw [h]
  rfl

theorem warnOf_quiet (i : Nat) (t : Int) {d : Dev} (h : d.quiet) : (warnOf i t d).quiet := by
  unfold warnOf
  split
  · exact ((calm_setEvt _ _ _).then (calm_postEvent _ _ _)).quiet (quiet_modBoot h)
  · split <;> exact quiet_modBoot h

theorem exec_thermalWarn {s : State} {temps : List Int} {i : Nat} {t : Int} (hl : s.live)
    (h : hottest (tjs temps s.dev) = (i, t)) : exec (.thermalWarn temps) s = .next { s with dev := warnOf i t s.dev } := by
  rw [← thermalWarn_eq h]
  exact act_quiet (.thermalWarn temps) (thermalWarn temps) s rfl hl.1 (thermalWarn_eq h ▸ warnOf_quiet i t hl.2)

end Sys2Proof.Machine

open Sys2Proof Sys2Proof.Machine

/-- Settles O6: each power command's own transition, and the thermal warning by the hottest diode. -/
theorem powerAndHeat : Obligations.PowerAndHeat := by
  unfold Obligations.PowerAndHeat
  refine ⟨fun s => ⟨exec_inputPowerRise, exec_inputPowerLoss, fun temps hp ⟨i, hi, ht⟩ => exec_thermalTrip hp hi ht, exec_tripExit,
    exec_railSequencing⟩, fun s temps i t hl hi ht hmax hfirst => ?_⟩
  have hwarn := exec_thermalWarn hl (hottest_eq hi ht hmax hfirst)
  refine ⟨fun hhot harm => ?_, fun hwarm harm => ?_, fun hcool => ?_⟩
  · rw [hwarn, warnOf, if_pos ⟨by omega, harm⟩]
  · rw [hwarn, warnOf, if_neg (by simp [harm]), if_neg (by omega)]
  · rw [hwarn, warnOf, if_neg (by omega), if_pos (by omega)]

end

section
/-! SUPPORT. Frames: which parts of the device an operation may change, said once for each operation and composed. -/

set_option Elab.async false

namespace Sys2Proof.Machine

open Sys2Proof

/-- A part of the device that an operation may leave alone. `rx` and `queues` are the two lists inside the switch and the counters
that the end of a step looks at. -/
inductive Part where
  | clk | regs | force | subs | tab | bpm | sw | rx | ring | cru | sel | selFlags | mem | forge | adp | fal | tel | queues | hlt | boot
  | nv | free | todo | evt
deriving DecidableEq

/-- Two devices agree on a part. -/
def Part.same (p : Part) (d d' : Dev) : Prop :=
  match p with
  | .clk => d'.clk = d.clk
  | .regs => d'.regs = d.regs
  | .force => d'.force = d.force
  | .subs => d'.subs = d.subs
  | .tab => d'.tab = d.tab
  | .bpm => d'.bpm = d.bpm
  | .sw => d'.sw = d.sw
  | .rx => d'.sw.rx = d.sw.rx
  | .ring => d'.ring = d.ring
  | .cru => d'.cru = d.cru
  | .sel => d'.sel = d.sel
  | .selFlags => d'.selFlags = d.selFlags
  | .mem => d'.mem = d.mem
  | .forge => d'.forge = d.forge
  | .adp => d'.adp = d.adp
  | .fal => d'.fal = d.fal
  | .tel => d'.tel = d.tel
  | .queues => d'.tel.queues = d.tel.queues
  | .hlt => d'.hlt = d.hlt
  | .boot => d'.boot = d.boot
  | .nv => d'.nv = d.nv
  | .free => d'.free = d.free
  | .todo => d'.todo = d.todo
  | .evt => d'.evt = d.evt

theorem Part.same_refl (p : Part) (d : Dev) : p.same d d := by cases p <;> rfl

theorem Part.same_trans (p : Part) {a b c : Dev} (h : p.same a b) (k : p.same b c) : p.same a c := by
  cases p <;> exact Eq.trans k h

/-- `d'` is `d` but for the parts of `l`. -/
def Only (l : List Part) (d d' : Dev) : Prop := ∀ p, p ∉ l → p.same d d'

theorem Only.refl (l : List Part) (d : Dev) : Only l d d := fun p _ => p.same_refl d

theorem Only.then {l : List Part} {a b c : Dev} (h : Only l a b) (k : Only l b c) : Only l a c :=
  fun p hp => p.same_trans (h p hp) (k p hp)

theorem Only.mono {l m : List Part} {d d' : Dev} (h : Only l d d') (hlm : l ⊆ m) : Only m d d' :=
  fun p hp => h p fun hl => hp (hlm hl)

section
variable {l : List Part} {d d' : Dev} (h : Only l d d')
include h

theorem Only.clk (hp : Part.clk ∉ l := by decide) : d'.clk = d.clk := h .clk hp
theorem Only.regs (hp : Part.regs ∉ l := by decide) : d'.regs = d.regs := h .regs hp
theorem Only.force (hp : Part.force ∉ l := by decide) : d'.force = d.force := h .force hp
theorem Only.subs (hp : Part.subs ∉ l := by decide) : d'.subs = d.subs := h .subs hp
theorem Only.tab (hp : Part.tab ∉ l := by decide) : d'.tab = d.tab := h .tab hp
theorem Only.bpm (hp : Part.bpm ∉ l := by decide) : d'.bpm = d.bpm := h .bpm hp
theorem Only.sw (hp : Part.sw ∉ l := by decide) : d'.sw = d.sw := h .sw hp
theorem Only.rx (hp : Part.rx ∉ l := by decide) : d'.sw.rx = d.sw.rx := h .rx hp
theorem Only.ring (hp : Part.ring ∉ l := by decide) : d'.ring = d.ring := h .ring hp
theorem Only.cru (hp : Part.cru ∉ l := by decide) : d'.cru = d.cru := h .cru hp
theorem Only.sel (hp : Part.sel ∉ l := by decide) : d'.sel = d.sel := h .sel hp
theorem Only.selFlags (hp : Part.selFlags ∉ l := by decide) : d'.selFlags = d.selFlags := h .selFlags hp
theorem Only.mem (hp : Part.mem ∉ l := by decide) : d'.mem = d.mem := h .mem hp
theorem Only.forge (hp : Part.forge ∉ l := by decide) : d'.forge = d.forge := h .forge hp
theorem Only.adp (hp : Part.adp ∉ l := by decide) : d'.adp = d.adp := h .adp hp
theorem Only.fal (hp : Part.fal ∉ l := by decide) : d'.fal = d.fal := h .fal hp
theorem Only.tel (hp : Part.tel ∉ l := by decide) : d'.tel = d.tel := h .tel hp
theorem Only.queues (hp : Part.queues ∉ l := by decide) : d'.tel.queues = d.tel.queues := h .queues hp
theorem Only.hlt (hp : Part.hlt ∉ l := by decide) : d'.hlt = d.hlt := h .hlt hp
theorem Only.boot (hp : Part.boot ∉ l := by decide) : d'.boot = d.boot := h .boot hp
theorem Only.nv (hp : Part.nv ∉ l := by decide) : d'.nv = d.nv := h .nv hp
theorem Only.free (hp : Part.free ∉ l := by decide) : d'.free = d.free := h .free hp
theorem Only.todo (hp : Part.todo ∉ l := by decide) : d'.todo = d.todo := h .todo hp
theorem Only.evt (hp : Part.evt ∉ l := by decide) : d'.evt = d.evt := h .evt hp

/-- What the end of a step looks at is as it was. -/
theorem Only.calm (ht : Part.todo ∉ l := by decide) (hq : Part.queues ∉ l := by decide) (hr : Part.rx ∉ l := by decide)
    (hs : Part.subs ∉ l := by decide) : Calm d d' := ⟨h .todo ht, h .queues hq, h .rx hr, h .subs hs⟩

theorem Only.sub (lp : Nat) (hp : Part.subs ∉ l := by decide) : Machine.sub d' lp = Machine.sub d lp := by
  rw [Machine.sub, h.subs hp, Machine.sub]

theorem Only.rg (off : Nat) (hp : Part.regs ∉ l := by decide) : Machine.rg d' off = Machine.rg d off := by
  rw [Machine.rg, h.regs hp, Machine.rg]

end

/-- A further operation, whose parts are among the ones listed already. -/
theorem Only.after {l m : List Part} {a b c : Dev} (k : Only m b c) (h : Only l a b) (hm : m ⊆ l := by decide) : Only l a c :=
  h.then (k.mono hm)

/-- A first operation alone, with more parts listed. -/
theorem Only.in {l m : List Part} {a b : Dev} (k : Only m a b) (hm : m ⊆ l := by decide) : Only l a b := k.mono hm

theorem only_each {α : Type} {l : List Part} {f : α → Dev → Dev} (hf : ∀ a d, Only l d (f a d)) (xs : List α) (d : Dev) :
    Only l d (each xs f d) := by
  induction xs generalizing d with
  | nil => exact .refl l d
  | cons a xs ih => exact (hf a d).then (ih (f a d))

theorem only_when {l : List Part} {b : Bool} {f : Dev → Dev} {d : Dev} (h : Only l d (f d)) : Only l d (when b f d) := by
  unfold when
  split
  · exact h
  · exact .refl l d

theorem only_iter {l : List Part} {f : Dev → Dev} (hf : ∀ d, Only l d (f d)) (n : Nat) (d : Dev) : Only l d (iter f n d) := by
  induction n generalizing d with
  | zero => exact .refl l d
  | succ n ih => exact (hf d).then (ih (f d))

/-! ### The updates of one part -/

theorem only_setSub (lp : Nat) (p : SubPort) (d : Dev) : Only [.subs] d (setSub lp p d) := fun x hx => by
  cases x
  case subs => exact absurd (by decide) hx
  all_goals rfl

theorem only_modTab (f : Tables → Tables) (d : Dev) : Only [.tab] d (modTab f d) := fun x hx => by
  cases x
  case tab => exact absurd (by decide) hx
  all_goals rfl

theorem only_modRing (f : Rings → Rings) (d : Dev) : Only [.ring] d (modRing f d) := fun x hx => by
  cases x
  case ring => exact absurd (by decide) hx
  all_goals rfl

theorem only_modBpm (f : Bpm → Bpm) (d : Dev) : Only [.bpm] d (modBpm f d) := fun x hx => by
  cases x
  case bpm => exact absurd (by decide) hx
  all_goals rfl

theorem only_modHlt (f : Health → Health) (d : Dev) : Only [.hlt] d (modHlt f d) := fun x hx => by
  cases x
  case hlt => exact absurd (by decide) hx
  all_goals rfl

theorem only_modBoot (f : Boot → Boot) (d : Dev) : Only [.boot] d (modBoot f d) := fun x hx => by
  cases x
  case boot => exact absurd (by decide) hx
  all_goals rfl

theorem only_modMem (f : Mems → Mems) (d : Dev) : Only [.mem] d (modMem f d) := fun x hx => by
  cases x
  case mem => exact absurd (by decide) hx
  all_goals rfl

theorem only_putReg (off v : Nat) (d : Dev) : Only [.regs] d (putReg off v d) := fun x hx => by
  cases x
  case regs => exact absurd (by decide) hx
  all_goals rfl

theorem only_defer (t : Todo) (d : Dev) : Only [.todo] d (defer t d) := fun x hx => by
  cases x
  case todo => exact absurd (by decide) hx
  all_goals rfl

theorem only_stampAt (t off i : Nat) (d : Dev) : Only [.evt] d (stampAt t off i d) := fun x hx => by
  cases x
  case evt => exact absurd (by decide) hx
  all_goals rfl

theorem only_modSw (f : Switch → Switch) (d : Dev) : Only [.sw, .rx] d (modSw f d) := fun x hx => by
  cases x
  case sw => exact absurd (by decide) hx
  case rx => exact absurd (by decide) hx
  all_goals rfl

theorem only_modSw_keep {f : Switch → Switch} {d : Dev} (hf : (f d.sw).rx = d.sw.rx) : Only [.sw] d (modSw f d) := fun x hx => by
  cases x
  case sw => exact absurd (by decide) hx
  case rx => exact hf
  all_goals rfl

theorem only_modTel (f : Telem → Telem) (d : Dev) : Only [.tel, .queues] d (modTel f d) := fun x hx => by
  cases x
  case tel => exact absurd (by decide) hx
  case queues => exact absurd (by decide) hx
  all_goals rfl

theorem only_modTel_keep {f : Telem → Telem} {d : Dev} (hf : (f d.tel).queues = d.tel.queues) : Only [.tel] d (modTel f d) := fun x hx => by
  cases x
  case tel => exact absurd (by decide) hx
  case queues => exact hf
  all_goals rfl

theorem only_modSub (lp : Nat) (f : SubPort → SubPort) (d : Dev) : Only [.subs] d (modSub lp f d) := only_setSub _ _ d
theorem only_modLink (lp : Nat) (f : Link → Link) (d : Dev) : Only [.subs] d (modLink lp f d) := only_modSub _ _ d
theorem only_modGddr (i : Nat) (f : Gddr → Gddr) (d : Dev) : Only [.mem] d (modGddr i f d) := only_modMem _ d
theorem only_hostWrite (a : Nat) (b : Bytes) (d : Dev) : Only [.ring] d (hostWrite a b d) := only_modRing _ d
theorem only_modSq (q : Nat) (f : Sq → Sq) (d : Dev) : Only [.ring] d (modSq q f d) := only_modRing _ d
theorem only_modCq (c : Nat) (f : Ring → Ring) (d : Dev) : Only [.ring] d (modCq c f d) := only_modRing _ d
theorem only_modEq (f : Ring → Ring) (d : Dev) : Only [.ring] d (modEq f d) := only_modRing _ d
theorem only_putFld (off lo w v : Nat) (d : Dev) : Only [.regs] d (putFld off lo w v d) := only_putReg _ _ d
theorem only_tally (kind unit : Nat) (d : Dev) : Only [.sw] d (tally kind unit d) := only_modSw_keep rfl

theorem only_setEvt (off i : Nat) (d : Dev) : Only [.regs, .evt] d (setEvt off i d) :=
  (only_stampAt _ off i _).after (only_putFld off i 1 1 d).in

/-! ### Counters, messages, events, completions, scores -/

theorem only_count (b ev n : Nat) (a : Attr) (d : Dev) : Only [.regs, .tel] d (count b ev n a d) := fun x hx => by
  obtain ⟨r, t, h⟩ := count_only b ev n a d
  cases x
  case regs => exact absurd (by decide) hx
  case tel => exact absurd (by decide) hx
  case queues => exact (calm_count b ev n a d).queues
  all_goals rw [h]; rfl

theorem RingOnly.only {d d' : Dev} (h : RingOnly d d') : Only [.ring] d d' := by
  obtain ⟨r, rfl⟩ := h
  exact only_modRing (fun _ => r) d

theorem only_sendMsix (v : Nat) (d : Dev) : Only [.ring] d (sendMsix v d) := (sendMsix_only v d).only
theorem only_postEvent (code : Nat) (data : Bytes) (d : Dev) : Only [.ring] d (postEvent code data d) :=
  (postEvent_only code data d).only

/-- A change of the host's side that the end of a step does not see. -/
theorem HostOnly.only {d d' : Dev} (h : HostOnly d d') (hc : Calm d d') : Only [.regs, .tel, .ring] d d' := fun x hx => by
  obtain ⟨g, t, r, rfl⟩ := h
  cases x
  case regs => exact absurd (by decide) hx
  case tel => exact absurd (by decide) hx
  case ring => exact absurd (by decide) hx
  case queues => exact hc.queues
  all_goals rfl

theorem only_writeCq (c : Nat) (e : Bytes) (d : Dev) : Only [.regs, .tel, .ring] d (writeCq c e d) :=
  (writeCq_only c e d).only (calm_writeCq c e d)
theorem only_sqSettle (q : Nat) (d : Dev) : Only [.ring] d (sqSettle q d) := by
  unfold sqSettle
  split
  · exact only_modSq _ _ d
  · exact .refl _ d
theorem only_accept_sq (q : Nat) (e : Bytes) (d : Dev) : Only [.regs, .tel, .ring] d (accept (sqCmd q e) d) :=
  (accept_sq_only q e d).only (calm_accept_sq q e d)
theorem only_complete_sq (q : Nat) (e : Bytes) (st de r : Nat) (d : Dev) :
    Only [.regs, .tel, .ring] d (complete (sqCmd q e) st de r d) :=
  (complete_sq_only q e st de r d).only (calm_complete_sq q e st de r d)

/-- A completion of any command: a ring's entry, or an answer left to be sent. -/
theorem only_complete (c : Cmd) (st de r : Nat) (d : Dev) : Only [.regs, .tel, .ring, .todo] d (complete c st de r d) := by
  unfold complete
  dsimp only
  split
  · refine (only_sqSettle _ _).after ?_
    split
    · exact (only_writeCq _ _ _).after ((only_modCq _ _ _).after (only_modSq _ _ d).in)
    · exact (only_modCq _ _ _).after (only_modSq _ _ d).in
  · exact (only_defer _ d).in
  · exact .refl _ d

theorem only_gather (dst status detail : Nat) (body : Bytes) (d : Dev) : Only [.sw] d (gather dst status detail body d) := by
  unfold gather
  split
  · exact .refl _ d
  · dsimp only
    split <;> exact only_modSw_keep rfl

theorem only_cause (fn : Nat) (d : Dev) : Only [.hlt] d (cause fn d) := only_modHlt _ d

theorem only_rateCount (row limit kind idx : Nat) (d : Dev) : Only [.hlt, .ring, .regs, .evt] d (rateCount row limit kind idx d) := by
  unfold rateCount
  dsimp only
  split
  · exact (only_postEvent _ _ _).after ((only_setEvt _ _ _).after (only_modHlt _ d).in)
  · exact (only_modHlt _ d).in

theorem only_orderTest (kind idx why : Nat) (w : List Cmd) (d : Dev) : Only [.hlt] d (orderTest kind idx why w d) := by
  unfold orderTest
  split <;> exact only_modHlt _ d

theorem only_levelEvents (kind idx row : Nat) (d : Dev) : Only [.hlt, .ring, .todo] d (levelEvents kind idx row d) := by
  unfold levelEvents
  refine only_each (fun l d => ?_) _ d
  dsimp only
  split
  · split
    · exact (only_defer _ _).after ((only_postEvent _ _ _).after (only_modHlt _ d).in)
    · exact (only_postEvent _ _ _).after (only_modHlt _ d).in
  · exact .refl _ d

/-- What an event of Table 15.2 can change. -/
theorem only_scoreEvent (row kind idx : Nat) (d : Dev) :
    Only [.hlt, .ring, .regs, .evt, .tel, .todo] d (scoreEvent row kind idx d) := by
  unfold scoreEvent
  dsimp only
  refine (only_defer _ _).after ?_
  split
  · refine (only_rateCount _ _ _ _ _).after ?_
    exact (only_orderTest _ _ _ _ _).after ((only_levelEvents _ _ _ _).after ((only_count _ _ _ _ _).after
      ((only_modHlt _ _).after (only_modHlt _ d).in)))
  · exact (only_orderTest _ _ _ _ _).after ((only_levelEvents _ _ _ _).after ((only_count _ _ _ _ _).after
      ((only_modHlt _ _).after (only_modHlt _ d).in)))

/-! ### The buffer pool -/

theorem only_relevel (d : Dev) : Only [.bpm, .regs, .evt, .ring] d (relevel d) := by
  unfold relevel
  dsimp only
  refine (only_modBpm _ d).in.then (only_each (fun i d => ?_) _ _)
  split
  · exact (only_setEvt _ _ d).in
  · exact (only_postEvent _ _ _).after ((only_modBpm _ _).after (only_setEvt _ _ d).in)

theorem only_setUse (o : Nat) (u : Use) (d : Dev) : Only [.bpm] d (setUse o u d) := only_modBpm _ d

theorem only_uncharge (o : Nat) (spill : Bool) (d : Dev) : Only [.bpm, .regs, .evt, .ring] d (uncharge o spill d) :=
  (only_relevel _).after (only_setUse _ _ d).in

theorem only_charge (o : Nat) (spill : Bool) (d : Dev) : Only [.bpm, .regs, .evt, .ring, .tel] d (charge o spill d) := by
  have hcount : ∀ (b : Prop) [Decidable b] (e : Nat) (x : Dev),
      Only [.regs, .tel] x (if b then count 5 e 1 (ownAttr o) x else x) := fun b _ e x => by
    split
    · exact only_count _ _ _ _ x
    · exact .refl _ x
  unfold charge
  dsimp only
  refine (only_relevel _).after ((hcount _ 3 _).after ((hcount _ 1 _).after ((only_setUse _ _ _).after ((only_modBpm _ _).after ?_))))
  split
  · exact (only_count _ _ _ _ _).after (only_modBpm _ d).in
  · exact .refl _ d

theorem only_unreserve (id : Nat) (d : Dev) : Only [.bpm, .regs, .evt, .ring] d (unreserve id d) := by
  unfold unreserve
  split
  · exact .refl _ d
  · exact (only_each (fun _ d => only_uncharge _ _ d) _ _).after (only_modBpm _ d).in

theorem only_resvTake (id : Nat) (d : Dev) : Only [.bpm] d (resvTake id d) := by
  unfold resvTake
  split
  · exact only_modBpm _ d
  · exact .refl _ d

theorem only_freeBuf (n : Nat) (d : Dev) : Only [.bpm, .regs, .evt, .ring] d (freeBuf n d) := by
  unfold freeBuf
  split
  · exact .refl _ d
  · next b _ =>
    have hresv : Only [.bpm, .regs, .evt, .ring] d (match b.resv with
        | some id => resvTake id (modBpm (fun p => { p with bufs := tdel p.bufs n }) d)
        | none => modBpm (fun p => { p with bufs := tdel p.bufs n }) d) := by
      split
      · exact (only_resvTake _ _).after (only_modBpm _ d).in
      · exact (only_modBpm _ d).in
    dsimp only
    split
    · exact hresv.then (only_uncharge _ _ _)
    · exact hresv

theorem only_dropRef (n : Nat) (d : Dev) : Only [.bpm, .regs, .evt, .ring] d (dropRef n d) := by
  unfold dropRef
  split
  · exact .refl _ d
  · split
    · exact only_freeBuf n d
    · exact (only_modBpm _ d).in

end Sys2Proof.Machine
end

section
/-! SUPPORT. Resets of the management core and of the host link (R405, R414, R416). -/

set_option Elab.async false

namespace Sys2Proof.Machine

open Sys2Proof

/-! ### Tables and lists -/

theorem tget_tmap {α β : Type} (f : α → β) (t : Tab α) (k : Nat) : tget (tmap f t) k = (tget t k).map f := by
  induction t with
  | nil => rfl
  | cons p t ih =>
    obtain ⟨j, a⟩ := p
    show (if j = k then some (f a) else tget (tmap f t) k) = _
    rw [tget, ih]
    split <;> rfl

/-- What each step of a list establishes for its own element, and every step keeps, holds of all of them at the end. -/
theorem each_establishes {α : Type} {P : α → Dev → Prop} {f : α → Dev → Dev} (hset : ∀ a d, P a (f a d))
    (hkeep : ∀ a b d, P a d → P a (f b d)) (l : List α) (d : Dev) : ∀ a ∈ l, P a (each l f d) := by
  have hrun : ∀ (m : List α) a d, P a d → P a (each m f d) := fun m => by
    induction m with
    | nil => exact fun _ _ h => h
    | cons b m ih => exact fun a d h => ih a _ (hkeep a b d h)
  induction l generalizing d with
  | nil => exact fun _ h => nomatch h
  | cons b l ih =>
    intro a ha
    rcases List.mem_cons.1 ha with rfl | hmem
    · exact hrun l a _ (hset a d)
    · exact ih _ a hmem

theorem each_keeps {α : Type} {P : Dev → Prop} {f : α → Dev → Dev} (hkeep : ∀ a d, P d → P (f a d)) (l : List α) (d : Dev)
    (h : P d) : P (each l f d) := by
  induction l generalizing d with
  | nil => exact h
  | cons b l ih => exact ih _ (hkeep b d h)

/-! ### One-bit fields written -/

theorem flag_putFld_self (off i v : Nat) (d : Dev) : flag (putFld off i 1 v d) off i = v.testBit 0 := by
  rw [flag, putFld, rg_putReg_self, testBit_setBits, if_pos (by omega), Nat.sub_self]

theorem flag_putFld_ne {off o : Nat} (h : off ≠ o) (i lo w v : Nat) (d : Dev) : flag (putFld off lo w v d) o i = flag d o i := by
  rw [flag, putFld, rg_putReg_ne _ _ _ _ h, flag]

theorem fld_putFld_ne {off o : Nat} (h : off ≠ o) (lo w v lo' w' : Nat) (d : Dev) :
    fld (putFld off lo w v d) o lo' w' = fld d o lo' w' := by
  rw [fld, putFld, rg_putReg_ne _ _ _ _ h, fld]

/-! ### The management core (R405, R414) -/

theorem only_dropCmd (c : Cmd) (d : Dev) : Only [.ring, .tel] d (dropCmd c d) := by
  unfold dropCmd
  split
  · exact (only_sqSettle _ _).after ((only_modCq _ _ _).after (only_modSq _ _ d).in)
  · exact (only_modTel_keep rfl).in
  · exact .refl _ d

theorem mgmtReset_eq (d : Dev) :
    mgmtReset d = postEvent 0x105 [5] (modBoot (fun b => { b with lastReset := 5, spdmMsg := none, spdmOpen := false, sessions := [] })
      (modHlt (fun h => { h with scores := [], tests := [], seqs := [], mgmtResets := min 255 (h.mgmtResets + 1) })
        (each (d.hlt.seqs.map (·.cmd) ++ d.hlt.tests.flatMap (·.waiters)) dropCmd d))) := rfl

theorem only_mgmtReset (d : Dev) : Only [.ring, .tel, .hlt, .boot] d (mgmtReset d) := by
  rw [mgmtReset_eq]
  exact (only_postEvent _ _ _).after ((only_modBoot _ _).after ((only_modHlt _ _).after
    (only_each (fun c d => only_dropCmd c d) _ d).in))

theorem mgmtReset_was (d : Dev) : d.mgmtWasReset (mgmtReset d) := by
  have hframe := only_mgmtReset d
  rw [mgmtReset_eq] at hframe ⊢
  have hdrop := only_each (fun c d => only_dropCmd c d) (d.hlt.seqs.map (·.cmd) ++ d.hlt.tests.flatMap (·.waiters)) d
  generalize each (d.hlt.seqs.map (·.cmd) ++ d.hlt.tests.flatMap (·.waiters)) dropCmd d = e at *
  have hpost := only_postEvent 0x105 [5]
    (modBoot (fun b => { b with lastReset := 5, spdmMsg := none, spdmOpen := false, sessions := [] })
      (modHlt (fun h => { h with scores := [], tests := [], seqs := [], mgmtResets := min 255 (h.mgmtResets + 1) }) e))
  refine ⟨?_, ?_, ?_, ?_, ?_, ?_, hframe.forge, hframe.tab, hframe.sw, hframe.subs, hframe.clk, hframe.nv⟩
  · rw [hpost.hlt]; rfl
  · rw [hpost.hlt]; rfl
  · rw [hpost.hlt]; rfl
  · rw [hpost.hlt, ← hdrop.hlt]; rfl
  · rw [hpost.boot]; rfl
  · rw [hpost.boot]; rfl

/-- A command that resets the management core answers just that. -/
theorem act_mgmtReset {c : Instr} {s : State} (hw : wellFormed c = true) (hl : s.live) :
    ∃ d, act c settle mgmtReset s = .next { s with dev := d } ∧ s.dev.mgmtWasReset d :=
  ⟨_, act_calm c mgmtReset s hw hl (only_mgmtReset s.dev).calm, mgmtReset_was s.dev⟩

/-! ### GLB_RESET (R471) -/

/-- GLB_RESET has no W1C bit, so a write of it reaches its rule as it came. -/
theorem spare_glbReset (v : Nat) (d : Dev) : spare 0x10 v d = v := by
  simp [spare, regOf, regGlb, r32, wo]

theorem writeReg_glbReset {v : Nat} {d : Dev} (h : d.boot.recovery = false) : writeReg 0x10 v d = glbReset v d := by
  unfold writeReg
  simp [spare_glbReset, h]

theorem glbReset_module {v : Nat} {d : Dev} (hg : v.testBit 1 = false) (hkey : bits v 8 8 = 0x5A) :
    glbReset (setBits v 0 1 1) d = resetNow 3 d := by
  have hm : (setBits v 0 1 1).testBit 0 = true := by rw [testBit_setBits]; rfl
  have hg' : (setBits v 0 1 1).testBit 1 = false := by rw [testBit_setBits]; exact hg
  unfold glbReset
  simp [hm, hg', bits_setBits_apart (v := v) (lo := 0) (w := 1) (x := 1) (lo' := 8) (w' := 8) (.inl (by decide)), hkey]

theorem glbReset_mgmt {v : Nat} {d : Dev} (hm : v.testBit 0 = false) (hkey : bits v 8 8 = 0x5A) :
    glbReset (setBits v 1 1 1) d = mgmtReset d := by
  have hm' : (setBits v 1 1 1).testBit 0 = false := by rw [testBit_setBits]; exact hm
  have hg : (setBits v 1 1 1).testBit 1 = true := by rw [testBit_setBits]; rfl
  unfold glbReset
  simp [hm', hg, bits_setBits_apart (v := v) (lo := 1) (w := 1) (x := 1) (lo' := 8) (w' := 8) (.inl (by decide)), hkey]

theorem exec_glbResetModule {s : State} {v : BitVec 32} (hp : s.dev.boot.power = .on) (hlog : s.dev.logFits)
    (hg : v.toNat.testBit 1 = false) (hkey : bits v.toNat 8 8 = 0x5A) :
    ∃ d, exec (.glbResetModule v) s = .next { s with dev := d } ∧ (s.dev.boot.recovery = false → s.dev.wasReset 3 d) := by
  cases hr : s.dev.boot.recovery
  · have hw : writeReg 0x10 (setBits v.toNat 0 1 1) s.dev = resetNow 3 s.dev := by
      rw [writeReg_glbReset hr, glbReset_module hg hkey]
    refine ⟨resetNow 3 s.dev, ?_, fun _ => resetNow_wasReset 3 hp⟩
    rw [← hw]
    exact act_quiet (.glbResetModule v) _ s rfl hp (hw ▸ resetNow_quiet 3 hlog)
  · obtain ⟨d, hd⟩ := exec_answers (.glbResetModule v) s
    exact ⟨d, hd, fun h => nomatch h⟩

theorem exec_glbResetMgmt {s : State} {v : BitVec 32} (hl : s.live) (hm : v.toNat.testBit 0 = false)
    (hkey : bits v.toNat 8 8 = 0x5A) :
    ∃ d, exec (.glbResetMgmt v) s = .next { s with dev := d } ∧ (s.dev.boot.recovery = false → s.dev.mgmtWasReset d) := by
  cases hr : s.dev.boot.recovery
  · have hw : writeReg 0x10 (setBits v.toNat 1 1 1) s.dev = mgmtReset s.dev := by
      rw [writeReg_glbReset hr, glbReset_mgmt hm hkey]
    refine ⟨mgmtReset s.dev, ?_, fun _ => mgmtReset_was s.dev⟩
    rw [← hw]
    exact act_calm (.glbResetMgmt v) _ s rfl hl (hw ▸ (only_mgmtReset s.dev).calm)
  · obtain ⟨d, hd⟩ := exec_answers (.glbResetMgmt v) s
    exact ⟨d, hd, fun h => nomatch h⟩

/-! ### The host link (R416) -/

/-- Of the registers, at most the BPM's event flags change. -/
def RegsStay (d d' : Dev) : Prop := ∀ off, off ≠ oBpmEvt → rg d' off = rg d off

theorem RegsStay.then {a b c : Dev} (h : RegsStay a b) (k : RegsStay b c) : RegsStay a c :=
  fun off hoff => (k off hoff).trans (h off hoff)

theorem regsStay_of_only {l : List Part} {d d' : Dev} (h : Only l d d') (hl : Part.regs ∉ l := by decide) : RegsStay d d' :=
  fun off _ => h.rg off hl

theorem regsStay_each {α : Type} {f : α → Dev → Dev} (hf : ∀ a d, RegsStay d (f a d)) (l : List α) (d : Dev) :
    RegsStay d (each l f d) := by
  induction l generalizing d with
  | nil => exact fun _ _ => rfl
  | cons a l ih => exact (hf a d).then (ih (f a d))

theorem regsStay_unreserve (id : Nat) (d : Dev) : RegsStay d (unreserve id d) := by
  unfold unreserve
  split
  · exact fun _ _ => rfl
  · exact (regsStay_of_only (only_modBpm _ d)).then (regsStay_each (fun _ d => (portsStay_uncharge _ _ d).regs) _ _)

theorem only_dropWaiting (q : Nat) (d : Dev) : Only [.sw, .bpm, .regs, .evt, .ring] d (dropWaiting q d) := by
  unfold dropWaiting
  dsimp only
  refine (only_modSq _ _ _).after ((only_modRing _ _).after ((only_modSw_keep rfl).after ?_))
  refine only_each (fun p d => ?_) _ d
  split
  · exact (only_unreserve _ d).in
  · exact .refl _ d

theorem regsStay_dropWaiting (q : Nat) (d : Dev) : RegsStay d (dropWaiting q d) := by
  unfold dropWaiting
  dsimp only
  refine RegsStay.then (regsStay_each (fun p d => ?_) _ d)
    (regsStay_of_only ((only_modSq _ _ _).after ((only_modRing _ _).after (only_modSw _ _).in) : Only [.sw, .rx, .ring] _ _))
  split
  · exact regsStay_unreserve _ d
  · exact fun _ _ => rfl

theorem regsStay_sqSettle (q : Nat) (d : Dev) : RegsStay d (sqSettle q d) := regsStay_of_only (only_sqSettle q d)

/-- SQ `q` goes out of use at a reset of the host link. -/
def sqOff (q : Nat) (d : Dev) : Dev := if sqOn d q then sqSettle q (dropWaiting q (putFld (oSqCtl q) 11 1 0 d)) else d

theorem only_sqOff (q : Nat) (d : Dev) : Only [.sw, .bpm, .regs, .evt, .ring] d (sqOff q d) := by
  unfold sqOff
  split
  · exact (only_sqSettle _ _).after ((only_dropWaiting _ _).after (only_putFld _ _ _ _ d).in)
  · exact .refl _ d

/-- Its control register alone is written, and the BPM's event flags. -/
theorem rg_sqOff {q off : Nat} (h : off ≠ oBpmEvt) (hq : oSqCtl q ≠ off) (d : Dev) : rg (sqOff q d) off = rg d off := by
  unfold sqOff
  split
  · rw [((regsStay_dropWaiting q _).then (regsStay_sqSettle q _)) off h, putFld, rg_putReg_ne _ _ _ _ hq]
  · rfl

theorem oSqCtl_ne_bpmEvt (q : Nat) : oSqCtl q ≠ oBpmEvt := by unfold oSqCtl oBpmEvt; omega

theorem sqOn_sqOff_self (q : Nat) (d : Dev) : sqOn (sqOff q d) q = false := by
  unfold sqOff
  split
  · rw [sqOn, flag, ((regsStay_dropWaiting q _).then (regsStay_sqSettle q _)) _ (oSqCtl_ne_bpmEvt q)]
    exact flag_putFld_self _ _ _ _
  · next h => simpa using h

theorem sqOn_sqOff {q : Nat} {d : Dev} (p : Nat) (h : sqOn d q = false) : sqOn (sqOff p d) q = false := by
  rcases eq_or_ne p q with rfl | hne
  · exact sqOn_sqOff_self p d
  · rw [sqOn, flag, rg_sqOff (oSqCtl_ne_bpmEvt q) (by unfold oSqCtl; omega)]
    exact h

/-- Every ring is disabled. -/
def ringsOff (d : Dev) : Dev :=
  each (List.range 64) (fun c d => putFld (oCqCtl c) 12 1 0 d) (putFld oEqCtl 12 1 0 (each (List.range 64) sqOff d))

theorem only_ringsOff (d : Dev) : Only [.sw, .bpm, .regs, .evt, .ring] d (ringsOff d) :=
  ((only_putFld _ _ _ _ _).after (only_each only_sqOff _ d)).then (only_each (fun _ d => (only_putFld _ _ _ _ d).in) _ _)

/-- What no step of a list changes is as it was. -/
theorem each_fixes {α β : Type} {v : Dev → β} {f : α → Dev → Dev} (l : List α) (hf : ∀ a ∈ l, ∀ d, v (f a d) = v d) (d : Dev) :
    v (each l f d) = v d := by
  induction l generalizing d with
  | nil => rfl
  | cons a l ih => exact (ih (fun b hb => hf b (List.mem_cons_of_mem a hb)) _).trans (hf a List.mem_cons_self d)

/-- CQ `c` goes out of use. -/
def cqOff (c : Nat) (d : Dev) : Dev := putFld (oCqCtl c) 12 1 0 d

theorem ringsOff_eq (d : Dev) : ringsOff d = each (List.range 64) cqOff (putFld oEqCtl 12 1 0 (each (List.range 64) sqOff d)) := rfl

/-- No register but those of the rings' controls and the BPM's event flags. -/
theorem rg_ringsOff {off : Nat} (h : off ≠ oBpmEvt) (hsq : ∀ q < 64, oSqCtl q ≠ off) (hcq : ∀ c < 64, oCqCtl c ≠ off)
    (heq : oEqCtl ≠ off) (d : Dev) : rg (ringsOff d) off = rg d off := by
  have hcqs := each_fixes (v := fun x => rg x off) (f := cqOff) (List.range 64)
    (fun c hc x => rg_putReg_ne _ _ _ x (hcq c (List.mem_range.1 hc))) (putFld oEqCtl 12 1 0 (each (List.range 64) sqOff d))
  have hsqs := each_fixes (v := fun x => rg x off) (f := sqOff) (List.range 64)
    (fun q hq x => rg_sqOff h (hsq q (List.mem_range.1 hq)) x) d
  rw [ringsOff_eq]
  exact hcqs.trans ((rg_putReg_ne _ _ _ _ heq).trans hsqs)

theorem ringsOff_sqOn (d : Dev) {q : Nat} (hq : q < 64) : sqOn (ringsOff d) q = false := by
  have hsq := each_establishes (P := fun q d => sqOn d q = false) sqOn_sqOff_self (fun _ p _ h => sqOn_sqOff p h) (List.range 64) d q
    (List.mem_range.2 hq)
  have hcqs := each_fixes (v := fun x => sqOn x q) (f := cqOff) (List.range 64)
    (fun c hc x => flag_putFld_ne (by have := List.mem_range.1 hc; unfold oCqCtl oSqCtl; omega) _ _ _ _ x)
    (putFld oEqCtl 12 1 0 (each (List.range 64) sqOff d))
  rw [ringsOff_eq]
  exact hcqs.trans ((flag_putFld_ne (by unfold oEqCtl oSqCtl; omega) _ _ _ _ _).trans hsq)

theorem cqOn_cqOff_self (c : Nat) (d : Dev) : cqOn (cqOff c d) c = false := flag_putFld_self (oCqCtl c) 12 0 d

theorem ringsOff_cqOn (d : Dev) {c : Nat} (hc : c < 64) : cqOn (ringsOff d) c = false := by
  refine each_establishes (P := fun c d => cqOn d c = false) cqOn_cqOff_self (fun a b x hx => ?_) (List.range 64) _ c
    (List.mem_range.2 hc)
  rcases eq_or_ne b a with rfl | hne
  · exact cqOn_cqOff_self b x
  · exact (flag_putFld_ne (by unfold oCqCtl; omega) _ _ _ _ x).trans hx

theorem ringsOff_eqOn (d : Dev) : eqOn (ringsOff d) = false := by
  have hcqs := each_fixes (v := eqOn) (f := cqOff) (List.range 64)
    (fun c hc x => flag_putFld_ne (by have := List.mem_range.1 hc; unfold oCqCtl oEqCtl; omega) _ _ _ _ x)
    (putFld oEqCtl 12 1 0 (each (List.range 64) sqOff d))
  rw [ringsOff_eq]
  exact hcqs.trans (flag_putFld_self oEqCtl 12 0 _)

/-- A submission queue and a ring emptied. -/
def emptySq (s : Sq) : Sq := { s with head := 0, tail := 0, waiting := none, bufs := [], held := false }
def emptyRing (r : Ring) : Ring := { r with wr := 0, rd := 0, armed := false }

/-- The rings emptied, and the host's sample ring disabled (R416). -/
def ringsEmptied (d : Dev) : Dev :=
  putFld 0x581008 11 1 0 (modRing (fun r => { r with
    sqs := tmap emptySq r.sqs, cqs := tmap emptyRing r.cqs, eq := emptyRing r.eq })
      (each (d.ring.sqs.flatMap (fun p => p.2.bufs.map (·.1))) dropCmd d))

theorem only_ringsEmptied (d : Dev) : Only [.regs, .ring, .tel] d (ringsEmptied d) :=
  (only_putFld _ _ _ _ _).after ((only_modRing _ _).after (only_each only_dropCmd _ d).in)

theorem rg_ringsEmptied {off : Nat} (h : 0x581008 ≠ off) (d : Dev) : rg (ringsEmptied d) off = rg d off := by
  unfold ringsEmptied
  rw [putFld, rg_putReg_ne _ _ _ _ h]
  exact ((only_modRing _ _).after (only_each only_dropCmd _ d)).rg off

theorem ringsEmptied_sq (d : Dev) (q : Nat) : (sq (ringsEmptied d) q).head = 0 ∧ (sq (ringsEmptied d) q).tail = 0 := by
  have hsq : sq (ringsEmptied d) q =
      tgetD (tmap emptySq (each (d.ring.sqs.flatMap (fun p => p.2.bufs.map (·.1))) dropCmd d).ring.sqs) q sqZero := rfl
  rw [hsq, tgetD, tget_tmap]
  cases tget (each (d.ring.sqs.flatMap fun p => p.2.bufs.map (·.1)) dropCmd d).ring.sqs q <;> exact ⟨rfl, rfl⟩

/-- The joins from or to host memory, and the nodes of their collectives, end. -/
def endHostJoins (d : Dev) : Dev :=
  each (d.cru.joins.filter (fun p => hostJoin p.2)) (fun p d =>
    each (d.cru.nodes.filter (fun n => n.2.cid == p.2.cid && n.2.gen == p.2.gen)) (fun n d => nodeAbort n.1 0x0E 0 none d)
      (closeJoin p.1 0x0E 0 d)) d

/-- The link down, and what rests on it. -/
def linkDown (b : Boot) : Boot :=
  { b with
    cxlUp := false, cxlWidth := 0, cxlSpeed := 0, cxlProto := false, lastReset := 4, hostDown := true, spdmMsg := none,
    spdmOpen := false, sessions := [] }

theorem hostLinkReset_eq (d : Dev) :
    hostLinkReset d = modBoot linkDown (linkHostBias (endHostJoins (ringsEmptied (ringsOff d)))) := rfl

theorem endHostJoins_none {d : Dev} (h : d.cru.joins = []) : endHostJoins d = d := by
  unfold endHostJoins
  rw [h]
  rfl

/-- The flip of the device's own that puts every block in host bias (R416). -/
def allToHost : Flip := { cmd := ownCmd, first := 0, count := 8192, toHost := true }

theorem linkHostBias_now {d : Dev} (hf : d.mem.flips = [])
    (hm : ∀ p ∈ d.forge.f, ∀ r ∈ p.2.streams, ∀ m ∈ r.2.movers, moverTouches d allToHost m = false) :
    linkHostBias d = modMem (fun m => { m with bias := [] }) d := by
  have hnone : d.forge.f.any (fun f => f.2.streams.any (fun s => s.2.movers.any (moverTouches d allToHost))) = false := by
    simp only [List.any_eq_false, List.any_eq_true, not_exists, not_and, Bool.not_eq_true]
    exact fun p hp r hr m hmem => hm p hp r hr m hmem
  refine if_pos ?_
  show (d.mem.flips.isEmpty && !d.forge.f.any (fun f => f.2.streams.any (fun s => s.2.movers.any (moverTouches d allToHost)))) = true
  rw [hnone, hf]
  rfl

theorem linkHostBias_later {d : Dev}
    (hm : ∃ p ∈ d.forge.f, ∃ r ∈ p.2.streams, ∃ m ∈ r.2.movers, moverTouches d allToHost m = true) :
    linkHostBias d = modMem (fun m => { m with nextId := m.nextId + 1, flips := tput m.flips m.nextId allToHost }) d := by
  have hsome : d.forge.f.any (fun f => f.2.streams.any (fun s => s.2.movers.any (moverTouches d allToHost))) = true := by
    simpa only [List.any_eq_true] using hm
  refine if_neg ?_
  show ¬ (d.mem.flips.isEmpty && !d.forge.f.any (fun f => f.2.streams.any (fun s => s.2.movers.any (moverTouches d allToHost)))) = true
  rw [hsome, Bool.not_true, Bool.and_false]
  exact Bool.false_ne_true

theorem only_linkHostBias (d : Dev) : Only [.mem] d (linkHostBias d) := by
  unfold linkHostBias
  dsimp only
  split <;> exact only_modMem _ d

/-- What a mover touches depends on the window registers and the link alone. -/
theorem moverTouches_congr {d d' : Dev} (hr : rg d' 0x440028 = rg d 0x440028) (hb : d'.boot = d.boot) (x : Flip) (m : Mover) :
    moverTouches d' x m = moverTouches d x m := by
  have hwin : cxlWindow d' = cxlWindow d := by simp only [cxlWindow, fld, hr, hb]
  simp only [moverTouches, blocksOf, blockOf, hwin]

end Sys2Proof.Machine

open Sys2Proof Sys2Proof.Machine

/-- Settles O7: the retirement log fits, so a module reset leaves nothing to do; the other two resets touch only what they end. -/
theorem resets : Obligations.Resets := by
  unfold Obligations.Resets
  refine fun s => ⟨fun hp hlog => ⟨fun kind h1 h3 => act_reset (c := .moduleReset kind) kind ?_ hp hlog,
    act_reset (c := .perstAssert) 2 rfl hp hlog,
    fun v hg hkey => exec_glbResetModule hp hlog hg hkey⟩, fun hl => ⟨act_mgmtReset (c := .mgmtWatchdogExpiry) rfl hl,
    act_mgmtReset (c := .mgmtCoreReset) rfl hl,
    fun v hm hkey => exec_glbResetMgmt hl hm hkey⟩, fun hl hj x hx => ?_⟩
  · simp [wellFormed, within1, h1, h3]
  · obtain rfl : x = allToHost := hx
    have he := (only_ringsEmptied (ringsOff s.dev)).after (only_ringsOff s.dev).in (l := [.sw, .bpm, .regs, .evt, .ring, .tel])
    have heq := hostLinkReset_eq s.dev
    rw [endHostJoins_none (by rw [he.cru, hj])] at heq
    have hwindow : rg (ringsEmptied (ringsOff s.dev)) 0x440028 = rg s.dev 0x440028 :=
      (rg_ringsEmptied (by decide) _).trans
        (rg_ringsOff (by decide) (by unfold oSqCtl; omega) (by unfold oCqCtl; omega) (by decide) _)
    have htouch := moverTouches_congr hwindow he.boot allToHost
    have hbias := only_linkHostBias (ringsEmptied (ringsOff s.dev))
    have hlast := only_modBoot linkDown (linkHostBias (ringsEmptied (ringsOff s.dev)))
    rw [← heq] at hlast
    have hframe := hlast.after (hbias.after he.in (l := [.sw, .bpm, .regs, .evt, .ring, .tel, .mem, .boot]))
    have hregs : ∀ off, rg (hostLinkReset s.dev) off = rg (ringsEmptied (ringsOff s.dev)) off :=
      fun off => (hlast.rg off).trans (hbias.rg off)
    have hring := hlast.ring.trans hbias.ring
    have hboot : (hostLinkReset s.dev).boot = linkDown s.dev.boot := by
      rw [heq, ← he.boot, ← hbias.boot]
      rfl
    refine ⟨_, act_calm .hostLinkReset hostLinkReset s rfl hl hframe.calm, fun q hq => ?_, fun c hc => ?_, ?_, fun q => ?_,
      by rw [hboot]; rfl, by rw [hboot]; rfl, by rw [hboot]; rfl, hframe.forge, hframe.tab, hframe.nv, fun hf hm => ?_, fun hm => ?_⟩
    · rw [sqOn, flag, hregs, rg_ringsEmptied (by unfold oSqCtl; omega)]
      exact ringsOff_sqOn s.dev hq
    · rw [cqOn, flag, hregs, rg_ringsEmptied (by unfold oCqCtl; omega)]
      exact ringsOff_cqOn s.dev hc
    · rw [eqOn, flag, hregs, rg_ringsEmptied (by decide)]
      exact ringsOff_eqOn s.dev
    · rw [Machine.sq, hring]
      exact ringsEmptied_sq (ringsOff s.dev) q
    · rw [hlast.mem, linkHostBias_now (by rw [he.mem, hf]) (by simpa only [he.forge, htouch] using hm), modMem, he.mem]
    · rw [hlast.mem, linkHostBias_later (by simpa only [he.forge, htouch] using hm), modMem, he.mem]
      exact ⟨rfl, tget_tput_self _ _ _⟩

end

section
/-! SUPPORT. Big-endian strings, checksums that fit their fields, and the layouts of link units and cell headers (R56, R100, R115). -/

set_option Elab.async false

namespace Sys2Proof.Machine

open Sys2Proof

/-! ### Big-endian strings -/

theorem toBE_length (n v : Nat) : (toBE n v).length = n := by rw [toBE, List.length_reverse, toLE_length]

theorem beNat_reverse (b : Bytes) : beNat b.reverse = leNat b := List.foldl_reverse

theorem beNat_toBE (n v : Nat) : beNat (toBE n v) = v % 256 ^ n := by rw [toBE, beNat_reverse, leNat_toLE]

theorem beNat_append (a b : Bytes) : beNat (a ++ b) = beNat a * 256 ^ b.length + beNat b := by
  induction b using List.reverseRecOn with
  | nil => simp [beNat]
  | append_singleton b x ih =>
    have hsnoc : ∀ c : Bytes, beNat (c ++ [x]) = beNat c * 256 + x.toNat := fun c => List.foldl_append
    rw [← List.append_assoc, hsnoc, hsnoc, ih, List.length_append, List.length_singleton, Nat.pow_succ]
    ring

theorem beNat_lt (b : Bytes) : beNat b < 256 ^ b.length := by
  induction b using List.reverseRecOn with
  | nil => exact Nat.one_pos
  | append_singleton b x ih =>
    have hx : beNat [x] < 256 := by simpa [beNat] using x.isLt
    simp only [beNat_append, List.length_append, List.length_singleton, pow_succ, pow_zero]
    omega

/-- The value of a string's leading bytes. -/
theorem beNat_take (b : Bytes) (n : Nat) : beNat (b.take n) = beNat b / 256 ^ (b.length - n) := by
  have hcut : beNat b = beNat (b.take n) * 256 ^ (b.drop n).length + beNat (b.drop n) := by
    rw [← beNat_append, List.take_append_drop]
  rw [hcut, List.length_drop, Nat.mul_comm, Nat.mul_add_div (Nat.pow_pos (by decide)),
    Nat.div_eq_of_lt (List.length_drop ▸ beNat_lt (b.drop n)), Nat.add_zero]

/-! ### Slices and overlays, byte by byte -/

theorem slice_getD (b : Bytes) (off n i : Nat) (h : i < n) : (slice b off n).getD i 0 = b.getD (off + i) 0 := by
  rw [slice_eq_map, List.getD_eq_getElem?_getD, List.getElem?_map, List.getElem?_range h]
  rfl

theorem slice_congr {a b : Bytes} {off n : Nat} (h : ∀ i < n, a.getD (off + i) 0 = b.getD (off + i) 0) :
    slice a off n = slice b off n := by
  rw [slice_eq_map, slice_eq_map]
  exact List.map_congr_left fun i hi => h i (List.mem_range.1 hi)

theorem getD_overlay (b x : Bytes) (off i : Nat) :
    (overlay b off x).getD i 0 = if off ≤ i ∧ i < off + x.length then x.getD (i - off) 0 else b.getD i 0 := by
  rw [overlay, List.append_assoc]
  rcases Nat.lt_or_ge i off with hlt | hge
  · rw [List.getD_append _ _ _ _ (by rw [slice_length]; exact hlt), slice_getD _ _ _ _ hlt, Nat.zero_add, if_neg (by omega)]
  · rw [List.getD_append_right _ _ _ _ (by rw [slice_length]; exact hge), slice_length]
    rcases Nat.lt_or_ge i (off + x.length) with hin | hout
    · rw [List.getD_append _ _ _ _ (by omega), if_pos ⟨hge, hin⟩]
    · rw [List.getD_append_right _ _ _ _ (by omega), if_neg (by omega), List.getD_eq_getElem?_getD, List.getElem?_drop,
        List.getD_eq_getElem?_getD]
      congr 3
      omega

theorem getD_overlay_one (b : Bytes) (x : Byte) (off i : Nat) :
    (overlay b off [x]).getD i 0 = if i = off then x else b.getD i 0 := by
  rw [getD_overlay, List.length_singleton]
  by_cases h : i = off
  · subst h
    rw [if_pos (by omega), if_pos rfl, Nat.sub_self]
    rfl
  · rw [if_neg (by omega), if_neg h]

/-! ### Checksums fit their fields -/

theorem crcShift_lt {w poly : Nat} (hp : poly < 2 ^ w) (c : Nat) : crcShift w poly c < 2 ^ w := by
  unfold crcShift
  dsimp only
  split
  · exact Nat.xor_lt_two_pow (Nat.mod_lt _ (Nat.two_pow_pos w)) hp
  · exact Nat.mod_lt _ (Nat.two_pow_pos w)

theorem crcMsb_lt {w poly init : Nat} (hp : poly < 2 ^ w) (hi : init < 2 ^ w) (b : Bytes) : crcMsb w poly init b < 2 ^ w := by
  have hiter : ∀ n c, iter (crcShift w poly) (n + 1) c < 2 ^ w := fun n => by
    induction n with
    | zero => exact fun c => crcShift_lt hp c
    | succ n ih => exact fun c => ih (crcShift w poly c)
  unfold crcMsb
  induction b using List.reverseRecOn with
  | nil => exact hi
  | append_singleton b x ih =>
    rw [List.foldl_append]
    exact hiter 7 _

theorem crc8_lt (b : Bytes) : crc8 b < 256 := crcMsb_lt (w := 8) (by decide) (by decide) b
theorem crc16_lt (b : Bytes) : crc16 b < 65536 := crcMsb_lt (w := 16) (by decide) (by decide) b

/-! ### Link units (R100) -/

/-- The link header of a unit but for its last byte, which is its check. -/
def unitWord (ty cvc grant seq ack : Nat) : Nat :=
  ty * 2 ^ 60 + cvc * 2 ^ 57 + grant % 4096 * 2 ^ 45 + seq % 2 ^ 18 * 2 ^ 27 + ack % 2 ^ 18 * 2 ^ 9

/-- The first seven bytes of a link header. -/
def unitHead (ty cvc grant seq ack : Nat) : Bytes := slice (toBE 8 (unitWord ty cvc grant seq ack)) 0 7

theorem mkUnit_eq (ty cvc grant seq ack : Nat) (body : Bytes) :
    mkUnit ty cvc grant seq ack body = unitHead ty cvc grant seq ack
      ++ (toBE 1 (crc8 (unitHead ty cvc grant seq ack)) ++ fit body 544) := List.append_assoc _ _ _

theorem slice_take (b : Bytes) (n : Nat) (h : n ≤ b.length) : slice b 0 n = b.take n := by
  simp [slice, zeros, Nat.min_eq_left h]

section
variable {ty cvc grant seq ack : Nat} {body : Bytes}

theorem unitHead_length : (unitHead ty cvc grant seq ack).length = 7 := slice_length _ _ _

theorem mkUnit_length : (mkUnit ty cvc grant seq ack body).length = 552 := by
  rw [mkUnit_eq, List.length_append, List.length_append, unitHead_length, toBE_length, fit, slice_length]

theorem mkUnit_head : slice (mkUnit ty cvc grant seq ack body) 0 7 = unitHead ty cvc grant seq ack := by
  have h := slice_append_left (unitHead ty cvc grant seq ack) (toBE 1 (crc8 (unitHead ty cvc grant seq ack)) ++ fit body 544)
  rwa [unitHead_length, ← mkUnit_eq] at h

theorem uBody_mkUnit : uBody (mkUnit ty cvc grant seq ack body) = fit body 544 := by
  have h := slice_append_right (unitHead ty cvc grant seq ack ++ toBE 1 (crc8 (unitHead ty cvc grant seq ack))) (fit body 544)
  rwa [List.length_append, unitHead_length, toBE_length, List.append_assoc, ← mkUnit_eq, fit, slice_length] at h

/-- The check byte of a unit. -/
theorem byteAt_mkUnit_crc : byteAt (mkUnit ty cvc grant seq ack body) 7 = crc8 (unitHead ty cvc grant seq ack) := by
  rw [byteAt, mkUnit_eq, List.getD_append_right _ _ _ _ (le_of_eq unitHead_length), unitHead_length,
    List.getD_append _ _ _ _ (by rw [toBE_length]; decide)]
  show (BitVec.ofNat 8 _).toNat = _
  rw [BitVec.toNat_ofNat, Nat.mod_eq_of_lt (crc8_lt _)]

theorem beNat_unitHead (h : unitWord ty cvc grant seq ack < 2 ^ 64) :
    beNat (unitHead ty cvc grant seq ack) = unitWord ty cvc grant seq ack / 256 := by
  rw [unitHead, slice_take _ _ (by rw [toBE_length]; decide), beNat_take, toBE_length, beNat_toBE,
    show 256 ^ 8 = 2 ^ 64 by norm_num, Nat.mod_eq_of_lt h]
  rfl

/-- The link header of a unit is its word, the low byte the check. -/
theorem uWord_mkUnit (h : unitWord ty cvc grant seq ack < 2 ^ 64) :
    uWord (mkUnit ty cvc grant seq ack body) =
      unitWord ty cvc grant seq ack / 256 * 256 + crc8 (unitHead ty cvc grant seq ack) := by
  have hcut := slice_append_left (unitHead ty cvc grant seq ack ++ toBE 1 (crc8 (unitHead ty cvc grant seq ack))) (fit body 544)
  rw [List.length_append, unitHead_length, toBE_length, List.append_assoc, ← mkUnit_eq] at hcut
  rw [uWord, hcut, beNat_append, beNat_unitHead h, toBE_length, beNat_toBE, Nat.pow_one, Nat.mod_eq_of_lt (crc8_lt _)]

end

theorem mkUnit_reads {ty cvc grant seq ack : Nat} (body : Bytes) (hty : ty < 5) (hcvc : cvc < 8) (hgrant : grant < 4096)
    (hseq : seq < 2 ^ 18) (hack : ack < 2 ^ 18) :
    let u := mkUnit ty cvc grant seq ack body
    uType u = ty ∧ uCvc u = cvc ∧ uGrant u = grant ∧ uSeq u = seq ∧ uAck u = ack := by
  intro u
  have hw : unitWord ty cvc grant seq ack = ty * 2 ^ 60 + cvc * 2 ^ 57 + grant * 2 ^ 45 + seq * 2 ^ 27 + ack * 2 ^ 9 := by
    rw [unitWord, Nat.mod_eq_of_lt hgrant, Nat.mod_eq_of_lt hseq, Nat.mod_eq_of_lt hack]
  have hlt : unitWord ty cvc grant seq ack < 2 ^ 64 := by rw [hw]; omega
  have hword : uWord u = _ := uWord_mkUnit hlt
  have hcrc := crc8_lt (unitHead ty cvc grant seq ack)
  rw [hw] at hword
  simp only [uType, uCvc, uGrant, uSeq, uAck, bits, hword]
  omega

/-! ### Cell headers (R56, R115) -/

theorem sealHdr_length (x : Bytes) : (sealHdr x).length = 32 := by
  rw [sealHdr, List.length_append, slice_length, toBE_length]

/-- A sealed header holds the bytes it was made of. -/
theorem getD_sealHdr (x : Bytes) {i : Nat} (h : i < 30) : (sealHdr x).getD i 0 = x.getD i 0 := by
  rw [sealHdr, List.getD_append _ _ _ _ (by rw [slice_length]; exact h), slice_getD _ _ _ _ h, Nat.zero_add]

theorem byteAt_sealHdr (x : Bytes) {i : Nat} (h : i < 30) : byteAt (sealHdr x) i = byteAt x i := by
  rw [byteAt, getD_sealHdr x h, byteAt]

theorem slice_sealHdr (x : Bytes) {off n : Nat} (h : off + n ≤ 30) : slice (sealHdr x) off n = slice x off n :=
  slice_congr fun _ hi => getD_sealHdr x (by omega)

theorem beAt_sealHdr (x : Bytes) {off n : Nat} (h : off + n ≤ 30) : beAt (sealHdr x) off n = beAt x off n := by
  rw [beAt, slice_sealHdr x h, beAt]

/-- A sealed header passes the test of its CRC. -/
theorem crc_sealHdr (x : Bytes) : crc16 (slice (sealHdr x) 0 30) = beAt (sealHdr x) 30 2 := by
  have hright := slice_append_right (slice x 0 30) (toBE 2 (crc16 (slice x 0 30)))
  rw [slice_length, toBE_length] at hright
  rw [slice_sealHdr x (by decide), beAt, sealHdr, hright, beNat_toBE, show 256 ^ 2 = 65536 by norm_num,
    Nat.mod_eq_of_lt (crc16_lt _)]

theorem cellOk_of {h : Bytes} (hcrc : crc16 (slice h 0 30) = beAt h 30 2) (hvc : hVc h < 6)
    (hlen : hLast h = true ∨ hLen h = 512) : cellOk h = true := by
  rw [cellOk, hcrc, beq_self_eq_true, decide_eq_true hvc]
  rcases hlen with h | h <;> simp [h]

/-- The bytes of a header that follow its hops. -/
def hdrTail (vc tc : Nat) (first last : Bool) (cnt dst src dl idx len : Nat) (mcast : Bool) (hash : Nat) : Bytes :=
  toBE 1 (vc * 32 + tc * 4 + boolNat first * 2 + boolNat last) ++ toBE 1 cnt ++ toBE 3 dst ++ toBE 3 src ++ toBE 2 dl ++ toBE 1 idx
    ++ toBE 1 (len / 16 % 32 * 8 + boolNat mcast * 2) ++ toBE 2 hash

/-- The header made of hops and their tail. -/
theorem mkHdr_eq {hops : Bytes} (h : hops.length = 16) (vc tc : Nat) (first last : Bool) (cnt dst src dl idx len : Nat)
    (mcast : Bool) (hash : Nat) :
    mkHdr hops vc tc first last cnt dst src dl idx len mcast hash
      = sealHdr (hops ++ hdrTail vc tc first last cnt dst src dl idx len mcast hash) := by
  have hfit : fit hops 16 = hops := by rw [fit, ← h, slice_all]
  rw [mkHdr, hfit]
  simp only [hdrTail, List.append_assoc]

theorem getD_hops {hops t : Bytes} (h : hops.length = 16) (i : Nat) : (hops ++ t).getD (16 + i) 0 = t.getD i 0 := by
  rw [List.getD_append_right _ _ _ _ (by omega), h, Nat.add_sub_cancel_left]

theorem byteAt_hops {hops t : Bytes} (h : hops.length = 16) (i : Nat) : byteAt (hops ++ t) (16 + i) = byteAt t i := by
  rw [byteAt, getD_hops h, byteAt]

theorem beAt_hops {hops t : Bytes} (h : hops.length = 16) (off n : Nat) : beAt (hops ++ t) (16 + off) n = beAt t off n := by
  have hmap : ∀ i ∈ List.range n, (hops ++ t).getD (16 + off + i) 0 = t.getD (off + i) 0 := fun i _ => by
    rw [Nat.add_assoc, getD_hops h]
  rw [beAt, beAt, slice_eq_map, slice_eq_map, List.map_congr_left hmap]

/-- The value of two and of three bytes laid out most significant first. -/
theorem beNat_two (v : Nat) : beNat [BitVec.ofNat 8 (v / 256), BitVec.ofNat 8 v] = v % 65536 := beNat_toBE 2 v
theorem beNat_three (v : Nat) :
    beNat [BitVec.ofNat 8 (v / 256 / 256), BitVec.ofNat 8 (v / 256), BitVec.ofNat 8 v] = v % 16777216 := beNat_toBE 3 v

/-- Bit `i` of a number, as a remainder. -/
theorem testBit_of_mod {n i : Nat} {b : Bool} (h : n / 2 ^ i % 2 = boolNat b) : n.testBit i = b := by
  rw [Nat.testBit_eq_decide_div_mod_eq, h]
  cases b <;> rfl

theorem boolNat_le (b : Bool) : boolNat b ≤ 1 := by cases b <;> decide

section
variable {hops : Bytes} {vc tc cnt dst src dl idx len hash : Nat} {first last mcast : Bool}

/-- Every byte of a header after its hops. -/
theorem mkHdr_bytes (hh : hops.length = 16) (hvc : vc < 6) (htc : tc < 8) (hcnt : cnt < 16) (hdst : dst < 2 ^ 24) (hsrc : src < 2 ^ 24)
    (hdl : dl < 65536) (hidx : idx < 256) (hhash : hash < 65536) :
    let h := mkHdr hops vc tc first last cnt dst src dl idx len mcast hash
    slice h 0 16 = hops ∧ byteAt h 16 = vc * 32 + tc * 4 + boolNat first * 2 + boolNat last ∧ byteAt h 17 = cnt ∧ beAt h 18 3 = dst
      ∧ beAt h 21 3 = src ∧ beAt h 24 2 = dl ∧ byteAt h 26 = idx ∧ byteAt h 27 = len / 16 % 32 * 8 + boolNat mcast * 2
      ∧ beAt h 28 2 = hash := by
  have hf := boolNat_le first
  have hl := boolNat_le last
  have hm := boolNat_le mcast
  rw [mkHdr_eq hh]
  intro h
  have hbyte : ∀ i, 16 + i < 30 → byteAt h (16 + i) = byteAt (hdrTail vc tc first last cnt dst src dl idx len mcast hash) i :=
    fun i hi => by rw [byteAt_sealHdr _ hi, byteAt_hops hh]
  have hbe : ∀ i n, 16 + i + n ≤ 30 → beAt h (16 + i) n = beAt (hdrTail vc tc first last cnt dst src dl idx len mcast hash) i n :=
    fun i n hi => by rw [beAt_sealHdr _ hi, beAt_hops hh]
  refine ⟨?_, (hbyte 0 (by decide)).trans ?_, (hbyte 1 (by decide)).trans ?_, (hbe 2 3 (by decide)).trans ?_,
    (hbe 5 3 (by decide)).trans ?_, (hbe 8 2 (by decide)).trans ?_, (hbyte 10 (by decide)).trans ?_, (hbyte 11 (by decide)).trans ?_,
    (hbe 12 2 (by decide)).trans ?_⟩
  · rw [slice_sealHdr _ (by decide), ← hh]
    exact slice_append_left _ _
  · exact (BitVec.toNat_ofNat _ _).trans (Nat.mod_eq_of_lt (by omega))
  · exact (BitVec.toNat_ofNat _ _).trans (Nat.mod_eq_of_lt (by omega))
  · exact (beNat_three dst).trans (Nat.mod_eq_of_lt hdst)
  · exact (beNat_three src).trans (Nat.mod_eq_of_lt hsrc)
  · exact (beNat_two dl).trans (Nat.mod_eq_of_lt hdl)
  · exact (BitVec.toNat_ofNat _ _).trans (Nat.mod_eq_of_lt hidx)
  · exact (BitVec.toNat_ofNat _ _).trans (Nat.mod_eq_of_lt (by omega))
  · exact (beNat_two hash).trans (Nat.mod_eq_of_lt hhash)

end

/-- What byte 27 says of a cell's length: 16 to 512 bytes in steps of 16, 512 as 0. -/
theorem hLen_of_byte {h : Bytes} {len : Nat} {x : Nat} (hx : x < 8) (h27 : byteAt h 27 = len / 16 % 32 * 8 + x) (h16 : 16 ≤ len)
    (h512 : len ≤ 512) (hmul : len % 16 = 0) : hLen h = len := by
  rw [hLen, h27]
  split <;> omega

/-! ### The copy a link transmits (R57, R78) -/

/-- The bytes of the copy: the hop pointer and the late flag alone may differ. -/
theorem hopCopy_bytes (h : Bytes) (late : Bool) :
    byteAt (hopCopy h late) 17 = ((hPtr h + 1) % 16 * 16 + hCnt h) % 256
      ∧ byteAt (hopCopy h late) 27 = (if late && !hLate h then byteAt h 27 + 1 else byteAt h 27) % 256
      ∧ ∀ i, i < 30 → i ≠ 17 → i ≠ 27 → (hopCopy h late).getD i 0 = h.getD i 0 := by
  refine ⟨?_, ?_, fun i hi h17 h27 => ?_⟩
  · rw [hopCopy, byteAt_sealHdr _ (by decide), byteAt, getD_overlay_one, if_neg (by decide), getD_overlay_one, if_pos rfl]
    exact BitVec.toNat_ofNat _ _
  · rw [hopCopy, byteAt_sealHdr _ (by decide), byteAt, getD_overlay_one, if_pos rfl]
    exact BitVec.toNat_ofNat _ _
  · rw [hopCopy, getD_sealHdr _ hi, getD_overlay_one, if_neg h27, getD_overlay_one, if_neg h17]

theorem beAt_hopCopy (h : Bytes) (late : Bool) {off n : Nat} (hlo : 17 < off) (hhi : off + n ≤ 27) :
    beAt (hopCopy h late) off n = beAt h off n :=
  congrArg beNat (slice_congr fun i hi => (hopCopy_bytes h late).2.2 _ (by omega) (by omega) (by omega))

theorem slice_hopCopy (h : Bytes) (late : Bool) : slice (hopCopy h late) 0 16 = slice h 0 16 :=
  slice_congr fun i hi => (hopCopy_bytes h late).2.2 _ (by omega) (by omega) (by omega)

end Sys2Proof.Machine

open Sys2Proof Sys2Proof.Machine

/-- Settles O15: a unit's word and a header's bytes hold their fields side by side, and the check closes each. -/
theorem formatsRoundTrip : Obligations.FormatsRoundTrip := by
  unfold Obligations.FormatsRoundTrip
  refine ⟨?_, ?_⟩
  · intro ty cvc grant seq ack body hty hcvc h5 h6 hgrant hseq hack hbody u
    obtain ⟨htype, hcv, hg, hs, ha⟩ := mkUnit_reads body hty hcvc hgrant hseq hack
    refine ⟨mkUnit_length, ?_, htype, hcv, hg, hs, ha, ?_⟩
    · rw [unitOk, htype, hcv, mkUnit_head, byteAt_mkUnit_crc]
      simp [hty, h5, h6]
    · rw [uBody_mkUnit, fit, ← hbody, slice_all]
  · intro hops vc tc cnt dst src dl idx len hash first last mcast hhops hvc htc hcnt hdst hsrc hdl hidx h16 h512 hmul hlast hhash h
    obtain ⟨hb0, hb16, hb17, hb18, hb21, hb24, hb26, hb27, hb28⟩ :=
      mkHdr_bytes (len := len) (first := first) (last := last) (mcast := mcast) hhops hvc htc hcnt hdst hsrc hdl hidx hhash
    have hf := boolNat_le first
    have hl := boolNat_le last
    have hm := boolNat_le mcast
    have hVC : hVc h = vc := by rw [hVc, hb16]; omega
    have hLAST : hLast h = last := testBit_of_mod (by rw [hb16]; omega)
    have hLEN : hLen h = len := hLen_of_byte (x := boolNat mcast * 2) (by omega) hb27 h16 h512 hmul
    have hPTR : hPtr h = 0 := by rw [hPtr, hb17]; omega
    have hCNT : hCnt h = cnt := by rw [hCnt, hb17]; omega
    have hLATE : hLate h = false := testBit_of_mod (by rw [hb27]; show _ = 0; omega)
    have hlong : hLast h = true ∨ hLen h = 512 := by rwa [hLAST, hLEN]
    refine ⟨sealHdr_length _, hb0, hVC, by rw [hTc, hb16]; omega, testBit_of_mod (by rw [hb16]; omega), hLAST, hCNT, hPTR, hb18, hb21,
      hb24, hb26, hLEN, testBit_of_mod (by rw [hb27]; omega), hLATE, hb28, cellOk_of (crc_sealHdr _) (hVC ▸ hvc) hlong,
      fun late => ?_⟩
    obtain ⟨hc17, hc27, hrest⟩ := hopCopy_bytes h late
    have hc16 : byteAt (hopCopy h late) 16 = byteAt h 16 := by
      rw [byteAt, hrest 16 (by decide) (by decide) (by decide), byteAt]
    have hc27' : byteAt (hopCopy h late) 27 = len / 16 % 32 * 8 + (boolNat mcast * 2 + boolNat late) := by
      have hadd : ∀ b : Nat, (if late && !false then b + 1 else b) = b + boolNat late := fun b => by cases late <;> rfl
      have := boolNat_le late
      rw [hc27, hLATE, hb27, hadd]
      omega
    have hcLEN : hLen (hopCopy h late) = len :=
      hLen_of_byte (x := boolNat mcast * 2 + boolNat late) (by have := boolNat_le late; omega) hc27' h16 h512 hmul
    refine ⟨by rw [hPtr, hc17, hPTR, hCNT]; omega, testBit_of_mod (by rw [hc27']; have := boolNat_le late; omega), ?_,
      (beAt_hopCopy h late (by decide) (by decide)).trans hb18, (beAt_hopCopy h late (by decide) (by decide)).trans hb24,
      (slice_hopCopy h late).trans hb0⟩
    refine cellOk_of (crc_sealHdr _) ?_ ?_
    · rw [hVc, hc16, ← hVc, hVC]
      exact hvc
    · rw [hcLEN, hLast, hc16, ← hLast, ← hLEN]
      exact hlong

end

section
/-! SUPPORT. The matcher: its requests, one iteration of request, grant and accept, and what three of them keep (R139 to R143). -/

set_option Elab.async false

namespace Sys2Proof.Machine

open Sys2Proof

theorem nodup_eraseDups {α : Type} [BEq α] [LawfulBEq α] (l : List α) : l.eraseDups.Nodup := by
  induction h : l.length using Nat.strong_induction_on generalizing l with
  | _ n ih =>
    cases l with
    | nil => exact List.nodup_nil
    | cons a l =>
      rw [List.eraseDups_cons, List.nodup_cons]
      refine ⟨fun hm => ?_, ih _ ?_ _ rfl⟩
      · simpa using List.mem_eraseDups.1 hm
      · subst h
        exact Nat.lt_succ_of_le (List.length_filter_le _ _)

/-! ### Requests (R140, R142) -/

/-- Keeping the better request of a pair of ports adds nothing but the request itself. -/
theorem mem_addReq {l : List Req} {r x : Req} (h : x ∈ addReq l r) : x ∈ l ∨ x = r := by
  unfold addReq at h
  split at h
  · simpa using h
  · split at h
    · obtain ⟨y, hy, rfl⟩ := List.mem_map.1 h
      split
      · exact .inr rfl
      · exact .inl hy
    · exact .inl h

theorem mem_foldl_addReq {rs l : List Req} {x : Req} (h : x ∈ rs.foldl addReq l) : x ∈ l ∨ x ∈ rs := by
  induction rs generalizing l with
  | nil => exact .inl h
  | cons r rs ih =>
    rcases ih h with h | h
    · rcases mem_addReq h with h | rfl
      · exact .inl h
      · exact .inr List.mem_cons_self
    · exact .inr (List.mem_cons_of_mem r h)

theorem voqKey_ports (k : Nat) : voqKey (k / 440) (k / 5 % 88) (k % 5) = k := by
  unfold voqKey
  omega

/-- A request stands for the lead cell of its VOQ: one not committed, whose target is ready. -/
theorem lead_of_reqOf {d : Dev} {k : Nat} {q : List Ref} {r : Req} (h : reqOf d k q = some r) :
    k = voqKey r.i r.o r.v ∧ ∃ x ∈ q, x.committed = false ∧ x.rid = r.rid ∧ ready d x.tgt r.v = true := by
  unfold reqOf at h
  split at h
  · cases h
  · next x hlead =>
    split at h
    · cases h
    · split at h
      · next hready =>
        cases h
        exact ⟨(voqKey_ports k).symm, x, List.mem_of_find?_eq_some hlead, by simpa using List.find?_some hlead, rfl, hready⟩
      · cases h

theorem request_of_voq {d : Dev} {r : Req} (h : r ∈ requests d) :
    ∃ p ∈ d.sw.voq, p.1 = voqKey r.i r.o r.v ∧ ∃ x ∈ p.2, x.committed = false ∧ x.rid = r.rid ∧ ready d x.tgt r.v = true := by
  rcases mem_foldl_addReq h with h | h
  · cases h
  · obtain ⟨p, hp, hreq⟩ := List.mem_filterMap.1 h
    obtain ⟨hk, hx⟩ := lead_of_reqOf hreq
    exact ⟨p, hp, hk, hx⟩

/-! ### One iteration (R142, R143) -/

theorem mem_preferUrgent {l : List Req} {r : Req} (h : r ∈ preferUrgent l) : r ∈ l := by
  unfold preferUrgent at h
  split at h
  · exact List.mem_of_mem_filter h
  · exact h

/-- The requests of ports that no pair has yet. -/
def rgaLive (rs pairs : List Req) : List Req := rs.filter (fun r => !pairs.any (fun p => p.i == r.i || p.o == r.o))

/-- What an output grants. -/
def grantOf (live : List Req) (g : Tab Nat) (o : Nat) : Option Req :=
  (firstFrom (tgetD g o 0) ((preferUrgent (live.filter (fun x => x.o == o))).map (·.i))).bind
    (fun i => (preferUrgent (live.filter (fun x => x.o == o))).find? (fun x => x.i == i))

def rgaGrants (live : List Req) (g : Tab Nat) : List Req := (live.map (·.o)).eraseDups.filterMap (grantOf live g)

/-- What an input accepts. -/
def acceptOf (grants : List Req) (a : Tab Nat) (i : Nat) : Option Req :=
  (firstFrom (tgetD a i 0) ((preferUrgent (grants.filter (fun x => x.i == i))).map (·.o))).bind
    (fun o => (preferUrgent (grants.filter (fun x => x.i == i))).find? (fun x => x.o == o))

/-- One input accepts: a pair more, and in the first iteration its pointers move. -/
def rgaTake (first : Bool) (grants : List Req) (st : Rga) (i : Nat) : Rga :=
  match acceptOf grants st.a i with
  | none => st
  | some r =>
    if first then { g := tput st.g r.o ((i + 1) % 88), a := tput st.a i ((r.o + 1) % 88), pairs := st.pairs ++ [r] }
    else { st with pairs := st.pairs ++ [r] }

theorem rgaStep_eq (first : Bool) (rs : List Req) (st : Rga) :
    rgaStep first rs st =
      ((rgaGrants (rgaLive rs st.pairs) st.g).map (·.i)).eraseDups.foldl (rgaTake first (rgaGrants (rgaLive rs st.pairs) st.g)) st :=
  rfl

theorem grantOf_spec {live : List Req} {g : Tab Nat} {o : Nat} {r : Req} (h : grantOf live g o = some r) : r ∈ live ∧ r.o = o := by
  obtain ⟨i, -, hfind⟩ := Option.bind_eq_some_iff.1 h
  have hmem := List.mem_filter.1 (mem_preferUrgent (List.mem_of_find?_eq_some hfind))
  exact ⟨hmem.1, by simpa using hmem.2⟩

theorem acceptOf_spec {grants : List Req} {a : Tab Nat} {i : Nat} {r : Req} (h : acceptOf grants a i = some r) :
    r ∈ grants ∧ r.i = i := by
  obtain ⟨o, -, hfind⟩ := Option.bind_eq_some_iff.1 h
  have hmem := List.mem_filter.1 (mem_preferUrgent (List.mem_of_find?_eq_some hfind))
  exact ⟨hmem.1, by simpa using hmem.2⟩

theorem mem_rgaGrants {live : List Req} {g : Tab Nat} {r : Req} (h : r ∈ rgaGrants live g) : r ∈ live := by
  obtain ⟨o, -, ho⟩ := List.mem_filterMap.1 h
  exact (grantOf_spec ho).1

/-- Of two grants of one output there is but one: each output grants one request. -/
theorem rgaGrants_out {live : List Req} {g : Tab Nat} {r x : Req} (hr : r ∈ rgaGrants live g) (hx : x ∈ rgaGrants live g)
    (h : r.o = x.o) : r = x := by
  obtain ⟨o, -, ho⟩ := List.mem_filterMap.1 hr
  obtain ⟨p, -, hp⟩ := List.mem_filterMap.1 hx
  obtain rfl := (grantOf_spec ho).2
  obtain rfl := (grantOf_spec hp).2
  rw [h, hp] at ho
  exact (Option.some.inj ho).symm

/-- Pairs that use each port at most once. -/
def PortsOnce (l : List Req) : Prop := (l.map (·.i)).Nodup ∧ (l.map (·.o)).Nodup

/-- What a run of inputs accepts: grants to its own inputs, each at most once, put behind the pairs made before. -/
theorem foldl_rgaTake (first : Bool) (grants : List Req) (ins : List Nat) (st : Rga) :
    ∃ new, (ins.foldl (rgaTake first grants) st).pairs = st.pairs ++ new ∧ (∀ r ∈ new, r ∈ grants)
      ∧ (new.map (·.i)).Sublist ins := by
  induction ins generalizing st with
  | nil => exact ⟨[], (List.append_nil _).symm, List.forall_mem_nil _, List.Sublist.refl _⟩
  | cons i ins ih =>
    obtain ⟨new, hpairs, hgrants, hsub⟩ := ih (rgaTake first grants st i)
    rw [List.foldl_cons]
    rcases hacc : acceptOf grants st.a i with _ | r
    · have hst : rgaTake first grants st i = st := by rw [rgaTake, hacc]
      rw [hst] at hpairs ⊢
      exact ⟨new, hpairs, hgrants, hsub.cons i⟩
    · obtain ⟨hr, rfl⟩ := acceptOf_spec hacc
      have hst : (rgaTake first grants st r.i).pairs = st.pairs ++ [r] := by
        rw [rgaTake, hacc]
        cases first <;> rfl
      rw [hst, List.append_assoc] at hpairs
      exact ⟨r :: new, hpairs, List.forall_mem_cons.2 ⟨hr, hgrants⟩, hsub.cons_cons r.i⟩

/-- An iteration adds requests of ports that had no pair, and no port twice. -/
theorem rgaStep_pairs (first : Bool) (rs : List Req) (st : Rga) (h : PortsOnce st.pairs) :
    PortsOnce (rgaStep first rs st).pairs ∧ ∃ new, (rgaStep first rs st).pairs = st.pairs ++ new ∧ ∀ r ∈ new, r ∈ rs := by
  obtain ⟨new, hpairs, hgrants, hsub⟩ := foldl_rgaTake first (rgaGrants (rgaLive rs st.pairs) st.g)
    ((rgaGrants (rgaLive rs st.pairs) st.g).map (·.i)).eraseDups st
  rw [← rgaStep_eq] at hpairs
  have hlive : ∀ r ∈ new, r ∈ rs ∧ ∀ p ∈ st.pairs, p.i ≠ r.i ∧ p.o ≠ r.o := fun r hr => by
    obtain ⟨hrs, hfree⟩ := List.mem_filter.1 (mem_rgaGrants (hgrants r hr))
    refine ⟨hrs, fun p hp => ?_⟩
    simp only [Bool.not_eq_true', List.any_eq_false, Bool.or_eq_true, beq_iff_eq, not_or] at hfree
    exact hfree p hp
  have hins : (new.map (·.i)).Nodup := hsub.nodup (nodup_eraseDups _)
  have houts : (new.map (·.o)).Nodup := by
    refine List.Nodup.map_on (fun r hr x hx ho => rgaGrants_out (hgrants r hr) (hgrants x hx) ho) (List.Nodup.of_map _ hins)
  refine ⟨?_, new, hpairs, fun r hr => (hlive r hr).1⟩
  rw [hpairs, PortsOnce, List.map_append, List.map_append, List.nodup_append', List.nodup_append']
  refine ⟨⟨h.1, hins, fun i hp hn => ?_⟩, h.2, houts, fun o hp hn => ?_⟩
  · obtain ⟨p, hmem, rfl⟩ := List.mem_map.1 hp
    obtain ⟨r, hr, hri⟩ := List.mem_map.1 hn
    exact ((hlive r hr).2 p hmem).1 hri.symm
  · obtain ⟨p, hmem, rfl⟩ := List.mem_map.1 hp
    obtain ⟨r, hr, hro⟩ := List.mem_map.1 hn
    exact ((hlive r hr).2 p hmem).2 hro.symm

/-! ### Pointers (R143) -/

/-- Pointers that have moved from `g` and `a` for ports of the pairs alone, an input's to the place after the output it accepted. -/
def PointersMoved (g a : Tab Nat) (st : Rga) : Prop :=
  (∀ o, (∀ r ∈ st.pairs, r.o ≠ o) → tgetD st.g o 0 = tgetD g o 0)
  ∧ (∀ i, (∀ r ∈ st.pairs, r.i ≠ i) → tgetD st.a i 0 = tgetD a i 0)
  ∧ ∀ i, tgetD st.a i 0 = tgetD a i 0 ∨ ∃ r ∈ st.pairs, r.i = i ∧ tgetD st.a i 0 = (r.o + 1) % 88

/-- More pairs move no pointer. -/
theorem PointersMoved.more {g a : Tab Nat} {st : Rga} (h : PointersMoved g a st) (new : List Req) :
    PointersMoved g a { st with pairs := st.pairs ++ new } := by
  obtain ⟨hg, ha, hmove⟩ := h
  refine ⟨fun o ho => hg o fun r hr => ho r (List.mem_append_left _ hr), fun i hi => ha i fun r hr => hi r (List.mem_append_left _ hr),
    fun i => ?_⟩
  rcases hmove i with h | ⟨r, hr, h⟩
  · exact .inl h
  · exact .inr ⟨r, List.mem_append_left _ hr, h⟩

theorem rgaTake_pointers {first : Bool} {grants : List Req} {g a : Tab Nat} {st : Rga} (i : Nat) (h : PointersMoved g a st) :
    PointersMoved g a (rgaTake first grants st i) := by
  unfold rgaTake
  split
  · exact h
  · next r hacc =>
    obtain ⟨-, rfl⟩ := acceptOf_spec hacc
    split
    · obtain ⟨hg, ha, hmove⟩ := h.more [r]
      have hr : r ∈ st.pairs ++ [r] := List.mem_append_right _ (List.mem_singleton_self r)
      refine ⟨fun o ho => ?_, fun i hi => ?_, fun i => ?_⟩
      · rw [tgetD_tput_ne _ _ _ _ _ (ho r hr)]
        exact hg o ho
      · rw [tgetD_tput_ne _ _ _ _ _ (hi r hr)]
        exact ha i hi
      · rcases eq_or_ne r.i i with rfl | hne
        · exact .inr ⟨r, hr, rfl, tgetD_tput_self _ _ _ _⟩
        · rw [tgetD_tput_ne _ _ _ _ _ hne]
          exact hmove i
    · exact h.more [r]

theorem rgaStep_pointers (first : Bool) (rs : List Req) {g a : Tab Nat} {st : Rga} (h : PointersMoved g a st) :
    PointersMoved g a (rgaStep first rs st) := by
  rw [rgaStep_eq]
  generalize rgaGrants (rgaLive rs st.pairs) st.g = grants
  generalize (grants.map (·.i)).eraseDups = ins
  induction ins generalizing st with
  | nil => exact h
  | cons i ins ih => exact ih (rgaTake_pointers i h)

/-! ### Three iterations (R141, R142) -/

/-- The requests of the ports that the calendar leaves free in a slot. -/
def freeRequests (slot : Nat) (d : Dev) : List Req :=
  (requests d).filter (fun r => !(heldAt d slot).any (fun h => h.2.inX == r.i || furrowX h.2 == r.o))

theorem mem_freeRequests {slot : Nat} {d : Dev} {r : Req} (h : r ∈ freeRequests slot d) :
    r ∈ requests d ∧ ∀ x ∈ heldAt d slot, x.2.inX ≠ r.i ∧ furrowX x.2 ≠ r.o := by
  obtain ⟨hr, hfree⟩ := List.mem_filter.1 h
  simp only [Bool.not_eq_true', List.any_eq_false, Bool.or_eq_true, beq_iff_eq, not_or] at hfree
  exact ⟨hr, hfree⟩

/-- Nothing matched yet, with the pointers as they stand. -/
def rgaStart (d : Dev) : Rga := { g := d.sw.grant, a := d.sw.accept, pairs := [] }

theorem matching_eq (slot : Nat) (d : Dev) :
    matching slot d =
      rgaStep false (freeRequests slot d) (rgaStep false (freeRequests slot d) (rgaStep true (freeRequests slot d) (rgaStart d))) := rfl

theorem matching_pairs (slot : Nat) (d : Dev) :
    PortsOnce (matching slot d).pairs ∧ ∀ r ∈ (matching slot d).pairs, r ∈ freeRequests slot d := by
  obtain ⟨h1, n1, hp1, hm1⟩ := rgaStep_pairs true (freeRequests slot d) (rgaStart d) ⟨List.nodup_nil, List.nodup_nil⟩
  obtain ⟨h2, n2, hp2, hm2⟩ := rgaStep_pairs false (freeRequests slot d) _ h1
  obtain ⟨h3, n3, hp3, hm3⟩ := rgaStep_pairs false (freeRequests slot d) _ h2
  rw [← matching_eq] at h3 hp3
  refine ⟨h3, fun r hr => ?_⟩
  rw [hp3, hp2, hp1] at hr
  simp only [rgaStart, List.nil_append, List.mem_append] at hr
  rcases hr with (hr | hr) | hr
  · exact hm1 r hr
  · exact hm2 r hr
  · exact hm3 r hr

theorem matching_pointers (slot : Nat) (d : Dev) : PointersMoved d.sw.grant d.sw.accept (matching slot d) := by
  rw [matching_eq]
  exact rgaStep_pointers _ _ (rgaStep_pointers _ _ (rgaStep_pointers _ _ ⟨fun _ _ => rfl, fun _ _ => rfl, fun _ => .inl rfl⟩))

end Sys2Proof.Machine

open Sys2Proof Sys2Proof.Machine

/-- Settles O18: an iteration pairs ports that have no pair, one grant an output and one acceptance an input; and a pointer moves
with the pair it belongs to. -/
theorem matchingIsValid : Obligations.MatchingIsValid := by
  unfold Obligations.MatchingIsValid
  refine ⟨fun slot d => ?_, fun slot d => matching_pointers slot d⟩
  obtain ⟨⟨hin, hout⟩, hfree⟩ := matching_pairs slot d
  exact ⟨hin, hout, fun r hr => mem_freeRequests (hfree r hr), fun r hr => request_of_voq hr⟩

end

section
/-! SUPPORT. Descriptor rows: what `exec` answers for an entry that begins; then CAL_WRITE and attestation (R433 to R447). -/

set_option Elab.async false

namespace Sys2Proof.Machine

open Sys2Proof

/-! ### Rows of a submission queue -/

section
variable {c : Instr} {op mode q : Nat} {e : Bytes} {s : State} {a x : Dev} {f : Cmd → Bytes → Dev → Res}

theorem begins_q (h : s.dev.begins q e a) : q < 64 := h.1.1
theorem begins_length (h : s.dev.begins q e a) : e.length = 64 := h.1.2.1
theorem begins_eq (h : s.dev.begins q e a) : a = accept (sqCmd q e) s.dev := h.2.1

/-- Acceptance alone: what else the device holds is as it was. -/
theorem begins_only (h : s.dev.begins q e a) : Only [.regs, .tel, .ring] s.dev a := begins_eq h ▸ only_accept_sq q e s.dev

theorem begins_recovery (h : s.dev.begins q e a) : a.boot.recovery = false := by
  obtain ⟨-, -, -, -, -, -, -, -, -, hrec⟩ := h.1
  rw [(begins_only h).boot]
  exact hrec

/-- The operands of a descriptor row. -/
theorem rowOperands_ok (h : s.dev.begins q e a) : (decide (q < 64) && decide (e.length = 64)) = true := by
  simp [begins_q h, begins_length h]

/-- A row whose command begins and ends at once: acceptance, its effect, its completion. -/
theorem exec_row_done {st de r : Nat} (hexec : exec c s = act c settle (entryRow op mode q e) s) (hw : wellFormed c = true)
    (hl : s.live) (hb : s.dev.begins q e a) (ho : opOf e = op) (hm : modeOf e = mode) (hf : cmdOf op mode = some f)
    (hd : f (sqCmd q e) e a = .done st de r x) (hc : Calm a x) :
    exec c s = .next { s with dev := complete (sqCmd q e) st de r x } := by
  have hrow := entryRow_done op mode q e s.dev a x st de r f hb ho hm hf hd
  rw [hexec, ← hrow]
  refine act_calm c _ s hw hl ?_
  rw [hrow]
  exact ((begins_only hb).calm.then hc).then (calm_complete_sq q e st de r x)

/-- A row whose command begins and goes on: acceptance and its effect. -/
theorem exec_row_run (hexec : exec c s = act c settle (entryRow op mode q e) s) (hw : wellFormed c = true) (hl : s.live)
    (hb : s.dev.begins q e a) (ho : opOf e = op) (hm : modeOf e = mode) (hf : cmdOf op mode = some f)
    (hd : f (sqCmd q e) e a = .run x) (hc : Calm a x) : exec c s = .next { s with dev := x } := by
  have hrow := entryRow_run op mode q e s.dev a x f hb ho hm hf hd
  have hact := act_calm c (entryRow op mode q e) s hw hl (by rw [hrow]; exact (begins_only hb).calm.then hc)
  rw [hexec, hact, hrow]

/-- As `exec_row_run`, where the effect may leave work for the end of the step. -/
theorem exec_row_settle (hexec : exec c s = act c settle (entryRow op mode q e) s) (hw : wellFormed c = true) (hl : s.live)
    (hb : s.dev.begins q e a) (ho : opOf e = op) (hm : modeOf e = mode) (hf : cmdOf op mode = some f)
    (hd : f (sqCmd q e) e a = .run x) : exec c s = .next { s with dev := settle x } := by
  rw [hexec, act_next c _ s hw hl.1, entryRow_run op mode q e s.dev a x f hb ho hm hf hd]

end

/-! ### Submission queues through operations that do not write them -/

@[simp] theorem sendMsix_sqs (v : Nat) (d : Dev) : (sendMsix v d).ring.sqs = d.ring.sqs := by
  unfold sendMsix
  split <;> rfl

@[simp] theorem modEq_sqs (f : Ring → Ring) (d : Dev) : (modEq f d).ring.sqs = d.ring.sqs := rfl
@[simp] theorem modCq_sqs (c : Nat) (f : Ring → Ring) (d : Dev) : (modCq c f d).ring.sqs = d.ring.sqs := rfl
@[simp] theorem hostWrite_sqs (a : Nat) (b : Bytes) (d : Dev) : (hostWrite a b d).ring.sqs = d.ring.sqs := rfl

@[simp] theorem writeEq_sqs (e : Event) (d : Dev) : (writeEq e d).ring.sqs = d.ring.sqs := by
  unfold writeEq
  dsimp only
  split
  · rw [modEq_sqs]
  · split
    · rw [sendMsix_sqs, modEq_sqs, modEq_sqs, hostWrite_sqs]
    · rw [modEq_sqs, hostWrite_sqs]

@[simp] theorem postEvent_sqs (code : Nat) (data : Bytes) (d : Dev) : (postEvent code data d).ring.sqs = d.ring.sqs := by
  unfold postEvent
  dsimp only
  split
  · show (if _ then _ else _ : Rings).sqs = _
    split <;> rfl
  · split
    · exact writeEq_sqs _ d
    · rfl

@[simp] theorem count_ring (b ev n : Nat) (a : Attr) (d : Dev) : (count b ev n a d).ring = d.ring := (only_count b ev n a d).ring

@[simp] theorem writeCq_sqs (c : Nat) (e : Bytes) (d : Dev) : (writeCq c e d).ring.sqs = d.ring.sqs := by
  unfold writeCq
  dsimp only
  split
  · rw [sendMsix_sqs, modCq_sqs, count_ring, modCq_sqs, hostWrite_sqs]
  · rw [count_ring, modCq_sqs, hostWrite_sqs]

theorem sq_of_sqs {d d' : Dev} (h : d'.ring.sqs = d.ring.sqs) (q : Nat) : sq d' q = sq d q := by rw [sq, h, sq]

@[simp] theorem sq_modSq_self (q : Nat) (f : Sq → Sq) (d : Dev) : sq (modSq q f d) q = f (sq d q) := tgetD_tput_self _ _ _ _
theorem sq_modSq_ne {q p : Nat} (h : q ≠ p) (f : Sq → Sq) (d : Dev) : sq (modSq q f d) p = sq d p := tgetD_tput_ne _ _ _ _ _ h

/-- What every queue keeps through a change of one is kept. -/
theorem sq_modSq_fixes {β : Type} {v : Sq → β} {f : Sq → Sq} (h : ∀ s, v (f s) = v s) (q p : Nat) (d : Dev) :
    v (sq (modSq q f d) p) = v (sq d p) := by
  rcases eq_or_ne q p with rfl | hne
  · rw [sq_modSq_self, h]
  · rw [sq_modSq_ne hne]

/-- A completion touches the tags of its own queue alone: no entry waits that did not. -/
theorem complete_waiting (c : Cmd) (st de r : Nat) (d : Dev) (p : Nat) :
    (sq (complete c st de r d) p).waiting = (sq d p).waiting := by
  unfold complete
  split
  · next q _ =>
    have hsettle : ∀ x, (sq (sqSettle q x) p).waiting = (sq x p).waiting := fun x => by
      unfold sqSettle
      split
      · exact sq_modSq_fixes (v := Sq.waiting) (by exact fun _ => rfl) q p x
      · rfl
    dsimp only
    rw [hsettle]
    split
    · rw [sq_of_sqs (writeCq_sqs _ _ _), sq_of_sqs (modCq_sqs _ _ _)]
      exact sq_modSq_fixes (v := Sq.waiting) (by exact fun _ => rfl) q p d
    · rw [sq_of_sqs (modCq_sqs _ _ _)]
      exact sq_modSq_fixes (v := Sq.waiting) (by exact fun _ => rfl) q p d
  · rfl
  · rfl

/-! ### CAL_WRITE (R433, R434, R439, R442 to R444) -/

section
variable {q : Nat} {e : Bytes} {a : Dev}

theorem hostRead_length (d : Dev) (a n : Nat) : (hostRead d a n).length = n := by simp [hostRead, memReadN]

/-- A well-formed body whose record stands in host memory, with no write in progress, is read and passed on (R433). -/
theorem withRecord_read {lenOk : Nat → Bool} {go : Bytes → Dev → Res} (hplain : plainOk e [(16, 12)] = true)
    (hal : leAt e 16 8 % 64 = 0) (hfree : a.boot.calBusy = none) (hlen : lenOk (leAt e 24 4) = true) :
    withRecord (sqCmd q e) e lenOk a go = go (hostRead a (leAt e 16 8) (leAt e 24 4)) a := by
  simp [withRecord, hplain, hlen, hfree, calRecord, sqCmd, hal]

theorem cmdCalCalibration_ok (hplain : plainOk e [(16, 12)] = true) (hal : leAt e 16 8 % 64 = 0) (hfree : a.boot.calBusy = none)
    (hlen : leAt e 24 4 = 14528) {b : Bytes} (hb : b = hostRead a (leAt e 16 8) 14528) (hcause : calCause a b = 0)
    (hzero : calZero b = true) :
    cmdCalCalibration (sqCmd q e) e a =
      .run (modBoot (fun x => { x with calBusy := some (sqCmd q e, 0, b, 0) }) { a with nv := { a.nv with cal := [] } }) := by
  rw [cmdCalCalibration, withRecord_read hplain hal hfree (by simp [hlen]), hlen, ← hb]
  simp [hcause, hzero]

theorem countVerify_zero (d : Dev) : countVerify 0 d = count 18 1 2 {} d := rfl

theorem cmdCalFirmware_ok (hplain : plainOk e [(16, 12)] = true) (hal : leAt e 16 8 % 64 = 0) (hfree : a.boot.calBusy = none)
    (hrec : a.boot.recovery = false) {b : Bytes} (hb : b = hostRead a (leAt e 16 8) (leAt e 24 4)) (hlo : 20480 ≤ leAt e 24 4)
    (hhi : leAt e 24 4 ≤ 8388608) (hsize : leAt e 24 4 = 20480 + fwPayload b) (hcheck : fwCheck a b = 0)
    (hnew : a.boot.fwGen < fwGen b) :
    cmdCalFirmware (sqCmd q e) e a =
      .run (modBoot (fun x => { x with calBusy := some (sqCmd q e, 1, b, 1 - a.boot.fwSlot) })
        (putSlot (1 - a.boot.fwSlot) [] (count 18 1 2 {} a))) := by
  have hblen : b.length = 20480 + fwPayload b := by rw [hb, hostRead_length, ← hb, hsize]
  have hboot : (count 18 1 2 {} a).boot = a.boot := (only_count 18 1 2 {} a).boot
  rw [cmdCalFirmware, withRecord_read hplain hal hfree (by simp [within, hlo, hhi]), ← hb]
  dsimp only
  rw [if_neg (not_not_intro hblen), hcheck, countVerify_zero, hboot, hrec, if_neg (by decide), if_neg (by simp [hnew])]
  rfl

/-- An authority record that passes its checks: both signatures counted, the nonce replaced, and the mode goes on (R442). -/
theorem authRun_ok {kind lim : Nat} {b : Bytes} {go : Dev → Res} (h : authCheck a kind lim b = 0) :
    authRun kind lim b a go = go (newNonce (count 18 1 2 {} a)) := by
  rw [authRun, h]
  rfl

theorem newNonce_draws (d : Dev) : (newNonce d).boot.draws = d.boot.draws + 1 := rfl

theorem count_boot (b ev n : Nat) (at_ : Attr) (d : Dev) : (count b ev n at_ d).boot = d.boot := (only_count b ev n at_ d).boot
theorem count_nv (b ev n : Nat) (at_ : Attr) (d : Dev) : (count b ev n at_ d).nv = d.nv := (only_count b ev n at_ d).nv
theorem postEvent_boot (code : Nat) (data : Bytes) (d : Dev) : (postEvent code data d).boot = d.boot := (only_postEvent code data d).boot

theorem cmdCalFuse_ok (hplain : plainOk e [(16, 12)] = true) (hal : leAt e 16 8 % 64 = 0) (hfree : a.boot.calBusy = none)
    (hlen : leAt e 24 4 = 17440) {b : Bytes} (hb : b = hostRead a (leAt e 16 8) 17440) (hcheck : authCheck a 2 16 b = 0)
    (hrsa : (leAt b 48 4).testBit (byteAt b 44) = false) (hslh : (leAt b 48 4).testBit (2 + byteAt b 45) = false) {r : BitVec 4}
    (hr : r = a.nv.fuse.revoked ||| BitVec.ofNat 4 (leAt b 48 4)) (hr1 : r.toNat % 4 ≠ 3) (hr2 : r.toNat / 4 ≠ 3) {d : Dev}
    (hd : d = postEvent 0x205 (toLE 1 r.toNat) (modFuse (fun f => { f with revoked := r }) (newNonce (count 18 1 2 {} a)))) :
    cmdCalFuse (sqCmd q e) e a = .done 0 0 (secFuse d) d := by
  have hrev : (newNonce (count 18 1 2 {} a)).nv = a.nv := count_nv 18 1 2 {} a
  have hdraws : d.boot.draws ≠ a.boot.draws := by
    rw [hd, postEvent_boot]
    show (count 18 1 2 {} a).boot.draws + 1 ≠ _
    rw [count_boot]
    exact Nat.succ_ne_self _
  rw [cmdCalFuse, withRecord_read hplain hal hfree (by simp [hlen]), hlen, ← hb, authRun_ok hcheck]
  dsimp only
  rw [hrev, ← hr, if_neg (by simp [hrsa, hslh, hr1, hr2]), ← hd]
  dsimp only
  rw [if_neg hdraws]

theorem cmdCalDebug_ok (hplain : plainOk e [(16, 12)] = true) (hal : leAt e 16 8 % 64 = 0) (hfree : a.boot.calBusy = none)
    (hlen : leAt e 24 4 = 17440) {b : Bytes} (hb : b = hostRead a (leAt e 16 8) 17440) (hon : a.nv.fuse.debugOff = false)
    (hcheck : authCheck a 3 8 b = 0) {x : BitVec 3} (hx : x = a.boot.scope ||| BitVec.ofNat 3 (leAt b 48 4)) :
    cmdCalDebug (sqCmd q e) e a = .done 0 0 x.toNat (postEvent 0x206 (toLE 4 x.toNat) (setEvt oSecEvt 3
      (modBoot (fun y => { y with scope := x }) (newNonce (count 18 1 2 {} a))))) := by
  have hscope : (newNonce (count 18 1 2 {} a)).boot.scope = a.boot.scope := by
    show (count 18 1 2 {} a).boot.scope = _
    rw [count_boot]
  have hdraws : (postEvent 0x206 (toLE 4 x.toNat) (setEvt oSecEvt 3
      (modBoot (fun y => { y with scope := x }) (newNonce (count 18 1 2 {} a))))).boot.draws ≠ a.boot.draws := by
    rw [postEvent_boot]
    show (count 18 1 2 {} a).boot.draws + 1 ≠ _
    rw [count_boot]
    exact Nat.succ_ne_self _
  rw [cmdCalDebug, withRecord_read hplain hal hfree (by simp [hlen]), hlen, ← hb, hon, if_neg Bool.false_ne_true, authRun_ok hcheck]
  dsimp only
  rw [hscope, ← hx, if_neg hdraws]

end

theorem calm_modBoot (f : Boot → Boot) (d : Dev) : Calm d (modBoot f d) := ⟨rfl, rfl, rfl, rfl⟩
theorem calm_modFuse (f : Fuses → Fuses) (d : Dev) : Calm d (modFuse f d) := ⟨rfl, rfl, rfl, rfl⟩
theorem calm_putSlot (k : Nat) (b : Bytes) (d : Dev) : Calm d (putSlot k b d) := ⟨rfl, rfl, rfl, rfl⟩
theorem calm_newNonce (d : Dev) : Calm d (newNonce d) := calm_modBoot _ d

/-- CAL_WRITE_RETRY with no entry waiting: the write in progress ends (R433). -/
theorem calRetry_eq {d : Dev} (hw : ∀ q, (sq (calFinish d) q).waiting = none) (hb : (calFinish d).boot.calBusy = none) :
    calRetry d = calFinish d := by
  unfold calRetry
  dsimp only
  rw [hb, if_neg (by decide)]
  split
  · next q hq =>
    have hop := List.find?_some hq
    rw [hw q] at hop
    cases hop
  · rfl

/-- The end of a calibration record's write, and of a firmware image's. -/
theorem calFinish_record {d : Dev} {c : Cmd} {b : Bytes} {k : Nat} (h : d.boot.calBusy = some (c, 0, b, k)) :
    calFinish d = complete c 0 0 (leAt b 14524 4) (postEvent 0x201 (toLE 4 (leAt b 14524 4))
      (modBoot (fun x => { x with calBusy := none }) { d with nv := { d.nv with cal := b } })) := by
  rw [calFinish, h]
  rfl

theorem calFinish_image {d : Dev} {c : Cmd} {b : Bytes} {k : Nat} (h : d.boot.calBusy = some (c, 1, b, k)) :
    calFinish d = complete c 0 0 (fwGen b) (postEvent 0x203 (toLE 1 k ++ toLE 4 (fwGen b))
      (count 18 1 2 {} (putSlot k b (modBoot (fun x => { x with calBusy := none }) d)))) := by
  rw [calFinish, h]
  rfl

/-- A completion of a ring's command, after what the end of a step does not see. -/
theorem Calm.complete {d x : Dev} (h : Calm d x) (q : Nat) (e : Bytes) (st de r : Nat) : Calm d (complete (sqCmd q e) st de r x) :=
  h.then (calm_complete_sq q e st de r x)

theorem Calm.event {d x : Dev} (h : Calm d x) (code : Nat) (data : Bytes) : Calm d (postEvent code data x) :=
  h.then (calm_postEvent code data x)

theorem Calm.counted {d x : Dev} (h : Calm d x) (b ev n : Nat) (a : Attr) : Calm d (count b ev n a x) :=
  h.then (calm_count b ev n a x)

/-- The write in progress, named by an entry of a ring, ends; with no entry waiting nothing else does. -/
theorem exec_calWriteRetry {s : State} {q : Nat} {e : Bytes} {st de r : Nat} {x : Dev} (hl : s.live)
    (hw : ∀ p, (sq s.dev p).waiting = none) (hfin : calFinish s.dev = complete (sqCmd q e) st de r x) (hc : Calm s.dev x)
    (hsqs : x.ring.sqs = s.dev.ring.sqs) (hbusy : x.boot.calBusy = none) :
    exec .calWriteRetry s = .next { s with dev := complete (sqCmd q e) st de r x } := by
  have hretry : calRetry s.dev = complete (sqCmd q e) st de r x := by
    rw [← hfin]
    refine calRetry_eq (fun p => ?_) ?_
    · rw [hfin, complete_waiting, sq_of_sqs hsqs]
      exact hw p
    · rw [hfin, (only_complete_sq q e st de r x).boot, hbusy]
  rw [← hretry]
  exact act_calm .calWriteRetry calRetry s rfl hl (hretry ▸ hc.complete q e st de r)

/-! ### Attestation (R445 to R447) -/

/-- A request outside a session, read once the responder answers (R445). -/
theorem spdmRequest_plain {req : Bytes} {d : Dev} (hst : 5 ≤ d.boot.stage) (hrec : d.boot.recovery = false) (hlen : req.length ≤ 32768)
    (hplain : byteAt req 0 ≠ 0) (hoff : d.countsOff 18) : spdmRequest req d = spdmPlain req d := by
  rw [spdmRequest, if_neg (by simp [hrec]; omega), count_off _ _ _ _ _ hoff, if_neg hplain]

theorem spdmPlain_certificate {req : Bytes} {d : Dev} (h : byteAt req 1 = 0x82) :
    spdmPlain req d = modBoot (fun b => { b with spdmOpen := false, spdmOut := Config.spdmReply req d.nv.chainRsa }) d := by
  rw [spdmPlain, h]
  rfl

theorem spdmPlain_measurements {req : Bytes} {d : Dev} (h : byteAt req 1 = 0xE0) (hsig : (byteAt req 2).testBit 0 = false) :
    spdmPlain req d = modBoot (fun b => { b with spdmOpen := false, spdmOut := Config.spdmReply req (measurements d) }) d := by
  rw [spdmPlain, h, hsig]
  rfl

end Sys2Proof.Machine

open Sys2Proof Sys2Proof.Machine

/-- Settles O9: each mode on a record that passes its checks, the end of a write, and the two answers of the responder. -/
theorem securityCommands : Obligations.SecurityCommands := by
  unfold Obligations.SecurityCommands
  refine fun s q e a hl => ⟨fun hb ho hplain hal hfree => ⟨fun b hbb hm hlen hcause hzero => ?_,
    fun b hbb hm hlo hhi hsize hcheck hnew => ?_, fun b r hbb hm hlen hcheck hrsa hslh hr hr1 hr2 => ⟨_, rfl, ?_⟩,
    fun b x hbb hm hlen hon hcheck hx => ?_⟩, fun b k hw => ⟨fun hbusy => ?_, fun hbusy => ?_⟩,
    fun req hst hrec hlen hplain hoff => ⟨fun h82 => ?_, fun hE0 hsig => ?_⟩⟩
  · exact exec_row_run (c := .calWriteCalibration q e) rfl (rowOperands_ok hb) hl hb ho hm rfl
      (cmdCalCalibration_ok hplain hal hfree hlen hbb hcause hzero) ⟨rfl, rfl, rfl, rfl⟩
  · exact exec_row_run (c := .calWriteFirmware q e) rfl (rowOperands_ok hb) hl hb ho hm rfl
      (cmdCalFirmware_ok hplain hal hfree (begins_recovery hb) hbb hlo hhi hsize hcheck hnew)
      (((calm_count 18 1 2 {} a).then (calm_putSlot _ _ _)).then (calm_modBoot _ _))
  · exact exec_row_done (c := .calWriteFuseAction q e) rfl (rowOperands_ok hb) hl hb ho hm rfl
      (cmdCalFuse_ok hplain hal hfree hlen hbb hcheck hrsa hslh hr hr1 hr2 rfl)
      ((((calm_count 18 1 2 {} a).then (calm_newNonce _)).then (calm_modFuse _ _)).then (calm_postEvent _ _ _))
  · exact exec_row_done (c := .calWriteDebugUnlock q e) rfl (rowOperands_ok hb) hl hb ho hm rfl
      (cmdCalDebug_ok hplain hal hfree hlen hbb hon hcheck hx)
      (((((calm_count 18 1 2 {} a).then (calm_newNonce _)).then (calm_modBoot _ _)).then (calm_setEvt _ _ _)).then (calm_postEvent _ _ _))
  · refine exec_calWriteRetry hl hw (calFinish_record hbusy) ?_ ?_ ?_
    · refine Calm.event ?_ _ _
      exact ⟨rfl, rfl, rfl, rfl⟩
    · rw [postEvent_sqs]; rfl
    · rw [postEvent_boot]; rfl
  · refine exec_calWriteRetry hl hw (calFinish_image hbusy) ?_ ?_ ?_
    · exact (((calm_modBoot _ s.dev).then (calm_putSlot k b _)).counted _ _ _ _).event _ _
    · rw [postEvent_sqs, count_ring]; rfl
    · rw [postEvent_boot, count_boot]; rfl
  · have hreq := (spdmRequest_plain hst hrec hlen hplain hoff).trans (spdmPlain_certificate h82)
    rw [← hreq]
    exact act_calm (.spdmRequest req) _ s rfl hl (hreq ▸ calm_modBoot _ s.dev)
  · have hreq := (spdmRequest_plain hst hrec hlen hplain hoff).trans (spdmPlain_measurements hE0 hsig)
    rw [← hreq]
    exact act_calm (.spdmRequest req) _ s rfl hl (hreq ▸ calm_modBoot _ s.dev)

end

section
/-! SUPPORT. The steps of start-up (R425 to R428, R432, R437, R438, R341, R348, R441, R449, R472, R489). -/

set_option Elab.async false

namespace Sys2Proof.Machine

open Sys2Proof

theorem each_keeps_mem {α : Type} {P : Dev → Prop} {f : α → Dev → Dev} {l : List α} (hkeep : ∀ a ∈ l, ∀ d, P d → P (f a d)) (d : Dev)
    (h : P d) : P (each l f d) := by
  induction l generalizing d with
  | nil => exact h
  | cons b l ih => exact ih (fun a ha => hkeep a (List.mem_cons_of_mem b ha)) _ (hkeep b (List.mem_cons_self ..) d h)

/-! ### Steps 7 and 8, and the end of start-up -/

/-- What a later step of start-up leaves of the module's state: step 7, the stage, which never falls, and the mark of STARTUP_DONE. -/
def LaterBoot (b b' : Boot) : Prop :=
  ∃ st s7 ds, b.stage ≤ st ∧ b' = { b with stage := st, step7 := s7, doneSent := ds }

theorem LaterBoot.refl (b : Boot) : LaterBoot b b := ⟨b.stage, b.step7, b.doneSent, le_rfl, rfl⟩

theorem LaterBoot.trans {a b c : Boot} (h : LaterBoot a b) (k : LaterBoot b c) : LaterBoot a c := by
  obtain ⟨st, s7, ds, hst, rfl⟩ := h
  obtain ⟨st', s7', ds', hst', rfl⟩ := k
  exact ⟨st', s7', ds', hst.trans hst', rfl⟩

theorem only_startupDone (d : Dev) : Only [.ring, .boot] d (startupDone d) := by
  unfold startupDone
  split
  · exact (only_postEvent _ _ _).after (only_modBoot _ d).in
  · exact .refl _ d

theorem startupDone_boot (d : Dev) :
    (startupDone d).boot = { d.boot with doneSent := d.boot.doneSent || (d.boot.step6 && d.boot.step7) } := by
  unfold startupDone
  split
  · next h =>
    simp only [Bool.and_eq_true] at h
    rw [(only_postEvent _ _ _).boot]
    simp [modBoot, h.1.1, h.1.2]
  · next h =>
    have hsame : (d.boot.doneSent || (d.boot.step6 && d.boot.step7)) = d.boot.doneSent := by
      cases hd : d.boot.doneSent
      · simpa [hd] using h
      · rfl
    rw [hsame]

theorem laterBoot_startupDone (d : Dev) : LaterBoot d.boot (startupDone d).boot :=
  ⟨d.boot.stage, d.boot.step7, _, le_rfl, startupDone_boot d⟩

/-- Step 7 completes, if every enabled port has left TRAINING. -/
def trainedStep (d : Dev) : Dev :=
  if !d.boot.step7 && portsTrained d then modBoot (fun b => { b with step7 := true, stage := max b.stage 7 }) d else d
/-- Step 8 completes, if every fabric sub-port of an enabled port has been in SERVICE. -/
def alignedStep (d : Dev) : Dev :=
  if d.boot.step7 && decide (d.boot.stage < 8) && fabricAligned d then modBoot (fun b => { b with stage := 8 }) d else d

theorem laterSteps_begun {d : Dev} (h : 5 ≤ d.boot.stage) (hr : d.boot.recovery = false) :
    laterSteps d = startupDone (alignedStep (trainedStep d)) := by
  unfold laterSteps
  rw [if_neg (by simp [hr]; omega)]
  rfl

theorem laterSteps_early {d : Dev} (h : d.boot.stage < 5 ∨ d.boot.recovery = true) : laterSteps d = d := if_pos h

theorem only_trainedStep (d : Dev) : Only [.boot] d (trainedStep d) := by
  unfold trainedStep
  split
  · exact only_modBoot _ d
  · exact .refl _ d
theorem only_alignedStep (d : Dev) : Only [.boot] d (alignedStep d) := by
  unfold alignedStep
  split
  · exact only_modBoot _ d
  · exact .refl _ d

theorem laterBoot_trainedStep (d : Dev) : LaterBoot d.boot (trainedStep d).boot := by
  unfold trainedStep
  split
  · exact ⟨_, true, d.boot.doneSent, le_max_left d.boot.stage 7, rfl⟩
  · exact .refl _
theorem laterBoot_alignedStep (d : Dev) : LaterBoot d.boot (alignedStep d).boot := by
  unfold alignedStep
  split
  · next h =>
    simp only [Bool.and_eq_true, decide_eq_true_eq] at h
    exact ⟨8, d.boot.step7, d.boot.doneSent, by omega, rfl⟩
  · exact .refl _

theorem only_laterSteps (d : Dev) : Only [.ring, .boot] d (laterSteps d) := by
  by_cases h : d.boot.stage < 5 ∨ d.boot.recovery = true
  · rw [laterSteps_early h]; exact .refl _ d
  · simp only [not_or, Bool.not_eq_true, not_lt] at h
    rw [laterSteps_begun h.1 h.2]
    exact (only_startupDone _).after ((only_alignedStep _).after (only_trainedStep d).in)

theorem laterBoot_laterSteps (d : Dev) : LaterBoot d.boot (laterSteps d).boot := by
  by_cases h : d.boot.stage < 5 ∨ d.boot.recovery = true
  · rw [laterSteps_early h]; exact .refl _
  · simp only [not_or, Bool.not_eq_true, not_lt] at h
    rw [laterSteps_begun h.1 h.2]
    exact ((laterBoot_trainedStep d).trans (laterBoot_alignedStep _)).trans (laterBoot_startupDone _)

theorem laterSteps_stage (d : Dev) : d.boot.stage ≤ (laterSteps d).boot.stage := by
  obtain ⟨st, _, _, hst, h⟩ := laterBoot_laterSteps d
  rw [h]; exact hst

theorem fabricAligned_modBoot (f : Boot → Boot) (d : Dev) : fabricAligned (modBoot f d) = fabricAligned d := rfl

/-- With every enabled port trained, steps 7 and 8 complete as the ports are (R425). -/
theorem laterSteps_trained {d : Dev} (h : 5 ≤ d.boot.stage) (hr : d.boot.recovery = false) (h7 : d.boot.step7 = false)
    (ht : portsTrained d = true) :
    (laterSteps d).boot.step7 = true ∧ 7 ≤ (laterSteps d).boot.stage ∧ (fabricAligned d = true → 8 ≤ (laterSteps d).boot.stage)
      ∧ (d.boot.step6 = true → (laterSteps d).boot.doneSent = true) := by
  have htr : trainedStep d = modBoot (fun b => { b with step7 := true, stage := max b.stage 7 }) d := by simp [trainedStep, h7, ht]
  rw [laterSteps_begun h hr, startupDone_boot, htr]
  unfold alignedStep
  rw [fabricAligned_modBoot]
  split
  · exact ⟨rfl, by show 7 ≤ 8; omega, fun _ => le_rfl, fun h6 => by
      simp only [modBoot, h6, Bool.and_self, Bool.or_true]⟩
  · next hn =>
    refine ⟨rfl, le_max_right _ _, fun ha => ?_, fun h6 => by simp only [modBoot, h6, Bool.and_self, Bool.or_true]⟩
    simp [modBoot, ha] at hn
    exact le_max_of_le_left hn

/-- While a port still trains, nothing of start-up changes. -/
theorem laterSteps_training {d : Dev} (h : 5 ≤ d.boot.stage) (hr : d.boot.recovery = false) (h7 : d.boot.step7 = false)
    (ht : portsTrained d = false) : laterSteps d = d := by
  have htr : trainedStep d = d := by simp [trainedStep, ht]
  have hal : alignedStep d = d := by simp [alignedStep, h7]
  rw [laterSteps_begun h hr, htr, hal, startupDone, h7]
  simp

/-! ### Step 5 -/

theorem calm_laterSteps (d : Dev) : Calm d (laterSteps d) := (only_laterSteps d).calm

theorem step5_normal {d : Dev} (hr : d.boot.recovery = false) :
    step5 d = modFal (fun f => { f with mode := .discovering }) (modBoot (fun b => { b with stage := 5 }) d) := by
  simp [step5, modBoot, hr]

theorem step5_recovery {d : Dev} (hr : d.boot.recovery = true) : step5 d = modBoot (fun b => { b with stage := 5 }) d := by
  simp [step5, modBoot, hr]

theorem calm_step5 (d : Dev) : Calm d (step5 d) := by
  unfold step5
  dsimp only
  split <;> exact ⟨rfl, rfl, rfl, rfl⟩

theorem tryStep5_due {d : Dev} (hd : step5Due d = true) (hc : d.boot.cxlUp = true) : tryStep5 d = laterSteps (step5 d) := by
  simp [tryStep5, hd, hc]
theorem tryStep5_down {d : Dev} (hc : d.boot.cxlUp = false) : tryStep5 d = d := by simp [tryStep5, hc]

/-- In recovery mode step 5 is the link's alone (R428). -/
theorem tryStep5_recovery {d : Dev} (hr : d.boot.recovery = true) (hs : d.boot.stage < 5) :
    (tryStep5 d).nv = d.nv ∧ (tryStep5 d).boot.recovery = true
      ∧ (tryStep5 d).boot.stage = if d.boot.cxlUp then 5 else d.boot.stage := by
  cases hc : d.boot.cxlUp
  · rw [tryStep5_down hc]
    exact ⟨rfl, hr, rfl⟩
  · rw [tryStep5_due (by simp [step5Due, hr, hs]) hc, step5_recovery hr,
      laterSteps_early (d := modBoot (fun b => { b with stage := 5 }) d) (.inr hr)]
    exact ⟨rfl, hr, rfl⟩

theorem calm_tryStep5 (d : Dev) : Calm d (tryStep5 d) := by
  unfold tryStep5
  split
  · exact (calm_step5 d).then (calm_laterSteps _)
  · exact .rfl' d

/-! ### Steps 1 to 4 -/

/-- A check of a slot counts its signatures and may report the slot. -/
theorem only_checkSlot (k : Nat) (d : Dev) : Only [.regs, .tel, .ring, .evt] d (checkSlot k d) := by
  have hcount : ∀ x, Only [.regs, .tel, .ring, .evt] d (countVerify x d) := fun x => by
    unfold countVerify
    split
    · exact (only_count _ _ _ _ d).in
    · exact .refl _ d
  unfold checkSlot
  dsimp only
  split
  · exact hcount _
  · exact (only_postEvent _ _ _).after ((only_setEvt _ _ _).after (hcount _))

theorem only_checkSlots (d : Dev) : Only [.regs, .tel, .ring, .evt] d (checkSlot 1 (checkSlot 0 d)) :=
  (only_checkSlot 1 _).after (only_checkSlot 0 d)

/-- Which slot is booted (R438). -/
def Boots (d : Dev) (k : Nat) : Prop :=
  (fwCheck d d.nv.slotA = 0 ∧ fwCheck d d.nv.slotB ≠ 0 ∧ k = 0)
    ∨ (fwCheck d d.nv.slotA ≠ 0 ∧ fwCheck d d.nv.slotB = 0 ∧ k = 1)
    ∨ (fwCheck d d.nv.slotA = 0 ∧ fwCheck d d.nv.slotB = 0 ∧ k = if fwGen d.nv.slotA < fwGen d.nv.slotB then 1 else 0)

theorem bootSlot_eq (d : Dev) :
    bootSlot d = if fwCheck d d.nv.slotA = 0 then
        some (if fwCheck d d.nv.slotB = 0 ∧ fwGen d.nv.slotA < fwGen d.nv.slotB then 1 else 0)
      else if fwCheck d d.nv.slotB = 0 then some 1 else none := by
  unfold bootSlot
  split <;> simp_all

theorem bootSlot_of_boots {d : Dev} {k : Nat} (h : Boots d k) : bootSlot d = some k := by
  rw [bootSlot_eq]
  rcases h with ⟨ha, hb, rfl⟩ | ⟨ha, hb, rfl⟩ | ⟨ha, hb, rfl⟩ <;> simp [ha, hb]

theorem bootSlot_none {d : Dev} (ha : fwCheck d d.nv.slotA ≠ 0) (hb : fwCheck d d.nv.slotB ≠ 0) : bootSlot d = none := by
  simp [bootSlot_eq, ha, hb]

theorem calm_firmwareVerify (d : Dev) : Calm d (firmwareVerify d) := by
  unfold firmwareVerify
  split
  · exact .rfl' d
  · dsimp only
    split
    · exact (only_checkSlots d).calm.then ((calm_modBoot _ _).then (calm_tryStep5 _))
    · exact (only_checkSlots d).calm.then (calm_modBoot _ _)

theorem firmwareVerify_boots {d : Dev} {k : Nat} (hs : d.boot.stage = 1) (hr : d.boot.recovery = false) (hk : Boots d k) :
    (firmwareVerify d).nv = d.nv ∧ (firmwareVerify d).boot.stage = 2 ∧ (firmwareVerify d).boot.fwSlot = k
      ∧ (firmwareVerify d).boot.fwGen = leAt (slotOf d k) 8 4 ∧ (firmwareVerify d).boot.fwSvn = byteAt (slotOf d k) 12
      ∧ (firmwareVerify d).boot.recovery = false := by
  have hframe := only_checkSlots d
  have hslot : slotOf (checkSlot 1 (checkSlot 0 d)) k = slotOf d k := by rw [slotOf, hframe.nv, slotOf]
  unfold firmwareVerify
  rw [if_neg (by simp [hs, hr]), bootSlot_of_boots hk]
  dsimp only
  rw [hslot]
  generalize checkSlot 1 (checkSlot 0 d) = x at hframe
  exact ⟨hframe.nv, rfl, rfl, rfl, rfl, by show x.boot.recovery = false; rw [hframe.boot, hr]⟩

/-- With neither slot good the boot ROM goes on alone, in recovery mode (R428). -/
theorem firmwareVerify_none {d : Dev} (hs : d.boot.stage = 1) (hr : d.boot.recovery = false) (ha : fwCheck d d.nv.slotA ≠ 0)
    (hb : fwCheck d d.nv.slotB ≠ 0) :
    (firmwareVerify d).nv = d.nv ∧ (firmwareVerify d).boot.recovery = true
      ∧ (firmwareVerify d).boot.stage = if d.boot.cxlUp then 5 else 1 := by
  have hframe := only_checkSlots d
  unfold firmwareVerify
  rw [if_neg (by simp [hs, hr]), bootSlot_none ha hb]
  dsimp only
  have hboot := hframe.boot
  have hnv := hframe.nv
  generalize checkSlot 1 (checkSlot 0 d) = x at hboot hnv
  obtain ⟨hn, hrec, hstage⟩ := tryStep5_recovery (d := modBoot (fun b => { b with recovery := true }) x) rfl
    (show x.boot.stage < 5 by rw [hboot, hs]; decide)
  refine ⟨hn.trans hnv, hrec, hstage.trans ?_⟩
  show (if x.boot.cxlUp then 5 else x.boot.stage) = _
  rw [hboot, hs]

theorem calLoad_good {d : Dev} (hs : d.boot.stage = 2) (hc : calCause d (slice d.nv.cal 0 14528) = 0) :
    calLoad d = modBoot (fun b => { b with stage := 3, calRec := slice d.nv.cal 0 14528 }) d := by
  unfold calLoad
  rw [if_neg (by simp [hs])]
  dsimp only
  have hc' : calCause (modBoot (fun x => { x with stage := 3 }) d) (slice d.nv.cal 0 14528) = 0 := hc
  rw [hc']
  rfl

/-- CAL_DEFAULTS (R432): every port at the lower lane rate, the devices at their slowest. -/
def calDefaults (c : Nat) (d : Dev) : Dev :=
  postEvent 0x200 (toLE 1 c) (setEvt oSecEvt 0
    (each (List.range 64) (fun p d => putFld (oPortCfg p) 4 1 1 d) (putFld 0x440000 0 6 28
      (modBoot (fun x => { x with calDefaults := true }) (modBoot (fun x => { x with stage := 3 }) d)))))

theorem calLoad_bad {d : Dev} (hs : d.boot.stage = 2) (hc : calCause d (slice d.nv.cal 0 14528) ≠ 0) :
    calLoad d = calDefaults (calCause d (slice d.nv.cal 0 14528)) d := by
  unfold calLoad
  rw [if_neg (by simp [hs])]
  dsimp only
  have hc' : calCause (modBoot (fun x => { x with stage := 3 }) d) (slice d.nv.cal 0 14528) = calCause d (slice d.nv.cal 0 14528) := rfl
  rw [hc']
  cases hx : calCause d (slice d.nv.cal 0 14528)
  · exact absurd hx hc
  · rfl

theorem only_calDefaults (c : Nat) (d : Dev) : Only [.regs, .ring, .evt, .boot] d (calDefaults c d) :=
  (only_postEvent _ _ _).after ((only_setEvt _ _ _).after ((only_each (fun _ d => only_putFld _ _ _ _ d) _ _).after
    ((only_putFld _ _ _ _ _).after ((only_modBoot _ _).after (only_modBoot _ d).in))))

theorem fld_setEvt_ne {off o : Nat} (h : off ≠ o) (i lo w : Nat) (d : Dev) : fld (setEvt off i d) o lo w = fld d o lo w :=
  fld_putFld_ne h i 1 1 lo w d

theorem calDefaults_boot (c : Nat) (d : Dev) : (calDefaults c d).boot = { d.boot with stage := 3, calDefaults := true } := by
  unfold calDefaults
  rw [(only_postEvent _ _ _).boot, (only_setEvt _ _ _).boot, (only_each (fun _ d => only_putFld _ _ _ _ d) _ _).boot,
    (only_putFld _ _ _ _ _).boot]
  rfl

theorem fld_putFld_self (off lo w v : Nat) (d : Dev) : fld (putFld off lo w v d) off lo w = v % 2 ^ w := by
  rw [fld, putFld, rg_putReg_self, bits_setBits_same]

theorem calDefaults_rate (c : Nat) (d : Dev) : fld (calDefaults c d) 0x440000 0 6 = 28 := by
  unfold calDefaults
  rw [fld, (only_postEvent _ _ _).rg, ← fld, fld_setEvt_ne (by decide)]
  refine each_keeps_mem (P := fun d => fld d 0x440000 0 6 = 28) (fun p hp d h => ?_) _ (fld_putFld_self _ _ _ _ _)
  rw [fld_putFld_ne (by rw [oPortCfg]; have := List.mem_range.1 hp; omega), h]

/-! ### Step 4 (R341) -/

theorem gddr_congr {d d' : Dev} (h : d'.mem = d.mem) (i : Nat) : gddr d' i = gddr d i := by rw [gddr, h, gddr]


/-- One device's training: it passes, or it has failed. -/
def trainOne (pass : BitVec 16) (i : Nat) (d : Dev) : Dev :=
  if pass.getLsbD i && !retired d 2 i then
    refreshAll (List.range 16) i (modGddr i (fun g => { g with trained := true, scrubAt := d.clk.now * groups }) d)
  else setEvt oMemEvt 6 (modGddr i (fun g => { g with failed := true }) d)

theorem only_trainOne (pass : BitVec 16) (i : Nat) (d : Dev) : Only [.regs, .evt, .mem] d (trainOne pass i d) := by
  unfold trainOne
  split
  · exact (only_modGddr _ _ _).after (only_modGddr _ _ d).in
  · exact (only_setEvt _ _ _).after (only_modGddr _ _ d).in

/-- What training makes of a device that passes, or does not. -/
def TrainedAs (pass : BitVec 16) (i : Nat) (log : List (Nat × Nat)) (d : Dev) : Prop :=
  if pass.getLsbD i = true ∧ log.contains (2, i) = false then (gddr d i).trained = true else (gddr d i).failed = true

theorem TrainedAs.congr {pass : BitVec 16} {i : Nat} {log : List (Nat × Nat)} {d d' : Dev} (h : TrainedAs pass i log d)
    (hg : gddr d' i = gddr d i) : TrainedAs pass i log d' := by
  unfold TrainedAs at *
  rw [hg]
  exact h

theorem trainOne_self (pass : BitVec 16) (i : Nat) (d : Dev) : TrainedAs pass i d.nv.log (trainOne pass i d) := by
  have hcond : (pass.getLsbD i && !retired d 2 i) = true ↔ pass.getLsbD i = true ∧ d.nv.log.contains (2, i) = false := by
    simp [retired]
  unfold TrainedAs trainOne
  by_cases h : pass.getLsbD i = true ∧ d.nv.log.contains (2, i) = false
  · rw [if_pos h, if_pos (hcond.2 h), refreshAll, gddr_modGddr_self, gddr_modGddr_self]
  · rw [if_neg h, if_neg (mt hcond.1 h), gddr_congr (only_setEvt _ _ _).mem, gddr_modGddr_self]

theorem trainOne_ne (pass : BitVec 16) {i j : Nat} (h : i ≠ j) (d : Dev) : gddr (trainOne pass i d) j = gddr d j := by
  unfold trainOne
  split
  · rw [refreshAll, gddr_modGddr_ne h, gddr_modGddr_ne h]
  · rw [gddr_congr (only_setEvt _ _ _).mem, gddr_modGddr_ne h]

/-- Every device trained, one by one, and the rate the configuration gives. -/
theorem bootTraining_eq (pass : BitVec 16) {d : Dev} (h : d.mem.booted = false) :
    bootTraining pass d = modMem (fun m => { m with booted := true, rate := fld (each (List.range 16) (trainOne pass) d) 0x440000 0 6 })
      (each (List.range 16) (trainOne pass) d) := by
  unfold bootTraining
  rw [h]
  rfl

theorem trainAll_trained (pass : BitVec 16) (d : Dev) : ∀ i ∈ List.range 16,
    TrainedAs pass i d.nv.log (each (List.range 16) (trainOne pass) d) := fun i hi =>
  (each_establishes (P := fun i x => x.nv.log = d.nv.log → TrainedAs pass i d.nv.log x)
    (fun i x hlog => by
      have hx : x.nv.log = d.nv.log := (congrArg (·.log) (only_trainOne pass i x).nv).symm.trans hlog
      exact hx ▸ trainOne_self pass i x)
    (fun i j x hP hlog => by
      have hx : x.nv.log = d.nv.log := (congrArg (·.log) (only_trainOne pass j x).nv).symm.trans hlog
      rcases eq_or_ne j i with rfl | hne
      · exact hx ▸ trainOne_self pass j x
      · exact (hP hx).congr (trainOne_ne pass hne x)) _ d i hi)
    (by rw [(only_each (fun i x => only_trainOne pass i x) _ d).nv])

theorem only_bootTraining (pass : BitVec 16) (d : Dev) : Only [.regs, .evt, .mem] d (bootTraining pass d) := by
  cases hb : d.mem.booted
  · rw [bootTraining_eq pass hb]
    exact (only_modMem _ _).after (only_each (fun i x => only_trainOne pass i x) _ d)
  · rw [bootTraining, hb]; exact .refl _ d

theorem exec_gddr7BootTraining {s : State} (pass : BitVec 16) (hl : s.live) (hs : s.dev.boot.stage = 3)
    (hb : s.dev.mem.booted = false) (hc : s.dev.boot.cxlUp = false) :
    ∃ d, exec (.gddr7BootTraining pass) s = .next { s with dev := d } ∧ d.boot.stage = 4 ∧ d.mem.booted = true
      ∧ ∀ i, i < 16 → if pass.getLsbD i = true ∧ retired s.dev 2 i = false then (gddr d i).trained = true
        else (gddr d i).failed = true := by
  have hframe := only_bootTraining pass s.dev
  have hmem : memTraining pass s.dev = modBoot (fun b => { b with stage := 4 }) (bootTraining pass s.dev) := by
    rw [memTraining, if_neg (by simp [hs])]
    exact tryStep5_down (d := modBoot _ _) (by show (bootTraining pass s.dev).boot.cxlUp = false; rw [hframe.boot, hc])
  refine ⟨_, act_calm (.gddr7BootTraining pass) (memTraining pass) s rfl hl ?_, ?_⟩
  · rw [hmem]; exact hframe.calm.then (calm_modBoot _ _)
  · rw [hmem]
    refine ⟨rfl, ?_, fun i hi => ?_⟩
    · rw [(only_modBoot _ _).mem, bootTraining_eq pass hb]; rfl
    · have htr := trainAll_trained pass s.dev i (List.mem_range.2 hi)
      refine htr.congr ?_
      rw [gddr_congr (only_modBoot _ _).mem, bootTraining_eq pass hb]
      rfl

/-! ### Step 5: the host link, or none (R426, R470, R472) -/

/-- Step 5 of a device that is not in recovery mode: discovery begins, and the stage does not fall again. -/
theorem laterSteps_step5 {d : Dev} (hr : d.boot.recovery = false) :
    LaterBoot { d.boot with stage := 5 } (laterSteps (step5 d)).boot ∧ (laterSteps (step5 d)).fal.mode = .discovering := by
  rw [step5_normal hr]
  have hlater := laterBoot_laterSteps (modFal (fun f => { f with mode := .discovering }) (modBoot (fun b => { b with stage := 5 }) d))
  refine ⟨hlater, ?_⟩
  rw [(only_laterSteps _).fal]
  rfl

theorem exec_cxlLinkUp {s : State} {w v : Nat} (proto : Bool) (hl : s.live) (hw : [1, 2, 4, 8, 16].contains w = true)
    (h1 : 1 ≤ v) (h5 : v ≤ 5) (hs : s.dev.boot.stage = 4) (hr : s.dev.boot.recovery = false) :
    ∃ d, exec (.cxlLinkUp w v proto) s = .next { s with dev := d } ∧ d.boot.cxlUp = true ∧ d.boot.cxlWidth = w ∧ d.boot.cxlSpeed = v
      ∧ d.boot.cxlProto = proto ∧ 5 ≤ d.boot.stage ∧ d.fal.mode = .discovering := by
  have hf : cxlLinkUp w v proto s.dev = laterSteps (step5 (modBoot (fun b => { b with
      cxlUp := true, hostDown := false, cxlWidth := w, cxlSpeed := v, cxlProto := proto }) s.dev)) := by
    rw [cxlLinkUp, if_neg (by simp [hs])]
    exact tryStep5_due (d := modBoot _ _) (by simp [step5Due, modBoot, hs]) rfl
  have hok : wellFormed (.cxlLinkUp w v proto) = true := by
    show ([1, 2, 4, 8, 16].contains w && (decide (1 ≤ v) && decide (v ≤ 5))) = true
    rw [hw]; simp [h1, h5]
  refine ⟨_, act_calm (.cxlLinkUp w v proto) _ s hok hl ?_, ?_⟩
  · rw [hf]
    exact (calm_modBoot _ _).then ((calm_step5 _).then (calm_laterSteps _))
  · rw [hf]
    obtain ⟨⟨st, s7, ds, hst, hboot⟩, hfal⟩ := laterSteps_step5 (d := modBoot (fun b => { b with
      cxlUp := true, hostDown := false, cxlWidth := w, cxlSpeed := v, cxlProto := proto }) s.dev) hr
    rw [hboot]
    exact ⟨rfl, rfl, rfl, rfl, hst, hfal⟩

/-! ### A write of PORT_CFG that enables a port -/

theorem regOf_portCfg {p : Nat} (h : p < 64) : regOf (oPortCfg p) = regPort p 0 := by
  have hdiv : (0x1000 * p) / 0x1000 = p := Nat.mul_div_cancel_left p (by decide)
  unfold regOf oPortCfg
  rw [if_neg (by omega), if_neg (by omega), if_neg (by omega), if_neg (by omega), if_pos (by omega), if_pos (by omega),
    Nat.add_sub_cancel_left, hdiv, Nat.mul_mod_right]

/-- Bit 0 of PORT_CFG takes what is written. -/
theorem portCfg_enable (old v : Nat) (fs : List Fld) : (writeFlds old v (rw 0 1 0 :: fs)).testBit 0 = v.testBit 0 := by
  have hnew : writeFlds old v (rw 0 1 0 :: fs) = setBits (writeFlds old v fs) 0 1 (bits v 0 1) := rfl
  rw [hnew, testBit_setBits, if_pos (by omega), Nat.sub_self, bits]
  simp

/-- The fields of PORT_CFG a write reaches: of an enabled port, the enable bit alone (R95). -/
def portFlds (on : Bool) (p : Nat) : List Fld :=
  rw 0 1 0 :: if on then [] else [rwIf 1 1 0 (fun v => v = 0 || p < 62), rwIf 2 2 0 (fun v => v ≠ 3), rw 4 1 0, ro 8 8]

/-- The device with a value written to PORT_CFG. -/
def withPortCfg (p v : Nat) (d : Dev) : Dev :=
  putReg (oPortCfg p) (writeFlds (rg d (oPortCfg p)) v (portFlds (flag d (oPortCfg p) 0) p)) d

theorem putPortCfg_eq {p : Nat} (hp : p < 64) (v : Nat) (d : Dev) :
    putPortCfg p v d =
      if !flag d (oPortCfg p) 0 && v.testBit 0 then
        (if shStays (withPortCfg p v d) (rg (withPortCfg p v d) oBpmRsv) 0 then startPort p (withPortCfg p v d) else setEvt oBpmEvt 4 d)
      else if flag d (oPortCfg p) 0 && !v.testBit 0 then stopPort p (putReg (oPortCfg p) (rg (withPortCfg p v d) (oPortCfg p)) d)
      else withPortCfg p v d := by
  have hnow : flag (withPortCfg p v d) (oPortCfg p) 0 = v.testBit 0 := by
    rw [flag, withPortCfg, rg_putReg_self, portFlds, portCfg_enable]
  rw [← hnow]
  unfold putPortCfg
  rw [regOf_portCfg hp]
  unfold withPortCfg
  cases flag d (oPortCfg p) 0 <;> rfl

theorem mem_tput {α : Type} {t : Tab α} {k : Nat} {a : α} {p : Nat × α} (h : p ∈ tput t k a) : p = (k, a) ∨ p ∈ t := by
  induction t with
  | nil => exact .inl (List.mem_singleton.1 h)
  | cons q t ih =>
    obtain ⟨j, b⟩ := q
    rw [tput] at h
    split at h
    · exact (List.mem_cons.1 h)
    · split at h
      · exact (List.mem_cons.1 h).imp_right (List.mem_cons_of_mem _)
      · rcases List.mem_cons.1 h with rfl | h
        · exact .inr (List.mem_cons_self ..)
        · exact (ih h).imp_right (List.mem_cons_of_mem _)

/-- A sub-port that changes without touching its edge leaves a quiet device quiet. -/
theorem quiet_modSub {lp : Nat} {f : SubPort → SubPort} {d : Dev} (hf : (f (sub d lp)).edge = (sub d lp).edge) (h : d.quiet) :
    (modSub lp f d).quiet := by
  obtain ⟨htodo, hqueues, hrx, hsubs⟩ := h
  refine ⟨htodo, hqueues, hrx, fun p hp => ?_⟩
  rcases mem_tput hp with rfl | hmem
  · dsimp only
    rw [hf]
    exact sub_edge_quiet d hsubs lp
  · exact hsubs p hmem

theorem only_startPort (p : Nat) (d : Dev) : Only [.ring, .subs] d (startPort p d) := by
  unfold startPort
  refine Only.then ?_ (only_each (fun lp d => (only_modSub _ _ d).in) _ _)
  split
  · exact (only_postEvent _ _ d).in
  · exact .refl _ d

theorem startPort_quiet {p : Nat} {d : Dev} (h : d.quiet) : (startPort p d).quiet := by
  unfold startPort
  refine each_keeps (P := Dev.quiet) (fun lp d hd => quiet_modSub (by rfl) hd) _ _ ?_
  split
  · exact (calm_postEvent _ _ d).quiet h
  · exact h

/-- A write that leaves the port enabled, or enables it: no port is flushed. -/
theorem putPortCfg_on {p v : Nat} (hp : p < 64) (hv : v.testBit 0 = true) (d : Dev) :
    Only [.regs, .evt, .ring, .subs] d (putPortCfg p v d) ∧ (d.quiet → (putPortCfg p v d).quiet) := by
  have hwrite : Only [.regs, .evt, .ring, .subs] d (withPortCfg p v d) := (only_putReg _ _ d).in
  have hquiet : d.quiet → (withPortCfg p v d).quiet := (calm_putReg _ _ d).quiet
  rw [putPortCfg_eq hp, hv]
  cases flag d (oPortCfg p) 0
  · simp only [Bool.not_false, Bool.and_self, if_true]
    split
    · exact ⟨(only_startPort p _).after hwrite, fun h => startPort_quiet (hquiet h)⟩
    · exact ⟨(only_setEvt _ _ d).in, (calm_setEvt _ _ d).quiet⟩
  · simp only [Bool.not_true, Bool.false_and, Bool.and_false, Bool.false_eq_true, if_false]
    exact ⟨hwrite, hquiet⟩

/-- Every port enabled as Ollet Link at the lane rate it has (R472). -/
def enableAll (d : Dev) : Dev := each (List.range 64) (fun p d => putPortCfg p (1 + 16 * laneRate d (4 * p)) d) d

theorem enableAll_on (d : Dev) :
    (enableAll d).boot = d.boot ∧ (enableAll d).fal = d.fal ∧ (d.quiet → (enableAll d).quiet) := by
  have hbit : ∀ x : Nat, (1 + 16 * x).testBit 0 = true := fun x => by
    rw [Nat.testBit_zero, decide_eq_true_eq]; omega
  refine each_keeps_mem (P := fun x => x.boot = d.boot ∧ x.fal = d.fal ∧ (d.quiet → x.quiet)) (fun p hp x h => ?_) d ⟨rfl, rfl, id⟩
  obtain ⟨hboot, hfal, hquiet⟩ := h
  obtain ⟨hframe, hq⟩ := putPortCfg_on (List.mem_range.1 hp) (hbit (laneRate x (4 * p))) x
  exact ⟨hframe.boot.trans hboot, hframe.fal.trans hfal, fun h => hq (hquiet h)⟩

theorem exec_hostlessTimeout {s : State} (hl : s.live) (hs : s.dev.boot.stage = 4) (hr : s.dev.boot.recovery = false)
    (hc : s.dev.boot.cxlUp = false) :
    ∃ d, exec .hostlessTimeout s = .next { s with dev := d } ∧ d.boot.hostless = true ∧ 5 ≤ d.boot.stage
      ∧ d.fal.mode = .discovering := by
  have hf : hostlessTimeout s.dev = laterSteps (enableAll (modBoot (fun b => { b with hostless := true })
      (modFal (fun f => { f with mode := .discovering }) (modBoot (fun b => { b with stage := 5 }) s.dev)))) := by
    rw [hostlessTimeout, if_neg (by simp [step5Due, hs, hc]), step5_normal hr]
    exact if_neg (by show ¬ s.dev.boot.recovery = true; simp [hr])
  generalize hx : modBoot (fun b => { b with hostless := true })
      (modFal (fun f => { f with mode := .discovering }) (modBoot (fun b => { b with stage := 5 }) s.dev)) = x at hf
  obtain ⟨hboot, hfal, hquiet⟩ := enableAll_on x
  obtain ⟨st, s7, ds, hst, hlater⟩ := laterBoot_laterSteps (enableAll x)
  have hx5 : x.boot.stage = 5 := by rw [← hx]; rfl
  have hxh : x.boot.hostless = true := by rw [← hx]; rfl
  have hxf : x.fal.mode = .discovering := by rw [← hx]; rfl
  have hxq : x.quiet := by rw [← hx]; exact hl.2
  refine ⟨_, act_quiet .hostlessTimeout _ s rfl hl.1 (by rw [hf]; exact (calm_laterSteps _).quiet (hquiet hxq)), ?_⟩
  rw [hf]
  refine ⟨?_, ?_, ?_⟩
  · rw [hlater]
    exact (congrArg Boot.hostless hboot).trans hxh
  · rw [hlater]
    rw [hboot, hx5] at hst
    exact hst
  · rw [(only_laterSteps _).fal, hfal, hxf]

/-! ### Configuration requests, and the security version (R426, R441) -/

theorem exec_configRequest_early {s : State} (hl : s.live) (h : s.dev.boot.stage < 5 ∨ s.dev.boot.cxlUp = false) :
    exec .configRequest s = .next { s with dev := modBoot (fun b => { b with cfgRetry := b.cfgRetry + 1 }) s.dev } := by
  have hf : configRequest s.dev = modBoot (fun b => { b with cfgRetry := b.cfgRetry + 1 }) s.dev := if_pos h
  rw [← hf]
  exact act_calm .configRequest _ s rfl hl (by rw [hf]; exact calm_modBoot _ _)

theorem exec_configRequest_up {s : State} (hl : s.live) (h : ¬ (s.dev.boot.stage < 5 ∨ s.dev.boot.cxlUp = false)) :
    exec .configRequest s = .next s := by
  have hf : configRequest s.dev = s.dev := if_neg h
  have hx := act_calm .configRequest configRequest s rfl hl (by rw [hf]; exact .rfl' _)
  rw [hf] at hx
  exact hx

theorem exec_svnAdvanced {s : State} (hl : s.live) (hc : s.dev.boot.commitSvn = true) (hs : s.dev.nv.fuse.svn < s.dev.boot.fwSvn)
    (hf : fabricService s.dev none = true) :
    exec .svnAdvanced s = .next { s with
      dev := postEvent 0x204 (toLE 1 s.dev.boot.fwSvn) (modFuse (fun f => { f with svn := s.dev.boot.fwSvn }) s.dev) } := by
  have hadv : svnAdvance s.dev
      = postEvent 0x204 (toLE 1 s.dev.boot.fwSvn) (modFuse (fun f => { f with svn := s.dev.boot.fwSvn }) s.dev) :=
    if_pos (by simp [hc, hs, hf])
  rw [← hadv]
  exact act_calm .svnAdvanced _ s rfl hl (by rw [hadv]; exact (calm_modFuse _ _).then (calm_postEvent _ _ _))

/-! ### Step 6, and the steps as commands -/

/-- With no target there is no store (R348). -/
theorem falDiscover_none (d : Dev) : (falDiscover [] d).fal.mode = .absent := rfl

theorem exec_fallowDiscovery {s : State} (ts : List FlashTarget) (hp : s.dev.boot.power = .on) (hs : 5 ≤ s.dev.boot.stage)
    (hr : s.dev.boot.recovery = false) (h6 : s.dev.boot.step6 = false) :
    exec (.fallowDiscovery ts) s = .next { s with dev := settle (startupDone (modBoot (fun b => { b with step6 := true, stage := max b.stage 6 })
      (falDiscover (if s.dev.boot.carrier then ts else []) s.dev))) } := by
  have hf : discovery ts s.dev = startupDone (modBoot (fun b => { b with step6 := true, stage := max b.stage 6 })
      (falDiscover (if s.dev.boot.carrier then ts else []) s.dev)) := if_neg (by simp [hr, h6, hs])
  rw [← hf]
  exact act_next (.fallowDiscovery ts) _ s rfl hp

theorem exec_perstRelease {s : State} (hl : s.live) (hs : s.dev.boot.stage = 0) :
    exec .perstRelease s = .next { s with dev := modBoot (fun b => { b with perst := true, stage := 1 }) s.dev } := by
  have hf : perstRelease s.dev = modBoot (fun b => { b with perst := true, stage := 1 }) s.dev := if_pos ⟨rfl, hs⟩
  rw [← hf]
  exact act_calm .perstRelease _ s rfl hl (by rw [hf]; exact calm_modBoot _ _)

theorem exec_calRecordLoad_bad {s : State} (hl : s.live) (hs : s.dev.boot.stage = 2)
    (hc : calCause s.dev (slice s.dev.nv.cal 0 14528) ≠ 0) :
    ∃ d, exec .calRecordLoad s = .next { s with dev := d } ∧ d.boot.stage = 3 ∧ d.boot.calDefaults = true
      ∧ fld d 0x440000 0 6 = 28 ∧ d.nv = s.dev.nv := by
  have hframe := only_calDefaults (calCause s.dev (slice s.dev.nv.cal 0 14528)) s.dev
  refine ⟨_, act_calm .calRecordLoad _ s rfl hl (by rw [calLoad_bad hs hc]; exact hframe.calm), ?_⟩
  rw [calLoad_bad hs hc]
  have hboot := calDefaults_boot (calCause s.dev (slice s.dev.nv.cal 0 14528)) s.dev
  exact ⟨by rw [hboot], by rw [hboot], calDefaults_rate _ _, hframe.nv⟩

end Sys2Proof.Machine
open Sys2Proof Sys2Proof.Machine

/-- Settles O8: each step is what its rules say; those of the ports complete as the frame of `laterSteps` lets them. -/
theorem startupSteps : Obligations.StartupSteps := by
  intro s hp
  refine ⟨fun ts h5 hr h6 => ⟨exec_fallowDiscovery ts hp h5 hr h6, falDiscover_none s.dev⟩,
    fun h5 hr h7 => ⟨laterSteps_training h5 hr h7, fun ht d hd => ?_⟩, fun hq => ?_⟩
  · obtain ⟨hs7, hst, hal, hds⟩ := laterSteps_trained h5 hr h7 ht
    subst hd
    exact ⟨hs7, hst, hal, hds, (only_laterSteps _).regs, (only_laterSteps _).subs⟩
  · have hl : s.live := ⟨hp, hq⟩
    refine ⟨exec_perstRelease hl, fun hs hr k hk => ?_, fun hs hr ha hb => ?_, fun hs hc => ?_, exec_calRecordLoad_bad hl,
      fun pass hs hb hc => exec_gddr7BootTraining pass hl hs hb hc,
      fun w v proto hw h1 h5 hs hr => exec_cxlLinkUp proto hl hw h1 h5 hs hr, exec_hostlessTimeout hl,
      exec_configRequest_early hl, exec_configRequest_up hl, exec_svnAdvanced hl⟩
    · exact ⟨_, act_calm .firmwareVerify _ s rfl hl (calm_firmwareVerify _), firmwareVerify_boots hs hr hk⟩
    · exact ⟨_, act_calm .firmwareVerify _ s rfl hl (calm_firmwareVerify _), firmwareVerify_none hs hr ha hb⟩
    · rw [← calLoad_good hs hc]
      exact act_calm .calRecordLoad _ s rfl hl (by rw [calLoad_good hs hc]; exact calm_modBoot _ _)

end

section
/-! SUPPORT. The length of the coming Swath (R26, R28, R30, R31, R40). -/

set_option Elab.async false

namespace Sys2Proof.Machine

open Sys2Proof

/-- A slot that may be removed: no adaptation slot, retraining window or Furrow holds it. -/
theorem removable_some {d : Dev} {p ns x : Nat} (h : removable d p ns = some x) :
    x < ns ∧ (ns - 1 - x) % 256 ≠ 0 ∧ windowSlot d p x = false ∧ heldAt d x = [] := by
  have hmem := List.mem_of_find?_eq_some h
  have hfree := List.find?_some h
  simp only [List.mem_reverse, List.mem_range] at hmem
  simp only [Bool.and_eq_true, decide_eq_true_eq, Bool.not_eq_true', List.isEmpty_iff] at hfree
  exact ⟨hmem, hfree.1.1, hfree.1.2, hfree.2⟩

/-- No slot may be removed: one of the three holds each. -/
theorem removable_none {d : Dev} {p ns : Nat} (h : removable d p ns = none) :
    ∀ x, x < ns → (ns - 1 - x) % 256 = 0 ∨ windowSlot d p x = true ∨ heldAt d x ≠ [] := fun x hx => by
  have hheld := List.find?_eq_none.1 h x (by simpa using hx)
  by_contra hno
  simp only [not_or, Bool.not_eq_true, not_not] at hno
  exact hheld (by simp [hno])

theorem comingLength_longer {d : Dev} {p ns : Nat} (h : 1 ≤ midpoint d) : comingLength d p ns = (ns + 1, none) := by
  simp [comingLength, h]
theorem comingLength_same {d : Dev} {p ns : Nat} (h : midpoint d = 0) : comingLength d p ns = (ns, none) := by
  simp [comingLength, h]
theorem comingLength_shorter {d : Dev} {p ns : Nat} (h : midpoint d ≤ -1) :
    comingLength d p ns = match removable d p ns with
      | some s => (ns - 1, some s)
      | none => (ns, none) := by
  have hnot : ¬ 1 ≤ midpoint d := by omega
  exact (if_neg hnot).trans (if_pos h)

/-- The clock of the next Swath. -/
theorem nextSwath_clk (d : Dev) : (nextSwath d).clk = { d.clk with
    swc := d.clk.swc + 1, slot := if (comingLength d (2 ^ comingRetrain d) (nsCfg d)).2 = some 0 then 1 else 0, nsNow := nsCfg d,
    lenNow := (comingLength d (2 ^ comingRetrain d) (nsCfg d)).1, removed := (comingLength d (2 ^ comingRetrain d) (nsCfg d)).2,
    swStart := d.clk.swStart + 6 * d.clk.lenNow, now := max d.clk.now (d.clk.swStart + 6 * d.clk.lenNow),
    maxOffset := largestOffset d, adaptNow := fld d oSwathRsv 0 4, retrainNow := comingRetrain d } := rfl

end Sys2Proof.Machine
open Sys2Proof Sys2Proof.Machine

/-- Settles O10: the sign of the midpoint picks the branch of R30, and the slot searched for passes its three tests. -/
theorem swathLength : Obligations.SwathLength := by
  intro d n c
  have hc : c = (nextSwath d).clk := rfl
  rw [nextSwath_clk] at hc
  refine ⟨by rw [hc], by rw [hc], by rw [hc], fun h => ?_, fun h => ?_, fun h => ?_⟩
  · rw [hc, comingLength_longer h]; exact ⟨rfl, rfl⟩
  · rw [hc, comingLength_same h]; exact ⟨rfl, rfl⟩
  · rw [hc, comingLength_shorter h]
    cases hr : removable d (2 ^ comingRetrain d) (nsCfg d) with
    | none => exact .inl ⟨rfl, rfl, removable_none hr⟩
    | some x =>
      obtain ⟨hlt, hadapt, hwindow, hheld⟩ := removable_some hr
      exact .inr ⟨x, rfl, rfl, hlt, hadapt, hwindow, hheld⟩

end

section
/-! SUPPORT. A Swath boundary that closes a path epoch fence (R83): the frame it held goes at once, and its allowance is drawn. -/

set_option Elab.async false

namespace Sys2Proof.Machine

open Sys2Proof

/-- A one-cell frame to EID 9 that the fence of its entry holds. -/
def heldFrame : Frame :=
  { op := 0, src := 8, dst := 9, tc := 2, label := 0, hdr := zeros 32, data := [], xport := 84, furrow := none, direct := none,
    reply := 0, seq := none, org := .plain }

/-- EID 9 moved from path 7 to path 5; the deadline of its old path is the Swath in progress. -/
def fencedDev : Dev :=
  { dLink with
    tab := { tablesZero with
      ept := [(9, { wEpt with lastD := some 0, fence := some [7] })], paths := [(5, wPath false)], budgets := [(6, wBudget)] }
    sw := { dLink.sw with
      nextTx := 1
      tx := [(0, { fr := heldFrame, budget := some 6, adm := none, sent := 0, resv := none, held := [], why := 2 })] } }

/-- The allowance of an entry of the Budget Table after a command. -/
def allowAfter (i : Nat) : Host.Outcome State Fault Refusal → Option Nat
  | .next s => (tget s.dev.tab.budgets i).map (·.allow)
  | _ => none

/-- The boundary refills the eight cells, closes the fence, and the frame that goes draws one. -/
theorem fencedDev_boundary : allowAfter 6 (exec .swathBoundary (stOf fencedDev)) = some 7 := by decide +kernel

theorem fencedDev_atRest :
    (stOf fencedDev).live ∧ fencedDev.sw.notices = [] ∧ fencedDev.ring.dstPairs = [] ∧ fencedDev.cru.nodes = []
      ∧ fencedDev.tab.budgetWait = [] ∧ fencedDev.sw.rx = [] ∧ fencedDev.bpm.resv = []
      ∧ ∀ p ∈ fencedDev.subs, p.2.state ≠ .hold ∧ p.2.policed = [] := by
  simp only [State.live, Dev.quiet]
  decide +kernel

end Sys2Proof.Machine
open Sys2Proof Sys2Proof.Machine

/-- Refutes O11: a frame that a path epoch fence held goes as the boundary closes the fence (R83), so the refilled allowance of its
budget is one cell short of the rate when the command ends. -/
theorem not_boundaryAdvances : ¬ Obligations.BoundaryAdvances := by
  intro h
  obtain ⟨hlive, hnotices, hpairs, hnodes, hwait, hrx, hresv, hsubs⟩ := fencedDev_atRest
  obtain ⟨d, hexec, -, -, -, -, -, -, hbudget, -⟩ := h (stOf fencedDev) hlive hnotices hpairs hnodes hwait hrx hresv hsubs
  have hfull : tget d.tab.budgets 6 = some { wBudget with allow := 8, drawn := [] } := hbudget 6 wBudget rfl rfl
  have hafter := fencedDev_boundary
  rw [hexec, allowAfter, hfull] at hafter
  exact absurd hafter (by decide)

end

section
/-! SUPPORT. Ports: which registers an operation may change; markers, lost alignment, HOLD and the states of Table 4.17 (R32, R95, R99,
R112, R113, R130, R131, R133). -/

set_option Elab.async false

namespace Sys2Proof.Machine

open Sys2Proof

/-! ### What a command answers -/

section
variable {c : Instr} {s : State} {f : Dev → Dev} {x : Dev}

/-- On a module that is ON a command answers its effect, and what it left is done. -/
theorem exec_settle (hexec : exec c s = act c settle f s) (hw : wellFormed c = true) (hp : s.dev.boot.power = .on)
    (hf : f s.dev = x) : exec c s = .next { s with dev := settle x } := by
  rw [hexec, act_next c f s hw hp, hf]

/-- An effect that leaves a device quiet is all a command answers. -/
theorem exec_quiet (hexec : exec c s = act c settle f s) (hw : wellFormed c = true) (hp : s.dev.boot.power = .on)
    (hf : f s.dev = x) (hq : x.quiet) : exec c s = .next { s with dev := x } := by
  rw [exec_settle hexec hw hp hf, settle_quiet x hq]

theorem exec_calm (hexec : exec c s = act c settle f s) (hw : wellFormed c = true) (hl : s.live)
    (hf : f s.dev = x) (hc : Calm s.dev x) : exec c s = .next { s with dev := x } :=
  exec_quiet hexec hw hl.1 hf (hc.quiet hl.2)

end

/-! ### Registers below an offset -/

/-- No register below offset `n` changes. -/
def RegsFrom (n : Nat) (d d' : Dev) : Prop := ∀ off, off < n → rg d' off = rg d off

theorem RegsFrom.refl (n : Nat) (d : Dev) : RegsFrom n d d := fun _ _ => rfl
theorem RegsFrom.then {n : Nat} {a b c : Dev} (h : RegsFrom n a b) (k : RegsFrom n b c) : RegsFrom n a c :=
  fun off hoff => (k off hoff).trans (h off hoff)
theorem RegsFrom.mono {n m : Nat} {d d' : Dev} (h : RegsFrom n d d') (hm : m ≤ n := by decide) : RegsFrom m d d' :=
  fun off hoff => h off (hoff.trans_le hm)
theorem Only.regsFrom {l : List Part} {d d' : Dev} (h : Only l d d') (n : Nat) (hl : Part.regs ∉ l := by decide) : RegsFrom n d d' :=
  fun off _ => h.rg off hl

theorem regsFrom_each {α : Type} {n : Nat} {f : α → Dev → Dev} (hf : ∀ a d, RegsFrom n d (f a d)) (l : List α) (d : Dev) :
    RegsFrom n d (each l f d) := by
  induction l generalizing d with
  | nil => exact .refl n d
  | cons a l ih => exact (hf a d).then (ih _)

theorem regsFrom_putReg {n off : Nat} (h : n ≤ off) (v : Nat) (d : Dev) : RegsFrom n d (putReg off v d) :=
  fun o ho => rg_putReg_ne _ _ _ _ (by omega)
theorem regsFrom_setEvt {n off : Nat} (h : n ≤ off) (i : Nat) (d : Dev) : RegsFrom n d (setEvt off i d) := regsFrom_putReg h _ d

/-- Counters alone. -/
theorem regsFrom_count (b ev n : Nat) (a : Attr) (d : Dev) : RegsFrom 0x540000 d (count b ev n a d) := by
  unfold count
  refine regsFrom_each (fun i d => ?_) _ d
  have hput : ∀ v, RegsFrom 0x540000 d (putReg (oPmon b + 0x40 + 8 * i) v d) := fun v =>
    regsFrom_putReg (by unfold oPmon; omega) v d
  split
  · dsimp only
    split
    · exact hput _
    · exact (hput _).then ((only_modTel _ _).regsFrom _)
  · exact .refl _ d

theorem regsFrom_rateCount (row limit kind idx : Nat) (d : Dev) : RegsFrom 0x500000 d (rateCount row limit kind idx d) := by
  unfold rateCount
  dsimp only
  split
  · exact ((only_modHlt _ d).regsFrom _).then ((regsFrom_setEvt (by decide) _ _).then ((only_postEvent _ _ _).regsFrom _))
  · exact (only_modHlt _ d).regsFrom _

/-- The health manager's registers and counters. -/
theorem regsFrom_scoreEvent (row kind idx : Nat) (d : Dev) : RegsFrom 0x500000 d (scoreEvent row kind idx d) := by
  have hbase : ∀ x, RegsFrom 0x500000 x (orderTest kind idx 1 [] (levelEvents kind idx row (count 19 1 1 {} x))) := fun x =>
    (regsFrom_count 19 1 1 {} x).mono.then
      (((only_levelEvents _ _ _ _).regsFrom _).then ((only_orderTest _ _ _ _ _).regsFrom _))
  unfold scoreEvent
  dsimp only
  refine RegsFrom.then ?_ ((only_defer _ _).regsFrom _)
  split
  · refine RegsFrom.then ?_ (regsFrom_rateCount _ _ _ _ _)
    exact (((only_modHlt _ d).regsFrom _).then ((only_modHlt _ _).regsFrom _)).then (hbase _)
  · exact (((only_modHlt _ d).regsFrom _).then ((only_modHlt _ _).regsFrom _)).then (hbase _)

theorem regsFrom_uncharge (o : Nat) (spill : Bool) (d : Dev) : RegsFrom oBpmEvt d (uncharge o spill d) :=
  fun off hoff => (portsStay_uncharge o spill d).regs off (by omega)

theorem oPortCfg_lt {lp : Nat} (h : lp < 256) : oPortCfg (portOf lp) < 0x100000 := by
  unfold oPortCfg portOf; omega

theorem RegsFrom.isEdge {n : Nat} {d d' : Dev} (h : RegsFrom n d d') {lp : Nat} (hlp : lp < 256) (hn : 0x100000 ≤ n := by decide) :
    isEdge d' lp = Machine.isEdge d lp := by
  rw [Machine.isEdge, flag, h _ (by have := oPortCfg_lt hlp; omega), ← flag, ← Machine.isEdge]

/-! ### Credits returned, counts restarted -/

theorem only_returnCredits (lp : Nat) (d : Dev) : Only [.bpm, .regs, .evt, .ring, .subs] d (returnCredits lp d) := by
  unfold returnCredits
  dsimp only
  refine (only_modLink _ _ _).after ?_
  exact only_each (fun v d => (only_each (fun _ d => only_uncharge _ _ d) _ d).in) _ d

/-- Beyond the pool, the credits a link was lent are all that goes. -/
theorem sub_returnCredits (lp l : Nat) (d : Dev) :
    sub (returnCredits lp d) l = sub (modLink lp (fun l => { l with lent := [], lentSpill := [] }) d) l := by
  unfold returnCredits
  dsimp only
  have hpool : Only [.bpm, .regs, .evt, .ring] d (each (List.range 5) (fun v d' =>
      each (List.range (tgetD (sub d lp).link.lent v 0)) (fun i d' => uncharge (ownExt lp v)
        (decide (i < tgetD (sub d lp).link.lentSpill v 0)) d') d') d) :=
    only_each (fun v x => only_each (fun i x => only_uncharge _ _ x) _ x) _ d
  rcases eq_or_ne lp l with rfl | hne
  · rw [modLink, sub_modSub_self, hpool.sub, modLink, sub_modSub_self]
  · rw [modLink, sub_modSub_ne _ _ _ _ hne, hpool.sub, modLink, sub_modSub_ne _ _ _ _ hne]

theorem only_restartCounts (lp : Nat) (d : Dev) : Only [.bpm, .regs, .evt, .ring, .subs] d (restartCounts lp d) :=
  (only_modLink _ _ _).after (only_returnCredits lp d)

/-- The link whose counts have started afresh keeps what the last marker granted. -/
def freshLink (l : Link) : Link :=
  { linkZero with known := l.known, markerSent := l.markerSent, vc4Sent := l.vc4Sent, adaptSent := l.adaptSent }

theorem sub_restartCounts_self (lp : Nat) (d : Dev) :
    sub (restartCounts lp d) lp = { sub d lp with link := freshLink (sub d lp).link } := by
  rw [restartCounts, modLink, sub_modSub_self, sub_returnCredits, modLink, sub_modSub_self]
  rfl

theorem sub_restartCounts_ne {lp l : Nat} (h : lp ≠ l) (d : Dev) : sub (restartCounts lp d) l = sub d l := by
  rw [restartCounts, modLink, sub_modSub_ne _ _ _ _ h, sub_returnCredits, modLink, sub_modSub_ne _ _ _ _ h]

theorem regsFrom_returnCredits (lp : Nat) (d : Dev) : RegsFrom oBpmEvt d (returnCredits lp d) :=
  fun off hoff => (portsStay_returnCredits lp d).regs off (by omega)

theorem quiet_modLink {lp : Nat} {f : Link → Link} {d : Dev} (h : d.quiet) : (modLink lp f d).quiet := quiet_modSub (by rfl) h

theorem quiet_returnCredits {lp : Nat} {d : Dev} (h : d.quiet) : (returnCredits lp d).quiet := by
  unfold returnCredits
  dsimp only
  refine quiet_modLink ((only_each (l := [.bpm, .regs, .evt, .ring]) (fun v d => ?_) _ d).calm.quiet h)
  exact only_each (fun i d => only_uncharge _ _ d) _ d

theorem quiet_restartCounts {lp : Nat} {d : Dev} (h : d.quiet) : (restartCounts lp d).quiet := quiet_modLink (quiet_returnCredits h)

/-! ### Lost alignment, lost liveness, the end of HOLD -/

theorem wf_lp {lp : Nat} (h : lp < 256) : decide (lp < 256) = true := decide_eq_true h

theorem exec_swathAlignLost {s : State} {lp : Nat} (hp : s.dev.boot.power = .on) (hlp : lp < 256) (he : isEdge s.dev lp = false)
    (hst : (sub s.dev lp).state = .service) (hov : 2 ≤ (sub s.dev lp).overs) :
    exec (.swathAlignLost lp) s = .next { s with
      dev := settle (postEvent 3 (toLE 1 lp ++ toLE 2 (wrap 16 (sub s.dev lp).lastTheta)) (scoreEvent 4 1 (lp / 4)
        (modSub lp (fun p => { p with state := .hold, holdCount := 0, cause := .align, unreach := false }) s.dev))) } := by
  have hf : alignLost lp s.dev = postEvent 3 (toLE 1 lp ++ toLE 2 (wrap 16 (sub s.dev lp).lastTheta)) (enterHold lp .align s.dev) :=
    if_pos (by simp [he, hst, hov])
  exact exec_settle (c := .swathAlignLost lp) rfl (wf_lp hlp) hp hf

theorem exec_neighbourUnreachable {s : State} {lp : Nat} (hp : s.dev.boot.power = .on) (hlp : lp < 256) (he : isEdge s.dev lp = false)
    (hst : (sub s.dev lp).state = .service) (hlock : (sub s.dev lp).lock = true)
    (hm : fld s.dev 0x100010 0 8 ≤ (sub s.dev lp).missing) :
    exec (.neighbourUnreachable lp) s = .next { s with
      dev := settle (postEvent 8 (toLE 1 lp ++ toLE 2 (((sub s.dev lp).nbr.map (·.node)).getD 0)) (scoreEvent 4 1 (lp / 4)
        (modSub lp (fun p => { p with state := .hold, holdCount := 0, cause := .liveness, unreach := true }) s.dev))) } := by
  have hf : unreachable lp s.dev = postEvent 8 (toLE 1 lp ++ toLE 2 (((sub s.dev lp).nbr.map (·.node)).getD 0))
      (enterHold lp .liveness s.dev) := if_pos (by simp [he, hst, hlock, hm])
  exact exec_settle (c := .neighbourUnreachable lp) rfl (wf_lp hlp) hp hf

theorem exec_holdExpiry {s : State} {lp : Nat} (hp : s.dev.boot.power = .on) (hlp : lp < 256)
    (hst : (sub s.dev lp).state = .hold) (hc : max 1 (fld s.dev (oPortHold (lp / 4)) 0 8) ≤ (sub s.dev lp).holdCount) :
    exec (.holdExpiry lp) s = .next { s with
      dev := settle (modSub lp (fun p => { p with state := .down, unreach := false })
        (flushSub lp (when (!farHold s.dev lp) (cause 0) s.dev))) } := by
  have hf : holdExpiry lp s.dev = modSub lp (fun p => { p with state := .down, unreach := false })
      (flushSub lp (when (!farHold s.dev lp) (cause 0) s.dev)) := if_pos ⟨hst, hc⟩
  exact exec_settle (c := .holdExpiry lp) rfl (wf_lp hlp) hp hf

/-! ### Units and markers (R107, R108, R112, R133) -/

/-- What the body of a marker says of its sender. -/
def markNbr (b : Bytes) : Neighbour :=
  { node := beAt b 0 2, serial := beAt b 26 8, swc := beAt b 2 6, ns := beAt b 8 2,
    inFabric := (byteAt b 13).testBit 0, fresh := (byteAt b 13).testBit 1 }

/-- o_rx of a marker (R112): its start from the local boundary, its tx_delay taken off, in slots, within half a Swath of 0. -/
def markORx (ns : Nat) (arr : Int) (b : Bytes) : Int :=
  let half : Int := (3 * ns / 2 : Nat)
  tdiv ((arr - (byteAt b 12 : Nat) + half) % ((3 * ns : Nat) : Int) - half) 3

/-- What a marker leaves of its sub-port: the neighbour, both offsets, the count of large ones, and the grants it names. -/
def markSub (n : Neighbour) (o : Int) (th : Option Int) (big : Bool) (b : Bytes) (p : SubPort) : SubPort :=
  let k := (List.range 5).foldl (fun k v => tput k v (beAt b (16 + 2 * v) 2)) p.link.known
  let ov := if big then p.overs + 1 else 0
  { p with nbr := some n, oRx := some o, theta := th, lastTheta := th.getD p.lastTheta, overs := ov, marked := true,
           link := { p.link with known := k } }

/-- An offset above eight slots. -/
def bigTheta (th : Option Int) : Bool :=
  match th with
  | some t => decide (8 < t.natAbs)
  | none => false

/-- A neighbour that begins to show fresh restarts the counts (R132, R133, R500). -/
def markFresh (lp : Nat) (n : Neighbour) (was : Bool) (d : Dev) : Dev :=
  if !n.fresh then d
  else if (sub d lp).state = .hold then (if was then d else restartCounts lp (reportReplay lp d))
  else if (sub d lp).state = .service then (if was then d else restartCounts lp d)
  else if (sub d lp).link.expect ≠ 0 then restartCounts lp d
  else d

/-- The θ a marker gives, none while either end has none to form it from. -/
def markTheta (o : Int) (otx blind : Nat) : Option Int := if otx = 0x8000 ∨ 0 < blind then none else some (tdiv (o - signed 16 otx) 2)

theorem recvMarker_eq (lp : Nat) (arr : Int) (u : Bytes) (d : Dev) : recvMarker lp arr u d =
    if !linkUp d lp then d
    else if !unitOk u then fecLoss lp none d
    else if uType u ≠ 2 then d
    else if !markerOk (uBody u) then recvOther lp u d
    else
      let x := recvOther lp u d
      let th := markTheta (markORx x.clk.nsNow arr (uBody u)) (beAt (uBody u) 10 2) (sub x lp).blind
      markerAlign lp (markNbr (uBody u)) th (markFresh lp (markNbr (uBody u)) (((sub x lp).nbr.map (·.fresh)).getD false)
        (modSub lp (markSub (markNbr (uBody u)) (markORx x.clk.nsNow arr (uBody u)) th (bigTheta th) (uBody u)) x)) := rfl

theorem markerAlign_service {lp : Nat} {d : Dev} (h : (sub d lp).state = .service) (n : Neighbour) (th : Option Int) :
    markerAlign lp n th d = d := if_pos h

theorem markFresh_service {lp : Nat} {d : Dev} (h : (sub d lp).state = .service) (n : Neighbour) (was : Bool) :
    markFresh lp n was d = if n.fresh && !was then restartCounts lp d else d := by
  unfold markFresh
  rw [h]
  cases n.fresh <;> cases was <;> rfl

/-- What every good unit brings its link. -/
def unitLink (u : Bytes) (l : Link) : Link :=
  let l := if uCvc u < 5 then { l with known := tput l.known (uCvc u) (extendGrant (tgetD l.known (uCvc u) 0) (uGrant u)) } else l
  let l := if l.resume then
      { l with resume := false, replayAt := if (uAck u + 1) % 2 ^ 18 = l.seqNext then none else some ((uAck u + 1) % 2 ^ 18) }
    else l
  { l with acked := uAck u }

theorem unitCommon_eq (lp : Nat) (u : Bytes) (d : Dev) : unitCommon lp u d = modLink lp (unitLink u) d := rfl

@[simp] theorem unitLink_expect (u : Bytes) (l : Link) : (unitLink u l).expect = l.expect := by
  unfold unitLink
  dsimp only
  split <;> split <;> rfl

theorem sub_modLink_self (lp : Nat) (f : Link → Link) (d : Dev) :
    sub (modLink lp f d) lp = { sub d lp with link := f (sub d lp).link } := sub_modSub_self _ _ _

/-- A unit whose sequence does not lie ahead brings its grant and its ack alone. -/
theorem recvOther_inStep {lp : Nat} {u : Bytes} {d : Dev} (h : ahead (uSeq u) (sub d lp).link.expect = false) :
    recvOther lp u d = modLink lp (unitLink u) d := by
  unfold recvOther
  rw [unitCommon_eq]
  dsimp only
  rw [sub_modLink_self]
  dsimp only
  rw [unitLink_expect, h]
  rfl

theorem tgetD_foldl_tput {β : Type} (f : Nat → β) (x : β) (n : Nat) (t : Tab β) {v : Nat} (hv : v < n) :
    tgetD ((List.range n).foldl (fun k v => tput k v (f v)) t) v x = f v := by
  induction n with
  | zero => exact absurd hv (Nat.not_lt_zero v)
  | succ n ih =>
    rw [List.range_succ, List.foldl_append]
    show tgetD (tput _ n (f n)) v x = f v
    rcases Nat.lt_succ_iff_lt_or_eq.1 hv with hlt | rfl
    · rw [tgetD_tput_ne _ _ _ _ _ hlt.ne', ih hlt]
    · exact tgetD_tput_self _ _ _ _

/-- A valid marker on a sub-port in SERVICE whose counts need not restart, or which restart (R112, R133). -/
theorem recvMarker_service {lp : Nat} {arr : Int} {u : Bytes} {d : Dev} (hup : linkUp d lp = true) (hok : unitOk u = true)
    (ht : uType u = 2) (hm : markerOk (uBody u) = true) (hst : (sub d lp).state = .service)
    (hseq : ahead (uSeq u) (sub d lp).link.expect = false) (hb : (sub d lp).blind = 0) :
    let n := markNbr (uBody u)
    let o := markORx d.clk.nsNow arr (uBody u)
    let th := markTheta o (beAt (uBody u) 10 2) 0
    let x := modSub lp (markSub n o th (bigTheta th) (uBody u)) (modLink lp (unitLink u) d)
    recvMarker lp arr u d = if n.fresh && !((sub d lp).nbr.map (·.fresh)).getD false then restartCounts lp x else x := by
  intro n o th x
  have hsub := sub_modLink_self lp (unitLink u) d
  have hclk : (modLink lp (unitLink u) d).clk = d.clk := rfl
  have hx : (sub x lp).state = .service := by
    rw [show x = modSub lp _ _ from rfl, sub_modSub_self, hsub]
    exact hst
  rw [recvMarker_eq, hup, hok, ht, hm, recvOther_inStep hseq]
  simp only [Bool.not_true, Bool.false_eq_true, if_false, ne_eq, not_true_eq_false, hclk, hsub, hb]
  show markerAlign lp n th (markFresh lp n _ x) = _
  rw [markFresh_service hx]
  split
  · refine markerAlign_service ?_ n th
    rw [sub_restartCounts_self]
    exact hx
  · exact markerAlign_service hx n th

/-- Counts that may restart: all of the sub-port but its link, and the grants it knows, stay. -/
theorem restart_stays (b : Bool) (lp : Nat) (x : Dev) :
    (∃ l, sub (if b then restartCounts lp x else x) lp = { sub x lp with link := l } ∧ l.known = (sub x lp).link.known)
      ∧ (if b then restartCounts lp x else x).clk = x.clk ∧ (∀ l, l ≠ lp → sub (if b then restartCounts lp x else x) l = sub x l)
      ∧ (x.quiet → (if b then restartCounts lp x else x).quiet) := by
  cases b
  · exact ⟨⟨(sub x lp).link, rfl, rfl⟩, rfl, fun _ _ => rfl, id⟩
  · exact ⟨⟨freshLink (sub x lp).link, sub_restartCounts_self lp x, rfl⟩, (only_restartCounts lp x).clk,
      fun l hl => sub_restartCounts_ne hl.symm x, quiet_restartCounts⟩

theorem bigTheta_iff (th : Option Int) : bigTheta th = decide (8 < (th.map Int.natAbs).getD 0) := by
  cases th <;> rfl

theorem exec_markerReceive {s : State} {lp : Nat} (arr : Int) (u : Bytes) (hp : s.dev.boot.power = .on) (hlp : lp < 256)
    (hup : linkUp s.dev lp = true) (hok : unitOk u = true) (ht : uType u = 2) (hm : markerOk (uBody u) = true)
    (hst : (sub s.dev lp).state = .service) (hseq : ahead (uSeq u) (sub s.dev lp).link.expect = false) (hq : s.dev.quiet)
    (hb : (sub s.dev lp).blind = 0) {o : Int} {th : Option Int} (ho : o = markORx s.dev.clk.nsNow arr (uBody u))
    (hth : th = if beAt (uBody u) 10 2 = 0x8000 then none else some (tdiv (o - signed 16 (beAt (uBody u) 10 2)) 2)) :
    ∃ d, exec (.markerReceive lp arr u) s = .next { s with dev := d } ∧ (sub d lp).nbr = some (markNbr (uBody u))
      ∧ (sub d lp).oRx = some o ∧ (sub d lp).theta = th ∧ (sub d lp).marked = true
      ∧ (sub d lp).overs = (if (th.map Int.natAbs).getD 0 > 8 then (sub s.dev lp).overs + 1 else 0)
      ∧ (sub d lp).state = .service ∧ d.clk = s.dev.clk
      ∧ (∀ v, v < 5 → tgetD (sub d lp).link.known v 0 = beAt (uBody u) (16 + 2 * v) 2)
      ∧ ∀ l, l ≠ lp → sub d l = sub s.dev l := by
  have hmark : markTheta o (beAt (uBody u) 10 2) 0 = th := by simp [markTheta, hth]
  have hrecv := recvMarker_service (arr := arr) hup hok ht hm hst hseq hb
  dsimp only at hrecv
  rw [← ho, hmark] at hrecv
  generalize hx : modSub lp (markSub (markNbr (uBody u)) o th (bigTheta th) (uBody u)) (modLink lp (unitLink u) s.dev) = x at hrecv
  have hsub : sub x lp = markSub (markNbr (uBody u)) o th (bigTheta th) (uBody u)
      { sub s.dev lp with link := unitLink u (sub s.dev lp).link } := by
    rw [← hx, sub_modSub_self, sub_modLink_self]
  have hother : ∀ l, l ≠ lp → sub x l = sub s.dev l := fun l hl => by
    rw [← hx, sub_modSub_ne _ _ _ _ hl.symm, modLink, sub_modSub_ne _ _ _ _ hl.symm]
  have hquiet : x.quiet := hx ▸ quiet_modSub (by rfl) (quiet_modLink hq)
  have hclk : x.clk = s.dev.clk := by rw [← hx]; rfl
  obtain ⟨⟨l, hl, hknown⟩, hzclk, hzsub, hzq⟩ :=
    restart_stays ((markNbr (uBody u)).fresh && !((sub s.dev lp).nbr.map (·.fresh)).getD false) lp x
  refine ⟨_, exec_quiet (c := .markerReceive lp arr u) rfl (wf_lp hlp) hp hrecv (hzq hquiet), ?_⟩
  rw [hl, hzclk, hclk]
  have hover : (sub x lp).overs = (if (th.map Int.natAbs).getD 0 > 8 then (sub s.dev lp).overs + 1 else 0) := by
    rw [hsub]
    show (if bigTheta th then _ else _ : Nat) = _
    rw [bigTheta_iff]
    simp
  refine ⟨by rw [hsub]; rfl, by rw [hsub]; rfl, by rw [hsub]; rfl, by rw [hsub]; rfl, hover, by rw [hsub]; exact hst, rfl,
    fun v hv => ?_, fun m hm => (hzsub m hm).trans (hother m hm)⟩
  rw [hknown, hsub]
  exact tgetD_foldl_tput (fun v => beAt (uBody u) (16 + 2 * v) 2) 0 5 _ hv

end Sys2Proof.Machine
open Sys2Proof Sys2Proof.Machine

/-- Settles O13: lost alignment, lost liveness and the end of HOLD as their rules say; a marker in SERVICE by `recvMarker_service`. -/
theorem alignmentEvents : Obligations.AlignmentEvents := by
  intro s lp hp hlp p
  refine ⟨exec_swathAlignLost hp hlp, exec_neighbourUnreachable hp hlp, exec_holdExpiry hp hlp, ?_⟩
  intro arr u hup hok ht hm hst hseq half o otx th n hq hb hhalf ho hotx hth hn
  subst hhalf hotx hn
  exact exec_markerReceive arr u hp hlp hup hok ht hm hst hseq hq hb ho hth

end

section
/-! SUPPORT. Writes of PORT_CFG, training, loss of signal (R95, R99, R130, R133, R134). -/

set_option Elab.async false

namespace Sys2Proof.Machine

open Sys2Proof

/-! ### PORT_CFG -/

theorem spare_portCfg {p : Nat} (hp : p < 64) (v : Nat) (d : Dev) : spare (oPortCfg p) v d = v := by
  unfold spare
  rw [regOf_portCfg hp]
  simp [regPort, r32, rw, rwIf, ro]

theorem writeReg_portCfg {p v : Nat} {d : Dev} (hp : p < 64) (hr : d.boot.recovery = false) :
    writeReg (oPortCfg p) v d = laterSteps (putPortCfg p v d) := by
  have hdiv : (oPortCfg p - 0x80000) / 0x1000 = p := by unfold oPortCfg; omega
  unfold writeReg
  dsimp only
  rw [spare_portCfg hp, if_neg (by simp [hr]), if_neg (by unfold oPortCfg; omega), if_neg (by unfold oPortCfg; omega),
    if_neg (by unfold oPortCfg; omega), if_pos (by unfold oPortCfg; omega), hdiv, writePortCfg]

/-- Of a disabled port a write reaches every field. -/
theorem portCfg_flds {p : Nat} (hp : p < 64) {r : Reg} (h : regOf (oPortCfg p) = some r) : r.flds = portFlds false p := by
  rw [regOf_portCfg hp] at h
  cases h
  rfl

theorem testBit_setBits_one (v b : Nat) : (setBits v 0 1 b).testBit 0 = b.testBit 0 := by
  rw [testBit_setBits, if_pos (by omega), Nat.sub_self]

/-- A disabled port whose enabling leaves the shared pool a buffer begins training (R95, R130, R146). -/
theorem putPortCfg_enables {p v : Nat} (hp : p < 64) (hv : v.testBit 0 = true) {d : Dev} (hoff : flag d (oPortCfg p) 0 = false)
    (hsh : shStays (withPortCfg p v d) (rg d oBpmRsv) 0 = true) : putPortCfg p v d = startPort p (withPortCfg p v d) := by
  have hrsv : rg (withPortCfg p v d) oBpmRsv = rg d oBpmRsv := rg_putReg_ne _ _ _ _ (by unfold oPortCfg oBpmRsv; omega)
  rw [putPortCfg_eq hp, hv, hoff, hrsv, if_pos (by decide), if_pos hsh]

/-- A sub-port in training, its lock and its service forgotten. -/
def training (s : SubPort) : SubPort :=
  { s with state := .training, served := false, lock := false, lanes := 0, unreach := false, holdCount := 0 }

theorem startPort_eq (p : Nat) (d : Dev) : ∃ x, Only [.ring] d x ∧ startPort p d = each (subsOf d p) (fun lp d => modSub lp training d) x := by
  unfold startPort
  dsimp only
  split
  · next h =>
    refine ⟨postEvent 5 (toLE 1 p) d, only_postEvent _ _ d, ?_⟩
    have hsubs : subsOf (postEvent 5 (toLE 1 p) d) p = subsOf d p := by
      rw [subsOf, breakout, fld, (only_postEvent 5 (toLE 1 p) d).rg, ← fld, ← breakout, ← subsOf]
    rw [hsubs]
    rfl
  · exact ⟨d, .refl _ d, rfl⟩

/-- A sub-port's update over a list changes each one listed, once or more, and no other. -/
theorem sub_each_modSub_not_mem {f : SubPort → SubPort} {l : List Nat} {lp : Nat} (h : lp ∉ l) (d : Dev) :
    sub (each l (fun a d => modSub a f d) d) lp = sub d lp :=
  each_fixes (v := fun d => sub d lp) l (fun _ ha _ => sub_modSub_ne _ _ _ _ fun heq => h (heq ▸ ha)) d

theorem startPort_training (p : Nat) (d : Dev) : ∀ lp ∈ subsOf d p,
    (sub (startPort p d) lp).state = .training ∧ (sub (startPort p d) lp).lock = false ∧ (sub (startPort p d) lp).served = false := by
  obtain ⟨x, -, heq⟩ := startPort_eq p d
  rw [heq]
  refine each_establishes (P := fun lp d => (sub d lp).state = .training ∧ (sub d lp).lock = false ∧ (sub d lp).served = false)
    (fun lp d => ?_) (fun lp b d h => ?_) _ x
  · rw [sub_modSub_self]
    exact ⟨rfl, rfl, rfl⟩
  · rcases eq_or_ne b lp with rfl | hne
    · rw [sub_modSub_self]
      exact ⟨rfl, rfl, rfl⟩
    · rw [sub_modSub_ne _ _ _ _ hne]
      exact h

theorem startPort_others {p lp : Nat} {d : Dev} (h : lp ∉ subsOf d p) : sub (startPort p d) lp = sub d lp := by
  obtain ⟨x, hx, heq⟩ := startPort_eq p d
  rw [heq, sub_each_modSub_not_mem h, hx.sub]

theorem exec_portEnable {s : State} {p : Nat} (v : BitVec 32) (hl : s.live) (hp : p < 64) (hr : s.dev.boot.recovery = false)
    {r : Reg} {w : Nat} (hoff : flag s.dev (oPortCfg p) 0 = false) (hreg : regOf (oPortCfg p) = some r)
    (hw : w = writeFlds (rg s.dev (oPortCfg p)) (setBits v.toNat 0 1 1) r.flds)
    (hsh : shStays (putReg (oPortCfg p) w s.dev) (rg s.dev oBpmRsv) 0 = true) :
    ∃ d, exec (.portEnable p v) s = .next { s with dev := d } ∧ rg d (oPortCfg p) = w ∧ flag d (oPortCfg p) 0 = true
      ∧ (∀ lp ∈ subsOf d p, (sub d lp).state = .training ∧ (sub d lp).lock = false ∧ (sub d lp).served = false)
      ∧ (∀ off, off ≠ oPortCfg p → rg d off = rg s.dev off) ∧ ∀ lp, lp ∉ subsOf d p → sub d lp = sub s.dev lp := by
  have hbit : (setBits v.toNat 0 1 1).testBit 0 = true := by rw [testBit_setBits_one]; rfl
  have hcfg : withPortCfg p (setBits v.toNat 0 1 1) s.dev = putReg (oPortCfg p) w s.dev := by
    rw [withPortCfg, hoff, hw, portCfg_flds hp hreg]
  have hput := putPortCfg_enables hp hbit hoff (by rw [hcfg]; exact hsh)
  rw [hcfg] at hput
  have hw0 : w.testBit 0 = true := by rw [hw, portCfg_flds hp hreg, portFlds, portCfg_enable, hbit]
  generalize hx : putReg (oPortCfg p) w s.dev = x at hput
  have hquiet : x.quiet := hx ▸ (calm_putReg _ _ _).quiet hl.2
  have hstart := only_startPort p x
  have hlater := only_laterSteps (startPort p x)
  have hregs : (laterSteps (startPort p x)).regs = x.regs := hlater.regs.trans hstart.regs
  have hrg : ∀ off, rg (laterSteps (startPort p x)) off = rg x off := fun off => by rw [rg, hregs, rg]
  have hsubs : subsOf (laterSteps (startPort p x)) p = subsOf x p := by rw [subsOf, breakout, fld, hrg, ← fld, ← breakout, ← subsOf]
  have hself : rg x (oPortCfg p) = w := by rw [← hx, rg_putReg_self]
  refine ⟨laterSteps (startPort p x), exec_quiet (c := .portEnable p v) rfl (decide_eq_true hp) hl.1
    (by rw [writeReg_portCfg hp hr, hput]) ((calm_laterSteps _).quiet (startPort_quiet hquiet)), (hrg _).trans hself, ?_, ?_, ?_, ?_⟩
  · rw [flag, hrg, hself, hw0]
  · rw [hsubs]
    intro lp hlp
    rw [hlater.sub]
    exact startPort_training p x lp hlp
  · intro off hne
    rw [hrg, ← hx, rg_putReg_ne _ _ _ _ hne.symm]
  · rw [hsubs]
    intro lp hlp
    rw [hlater.sub, startPort_others hlp, ← hx]
    rfl

/-! ### Disabling a port -/

/-- The flush of a port's sub-ports leaves every register but the BPM's event flags. -/
theorem regsFrom_stopPort (p : Nat) (d : Dev) : RegsFrom oBpmEvt d (stopPort p d) := by
  unfold stopPort
  refine regsFrom_each (fun lp d => RegsFrom.then (fun off hoff => ?_) ((only_modSub _ _ _).regsFrom _)) _ d
  exact (portsStay_flushSub lp d).regs off (by omega)

theorem exec_portDisable {s : State} {p : Nat} (v : BitVec 32) (hl : s.live) (hp : p < 64) (hr : s.dev.boot.recovery = false)
    (hon : flag s.dev (oPortCfg p) 0 = true) :
    ∃ d, exec (.portDisable p v) s = .next { s with dev := settle (laterSteps d) } ∧ flag d (oPortCfg p) 0 = false
      ∧ d = stopPort p (putReg (oPortCfg p) (setBits (rg s.dev (oPortCfg p)) 0 1 0) s.dev) := by
  have hbit : (setBits v.toNat 0 1 0).testBit 0 = false := by rw [testBit_setBits_one]; rfl
  have hval : rg (withPortCfg p (setBits v.toNat 0 1 0) s.dev) (oPortCfg p) = setBits (rg s.dev (oPortCfg p)) 0 1 0 := by
    rw [withPortCfg, rg_putReg_self, hon]
    show setBits (rg s.dev (oPortCfg p)) 0 1 (bits (setBits v.toNat 0 1 0) 0 1) = _
    rw [bits_setBits_same]
    rfl
  have hput : putPortCfg p (setBits v.toNat 0 1 0) s.dev
      = stopPort p (putReg (oPortCfg p) (setBits (rg s.dev (oPortCfg p)) 0 1 0) s.dev) := by
    rw [putPortCfg_eq hp, hon, hbit, hval, if_neg (by decide), if_pos (by decide)]
  refine ⟨_, exec_settle (c := .portDisable p v) rfl (decide_eq_true hp) hl.1 (by rw [writeReg_portCfg hp hr, hput]), ?_, rfl⟩
  rw [flag, regsFrom_stopPort p _ _ (by unfold oPortCfg oBpmEvt; omega), rg_putReg_self, testBit_setBits_one]
  rfl

/-! ### Training, loss of signal, uncorrectable codewords -/

/-- A sub-port whose lanes have locked, before its counts restart. -/
def locked (slot : Nat) (p : SubPort) : SubPort :=
  { p with
    lock := true, told := [], nbr := p.nbr.map (fun n => { n with fresh := false }),
    link := { p.link with markerSent := p.link.markerSent || decide (slot ≠ 0) } }

theorem exec_portTrained {s : State} {lp : Nat} (hl : s.live) (hlp : lp < 256) (hen : enabled s.dev lp = true)
    (hex : subExists s.dev lp = true) (hrate : laneRate s.dev lp = 1 → breakout s.dev lp ≠ 2) (hw : trainWidth s.dev lp ≠ none)
    (he : isEdge s.dev lp = false) (hst : (sub s.dev lp).state = .training) :
    exec (.portTrained lp) s = .next { s with dev := laterSteps (modSub lp (fun p => { p with state := .aligning })
      (if (sub s.dev lp).fresh = true ∨ (sub s.dev lp).served = false then
        restartCounts lp (modSub lp (locked s.dev.clk.slot) s.dev) else modSub lp (locked s.dev.clk.slot) s.dev)) } := by
  have hlock : lockIn lp s.dev = if (sub s.dev lp).fresh = true ∨ (sub s.dev lp).served = false then
      restartCounts lp (modSub lp (locked s.dev.clk.slot) s.dev) else modSub lp (locked s.dev.clk.slot) s.dev := by
    have hshow : showsFresh (sub (modSub lp (locked s.dev.clk.slot) s.dev) lp) = showsFresh (sub s.dev lp) := by
      rw [sub_modSub_self]; rfl
    have hedge : isEdge (modSub lp (locked s.dev.clk.slot) s.dev) lp = false := he
    unfold lockIn
    show (if showsFresh (sub (modSub lp (locked s.dev.clk.slot) s.dev) lp) && !isEdge (modSub lp (locked s.dev.clk.slot) s.dev) lp then
      restartCounts lp (modSub lp (locked s.dev.clk.slot) s.dev) else modSub lp (locked s.dev.clk.slot) s.dev) = _
    rw [hshow, hedge, showsFresh]
    simp
  have hf : portTrained lp s.dev = laterSteps (modSub lp (fun p => { p with state := .aligning }) (lockIn lp s.dev)) := by
    unfold portTrained
    dsimp only
    rw [if_neg, hst, he]
    · rfl
    · simpa [hen, hex, hw] using hrate
  rw [hlock] at hf
  refine exec_quiet (c := .portTrained lp) rfl (wf_lp hlp) hl.1 hf ((calm_laterSteps _).quiet (quiet_modSub (by rfl) ?_))
  have hq : (modSub lp (locked s.dev.clk.slot) s.dev).quiet := quiet_modSub (by rfl) hl.2
  split
  · exact quiet_restartCounts hq
  · exact hq

theorem exec_linkSignalLoss_aligning {s : State} {lp : Nat} (hl : s.live) (hlp : lp < 256) (hst : (sub s.dev lp).state = .aligning) :
    exec (.linkSignalLoss lp) s = .next { s with
      dev := modSub lp (fun p => { p with state := .training }) (modSub lp (fun p => { p with lock := false }) s.dev) } := by
  refine exec_quiet (c := .linkSignalLoss lp) rfl (wf_lp hlp) hl.1 ?_ (quiet_modSub (by rfl) (quiet_modSub (by rfl) hl.2))
  unfold signalLoss
  dsimp only
  rw [hst]

theorem exec_linkSignalLoss_service {s : State} {lp : Nat} (hl : s.live) (hlp : lp < 256) (hst : (sub s.dev lp).state = .service) :
    exec (.linkSignalLoss lp) s = .next { s with
      dev := settle (scoreEvent 4 1 (lp / 4) (modSub lp (fun p => { p with state := .hold, holdCount := 0, cause := .signal, unreach := false })
        (modSub lp (fun p => { p with lock := false }) s.dev))) } := by
  refine exec_settle (c := .linkSignalLoss lp) rfl (wf_lp hlp) hl.1 ?_
  unfold signalLoss
  dsimp only
  rw [hst]
  rfl

theorem exec_fecUncorrectable {s : State} {lp i : Nat} (hl : s.live) (hlp : lp < 256) (hi : i < 512) (he : isEdge s.dev lp = false) :
    exec (.fecUncorrectable lp (some i)) s = .next { s with
      dev := settle (modLink lp (fun l => if l.loss then l else { l with loss := true, replayDue := true })
        (scoreEvent 3 0 i (count 1 2 1 { masters := [mPort lp] } (cause 0 s.dev)))) } := by
  have hok : wellFormed (.fecUncorrectable lp (some i)) = true := by
    show (decide (lp < 256) && decide (i < 512)) = true
    simp [hlp, hi]
  have hedge : isEdge (scoreEvent 3 0 i (count 1 2 1 { masters := [mPort lp] } (cause 0 s.dev))) lp = false := by
    rw [(regsFrom_scoreEvent 3 0 i _).isEdge hlp, (regsFrom_count 1 2 1 _ _).isEdge hlp]
    exact he
  refine exec_settle (c := .fecUncorrectable lp (some i)) rfl hok hl.1 ?_
  unfold fecLoss
  dsimp only
  rw [hedge]
  rfl

end Sys2Proof.Machine
open Sys2Proof Sys2Proof.Machine

/-- Settles O14: each transition of Table 4.17 by the lemma of its command. -/
theorem portStates : Obligations.PortStates := by
  intro s p v hl hp hr
  have hlt : ∀ lp, lp / 4 = p → lp < 256 := fun lp h => by omega
  refine ⟨fun r w hoff hreg hw hsh => exec_portEnable v hl hp hr hoff hreg hw hsh, exec_portDisable v hl hp hr, ?_, ?_, ?_, ?_⟩
  · rintro lp hlp hen hex hrate hw he hst e rfl
    exact exec_portTrained hl (hlt lp hlp) hen hex hrate hw he hst
  · exact fun lp hlp hst => exec_linkSignalLoss_aligning hl (hlt lp hlp) hst
  · intro lp hlp hst
    rw [← hlp]
    exact exec_linkSignalLoss_service hl (hlt lp hlp) hst
  · exact fun lp i hlp hi he => exec_fecUncorrectable hl (hlt lp hlp) hi he

end

section
/-! SUPPORT. Units a fabric sub-port receives and transmits (R36, R104, R106 to R109, R111). -/

set_option Elab.async false

namespace Sys2Proof.Machine

open Sys2Proof

/-! ### Units received -/

theorem modLink_congr {lp : Nat} {f g : Link → Link} {d : Dev} (h : f (sub d lp).link = g (sub d lp).link) :
    modLink lp f d = modLink lp g d := by
  unfold modLink modSub
  dsimp only
  rw [h]

section
variable {s : State} {lp : Nat} {u : Bytes}

/-- What a link knows of its neighbour's grants after a unit (R107). -/
def grantsAfter (u : Bytes) (l : Link) : Tab Nat :=
  if uCvc u < 5 then tput l.known (uCvc u) (extendGrant (tgetD l.known (uCvc u) 0) (uGrant u)) else l.known

/-- The device that has heard a unit's grant and ack. -/
def heard (lp : Nat) (u : Bytes) (d : Dev) : Dev :=
  modLink lp (fun l => { l with known := grantsAfter u (sub d lp).link, acked := uAck u }) d

/-- A link that need not resume its replay takes the grant and the ack alone. -/
theorem unitLink_noResume {l : Link} (h : l.resume = false) :
    unitLink u l = { l with known := grantsAfter u l, acked := uAck u } := by
  unfold unitLink grantsAfter
  dsimp only
  split <;> simp [h]

theorem unitCommon_heard {d : Dev} (h : (sub d lp).link.resume = false) : unitCommon lp u d = heard lp u d := by
  rw [unitCommon_eq]
  exact modLink_congr (unitLink_noResume h)

theorem sub_heard (d : Dev) :
    sub (heard lp u d) lp = { sub d lp with link := { (sub d lp).link with known := grantsAfter u (sub d lp).link, acked := uAck u } } :=
  sub_modLink_self _ _ _

theorem recvCell_expected {d : Dev} (hr : (sub d lp).link.resume = false) (hq : uSeq u = (sub d lp).link.expect) :
    recvCell lp u d = acceptCell lp (slice (uBody u) 0 32) (slice (uBody u) 32 512)
      (modLink lp (fun l => { l with expect := (l.expect + 1) % 2 ^ 18, loss := false, replayDue := false }) (heard lp u d)) := by
  unfold recvCell
  rw [unitCommon_heard hr]
  exact if_pos (by rw [sub_heard]; exact hq)

theorem recvCell_ahead {d : Dev} (hr : (sub d lp).link.resume = false) (hq : uSeq u ≠ (sub d lp).link.expect)
    (ha : ahead (uSeq u) (sub d lp).link.expect = true) : recvCell lp u d = detectLoss lp (heard lp u d) := by
  unfold recvCell
  rw [unitCommon_heard hr]
  exact (if_neg (by rw [sub_heard]; exact hq)).trans (if_pos (by rw [sub_heard]; exact ha))

theorem recvCell_behind {d : Dev} (hr : (sub d lp).link.resume = false) (hq : uSeq u ≠ (sub d lp).link.expect)
    (ha : ahead (uSeq u) (sub d lp).link.expect = false) : recvCell lp u d = heard lp u d := by
  unfold recvCell
  rw [unitCommon_heard hr]
  exact (if_neg (by rw [sub_heard]; exact hq)).trans (if_neg (by rw [sub_heard]; simp [ha]))

theorem recvOther_heard {d : Dev} (hr : (sub d lp).link.resume = false) (ha : ahead (uSeq u) (sub d lp).link.expect = false) :
    recvOther lp u d = heard lp u d := by
  unfold recvOther
  rw [unitCommon_heard hr]
  exact if_neg (by rw [sub_heard]; simp [ha])

/-- A first REPLAY that names a unit still held starts the replay there (R109). -/
theorem recvReplay_held {d : Dev} (hr : (sub d lp).link.resume = false) (ha : ahead (uSeq u) (sub d lp).link.expect = false)
    (hseen : (sub d lp).link.replaySeen = none) (hheld : (sub d lp).link.replay.any (fun x => x.1 == (uAck u + 1) % 2 ^ 18) = true)
    (hnext : (uAck u + 1) % 2 ^ 18 ≠ (sub d lp).link.seqNext) (hlim : 0 < fld d 0x100018 0 4) :
    recvReplay lp u d = modLink lp (fun l => { l with replayAt := some ((uAck u + 1) % 2 ^ 18) })
      (modLink lp (fun l => { l with replaySeen := some ((uAck u + 1) % 2 ^ 18, 1) }) (heard lp u d)) := by
  have hfld : fld (modLink lp (fun l => { l with replaySeen := some ((uAck u + 1) % 2 ^ 18, 1) }) (heard lp u d)) 0x100018 0 4
      = fld d 0x100018 0 4 := rfl
  unfold recvReplay
  dsimp only
  rw [recvOther_heard hr ha, sub_heard]
  dsimp only
  rw [hseen]
  dsimp only
  rw [hfld, hheld, if_neg]
  · refine modLink_congr ?_
    rw [sub_modLink_self, sub_heard]
    dsimp only
    rw [if_neg hnext]
  · simp only [Bool.not_true, Bool.false_eq_true, and_false, false_or, not_lt]
    exact hlim

/-! A unit that a sub-port takes goes to the rule of its type (R101). -/

theorem recvUnit_cell {d : Dev} (hup : linkUp d lp = true) (hok : unitOk u = true) (ht : uType u = 0) :
    recvUnit lp u d = recvCell lp u d := by simp [recvUnit, hup, hok, ht]
theorem recvUnit_replay {d : Dev} (hup : linkUp d lp = true) (hok : unitOk u = true) (ht : uType u = 3) :
    recvUnit lp u d = recvReplay lp u d := by simp [recvUnit, hup, hok, ht]
theorem recvUnit_other {d : Dev} (hup : linkUp d lp = true) (hok : unitOk u = true) (ht : uType u = 1 ∨ uType u = 4) :
    recvUnit lp u d = recvOther lp u d := by
  rcases ht with ht | ht <;> simp [recvUnit, hup, hok, ht]

theorem replayRepeat_loss {d : Dev} (h : (sub d lp).link.loss = true) :
    replayRepeat lp d = modLink lp (fun l => { l with replayDue := true }) d := modLink_congr (if_pos h)

end

/-! ### Units transmitted -/

theorem trimStage_empty {lp v n : Nat} {d : Dev} (h : staged d lp v = []) : trimStage lp v n d = d := by
  cases n with
  | zero => rfl
  | succ n => rw [trimStage, h]

theorem trimAll_empty {lp : Nat} {d : Dev} (h : ∀ v, v < 6 → staged d lp v = []) :
    each (List.range 6) (fun v d => trimStage lp v 33 d) d = d := by
  have hmem : ∀ l : List Nat, (∀ v ∈ l, staged d lp v = []) → each l (fun v d => trimStage lp v 33 d) d = d := fun l => by
    induction l with
    | nil => exact fun _ => rfl
    | cons v l ih =>
      intro hl
      show each l _ (trimStage lp v 33 d) = d
      rw [trimStage_empty (hl v List.mem_cons_self)]
      exact ih fun w hw => hl w (List.mem_cons_of_mem v hw)
  exact hmem _ fun v hv => h v (List.mem_range.1 hv)

theorem eligible_empty {lp v : Nat} {d : Dev} (h : staged d lp v = []) : eligible d lp v = none := by
  unfold eligible
  rw [h]

/-- The unit without a cell that a link sends next. -/
def unitOf (ty : Nat) (body : Bytes) (l : Link) : Bytes :=
  mkUnit ty (nextGrant l).1 (nextGrant l).2.1 (l.replayAt.getD l.seqNext) ((l.expect + 2 ^ 18 - 1) % 2 ^ 18) body

/-- A unit without a cell sent, and the link's note of it. -/
def sentUnit (lp ty : Nat) (body : Bytes) (f : Link → Link) (d : Dev) : Dev := modLink lp f (sendUnit lp ty body d)

theorem sub_sentUnit (lp ty : Nat) (body : Bytes) (f : Link → Link) (d : Dev) :
    sub (sentUnit lp ty body f d) lp = { sub d lp with
      lastTx := unitOf ty body (sub d lp).link, link := f { (sub d lp).link with changed := (nextGrant (sub d lp).link).2.2 } } := by
  rw [sentUnit, sub_modLink_self, sendUnit, sub_modSub_self]
  rfl

theorem sentUnit_rest (lp ty : Nat) (body : Bytes) (f : Link → Link) (d : Dev) : Only [.subs] d (sentUnit lp ty body f d) :=
  (only_modLink _ _ _).after (only_modSub _ _ d)

theorem quiet_sentUnit {lp ty : Nat} {body : Bytes} {f : Link → Link} {d : Dev} (h : d.quiet) : (sentUnit lp ty body f d).quiet :=
  quiet_modLink (quiet_modSub (by rfl) h)

/-- A unit opportunity with nothing staged (R104). -/
theorem unitOpp_idle {lp : Nat} {d : Dev} (hup : linkUp d lp = true) (h : ∀ v, v < 6 → staged d lp v = []) :
    unitOpp lp d =
      if adaptSlot d ∧ (sub d lp).link.adaptSent < adaptUnits d lp then
        count 1 3 1 { masters := [mPort lp] } (sentUnit lp 4 [] (fun l => { l with adaptSent := l.adaptSent + 1 }) d)
      else if !(sub d lp).link.markerSent then
        let x := sentUnit lp 2 (markerBody d lp) (fun l => { l with markerSent := true, vc4Sent := l.vc4Sent + 1 }) d
        if x.clk.slot < 86 then x else { x with free := x.free + 1 }
      else if !((sub d lp).state == .service) then sendUnit lp 1 [] d
      else if (sub d lp).link.replayDue then
        count 2 3 1 { masters := [mPort lp] } (sentUnit lp 3 [] (fun l => { l with replayDue := false }) d)
      else match (sub d lp).link.replayAt with
        | some s => sendReplayed lp s d
        | none => sendQueued lp d := by
  unfold unitOpp
  have hnone : (if (sub d lp).state == .service then eligible d lp 5 else none) = none := by
    rw [eligible_empty (h 5 (by decide))]
    exact ite_self none
  simp only [hup, trimAll_empty h, hnone, Bool.not_true, Bool.false_eq_true, if_false]
  rfl

section
variable {s : State} {lp : Nat}

theorem exec_unitOpportunity {x : Dev} (hl : s.live) (hlp : lp < 256) (hf : unitOpp lp s.dev = x) (hq : x.quiet) :
    exec (.unitOpportunity lp) s = .next { s with dev := x } :=
  exec_quiet (c := .unitOpportunity lp) rfl (wf_lp hlp) hl.1 hf hq

theorem exec_unitOpportunity_adapt (hl : s.live) (hlp : lp < 256) (hup : linkUp s.dev lp = true)
    (hst : ∀ v, v < 6 → staged s.dev lp v = []) (hc : s.dev.countsOff 1) (ha : adaptSlot s.dev = true)
    (hn : (sub s.dev lp).link.adaptSent < adaptUnits s.dev lp) :
    ∃ d, exec (.unitOpportunity lp) s = .next { s with dev := d } ∧ (sub d lp).lastTx = unitOf 4 [] (sub s.dev lp).link
      ∧ (sub d lp).link.adaptSent = (sub s.dev lp).link.adaptSent + 1 ∧ d.sw = s.dev.sw ∧ d.regs = s.dev.regs := by
  have hrest := sentUnit_rest lp 4 [] (fun l => { l with adaptSent := l.adaptSent + 1 }) s.dev
  have hoff : (sentUnit lp 4 [] (fun l => { l with adaptSent := l.adaptSent + 1 }) s.dev).countsOff 1 := by
    rw [Dev.countsOff, hrest.rg]; exact hc
  refine ⟨_, exec_unitOpportunity hl hlp ?_ (quiet_sentUnit hl.2), ?_, ?_, hrest.sw, hrest.regs⟩
  · rw [unitOpp_idle hup hst, if_pos ⟨ha, hn⟩, count_off _ _ _ _ _ hoff]
  · rw [sub_sentUnit]
  · rw [sub_sentUnit]

theorem exec_unitOpportunity_marker (hl : s.live) (hlp : lp < 256) (hup : linkUp s.dev lp = true)
    (hst : ∀ v, v < 6 → staged s.dev lp v = []) (ha : adaptSlot s.dev = false) (hm : (sub s.dev lp).link.markerSent = false) :
    ∃ d, exec (.unitOpportunity lp) s = .next { s with dev := d }
      ∧ (sub d lp).lastTx = unitOf 2 (markerBody s.dev lp) (sub s.dev lp).link ∧ (sub d lp).link.markerSent = true
      ∧ (sub d lp).link.vc4Sent = (sub s.dev lp).link.vc4Sent + 1 ∧ d.sw = s.dev.sw ∧ d.regs = s.dev.regs := by
  generalize hx : sentUnit lp 2 (markerBody s.dev lp) (fun l => { l with markerSent := true, vc4Sent := l.vc4Sent + 1 }) s.dev = x
  have hrest : Only [.subs] s.dev x := hx ▸ sentUnit_rest _ _ _ _ _
  have hsub : sub x lp = { sub s.dev lp with
      lastTx := unitOf 2 (markerBody s.dev lp) (sub s.dev lp).link
      link := { (sub s.dev lp).link with changed := (nextGrant (sub s.dev lp).link).2.2,
                                         markerSent := true, vc4Sent := (sub s.dev lp).link.vc4Sent + 1 } } := by
    rw [← hx, sub_sentUnit]
  have hq : x.quiet := hx ▸ quiet_sentUnit hl.2
  have hf : unitOpp lp s.dev = if x.clk.slot < 86 then x else { x with free := x.free + 1 } := by
    rw [unitOpp_idle hup hst, if_neg (by simp [ha]), if_pos (by simp [hm]), hx]
  by_cases h86 : x.clk.slot < 86
  · rw [if_pos h86] at hf
    exact ⟨x, exec_unitOpportunity hl hlp hf hq, by rw [hsub], by rw [hsub], by rw [hsub], hrest.sw, hrest.regs⟩
  · rw [if_neg h86] at hf
    have hsame : sub { x with free := x.free + 1 } lp = sub x lp := rfl
    exact ⟨_, exec_unitOpportunity hl hlp hf hq, by rw [hsame, hsub], by rw [hsame, hsub], by rw [hsame, hsub], hrest.sw, hrest.regs⟩

theorem exec_unitOpportunity_replay (hl : s.live) (hlp : lp < 256) (hup : linkUp s.dev lp = true)
    (hst : ∀ v, v < 6 → staged s.dev lp v = []) (hc : s.dev.countsOff 2) (ha : adaptSlot s.dev = false)
    (hm : (sub s.dev lp).link.markerSent = true) (hsv : (sub s.dev lp).state = .service)
    (hr : (sub s.dev lp).link.replayDue = true) :
    ∃ d, exec (.unitOpportunity lp) s = .next { s with dev := d } ∧ (sub d lp).lastTx = unitOf 3 [] (sub s.dev lp).link
      ∧ (sub d lp).link.replayDue = false ∧ d.sw = s.dev.sw ∧ d.regs = s.dev.regs := by
  have hrest := sentUnit_rest lp 3 [] (fun l => { l with replayDue := false }) s.dev
  have hoff : (sentUnit lp 3 [] (fun l => { l with replayDue := false }) s.dev).countsOff 2 := by
    rw [Dev.countsOff, hrest.rg]; exact hc
  refine ⟨_, exec_unitOpportunity hl hlp ?_ (quiet_sentUnit hl.2), ?_, ?_, hrest.sw, hrest.regs⟩
  · rw [unitOpp_idle hup hst, if_neg (by simp [ha]), if_neg (by simp [hm]), if_neg (by simp [hsv]), if_pos hr,
      count_off _ _ _ _ _ hoff]
  · rw [sub_sentUnit]
  · rw [sub_sentUnit]

end

end Sys2Proof.Machine
open Sys2Proof Sys2Proof.Machine

/-- Settles O16: a unit taken goes to the rule of its type, and each rule begins with what `heard` says. -/
theorem linkUnits : Obligations.LinkUnits := by
  intro s lp u hp hlp hup hok hr l k h
  have hlp := wf_lp hlp
  refine ⟨fun ht hq => ?_, fun ht hq ha => ?_, fun ht hq ha => ?_, fun ht ha => ?_, fun ht ha hseen hheld hnext hlim => ?_, fun hloss => ?_⟩
  · exact exec_settle (c := .cellUnitReceive lp u) rfl hlp hp ((recvUnit_cell hup hok ht).trans (recvCell_expected hr hq))
  · exact exec_settle (c := .cellUnitReceive lp u) rfl hlp hp ((recvUnit_cell hup hok ht).trans (recvCell_ahead hr hq ha))
  · exact exec_settle (c := .cellUnitReceive lp u) rfl hlp hp ((recvUnit_cell hup hok ht).trans (recvCell_behind hr hq ha))
  · exact exec_settle (c := .idleAdaptUnitReceive lp u) rfl hlp hp ((recvUnit_other hup hok ht).trans (recvOther_heard hr ha))
  · exact exec_settle (c := .replayReceive lp u) rfl hlp hp
      ((recvUnit_replay hup hok ht).trans (recvReplay_held hr ha hseen hheld hnext hlim))
  · exact exec_settle (c := .replayRepeat lp) rfl hlp hp (replayRepeat_loss hloss)

/-- Settles O17: with nothing staged a unit opportunity takes the branch of `unitOpp_idle` that its slot and its link's state name. -/
theorem unitOpportunities : Obligations.UnitOpportunities := by
  intro s lp hl hlp hup hst l hdr hc1 hc2
  exact ⟨exec_unitOpportunity_adapt hl hlp hup hst hc1, exec_unitOpportunity_marker hl hlp hup hst,
    exec_unitOpportunity_replay hl hlp hup hst hc2⟩

end

section
/-! SUPPORT. The crossbar slot (R139, R141, R144) and the lending of buffers (R147 to R155). -/

set_option Elab.async false

namespace Sys2Proof.Machine

open Sys2Proof

/-! ### The crossbar slot -/

/-- The device in cycle of crossbar slot `x`, none removed before it. -/
def atSlot (x : Nat) (d : Dev) : Dev := { d with clk := { d.clk with now := max d.clk.now (d.clk.swStart + 6 * x) } }

/-- The end of a slot: the index moves on, and a Swath whose last slot has passed is marked so. -/
def endSlot (x : Nat) (d : Dev) : Dev :=
  if slotAfter d x ≤ x then modTel (fun y => { y with once := (31, 0) :: y.once }) { d with clk := { d.clk with slot := slotAfter d x } }
  else { d with clk := { d.clk with slot := slotAfter d x } }

/-- A slot of a Swath that lost none: the held pairs cross, then the matching due, and the next matching begins. -/
theorem crossbarSlot_due {d d2 : Dev} {m : List (Nat × Nat × Nat × Nat)} {rest : List (List (Nat × Nat × Nat × Nat))}
    (honce : d.tel.once.contains (31, 0) = false) (hrem : d.clk.removed = none)
    (h2 : d2 = each (heldAt (atSlot d.clk.slot d) d.clk.slot) crossHeld (atSlot d.clk.slot d)) (hf : d2.sw.flight = m :: rest) :
    crossbarSlot d = endSlot d.clk.slot (beginMatch (each m crossPair (modSw (fun w => { w with flight := rest }) d2))) := by
  obtain ⟨⟨swc, slot, ns, len, removed⟩⟩ := d
  dsimp only at hrem
  subst hrem
  dsimp only [atSlot] at h2
  unfold crossbarSlot
  rw [if_neg (by rw [honce]; decide)]
  dsimp only
  rw [← h2, hf]
  dsimp only [endSlot]

theorem exec_crossbarSlot {s : State} {d2 : Dev} {m : List (Nat × Nat × Nat × Nat)} {rest : List (List (Nat × Nat × Nat × Nat))}
    (hp : s.dev.boot.power = .on) (honce : s.dev.tel.once.contains (31, 0) = false) (hrem : s.dev.clk.removed = none)
    (h2 : d2 = each (heldAt (atSlot s.dev.clk.slot s.dev) s.dev.clk.slot) crossHeld (atSlot s.dev.clk.slot s.dev))
    (hf : d2.sw.flight = m :: rest) :
    exec .crossbarSlot s = .next { s with
      dev := settle (endSlot s.dev.clk.slot (beginMatch (each m crossPair (modSw (fun w => { w with flight := rest }) d2)))) } :=
  exec_settle (c := .crossbarSlot) rfl rfl hp (crossbarSlot_due honce hrem h2 hf)

/-! ### Buffers lent -/

@[simp] theorem relevel_use (d : Dev) : (relevel d).bpm.use = d.bpm.use := by
  unfold relevel
  dsimp only
  refine (each_fixes (v := fun d => d.bpm.use) _ (fun i _ x => ?_) _).trans rfl
  split
  · rfl
  · rw [(only_postEvent _ _ _).bpm]
    rfl

theorem useOf_relevel (d : Dev) (o : Nat) : useOf (relevel d) o = useOf d o := by rw [useOf, relevel_use, ← useOf]

/-- Below its minimum an owner is lent of its own part: no tie, no count. -/
theorem charge_own {o : Nat} {d : Dev} (h : (useOf d o).p0 < ownMin d o) :
    charge o false d = relevel (setUse o { useOf d o with p0 := (useOf d o).p0 + 1 }
      (modBpm (fun b => { b with turn := tput b.turn (rqSlot o) (ownPort o) }) d)) := by
  have hown : (!false && decide (ownMin d o ≤ (useOf d o).p0)) = false := by simp [h]
  unfold charge
  dsimp only
  rw [hown]
  rfl

theorem useOf_setUse_self (o : Nat) (u : Use) (d : Dev) : useOf (setUse o u d) o = u := tgetD_tput_self _ _ _ _
theorem useOf_setUse_ne {o o' : Nat} (h : o ≠ o') (u : Use) (d : Dev) : useOf (setUse o u d) o' = useOf d o' :=
  tgetD_tput_ne _ _ _ _ _ h

theorem tieServe_own {o : Nat} {d : Dev} (h : (useOf d o).p0 < ownMin d o) : tieServe o d = d := by
  unfold tieServe
  split
  · exact if_pos (.inr h)
  · rfl

theorem tieServe_none {o : Nat} {d : Dev} (h : tieWinner d (rqSlot o) = none) : tieServe o d = d := by
  unfold tieServe
  rw [h]

theorem lend_own {o : Nat} {a : Asker} {d : Dev} (h : (useOf d o).p0 < ownMin d o) (hp : p0Used d < p0Cells) :
    lend o a d = (some false, charge o false d) := by
  have hfrom : lendFrom d o a = some false := if_pos ⟨h, hp⟩
  unfold lend
  rw [hfrom]

section
variable {s : State} {lp vc : Nat}

/-- A link's note of a credit lent from P0 (R149). -/
def lentLink (vc : Nat) (l : Link) : Link :=
  { l with lent := tput l.lent vc (tgetD l.lent vc 0 + 1), lentSpill := l.lentSpill
           granted := tput l.granted vc ((tgetD l.granted vc 0 + 1) % 65536)
           changed := if l.changed.contains vc then l.changed else l.changed ++ [vc] }

theorem wantsCredit_of {d : Dev} (he : isEdge d lp = false) (hst : (sub d lp).state ∈ [PortState.aligning, .service, .hold])
    (hlent : tgetD (sub d lp).link.lent vc 0 < fld d 0x1C0014 0 12) : wantsCredit d lp vc = true := by
  have hlend : lendsCredits d lp = true := by
    unfold lendsCredits
    simp only [List.mem_cons, List.not_mem_nil, or_false] at hst
    rcases hst with h | h | h <;> simp [he, h]
  simp [wantsCredit, hlend, hlent]

theorem creditLend_own {d : Dev} (hw : wantsCredit d lp vc = true) (hmin : (useOf d (ownExt lp vc)).p0 < ownMin d (ownExt lp vc))
    (hp : p0Used d < p0Cells) : creditLend lp vc d = modLink lp (lentLink vc) (charge (ownExt lp vc) false d) := by
  unfold creditLend
  rw [hw, if_pos rfl, tieServe_own hmin]
  unfold lendCredit
  rw [hw, lend_own hmin hp]
  rfl

theorem exec_creditLend (hl : s.live) (hlp : lp < 256) (hvc : vc < 5) (he : isEdge s.dev lp = false)
    (hst : (sub s.dev lp).state ∈ [PortState.aligning, .service, .hold])
    (hlent : tgetD (sub s.dev lp).link.lent vc 0 < fld s.dev 0x1C0014 0 12)
    (hmin : (useOf s.dev (ownExt lp vc)).p0 < ownMin s.dev (ownExt lp vc)) (hp : p0Used s.dev < p0Cells) :
    ∃ d, exec (.creditLend lp vc) s = .next { s with dev := d }
      ∧ tgetD (sub d lp).link.lent vc 0 = tgetD (sub s.dev lp).link.lent vc 0 + 1
      ∧ tgetD (sub d lp).link.granted vc 0 = (tgetD (sub s.dev lp).link.granted vc 0 + 1) % 65536
      ∧ vc ∈ (sub d lp).link.changed ∧ (useOf d (ownExt lp vc)).p0 = (useOf s.dev (ownExt lp vc)).p0 + 1
      ∧ (∀ o, o ≠ ownExt lp vc → useOf d o = useOf s.dev o) ∧ (∀ l, l ≠ lp → sub d l = sub s.dev l)
      ∧ d.tab = s.dev.tab ∧ d.sw = s.dev.sw := by
  have hframe := only_charge (ownExt lp vc) false s.dev
  have hlink := only_modLink lp (lentLink vc) (charge (ownExt lp vc) false s.dev)
  have hsub : sub (modLink lp (lentLink vc) (charge (ownExt lp vc) false s.dev)) lp
      = { sub s.dev lp with link := lentLink vc (sub s.dev lp).link } := by rw [sub_modLink_self, hframe.sub]
  have huse : ∀ o, useOf (modLink lp (lentLink vc) (charge (ownExt lp vc) false s.dev)) o
      = useOf (setUse (ownExt lp vc) { useOf s.dev (ownExt lp vc) with p0 := (useOf s.dev (ownExt lp vc)).p0 + 1 } s.dev) o := fun o => by
    rw [useOf, hlink.bpm, ← useOf, charge_own hmin, useOf_relevel]
    rfl
  refine ⟨_, exec_quiet (c := .creditLend lp vc) rfl ?_ hl.1 (creditLend_own (wantsCredit_of he hst hlent) hmin hp)
    (quiet_modLink (hframe.calm.quiet hl.2)), ?_, ?_, ?_, ?_, fun o ho => ?_, fun l hne => ?_, hlink.tab.trans hframe.tab,
    hlink.sw.trans hframe.sw⟩
  · show (decide (lp < 256) && decide (vc < 5)) = true
    simp [hlp, hvc]
  · rw [hsub]; exact tgetD_tput_self _ _ _ _
  · rw [hsub]; exact tgetD_tput_self _ _ _ _
  · rw [hsub]
    show vc ∈ if (sub s.dev lp).link.changed.contains vc then _ else _
    split
    · next h => simpa using h
    · simp
  · rw [huse, useOf_setUse_self]
  · rw [huse, useOf_setUse_ne ho.symm]
  · rw [modLink, sub_modSub_ne _ _ _ _ hne.symm, hframe.sub]

theorem exec_bufferLendRetry {x : Nat} (hl : s.live) (hx : 64 ≤ x) (hx' : x < 87) (hvc : vc < 5)
    (ht : tieWinner s.dev (rqSlot (ownInt x vc)) = none) :
    exec (.bufferLendRetry x vc) s = .next { s with
      dev := settle (each ((s.dev.sw.tx.filter (fun p => p.2.fr.xport == x && vcOf s.dev p.2.fr == vc)).map (·.1)) tryTx s.dev) } := by
  refine exec_settle (c := .bufferLendRetry x vc) rfl ?_ hl.1 ?_
  · show (decide (64 ≤ x) && decide (x < 87) && decide (vc < 5)) = true
    simp [hx, hx', hvc]
  · unfold lendRetry
    dsimp only
    rw [tieServe_none ht, ite_self]

/-! ### BPM_MODE (R154, R155) -/

/-- The mode is SERVICE, and no change waits. -/
def inService (d : Dev) : Dev := modBpm (fun b => { b with mode := 3, pending := false }) d

theorem postMode_inService (d : Dev) : postMode (inService d) = postEvent 0xC (toLE 1 3 ++ toLE 1 0) (inService d) := rfl

theorem exec_bpmSpillDrained (hl : s.live) (hpend : s.dev.bpm.pending = true) (hp1 : p1Used s.dev = 0) :
    exec .bpmSpillDrained s = .next { s with dev := postEvent 0xC (toLE 1 3 ++ toLE 1 0) (inService s.dev) } :=
  exec_calm (c := .bpmSpillDrained) rfl rfl hl ((if_pos ⟨hpend, hp1⟩).trans (postMode_inService s.dev))
    ((calm_modBpm _ _).then (calm_postEvent _ _ _))

theorem spare_bpmMode (v : Nat) (d : Dev) : spare 0x1C0000 v d = v := by
  simp [spare, regOf, regBpm, r32, rw, ro]

theorem writeReg_bpmMode {v : Nat} {d : Dev} (hr : d.boot.recovery = false) (hn : deviceNow d 0x1C0000 = false) :
    writeReg 0x1C0000 v d = writeMode (BitVec.ofNat 2 v) d := by
  unfold writeReg
  simp [spare_bpmMode, hr, hn]

theorem writeMode_service {d : Dev} (hp1 : p1Used d = 0) (hm : d.bpm.mode ≠ 3) : writeMode 3 d = postMode (inService d) := by
  have hnot : ¬ ((inService d).bpm.mode = d.bpm.mode ∧ (inService d).bpm.pending = d.bpm.pending) := fun h => hm h.1.symm
  unfold writeMode
  dsimp only
  rw [if_pos rfl, if_pos hp1]
  exact if_neg hnot

theorem exec_bpmModeWrite (v : BitVec 32) (hl : s.live) (hr : s.dev.boot.recovery = false) (hn : deviceNow s.dev 0x1C0000 = false)
    (hp1 : p1Used s.dev = 0) (hv : v.toNat % 4 = 3) (hm : s.dev.bpm.mode ≠ 3) :
    exec (.bpmModeWrite v) s = .next { s with dev := postEvent 0xC (toLE 1 3 ++ toLE 1 0) (inService s.dev) } := by
  have hthree : BitVec.ofNat 2 v.toNat = 3 := BitVec.eq_of_toNat_eq (by rw [BitVec.toNat_ofNat]; exact hv)
  refine exec_calm (c := .bpmModeWrite v) rfl rfl hl ?_ ((calm_modBpm _ _).then (calm_postEvent _ _ _))
  rw [writeReg_bpmMode hr hn, hthree, writeMode_service hp1 hm, postMode_inService]

end

end Sys2Proof.Machine
open Sys2Proof Sys2Proof.Machine

/-- Settles O19: `crossbarSlot_due`, at an inner slot and at the last. -/
theorem crossbarSlot : Obligations.CrossbarSlot := by
  intro s m rest d1 d2 d3 x hp honce hrem hx h1 h2 hf h3
  subst hx h1 h3
  have hexec := exec_crossbarSlot hp honce hrem h2 hf
  refine ⟨fun hlt => ?_, fun hle => ?_⟩
  · rw [hexec, endSlot, if_neg (by omega)]
  · rw [hexec, endSlot, if_pos hle]

/-- Settles O20: a credit below the owner's minimum is lent of its own part; the rest is what each command's rule says. -/
theorem bufferLending : Obligations.BufferLending := by
  intro s lp vc x hl hlp hvc hx hx'
  exact ⟨exec_creditLend hl hlp hvc, exec_bufferLendRetry hl hx hx' hvc, exec_bpmSpillDrained hl, fun v => exec_bpmModeWrite v hl⟩

end

section
/-! SUPPORT. The edge personality: frames in, the responder, pauses (R122, R123, R125, R127, R167). -/

set_option Elab.async false

namespace Sys2Proof.Machine

open Sys2Proof

/-! ### Parts of byte strings -/

theorem slice_mid (a b c : Bytes) {off n : Nat} (ho : off = a.length) (hn : n = b.length) : slice (a ++ b ++ c) off n = b := by
  subst ho hn
  rw [slice_left _ _ _ _ (by simp), slice_append_right]

theorem slice_head (a b : Bytes) {n : Nat} (hn : n = a.length) : slice (a ++ b) 0 n = a := by
  subst hn
  exact slice_append_left a b

theorem drop_append_at (a b : Bytes) {n : Nat} (hn : n = a.length) : (a ++ b).drop n = b := by
  subst hn
  exact List.drop_left

theorem take_append_at (a b : Bytes) {n : Nat} (hn : n = a.length) : (a ++ b).take n = a := by
  subst hn
  exact List.take_left

/-! ### Quiet edges -/

theorem edgeTry_quiet {d : Dev} (h : d.quiet) : edgeTry d = d := by
  obtain ⟨-, -, -, hsubs⟩ := h
  refine each_id _ _ d fun lp _ => ?_
  rw [(sub_edge_quiet d hsubs lp).2]
  rfl

/-- A sub-port that changes with no frame queued and no pause begun leaves a quiet device quiet. -/
theorem quiet_modSub_edge {lp : Nat} {f : SubPort → SubPort} {d : Dev} (hx : (f (sub d lp)).edge.xoff = (sub d lp).edge.xoff)
    (ho : (f (sub d lp)).edge.out = (sub d lp).edge.out) (h : d.quiet) : (modSub lp f d).quiet := by
  obtain ⟨htodo, hqueues, hrx, hsubs⟩ := h
  obtain ⟨hxoff, hout⟩ := sub_edge_quiet d hsubs lp
  refine ⟨htodo, hqueues, hrx, fun p hp => ?_⟩
  rcases mem_tput hp with rfl | hmem
  · exact ⟨hx.trans hxoff, ho.trans hout⟩
  · exact hsubs p hmem

/-- Of the steps of a list only one, taken once, changes anything. -/
theorem each_single {α : Type} {f : α → Dev → Dev} {l : List α} {a : α} (hf : ∀ b ∈ l, b ≠ a → ∀ d, f b d = d) (ha : a ∈ l)
    (hl : l.Nodup) (d : Dev) : each l f d = f a d := by
  induction l generalizing d with
  | nil => exact nomatch ha
  | cons b l ih =>
    obtain ⟨hb, hl⟩ := List.nodup_cons.1 hl
    show each l f (f b d) = f a d
    rcases List.mem_cons.1 ha with rfl | hmem
    · exact each_id l f _ fun c hc => hf c (List.mem_cons_of_mem _ hc) (fun heq => hb (heq ▸ hc)) _
    · rw [hf b List.mem_cons_self (fun heq => hb (heq ▸ hmem)) d]
      exact ih (fun c hc => hf c (List.mem_cons_of_mem _ hc)) hmem hl d

/-! ### Pauses (R125, R127) -/

/-- A sub-port whose peer pauses a priority, or ends the pause. -/
def withPaused (f : Tab Nat → Tab Nat) (p : SubPort) : SubPort := { p with edge := { p.edge with paused := f p.edge.paused } }

theorem quiet_paused {lp : Nat} {f : Tab Nat → Tab Nat} {d : Dev} (h : d.quiet) : (modSub lp (withPaused f) d).quiet :=
  quiet_modSub_edge rfl rfl h

/-- A flow control frame that enables one priority, with quanta, pauses it (R127). -/
theorem pfcTake_one {lp t : Nat} {f : Bytes} {d : Dev} (h : d.quiet) (ht : t < 8) (hen : beAt f 2 2 = 2 ^ t)
    (hq : beAt f (4 + 2 * t) 2 ≠ 0) : pfcTake lp f d = modSub lp (withPaused (fun x => tput x t (beAt f (4 + 2 * t) 2))) d := by
  unfold pfcTake
  dsimp only
  rw [each_single (a := t) (fun b _ hb x => ?_) (List.mem_range.2 ht) List.nodup_range]
  · rw [hen, Nat.testBit_two_pow_self, if_pos rfl]
    have hset : (fun p : SubPort => { p with edge := { p.edge with
        paused := if beAt f (4 + 2 * t) 2 = 0 then tdel p.edge.paused t else tput p.edge.paused t (beAt f (4 + 2 * t) 2) } })
        = withPaused (fun x => tput x t (beAt f (4 + 2 * t) 2)) := by
      funext p
      rw [if_neg hq]
      rfl
    rw [hset, edgeTry_quiet (quiet_paused h)]
  · rw [hen, Nat.testBit_two_pow_of_ne hb.symm]
    rfl

section
variable {s : State} {lp : Nat}

theorem exec_pfcFrameReceive {f : Bytes} {t q : Nat} (hl : s.live) (hlp : lp < 256) (ht : t < 8) (hen : beAt f 2 2 = 2 ^ t)
    (hq : q = beAt f (4 + 2 * t) 2) (h0 : q ≠ 0) :
    exec (.pfcFrameReceive lp f) s = .next { s with dev := modSub lp (withPaused (fun x => tput x t q)) s.dev } := by
  subst hq
  exact exec_quiet (c := .pfcFrameReceive lp f) rfl (wf_lp hlp) hl.1 (pfcTake_one hl.2 ht hen h0) (quiet_paused hl.2)

theorem exec_pfcPauseExpiry {tc : Nat} (hl : s.live) (hlp : lp < 256) (htc : tc < 8) :
    exec (.pfcPauseExpiry lp tc) s = .next { s with dev := modSub lp (withPaused (fun x => tdel x tc)) s.dev } := by
  have hq : (modSub lp (withPaused (fun x => tdel x tc)) s.dev).quiet := quiet_paused hl.2
  refine exec_quiet (c := .pfcPauseExpiry lp tc) rfl ?_ hl.1 (edgeTry_quiet hq) hq
  show (decide (lp < 256) && decide (tc < 8)) = true
  simp [hlp, htc]

theorem exec_pfcRepeat {tc : Nat} (hp : s.dev.boot.power = .on) (hlp : lp < 256) (htc : tc < 8)
    (hx : tget (sub s.dev lp).edge.xoff tc ≠ none) (hheld : xonOf s.dev lp < ingressHeld s.dev lp tc) :
    exec (.pfcRepeat lp tc) s = .next { s with dev := settle (pfcOut lp tc 0xFFFF s.dev) } := by
  refine exec_settle (c := .pfcRepeat lp tc) rfl ?_ hp (if_pos ⟨Option.isSome_iff_ne_none.2 hx, hheld⟩)
  show (decide (lp < 256) && decide (tc < 8)) = true
  simp [hlp, htc]

/-! ### Frames out -/

theorem toBE6_length (v : Nat) : (toBE 6 v).length = 6 := toBE_length 6 v
theorem ownMac_length (d : Dev) (lp : Nat) : (ownMac d lp).length = 6 := toBE_length _ _
theorem ownIp4_length (d : Dev) (lp : Nat) : (ownIp4 d lp).length = 4 := toBE_length _ _

theorem only_etherOut (lp : Nat) (f : Bytes) (d : Dev) : Only [.subs] d (etherOut lp f d) := only_modSub _ _ d
theorem quiet_etherOut {lp : Nat} {f : Bytes} {d : Dev} (h : d.quiet) : (etherOut lp f d).quiet := quiet_modSub (by rfl) h

/-- A frame as it leaves: padded to 60 bytes, its check sequence behind it (R119). -/
def framed (f : Bytes) : Bytes := f ++ zeros (60 - f.length) ++ toLE 4 (crc32 (f ++ zeros (60 - f.length)))

theorem sub_etherOut_lastTx (lp : Nat) (f : Bytes) (d : Dev) : (sub (etherOut lp f d) lp).lastTx = framed f := by
  rw [etherOut, sub_modSub_self]
  rfl

theorem framed_length {f : Bytes} (h : f.length ≤ 60) : (framed f).length = 64 := by
  simp [framed, zeros, toLE_length]
  omega

theorem framed_take (f : Bytes) {n : Nat} (h : n ≤ f.length) : (framed f).take n = f.take n := by
  rw [framed, List.append_assoc, List.take_append_of_le_length h]

theorem pfcOut_head (tc : Nat) (d : Dev) :
    (sub (pfcOut lp tc 0xFFFF d) lp).lastTx.take 18 = pfcMac ++ ownMac d lp ++ [0x88, 0x08, 0x01, 0x01] ++ toBE 2 (2 ^ tc) := by
  have hlen : (pfcMac ++ ownMac d lp ++ [0x88, 0x08, 0x01, 0x01] ++ toBE 2 (2 ^ tc)).length = 18 := by
    simp [pfcMac, ownMac_length, toBE_length]
  unfold pfcOut
  dsimp only
  rw [(only_count _ _ _ _ _).sub, sub_etherOut_lastTx, framed_take _ (by rw [List.length_append, hlen]; omega), take_append_at _ _ hlen.symm]

/-! ### Frames in (R123) -/

/-- A frame with a bad check sequence fails the first test. -/
theorem edgeReceive_bad {f : Bytes} {d : Dev} (he : isEdge d lp = true) (hst : (sub d lp).state = .service)
    (hbad : toLE 4 (crc32 (f.take (f.length - 4))) ≠ f.drop (f.length - 4)) :
    edgeReceive lp f d = count 2 6 1 { masters := [mPort lp] } (tally 16 lp d) := by
  unfold edgeReceive
  rw [if_neg (by simp [he, hst])]
  exact if_pos (by simp [hbad])

theorem exec_edgeFrameReceive_bad {f : Bytes} (hl : s.live) (hlp : lp < 256) (he : isEdge s.dev lp = true)
    (hst : (sub s.dev lp).state = .service) (hbad : toLE 4 (crc32 (f.take (f.length - 4))) ≠ f.drop (f.length - 4)) :
    exec (.edgeFrameReceive lp f) s = .next { s with dev := count 2 6 1 { masters := [mPort lp] } (tally 16 lp s.dev) } :=
  exec_calm (c := .edgeFrameReceive lp f) rfl (wf_lp hlp) hl (edgeReceive_bad he hst hbad)
    ((only_tally 16 lp s.dev).calm.then (calm_count _ _ _ _ _))

/-- The answer to an ARP request for the own address (R122). -/
def arpReply (lp : Nat) (smac arp : Bytes) (d : Dev) : Bytes :=
  smac ++ ownMac d lp ++ [0x08, 0x06, 0x00, 0x01, 0x08, 0x00, 0x06, 0x04, 0x00, 0x02] ++ ownMac d lp ++ ownIp4 d lp ++ slice arp 8 6
    ++ slice arp 14 4

theorem arpReply_length {smac : Bytes} (arp : Bytes) (d : Dev) (h : smac.length = 6) : (arpReply lp smac arp d).length = 42 := by
  simp [arpReply, h, ownMac_length, ownIp4_length, slice_length]

/-- A broadcast ARP request for the own address is answered. -/
theorem edgeTyped_arp {smac arp : Bytes} {tc : Nat} {d : Dev} (h4 : ip4Valid d lp = true)
    (hask : slice arp 0 8 = [0x00, 0x01, 0x08, 0x00, 0x06, 0x04, 0x00, 0x01]) (hip : slice arp 24 4 = ownIp4 d lp) :
    edgeTyped lp bcastMac smac tc 0x0806 false arp d = etherOut lp (arpReply lp smac arp d) d := by
  have hanswer : arpAnswer lp smac arp d = etherOut lp (arpReply lp smac arp d) d := if_pos (by simp [h4, hask, hip])
  unfold edgeTyped
  simp [hanswer]

/-- The bytes a frame in adds to its sub-port's count (R458). -/
def takenBytes (n : Nat) (p : SubPort) : SubPort := { p with bytes := (p.bytes.1 + n, p.bytes.2) }

/-- A good untagged frame goes by its type. -/
theorem edgeReceive_good {dmac smac ty rest : Bytes} {d : Dev} (he : isEdge d lp = true) (hst : (sub d lp).state = .service)
    (hd : dmac.length = 6) (hs : smac.length = 6) (ht : ty.length = 2) (htag : beNat ty ≠ 0x8100) (hr : 46 ≤ rest.length)
    (hr' : rest.length ≤ 9198) :
    edgeReceive lp ((dmac ++ smac ++ ty ++ rest) ++ toLE 4 (crc32 (dmac ++ smac ++ ty ++ rest))) d
      = edgeTyped lp dmac smac (defPrio d lp) (beNat ty) false rest (modSub lp (takenBytes (18 + rest.length)) d) := by
  have hlen : (dmac ++ smac ++ ty ++ rest).length = 14 + rest.length := by simp [hd, hs, ht]; omega
  have hdst : slice (dmac ++ smac ++ ty ++ rest) 0 6 = dmac := by
    rw [List.append_assoc, List.append_assoc]; exact slice_head _ _ hd.symm
  have hsrc : slice (dmac ++ smac ++ ty ++ rest) 6 6 = smac := by
    rw [List.append_assoc (dmac ++ smac)]; exact slice_mid _ _ _ hd.symm hs.symm
  have htype : beAt (dmac ++ smac ++ ty ++ rest) 12 2 = beNat ty := by
    rw [beAt, slice_mid (dmac ++ smac) ty rest (by simp [hd, hs]) ht.symm]
  have hrest : (dmac ++ smac ++ ty ++ rest).drop 14 = rest := drop_append_at _ _ (by simp [hd, hs, ht])
  generalize dmac ++ smac ++ ty ++ rest = b at *
  have hfull : (b ++ toLE 4 (crc32 b)).length - 4 = b.length := by simp [toLE_length]
  have htake : (b ++ toLE 4 (crc32 b)).take b.length = b := take_append_at _ _ rfl
  have hdrop : (b ++ toLE 4 (crc32 b)).drop b.length = toLE 4 (crc32 b) := drop_append_at _ _ rfl
  have hn : (b ++ toLE 4 (crc32 b)).length = 18 + rest.length := by simp [toLE_length, hlen]; omega
  unfold edgeReceive
  dsimp only
  rw [hfull, htake, hdrop, hn, hdst, hsrc, htype, hrest, if_neg (by simp [he, hst]), if_neg (by simp; omega), if_neg htag]
  rfl

theorem exec_edgeFrameReceive_arp {f smac arp : Bytes} (hl : s.live) (hlp : lp < 256) (he : isEdge s.dev lp = true)
    (hst : (sub s.dev lp).state = .service) (hs : smac.length = 6) (ha : arp.length = 46)
    (hf : f = (bcastMac ++ smac ++ [0x08, 0x06] ++ arp) ++ toLE 4 (crc32 (bcastMac ++ smac ++ [0x08, 0x06] ++ arp)))
    (h4 : ip4Valid s.dev lp = true) (hask : slice arp 0 8 = [0x00, 0x01, 0x08, 0x00, 0x06, 0x04, 0x00, 0x01])
    (hip : slice arp 24 4 = ownIp4 s.dev lp) :
    ∃ d, exec (.edgeFrameReceive lp f) s = .next { s with dev := d } ∧ (sub d lp).lastTx.take 42 = arpReply lp smac arp s.dev
      ∧ (sub d lp).lastTx.length = 64 ∧ d.sw = s.dev.sw ∧ d.tab = s.dev.tab := by
  have hlen := arpReply_length (lp := lp) arp s.dev hs
  have hcount := only_modSub lp (takenBytes (18 + arp.length)) s.dev
  have hout := only_etherOut lp (arpReply lp smac arp s.dev) (modSub lp (takenBytes (18 + arp.length)) s.dev)
  have hrecv : edgeReceive lp f s.dev = etherOut lp (arpReply lp smac arp s.dev) (modSub lp (takenBytes (18 + arp.length)) s.dev) := by
    rw [hf, edgeReceive_good he hst (by rfl) hs (by rfl) (by decide) (by omega) (by omega)]
    exact edgeTyped_arp (d := modSub lp (takenBytes (18 + arp.length)) s.dev) h4 hask hip
  refine ⟨_, exec_quiet (c := .edgeFrameReceive lp f) rfl (wf_lp hlp) hl.1 hrecv (quiet_etherOut (quiet_modSub (by rfl) hl.2)), ?_, ?_,
    hout.sw.trans hcount.sw, hout.tab.trans hcount.tab⟩
  · rw [sub_etherOut_lastTx, framed_take _ hlen.ge, List.take_of_length_le hlen.le]
  · rw [sub_etherOut_lastTx, framed_length (by omega)]

theorem exec_reassemblyDeadline {n : Nat} {r : Reasm} (hp : s.dev.boot.power = .on) (hr : s.dev.sw.reasm[n]? = some r)
    (hlate : isLate s.dev r.dl = true) :
    exec (.reassemblyDeadline n) s = .next { s with dev := settle (dropReasm r s.dev) } := by
  refine exec_settle (c := .reassemblyDeadline n) rfl rfl hp ?_
  unfold reasmTimeout
  rw [hr]
  exact if_pos hlate

end

end Sys2Proof.Machine
open Sys2Proof Sys2Proof.Machine

/-- Settles O21: each command by its lemma; the ARP request passes the tests of R123 by its parts. -/
theorem edgeFrames : Obligations.EdgeFrames := by
  refine ⟨fun s lp hl hlp => ?_, fun s lp tc hp hlp htc hx hheld => ⟨exec_pfcRepeat hp hlp htc hx hheld, pfcOut_head tc s.dev⟩⟩
  exact ⟨fun f => exec_edgeFrameReceive_bad hl hlp,
    fun f smac arp he hst hs ha hf h4 hask hip => exec_edgeFrameReceive_arp hl hlp he hst hs ha hf h4 hask hip,
    fun f t q ht hen hq h0 => exec_pfcFrameReceive hl hlp ht hen hq h0, fun tc => exec_pfcPauseExpiry hl hlp,
    fun n r => exec_reassemblyDeadline hl.1⟩

end

section
/-! SUPPORT. What an admission refuses, and the deadline of what it admits (R44, R49, R53, R65, R76, R420). -/

set_option Elab.async false

namespace Sys2Proof.Machine

open Sys2Proof

/-- A frame whose look-up goes by its destination, to an EID that is neither reserved nor fenced. -/
structure Looked (d : Dev) (fr : Frame) : Prop where
  direct : fr.direct = none
  furrow : fr.furrow = none
  reserved : reservedEid fr.dst = false
  member : fr.dst ∉ d.hlt.eids

theorem admitFrame_reserved {d : Dev} {fr : Frame} (hd : fr.direct = none) (h : reservedEid fr.dst = true) :
    admitFrame d fr = .refuse 0x10 0 := by
  simp [admitFrame, hd, h]

theorem admitFrame_fenced {d : Dev} {fr : Frame} (hd : fr.direct = none) (h : reservedEid fr.dst = false) (hm : fr.dst ∈ d.hlt.eids) :
    admitFrame d fr = .refuse 4 0 := by
  simp [admitFrame, hd, h, hm]

section
variable {d : Dev} {fr : Frame} {e : EptEntry} (hl : Looked d fr)
include hl

theorem admitFrame_noEntry (he : tget d.tab.ept fr.dst = none) : admitFrame d fr = .refuse 4 0 := by
  obtain ⟨hd, hf, hr, hm⟩ := hl
  simp [admitFrame, hd, hf, hr, hm, he]

section
variable (he : tget d.tab.ept fr.dst = some e)
include he

theorem admitFrame_noGroup (hmc : e.mcast = true) (hg : tget d.tab.groups e.idx = none) : admitFrame d fr = .refuse 4 0 := by
  obtain ⟨hd, hf, hr, hm⟩ := hl
  simp [admitFrame, hd, hf, hr, hm, he, hmc, hg]

theorem admitFrame_groupClass {g : Group} (hmc : e.mcast = true) (hg : tget d.tab.groups e.idx = some g)
    (ht : e.tcMask.testBit fr.tc = false) : admitFrame d fr = .refuse 4 0 := by
  obtain ⟨hd, hf, hr, hm⟩ := hl
  simp [admitFrame, hd, hf, hr, hm, he, hmc, hg, ht]

theorem admitFrame_groupTc {g : Group} (hmc : e.mcast = true) (hg : tget d.tab.groups e.idx = some g)
    (ht : e.tcMask.testBit fr.tc = true) (htc : g.tc ≠ fr.tc) : admitFrame d fr = .refuse 0x10 0 := by
  obtain ⟨hd, hf, hr, hm⟩ := hl
  simp [admitFrame, hd, hf, hr, hm, he, hmc, hg, ht, htc]

theorem admitFrame_class (hmc : e.mcast = false) (ht : e.tcMask.testBit fr.tc = false) : admitFrame d fr = .refuse 4 0 := by
  obtain ⟨hd, hf, hr, hm⟩ := hl
  simp [admitFrame, hd, hf, hr, hm, he, hmc, ht]

/-- A unicast frame of a class its entry permits, not too long for an edge: its path decides, then its fence, then its budget. -/
theorem admitFrame_path {pi base : Nat} (hmc : e.mcast = false) (ht : e.tcMask.testBit fr.tc = true)
    (hlen : e.kind ≠ 4 ∨ cellsOf fr.data.length ≤ 16)
    (hslot : (pi, base) = e.slots.getD (flowHash fr.src fr.dst fr.label % e.slots.length) (0, 0)) :
    admitFrame d fr = match tget d.tab.paths pi with
      | none => .refuse 4 0
      | some p =>
        if p.down || !firstHopOk d p then .refuse 4 0
        else if (match e.fence with
            | some old => old.getD (flowHash fr.src fr.dst fr.label % old.length) pi != pi
            | none => false) then .hold
        else admitBudget d fr p.hops (p.nhop - 1) (linksOf p) p.delay false (base + popCount fr.tc e.tcMask) (vcOf d fr) := by
  obtain ⟨hd, hf, hr, hm⟩ := hl
  have hshort : edgeTooLong d fr = false := by
    rcases hlen with h | h
    · simp [edgeTooLong, he, h]
    · simp [edgeTooLong, h]
  unfold admitFrame
  simp only [hd, hf, hr, he, hmc, ht, hshort, ← hslot, List.contains_eq_mem, hm, decide_false, Bool.false_eq_true, if_false,
    Bool.not_true] <;> rfl

variable {pi base : Nat} (hmc : e.mcast = false) (ht : e.tcMask.testBit fr.tc = true)
  (hlen : e.kind ≠ 4 ∨ cellsOf fr.data.length ≤ 16)
  (hslot : (pi, base) = e.slots.getD (flowHash fr.src fr.dst fr.label % e.slots.length) (0, 0))
include hmc ht hlen hslot

theorem admitFrame_noPath (hp : tget d.tab.paths pi = none) : admitFrame d fr = .refuse 4 0 := by
  rw [admitFrame_path hl he hmc ht hlen hslot, hp]

section
variable {p : PathEntry} (hp : tget d.tab.paths pi = some p)
include hp

theorem admitFrame_pathOut (h : p.down = true ∨ firstHopOk d p = false) : admitFrame d fr = .refuse 4 0 := by
  rw [admitFrame_path hl he hmc ht hlen hslot, hp]
  exact if_pos (by rcases h with h | h <;> simp [h])

theorem admitFrame_budget (hdown : p.down = false) (hhop : firstHopOk d p = true) (hfence : e.fence = none) (hvc : vcOf d fr ≠ 4) :
    admitFrame d fr = match tget d.tab.budgets (base + popCount fr.tc e.tcMask) with
      | none => .refuse 0x10 0
      | some b =>
        if !b.vcMask.testBit (vcOf d fr) then .refuse 0x10 0
        else if b.burst < cellsOf fr.data.length then .refuse 1 0
        else admitWith d fr p.hops (p.nhop - 1) (linksOf p) p.delay false (some (base + popCount fr.tc e.tcMask)) (some b.rate)
          (vcOf d fr) := by
  rw [admitFrame_path hl he hmc ht hlen hslot, hp, hfence]
  exact (if_neg (by simp [hdown, hhop])).trans ((if_neg Bool.false_ne_true).trans (if_neg hvc))

end
end
end

/-- What is admitted carries its route, its budget and the deadline of R49. -/
theorem admitWith_ok {d : Dev} {fr : Frame} {hops : Bytes} {cnt h delay rate vc q bi : Nat} (hq : seqFor d fr = .ok q) :
    ∃ a, admitWith d fr hops cnt h delay false (some bi) (some rate) vc = .ok a ∧ a.vc = vc ∧ a.budget = some bi ∧ a.hops = hops
      ∧ a.nhop = cnt ∧ a.dl = (d.clk.swc.toNat % 65536 + 2 * h + 1 + ceilDiv (cellsOf fr.data.length) rate
        + ceilDiv (delay + 8 * h) d.clk.nsNow) % 65536 := by
  unfold admitWith
  rw [hq]
  exact ⟨_, rfl, rfl, rfl, rfl, rfl, rfl⟩

end Sys2Proof.Machine
open Sys2Proof Sys2Proof.Machine

/-- Settles O22: the checks of R65 in their order, each by its lemma; what passes them all by `admitWith_ok`. -/
theorem admissionRules : Obligations.AdmissionRules := by
  intro d fr hd hf
  refine ⟨admitFrame_reserved hd, admitFrame_fenced hd, fun hr hm => ?_⟩
  have hl : Looked d fr := ⟨hd, hf, hr, hm⟩
  refine ⟨admitFrame_noEntry hl, fun e he hmc => ⟨admitFrame_noGroup hl he hmc, fun g hg =>
    ⟨admitFrame_groupClass hl he hmc hg, admitFrame_groupTc hl he hmc hg⟩⟩, fun e he hmc => ⟨admitFrame_class hl he hmc, ?_⟩⟩
  intro ht hlen pi base hslot
  refine ⟨admitFrame_noPath hl he hmc ht hlen hslot, fun p hp => ⟨fun h => admitFrame_pathOut hl he hmc ht hlen hslot hp (.inl h),
    fun _ h => admitFrame_pathOut hl he hmc ht hlen hslot hp (.inr h), fun hdown hhop hfence hvc bi hbi => ?_⟩⟩
  subst hbi
  have hadmit := admitFrame_budget hl he hmc ht hlen hslot hp hdown hhop hfence hvc
  refine ⟨fun hb => by rw [hadmit, hb], fun b hb => ?_⟩
  rw [hb] at hadmit
  refine ⟨fun hv => ?_, fun hv hk => ?_, fun hv hk q hq => ?_⟩
  · rw [hadmit]; exact if_pos (by simp [hv])
  · rw [hadmit]; exact (if_neg (by simp [hv])).trans (if_pos hk)
  · have hpass := hadmit.trans ((if_neg (by simp [hv])).trans (if_neg (not_lt.2 hk)))
    rw [hpass]
    exact admitWith_ok hq

end

section
/-! SUPPORT. An entry that waits and is tried again (R375); the Endpoint Table's commands (R64, R83, R84). -/

set_option Elab.async false

namespace Sys2Proof.Machine

open Sys2Proof

/-! ### Entries tried again -/

/-- A waiting entry of a ring stops waiting for its Swath boundary. -/
theorem only_unslow_sq (q : Nat) (e : Bytes) (d : Dev) : Only [.ring] d (unslow (sqCmd q e) d) := by
  unfold unslow
  split
  · exact only_modSq q _ d
  · exact .refl _ d

section
variable {c : Instr} {q : Nat} {e : Bytes} {s : State} {a x : Dev} {f : Cmd → Bytes → Dev → Res} {test : Bytes → Bool}

theorem retries_q (h : s.dev.retries q e a) : q < 64 := h.1

/-- Acceptance of an entry that waited. -/
theorem retries_only (h : s.dev.retries q e a) : Only [.regs, .tel, .ring] s.dev a := by
  obtain ⟨-, -, -, -, -, -, -, -, rfl, -⟩ := h
  exact (only_accept_sq q e _).after (only_unslow_sq q e s.dev).in

/-- What trying a waiting entry again comes to. -/
theorem retryEntry_runs (h : s.dev.retries q e a) (ht : test e = true) (hf : cmdOf (opOf e) (modeOf e) = some f) :
    retryEntry q test s.dev = match f (sqCmd q e) e a with
      | .done st de r d => complete (sqCmd q e) st de r d
      | .run d => d
      | .wait d => d := by
  obtain ⟨-, -, hon, hwait, hframe, hfree, hrec, hslow, rfl, hnot⟩ := h
  have hboundary : (isSlow (sqCmd q e) s.dev && decide (s.dev.clk.now ≠ s.dev.clk.swStart)) = false := by
    cases hx : isSlow (sqCmd q e) s.dev
    · rfl
    · simp [hslow hx]
  have hrec' : (unslow (sqCmd q e) s.dev).boot.recovery = false := by rw [(only_unslow_sq q e s.dev).boot]; exact hrec
  have hrun : retryEntry q test s.dev = runCmd (sqCmd q e) e s.dev := by
    unfold retryEntry
    rw [hwait]
    exact if_pos (by simp [ht, hon, hframe, hfree])
  rw [hrun]
  unfold runCmd
  rw [if_neg (by rw [hboundary]; decide)]
  dsimp only
  rw [if_neg (by rw [hrec']; exact Bool.false_ne_true), hf]
  dsimp only
  split
  · next y hy => exact absurd hy (hnot f y hf)
  · rfl

/-- A waiting entry whose command begins and ends at once. -/
theorem exec_retry_done {st de r : Nat} (hexec : exec c s = act c settle (retryEntry q test) s) (hw : wellFormed c = true)
    (hl : s.live) (hr : s.dev.retries q e a) (ht : test e = true) (hf : cmdOf (opOf e) (modeOf e) = some f)
    (hd : f (sqCmd q e) e a = .done st de r x) (hc : Calm a x) :
    exec c s = .next { s with dev := complete (sqCmd q e) st de r x } := by
  refine exec_calm hexec hw hl ?_ (((retries_only hr).calm.then hc).then (calm_complete_sq q e st de r x))
  rw [retryEntry_runs hr ht hf, hd]

/-- A waiting entry whose command begins and goes on. -/
theorem exec_retry_settle (hexec : exec c s = act c settle (retryEntry q test) s) (hw : wellFormed c = true) (hl : s.live)
    (hr : s.dev.retries q e a) (ht : test e = true) (hf : cmdOf (opOf e) (modeOf e) = some f)
    (hd : f (sqCmd q e) e a = .run x) : exec c s = .next { s with dev := settle x } :=
  exec_settle hexec hw hl.1 (by rw [retryEntry_runs hr ht hf, hd])

theorem exec_retry_run (hexec : exec c s = act c settle (retryEntry q test) s) (hw : wellFormed c = true) (hl : s.live)
    (hr : s.dev.retries q e a) (ht : test e = true) (hf : cmdOf (opOf e) (modeOf e) = some f)
    (hd : f (sqCmd q e) e a = .run x) (hc : Calm a x) : exec c s = .next { s with dev := x } :=
  exec_calm hexec hw hl (by rw [retryEntry_runs hr ht hf, hd]) ((retries_only hr).calm.then hc)

end

/-! ### EPT_SET -/

section
variable {q : Nat} {e : Bytes} {a : Dev} {m : EptImg}

/-- The peers after an EPT_SET: a record an EDGE image brings is written at its index. -/
def peersAfter (m : EptImg) (t : Tab Bytes) : Tab Bytes :=
  match m.peer with
  | some r => tput t m.e.idx r
  | none => t

/-- The entry an EPT_SET writes (R83): the epoch rises, and the old paths stay known, when the paths change under frames. -/
def entryAfter (old : Option EptEntry) (n : EptEntry) : EptEntry :=
  match old with
  | none => n
  | some o =>
    if o.slots.map (·.1) = n.slots.map (·.1) then { n with epoch := o.epoch, lastD := o.lastD }
    else { n with epoch := (o.epoch + 1) % 256, lastD := o.lastD, fence := if o.lastD.isSome then some (o.slots.map (·.1)) else none }

theorem entryAfter_idx (old : Option EptEntry) (n : EptEntry) : (entryAfter old n).idx = n.idx := by
  unfold entryAfter
  split
  · rfl
  · split <;> rfl

/-- The device with an entry written, its command counted. -/
def withEntrySet (m : EptImg) (old : Option EptEntry) (a : Dev) : Dev :=
  count 4 4 1 { priv := some 1 } (modTab (fun t => { t with ept := tput t.ept m.eid (entryAfter old m.e), peers := peersAfter m t.peers }) a)

theorem calm_withEntrySet (m : EptImg) (old : Option EptEntry) (a : Dev) : Calm a (withEntrySet m old a) :=
  (calm_modTab _ a).then (calm_count _ _ _ _ _)

/-- The image of an entry starts a new epoch. -/
theorem eptImage_epoch {c : Cmd} {p : Nat} (h : eptImage c p a = some m) : m.e.epoch = 0 := by
  unfold eptImage at h
  split at h
  · exact nomatch h
  · obtain ⟨-, h⟩ := Option.ite_none_left_eq_some.1 h
    obtain ⟨-, h⟩ := Option.ite_none_left_eq_some.1 h
    obtain ⟨-, h⟩ := Option.ite_none_left_eq_some.1 h
    split at h
    · exact nomatch h
    · obtain ⟨-, h⟩ := Option.ite_none_left_eq_some.1 h
      injection h with h
      subst h
      rfl

/-- An image that passes its checks, with no fence and room for its references, is written. -/
theorem cmdEptSet_ok (hplain : plainOk e [(16, 8)] = true) (himg : eptImage (sqCmd q e) (leAt e 16 8) a = some m)
    {old : Option EptEntry} (hold : tget a.tab.ept m.eid = old) (hfence : ∀ o, old = some o → o.fence = none)
    (hrefs : m.e.slots.any (fun x => decide (65535 < refsOf a x.1 + slotUses m.e.slots x.1
      - slotUses ((old.map (·.slots)).getD []) x.1)) = false)
    (hroom : old = none → a.tab.ept.length < 524288) :
    cmdEptSet (sqCmd q e) e a = .done 0 0 (entryAfter old m.e).epoch (withEntrySet m old a) := by
  subst hold
  unfold cmdEptSet
  rw [hplain, himg]
  dsimp only
  rw [if_neg (by decide), if_neg, hrefs, if_neg (by decide), if_neg]
  · cases ho : tget a.tab.ept m.eid with
    | none => rfl
    | some o =>
      unfold withEntrySet entryAfter peersAfter
      dsimp only
      split <;> rfl
  · simp only [Bool.and_eq_true, decide_eq_true_eq, Option.isNone_iff_eq_none]
    exact fun h => absurd (hroom h.1) (by omega)
  · cases ho : tget a.tab.ept m.eid with
    | none => exact Bool.false_ne_true
    | some o =>
      show ¬ o.fence.isSome = true
      rw [hfence o ho]
      exact Bool.false_ne_true

variable {s : State}

theorem exec_eptSet (hl : s.live) (hb : s.dev.begins q e a) (ho : opOf e = 0x30) (hm : modeOf e = 0)
    (hplain : plainOk e [(16, 8)] = true) (himg : eptImage (sqCmd q e) (leAt e 16 8) a = some m)
    {old : Option EptEntry} (hold : tget a.tab.ept m.eid = old) (hfence : ∀ o, old = some o → o.fence = none)
    (hrefs : m.e.slots.any (fun x => decide (65535 < refsOf a x.1 + slotUses m.e.slots x.1
      - slotUses ((old.map (·.slots)).getD []) x.1)) = false)
    (hroom : old = none → a.tab.ept.length < 524288) :
    exec (.eptSet q e) s = .next { s with dev := (withEntrySet m old a).completed q e 0 (entryAfter old m.e).epoch } :=
  exec_row_done (c := .eptSet q e) rfl (rowOperands_ok hb) hl hb ho hm rfl (cmdEptSet_ok hplain himg hold hfence hrefs hroom)
    (calm_withEntrySet m old a)

/-! ### EPT_CLEAR -/

theorem retryTo_none {d : Dev} (eid : Nat) (h : d.sw.tx = []) : retryTo eid d = d := by
  unfold retryTo
  rw [h]
  rfl

theorem exec_eptClear (hl : s.live) (hb : s.dev.begins q e a) (ho : opOf e = 0x31) (hm : modeOf e = 0)
    (hplain : plainOk e [(16, 3)] = true) (hres : reservedEid (leAt e 16 3) = false) (htx : a.sw.tx = []) :
    exec (.eptClear q e) s = .next { s with
      dev := (modTab (fun t => { t with ept := tdel t.ept (leAt e 16 3) }) a).completed q e 0 0 } := by
  refine exec_row_done (c := .eptClear q e) rfl (rowOperands_ok hb) hl hb ho hm rfl ?_ (calm_modTab _ a)
  unfold cmdEptClear
  dsimp only
  rw [if_neg (by simp [hplain, hm, hres])]
  exact congrArg okRes (retryTo_none (d := modTab _ a) _ htx)

end

end Sys2Proof.Machine
open Sys2Proof Sys2Proof.Machine

/-- Settles O23: a new entry, one whose paths stay and one whose paths change are the three cases of `entryAfter`. -/
theorem eptCommands : Obligations.EptCommands := by
  intro s q e a hl hb
  refine ⟨fun m ps ho hm hplain himg hps => ?_, exec_eptClear hl hb⟩
  have hpeers : ps = peersAfter m a.tab.peers := hps
  subst hpeers
  refine ⟨fun hold hrefs hroom => ?_, fun o hold hfence hrefs => ⟨fun hsame => ?_, fun hmoved => ?_⟩⟩
  · have hset := exec_eptSet hl hb ho hm hplain himg hold (fun _ h => nomatch h) hrefs (fun _ => hroom)
    unfold withEntrySet entryAfter at hset
    dsimp only at hset
    rw [eptImage_epoch himg] at hset
    exact hset
  · have hset := exec_eptSet hl hb ho hm hplain himg hold (by rintro _ ⟨⟩; exact hfence) hrefs (fun h => nomatch h)
    unfold withEntrySet entryAfter at hset
    dsimp only at hset
    rw [if_pos hsame] at hset
    exact hset
  · have hset := exec_eptSet hl hb ho hm hplain himg hold (by rintro _ ⟨⟩; exact hfence) hrefs (fun h => nomatch h)
    unfold withEntrySet entryAfter at hset
    dsimp only at hset
    rw [if_neg hmoved] at hset
    exact hset

end

section
/-! SUPPORT. The Path Store's commands (R67 to R75). -/

set_option Elab.async false

namespace Sys2Proof.Machine

open Sys2Proof

/-! ### Images a command of a ring reads -/

/-- An image in host memory, at a multiple of 64, is what stands there (R85). -/
theorem image_sq (q : Nat) (e : Bytes) {p : Nat} (n : Nat) (d : Dev) (h : p % 64 = 0) : image (sqCmd q e) p n d = some (hostRead d p n) :=
  if_pos h

theorem zeroBits_of_eq {v lo w : Nat} (h : bits v lo w = 0) : zeroBits v lo w = true := by
  unfold zeroBits
  rw [h]
  rfl

/-! ### PATH_SET -/

section
variable {q : Nat} {e : Bytes} {a : Dev} {p n : Nat} {b full : Bytes}

/-- The path an image of `n` hops describes (Table 3.3). -/
def pathOfImage (b full : Bytes) (n : Nat) : PathEntry :=
  { hops := slice b 0 16, nhop := n, down := false, delay := bits (leAt b 16 8) 16 16,
    node2 := if n < 2 then none else ((nodeRecs full n).map (·.node))[1]? }

/-- What a PATH_SET WRITE answers once its image has passed the checks of its form: the order of R71 and R72's refusals. -/
def pathVerdict (i : Nat) (b full : Bytes) (n : Nat) (d : Dev) : Res :=
  if refsOf d i ≠ 0 then busyRes d
  else if !hopsOk d (slice b 0 16) n || !deadlineOk d (linksOf (pathOfImage b full n)) (bits (leAt b 16 8) 16 16) then bad d
  else if !turnOk d (nodeRecs full n) (isInner (byteAt (slice b 0 16) (n - 1))) then .done 0x10 1 0 d
  else if !nodesOk d (slice b 0 16) n (nodeRecs full n) then .done 0x10 2 0 d
  else okRes (modTab (fun t => { t with paths := tput t.paths i (pathOfImage b full n) }) d)

theorem cmdPathWrite_verdict (hplain : plainOk e [(16, 2), (24, 8)] = true) (hp : leAt e 24 8 = p) (halign : p % 64 = 0)
    (hb : hostRead a p 24 = b) (hn : bits (leAt b 16 8) 0 4 + 1 = n) (hfull : hostRead a p (24 + 8 * n) = full)
    (hz : bits (leAt b 16 8) 4 12 = 0) (hz' : bits (leAt b 16 8) 32 32 = 0) (hrecs : recsOk a full n = true) :
    cmdPathWrite (sqCmd q e) e a = pathVerdict (leAt e 16 2) b full n a := by
  subst hp hn
  unfold cmdPathWrite
  dsimp only
  rw [image_sq q e 24 a halign, hb]
  dsimp only
  rw [image_sq q e _ a halign, hfull]
  dsimp only
  exact if_neg (by simp [hplain, zeroBits_of_eq hz, zeroBits_of_eq hz', hrecs])

theorem pathVerdict_busy {i : Nat} (h : refsOf a i ≠ 0) : pathVerdict i b full n a = busyRes a := if_pos h

section
variable {i : Nat} (hfree : refsOf a i = 0) (hhops : hopsOk a (slice b 0 16) n = true)
  (hdl : deadlineOk a (linksOf (pathOfImage b full n)) (bits (leAt b 16 8) 16 16) = true)
include hfree hhops hdl

theorem pathVerdict_turn (ht : turnOk a (nodeRecs full n) (isInner (byteAt (slice b 0 16) (n - 1))) = false) :
    pathVerdict i b full n a = .done 0x10 1 0 a := by
  unfold pathVerdict
  rw [if_neg (not_not.2 hfree), if_neg (by simp [hhops, hdl])]
  exact if_pos (by rw [ht]; rfl)

theorem pathVerdict_nodes (ht : turnOk a (nodeRecs full n) (isInner (byteAt (slice b 0 16) (n - 1))) = true)
    (hk : nodesOk a (slice b 0 16) n (nodeRecs full n) = false) : pathVerdict i b full n a = .done 0x10 2 0 a := by
  unfold pathVerdict
  rw [if_neg (not_not.2 hfree), if_neg (by simp [hhops, hdl]), if_neg (by simp [ht])]
  exact if_pos (by rw [hk]; rfl)

theorem pathVerdict_ok (ht : turnOk a (nodeRecs full n) (isInner (byteAt (slice b 0 16) (n - 1))) = true)
    (hk : nodesOk a (slice b 0 16) n (nodeRecs full n) = true) : pathVerdict i b full n a
      = .done 0 0 0 (modTab (fun t => { t with paths := tput t.paths i (pathOfImage b full n) }) a) := by
  unfold pathVerdict
  rw [if_neg (not_not.2 hfree), if_neg (by simp [hhops, hdl]), if_neg (by simp [ht])]
  exact if_neg (by simp [hk])

end

variable {i : Nat} {r : PathEntry}

theorem cmdPathMark_ok (down : Bool) (hplain : plainOk e [(16, 2)] = true) (hr : tget a.tab.paths (leAt e 16 2) = some r) :
    cmdPathMark down e a
      = .done 0 0 0 (modTab (fun t => { t with paths := tput t.paths (leAt e 16 2) { r with down := down } }) a) := by
  unfold cmdPathMark
  dsimp only
  rw [if_neg (by simp [hplain]), hr]
  rfl

theorem cmdPathClear_ok (hplain : plainOk e [(16, 2)] = true) (hfree : refsOf a (leAt e 16 2) = 0) :
    cmdPathClear e a = .done 0 0 0 (modTab (fun t => { t with paths := tdel t.paths (leAt e 16 2) }) a) := by
  unfold cmdPathClear
  dsimp only
  rw [if_neg (by simp [hplain])]
  exact if_neg (not_not.2 hfree)

theorem cmdPathClear_busy (hplain : plainOk e [(16, 2)] = true) (hused : refsOf a (leAt e 16 2) ≠ 0) :
    cmdPathClear e a = .done 2 0 0 a := by
  unfold cmdPathClear
  dsimp only
  rw [if_neg (by simp [hplain])]
  exact if_pos hused

end

end Sys2Proof.Machine
open Sys2Proof Sys2Proof.Machine

/-- Settles O24: `pathVerdict` is the order in which a WRITE's checks answer. -/
theorem pathCommands : Obligations.PathCommands := by
  intro s q e a hl hb ho
  have hok := rowOperands_ok hb
  refine ⟨fun adr b w n full p hm hplain hadr halign hbytes hw hn hfull hz hz' hrecs hp => ?_, fun i r hplain hi hr => ?_⟩
  · subst hw hp
    have hv := cmdPathWrite_verdict (q := q) hplain hadr.symm halign hbytes.symm hn.symm hfull.symm hz hz' hrecs
    refine ⟨fun hused => ?_, fun hfree hhops hdl => ⟨fun ht => ?_, fun ht hk => ?_, fun ht hk => ?_⟩⟩
    · exact exec_row_done (c := .pathSetWrite q e) rfl hok hl hb ho hm rfl (hv.trans (pathVerdict_busy hused)) (Calm.rfl' a)
    · exact exec_row_done (c := .pathSetWrite q e) rfl hok hl hb ho hm rfl (hv.trans (pathVerdict_turn hfree hhops hdl ht)) (Calm.rfl' a)
    · exact exec_row_done (c := .pathSetWrite q e) rfl hok hl hb ho hm rfl (hv.trans (pathVerdict_nodes hfree hhops hdl ht hk)) (Calm.rfl' a)
    · exact exec_row_done (c := .pathSetWrite q e) rfl hok hl hb ho hm rfl (hv.trans (pathVerdict_ok hfree hhops hdl ht hk))
        (calm_modTab _ a)
  · subst hi
    refine ⟨fun hm => ?_, fun hm => ?_, fun hm hfree => ?_, fun hm hused => ?_⟩
    · exact exec_row_done (c := .pathSetMarkDown q e) rfl hok hl hb ho hm rfl (cmdPathMark_ok true hplain hr) (calm_modTab _ a)
    · exact exec_row_done (c := .pathSetMarkUp q e) rfl hok hl hb ho hm rfl (cmdPathMark_ok false hplain hr) (calm_modTab _ a)
    · exact exec_row_done (c := .pathSetClear q e) rfl hok hl hb ho hm rfl (cmdPathClear_ok hplain hfree) (calm_modTab _ a)
    · exact exec_row_done (c := .pathSetClear q e) rfl hok hl hb ho hm rfl (cmdPathClear_busy hplain hused) (Calm.rfl' a)

end

section
/-! SUPPORT. Multicast groups and budgets (R46, R76, R79, R80). -/

set_option Elab.async false

namespace Sys2Proof.Machine

open Sys2Proof

section
variable {q : Nat} {e : Bytes} {a : Dev}

/-! ### MCAST_SET -/

/-- The 32 target words of a group image. -/
def targetWords (b : Bytes) : List Nat := (List.range 32).map (fun i => leAt b (8 + 4 * i) 4)

theorem targetWords_reserved {b : Bytes} (h : ∀ i, i < 32 → bits (leAt b (8 + 4 * i) 4) 12 11 = 0) :
    (targetWords b).all (fun x => zeroBits x 12 11) = true := by
  simp only [targetWords, List.all_map, List.all_eq_true, List.mem_range, Function.comp_apply]
  exact fun i hi => zeroBits_of_eq (h i hi)

theorem targetWords_rest {b : Bytes} {n : Nat} (h : ∀ i, n ≤ i → i < 32 → leAt b (8 + 4 * i) 4 = 0) :
    ((targetWords b).drop n).all (· == 0) = true := by
  simp only [List.all_eq_true, beq_iff_eq]
  intro x hx
  obtain ⟨i, hi, rfl⟩ := List.mem_iff_getElem.1 hx
  simp only [targetWords, List.length_drop, List.length_map, List.length_range] at hi
  simp only [targetWords, List.getElem_drop, List.getElem_map, List.getElem_range]
  exact h (n + i) (by omega) (by omega)

/-- The group an image describes (Table 3.6). -/
def groupOfImage (b : Bytes) : Group :=
  { tc := bits (leAt b 0 8) 8 3, budget := bits (leAt b 0 8) 16 16, h := bits (leAt b 0 8) 32 4, delay := bits (leAt b 0 8) 48 16,
    targets := groupTargets b (bits (leAt b 0 8) 1 6) }

theorem cmdMcastWrite_ok {b : Bytes} (hplain : plainOk e [(16, 2), (24, 8)] = true) (halign : leAt e 24 8 % 64 = 0)
    (hb : hostRead a (leAt e 24 8) 144 = b) (hn : bits (leAt b 0 8) 1 6 ≤ 32) (heven : leAt b 0 8 % 2 = 0) (h7 : bits (leAt b 0 8) 7 1 = 0)
    (h11 : bits (leAt b 0 8) 11 5 = 0) (h36 : bits (leAt b 0 8) 36 12 = 0) (hend : leAt b 136 8 = 0)
    (hres : (targetWords b).all (fun x => zeroBits x 12 11) = true)
    (hrest : ((targetWords b).drop (bits (leAt b 0 8) 1 6)).all (· == 0) = true)
    (hdl : deadlineOk a (groupOfImage b).h (groupOfImage b).delay = true) (htar : (groupOfImage b).targets.all (targetOk a) = true) :
    cmdMcastWrite (sqCmd q e) e a
      = .done 0 0 0 (modTab (fun t => { t with groups := tput t.groups (leAt e 16 2) (groupOfImage b) }) a) := by
  unfold cmdMcastWrite
  rw [image_sq q e 144 a halign, hb]
  dsimp only
  unfold targetWords at hres hrest
  unfold groupOfImage at hdl htar
  refine if_neg ?_
  rw [hplain, zeroBits_of_eq h7, zeroBits_of_eq h11, zeroBits_of_eq h36, hres, hrest, hdl, htar]
  simp [heven, hend, hn]

theorem cmdMcastClear_ok (hplain : plainOk e [(16, 2)] = true) :
    cmdMcastClear e a = .done 0 0 0 (modTab (fun t => { t with groups := tdel t.groups (leAt e 16 2) }) a) :=
  if_neg (by simp [hplain])

/-! ### BUDGET_SET -/

theorem calm_waitBudget (i : Nat) (c : BudgetChange) (d : Dev) : Calm d (waitBudget i c d) := calm_modTab _ d

theorem cmdBudgetWrite_ok {w : Nat} (hplain : plainOk e [(16, 2), (24, 8)] = true) (hw : leAt e 24 8 = w)
    (hrate : within 1 32768 (bits w 0 16) = true) (hburst : within 1 256 (bits w 16 9) = true) (hvcs : bits w 42 4 ≠ 0)
    (h28 : bits w 28 4 = 0) (h39 : bits w 39 1 = 0) (h46 : bits w 46 18 = 0)
    (hport : bits w 32 7 < 64 ∧ subExists a (4 * bits w 32 7 + bits w 40 2) = true ∨ 64 ≤ bits w 32 7 ∧ bits w 32 7 ≤ 87 ∧ bits w 40 2 = 0)
    (hclash : namedClash a (leAt e 16 2) (bits w 25 3) (bits w 32 7) (bits w 40 2) (bits w 42 4) = false)
    (hr37 : r37Ok a (bits w 32 7) (bits w 40 2) (leAt e 16 2) (bits w 0 16) (bits w 42 4) 0 = true) :
    cmdBudgetWrite (sqCmd q e) e a = .run (waitBudget (leAt e 16 2)
      (.write (bits w 0 16) (bits w 16 9) (bits w 25 3) (bits w 32 7) (bits w 40 2) (bits w 42 4) (sqCmd q e)) a) := by
  subst hw
  unfold cmdBudgetWrite
  dsimp only
  have hmask : (bits (leAt e 24 8) 42 4 == 0) = false := beq_eq_false_iff_ne.2 hvcs
  rw [if_neg, hclash, if_neg Bool.false_ne_true, hr37]
  · exact if_neg Bool.false_ne_true
  · rw [hplain, hrate, hburst, hmask, zeroBits_of_eq h28, zeroBits_of_eq h39, zeroBits_of_eq h46]
    obtain ⟨hx, hsub⟩ | ⟨hx, hx', hs⟩ := hport
    · rw [if_pos hx, hsub]
      simp
      omega
    · rw [if_neg (by omega)]
      simp [hs]
      omega

theorem cmdBudgetClear_free (hplain : plainOk e [(16, 2)] = true) (hfree : budgetNamed a (leAt e 16 2) = false) :
    cmdBudgetClear (sqCmd q e) e a = .run (waitBudget (leAt e 16 2) (.clear (sqCmd q e)) a) := by
  unfold cmdBudgetClear
  dsimp only
  rw [if_neg (by simp [hplain])]
  exact if_neg (by simp [hfree])

theorem cmdBudgetClear_named (hplain : plainOk e [(16, 2)] = true) (hnamed : budgetNamed a (leAt e 16 2) = true) :
    cmdBudgetClear (sqCmd q e) e a = .done 2 0 0 a := by
  unfold cmdBudgetClear
  dsimp only
  rw [if_neg (by simp [hplain])]
  exact if_pos hnamed

end

/-! ### A CLEAR at its boundary -/

section
variable {i : Nat} {d : Dev}

/-- No lowering of an entry in force is complete when it has none. -/
theorem lowerOne_none_open (h : ∀ b, tget d.tab.budgets i = some b → b.old = []) (hi : i < 65536) : lowerOne i d = d := by
  unfold lowerOne
  split
  · rfl
  · next b hb =>
    dsimp only
    rw [h b hb, decide_eq_false (by omega)]
    rfl

theorem modSw_fixed {f : Switch → Switch} (h : f d.sw = d.sw) : modSw f d = d := by
  unfold modSw
  rw [h]

/-- A change of none of the frames. -/
theorem tx_unchanged (g : Nat × Tx → Nat × Tx) (s : Switch) :
    { s with tx := s.tx.map (fun p => if ([] : List Nat).contains p.1 then g p else p) } = s :=
  congrArg (fun l => { s with tx := l }) (List.map_id' s.tx)

/-- An entry no frame draws on goes at once. -/
theorem clearBudget_unused (h : partReleased d i = []) :
    clearBudget i d = modTab (fun t => { t with budgets := tdel t.budgets i }) d := by
  have hkeep : ∀ l : List Budget, l.filter (fun _ => !([] : List Nat).isEmpty) = [] := fun l => List.filter_eq_nil_iff.2 (fun _ _ => Bool.false_ne_true)
  unfold clearBudget
  dsimp only
  rw [h, hkeep]
  exact modSw_fixed (tx_unchanged _ d.sw)

end

end Sys2Proof.Machine
open Sys2Proof Sys2Proof.Machine

/-- Settles O25: each command by the checks it passes, and a CLEAR at its boundary with no frame on the entry. -/
theorem groupAndBudgetCommands : Obligations.GroupAndBudgetCommands := by
  intro s q e a hl hb
  have hok := rowOperands_ok hb
  refine ⟨fun b w n g ho hm hplain halign hbytes hw hn hn' heven h7 h11 h36 hend hres hrest hg hdl htar => ?_, fun ho hm hplain => ?_,
    fun i w ho hm hplain hi hw hr1 hr2 hb1 hb2 hvcs h28 h39 h46 hport hclash hr37 => ?_,
    fun i ho hm hplain hi => ⟨fun hfree => ?_, fun hnamed => ?_⟩, fun i d => ⟨fun hnamed => ?_, fun hfree hold hpart hi => ?_⟩⟩
  · subst hw hn hg
    exact exec_row_done (c := .mcastSetWrite q e) rfl hok hl hb ho hm rfl
      (cmdMcastWrite_ok hplain halign hbytes.symm hn' heven h7 h11 h36 hend (targetWords_reserved hres) (targetWords_rest hrest) hdl htar)
      (calm_modTab _ a)
  · exact exec_row_done (c := .mcastSetClear q e) rfl hok hl hb ho hm rfl (cmdMcastClear_ok hplain) (calm_modTab _ a)
  · subst hi
    exact exec_row_run (c := .budgetSetWrite q e) rfl hok hl hb ho hm rfl
      (cmdBudgetWrite_ok hplain hw.symm (by simp [within, hr1, hr2]) (by simp [within, hb1, hb2]) hvcs h28 h39 h46 hport hclash hr37)
      (calm_waitBudget _ _ a)
  · subst hi
    exact exec_row_run (c := .budgetSetClear q e) rfl hok hl hb ho hm rfl (cmdBudgetClear_free hplain hfree) (calm_waitBudget _ _ a)
  · subst hi
    exact exec_row_done (c := .budgetSetClear q e) rfl hok hl hb ho hm rfl (cmdBudgetClear_named hplain hnamed) (Calm.rfl' a)
  · exact if_pos hnamed
  · have hcleared : clearBudget i (lowerOne i d) = modTab (fun t => { t with budgets := tdel t.budgets i }) d := by
      rw [lowerOne_none_open hold hi, clearBudget_unused hpart]
    rw [← hcleared]
    exact if_neg (by simp [hfree])

end

section
/-! SUPPORT. FURROW_SET in its modes and FURROW_CLEAR (R87, R88, R92). -/

set_option Elab.async false

namespace Sys2Proof.Machine

open Sys2Proof

section
variable {q : Nat} {e : Bytes} {a : Dev} {f o : Furrow}

/-! ### PREPARE -/

/-- What a PREPARE answers once its image has passed the checks of its form (R88, R501). -/
def prepareVerdict (id : Nat) (f : Furrow) (d : Dev) : Res :=
  let put := fun (d : Dev) => okRes (relevel (modTab (fun t => { t with furrows := tput t.furrows id f }) d))
  match tget d.tab.furrows id with
  | none => if furrowRoom d id f then put d else busyRes d
  | some old =>
    if old.gen = f.gen then (if sameFields old f then okRes d else bad d)
    else if !within 1 32767 (subMod 16 f.gen old.gen) then bad d
    else if old.state = .active then busyRes d
    else if furrowRoom d id f then put (each (old.queue.map (·.buf)) dropRef d)
    else busyRes d

theorem furrowImage_gen_lt {b : Bytes} (h : (f, true) = furrowImage b) : f.gen < 65536 := by
  have hf : f = (furrowImage b).1 := congrArg Prod.fst h
  rw [hf]
  exact Nat.mod_lt _ (by norm_num)

theorem cmdFurrowPrepare_verdict {b : Bytes} (hplain : plainOk e [(16, 6), (24, 8)] = true) (halign : leAt e 24 8 % 64 = 0)
    (hb : hostRead a (leAt e 24 8) 32 = b) (himg : (f, true) = furrowImage b) (hid : leAt b 0 4 = leAt e 16 4) (hgen : f.gen = leAt e 20 2)
    (hsrc : reservedEid f.src = false) (hdst : reservedEid f.dst = false) (hfields : furrowFieldsOk a f = true) :
    cmdFurrowPrepare (sqCmd q e) e a = prepareVerdict (leAt e 16 4) f a := by
  unfold cmdFurrowPrepare prepareVerdict
  dsimp only
  rw [image_sq q e 32 a halign, hb]
  dsimp only
  rw [← himg, ← hgen]
  dsimp only
  exact if_neg (by simp [hplain, hid, hsrc, hdst, hfields])

section
variable {id : Nat}

theorem prepareVerdict_room (hnew : tget a.tab.furrows id = none) (hroom : furrowRoom a id f = true) :
    prepareVerdict id f a = .done 0 0 0 (relevel (modTab (fun t => { t with furrows := tput t.furrows id f }) a)) := by
  unfold prepareVerdict
  dsimp only
  rw [hnew]
  exact if_pos hroom

theorem prepareVerdict_full (hnew : tget a.tab.furrows id = none) (hroom : furrowRoom a id f = false) :
    prepareVerdict id f a = .done 2 0 0 a := by
  unfold prepareVerdict
  dsimp only
  rw [hnew]
  exact if_neg (by simp [hroom])

theorem prepareVerdict_again (hold : tget a.tab.furrows id = some o) (hgen : o.gen = f.gen) :
    prepareVerdict id f a = .done (if sameFields o f then 0 else 0x10) 0 0 a := by
  unfold prepareVerdict
  dsimp only
  rw [hold]
  dsimp only
  rw [if_pos hgen]
  cases sameFields o f <;> rfl

theorem prepareVerdict_older (hold : tget a.tab.furrows id = some o) (hgen : o.gen ≠ f.gen)
    (h : within 1 32767 (subMod 16 f.gen o.gen) = false) : prepareVerdict id f a = .done 0x10 0 0 a := by
  unfold prepareVerdict
  dsimp only
  rw [hold]
  dsimp only
  rw [if_neg hgen]
  exact if_pos (by simp [h])

end

/-! ### COMMIT and FURROW_CLEAR -/

theorem cmdFurrowCommit_state (hplain : plainOk e [(16, 6)] = true) (hold : tget a.tab.furrows (leAt e 16 4) = some f)
    (hgen : f.gen = leAt e 20 2) : cmdFurrowCommit e a = match f.state with
      | .prepared => okRes (modTab (fun t => { t with furrows := tput t.furrows (leAt e 16 4) { f with state := .active } }) a)
      | .active => okRes a
      | .broken => bad a := by
  unfold cmdFurrowCommit
  dsimp only
  rw [if_neg (by simp [hplain]), hold]
  exact if_neg (not_not.2 hgen)

theorem releaseFurrow_none {d : Dev} {id : Nat} (h : ∀ p ∈ d.sw.tx, p.2.fr.furrow ≠ some id) : releaseFurrow id d = d := by
  have hnone : d.sw.tx.filter (fun p => p.2.fr.furrow == some id) = [] :=
    List.filter_eq_nil_iff.2 (fun p hp => by simpa using h p hp)
  unfold releaseFurrow
  rw [hnone]
  rfl

theorem cmdFurrowClear_absent (hplain : plainOk e [(16, 6)] = true) (hold : tget a.tab.furrows (leAt e 16 4) = none) :
    cmdFurrowClear e a = .done 0 0 0 a := by
  unfold cmdFurrowClear
  dsimp only
  rw [if_neg (by simp [hplain]), hold]
  rfl

theorem cmdFurrowClear_idle (hplain : plainOk e [(16, 6)] = true) (hold : tget a.tab.furrows (leAt e 16 4) = some f)
    (hgen : f.gen = leAt e 20 2) (hqueue : f.queue = []) (htx : ∀ p ∈ a.sw.tx, p.2.fr.furrow ≠ some (leAt e 16 4)) :
    cmdFurrowClear e a
      = .done 0 0 0 (relevel (modTab (fun t => { t with furrows := tdel t.furrows (leAt e 16 4) }) a)) := by
  have hsw : (relevel (modTab (fun t => { t with furrows := tdel t.furrows (leAt e 16 4) }) a)).sw = a.sw :=
    (only_relevel _).sw
  unfold cmdFurrowClear
  dsimp only
  rw [if_neg (by simp [hplain]), hold]
  dsimp only
  rw [if_neg (fun h => h.1 hgen), hqueue]
  exact congrArg okRes (releaseFurrow_none (by rw [← hsw] at htx; exact htx))

end

end Sys2Proof.Machine
open Sys2Proof Sys2Proof.Machine

/-- Settles O26: `prepareVerdict` is what the entry an id already has makes of a PREPARE. -/
theorem furrowCommands : Obligations.FurrowCommands := by
  intro s q e a id gen hl hb hid hgen
  have hok := rowOperands_ok hb
  subst hid hgen
  refine ⟨fun f ho hm hplain halign himg hid hgen hsrc hdst hfields => ?_, fun f ho hm hplain hf hgen => ?_,
    fun ho hm hplain => ⟨fun hnone => ?_, fun f hf hgen hqueue htx => ?_⟩⟩
  · have hv := cmdFurrowPrepare_verdict (q := q) hplain halign rfl himg hid hgen hsrc hdst hfields
    have hlt := furrowImage_gen_lt himg
    refine ⟨fun hnew hroom => ?_, fun hnew hroom => ?_, fun o hold hsame => ?_, fun o hold hother holder => ?_⟩
    · exact exec_row_done (c := .furrowSetPrepare q e) rfl hok hl hb ho hm rfl (hv.trans (prepareVerdict_room hnew hroom))
        ((calm_modTab _ a).then (only_relevel _).calm)
    · exact exec_row_done (c := .furrowSetPrepare q e) rfl hok hl hb ho hm rfl (hv.trans (prepareVerdict_full hnew hroom)) (Calm.rfl' a)
    · exact exec_row_done (c := .furrowSetPrepare q e) rfl hok hl hb ho hm rfl
        (hv.trans (prepareVerdict_again hold (hsame.trans hgen.symm))) (Calm.rfl' a)
    · rw [← hgen] at hother holder
      refine exec_row_done (c := .furrowSetPrepare q e) rfl hok hl hb ho hm rfl (hv.trans (prepareVerdict_older hold hother ?_))
        (Calm.rfl' a)
      unfold within subMod
      rw [show (2 : Nat) ^ 16 = 65536 from rfl, Nat.mod_eq_of_lt hlt, Bool.and_eq_false_iff, decide_eq_false_iff_not,
        decide_eq_false_iff_not]
      omega
  · have hv := cmdFurrowCommit_state hplain hf hgen
    refine ⟨fun hst => ?_, fun hst => ?_, fun hst => ?_⟩
    · exact exec_row_done (c := .furrowSetCommit q e) rfl hok hl hb ho hm rfl (hv.trans (by rw [hst]; rfl)) (calm_modTab _ a)
    · exact exec_row_done (c := .furrowSetCommit q e) rfl hok hl hb ho hm rfl (hv.trans (by rw [hst]; rfl)) (Calm.rfl' a)
    · exact exec_row_done (c := .furrowSetCommit q e) rfl hok hl hb ho hm rfl (hv.trans (by rw [hst]; rfl)) (Calm.rfl' a)
  · exact exec_row_done (c := .furrowClear q e) rfl hok hl hb ho hm rfl (cmdFurrowClear_absent hplain hnone) (Calm.rfl' a)
  · exact exec_row_done (c := .furrowClear q e) rfl hok hl hb ho hm rfl (cmdFurrowClear_idle hplain hf hgen hqueue htx)
      ((calm_modTab _ a).then (only_relevel _).calm)

end

section
/-! SUPPORT. Lowerings, fences and the table window (R46, R83, R85). -/

set_option Elab.async false

namespace Sys2Proof.Machine

open Sys2Proof

/-! ### Lowerings of a budget -/

section
variable {i r : Nat} {fs : List Nat} {c : Cmd} {b : Budget} {d : Dev}

/-- The one lowering of an entry completes once none of its frames is left. -/
theorem lowerOne_done (hi : i < 65536) (hb : tget d.tab.budgets i = some b) (hold : b.old = [{ rate := r, frames := fs, cmd := c }])
    (hgone : ∀ f ∈ fs, tget d.sw.tx f = none) :
    lowerOne i d = complete c 0 0 0 (modTab (fun t => { t with budgets := tput t.budgets i { b with old := [] } }) d) := by
  have hdone : fs.any (fun f => (tget d.sw.tx f).isSome) = false :=
    List.any_eq_false.2 (fun f hf => by rw [hgone f hf]; exact Bool.false_ne_true)
  unfold lowerOne
  rw [hb]
  dsimp only
  rw [hold, List.filter_singleton, List.filter_singleton, decide_eq_false (Nat.not_le.2 hi)]
  dsimp only
  rw [hdone]
  rfl

/-- It stays while one is. -/
theorem lowerOne_open (hi : i < 65536) (hb : tget d.tab.budgets i = some b) (hold : b.old = [{ rate := r, frames := fs, cmd := c }])
    (hleft : ∃ f ∈ fs, tget d.sw.tx f ≠ none) : lowerOne i d = d := by
  have hopen : fs.any (fun f => (tget d.sw.tx f).isSome) = true := by
    obtain ⟨f, hf, hsome⟩ := hleft
    exact List.any_eq_true.2 ⟨f, hf, Option.isSome_iff_ne_none.2 hsome⟩
  unfold lowerOne
  rw [hb]
  dsimp only
  rw [hold, List.filter_singleton, decide_eq_false (Nat.not_le.2 hi)]
  dsimp only
  rw [hopen]
  rfl

theorem lowerDone_single (hkin : budgetKin d i = [i]) : lowerDone i d = lowerOne i d := by
  unfold lowerDone
  rw [hkin]
  rfl

end

/-! ### The epoch fence -/

theorem closeFence_late {eid l : Nat} {x : EptEntry} {d : Dev} (hx : tget d.tab.ept eid = some x) (hl : x.lastD = some l)
    (hlate : isLate d l = true) (htx : d.sw.tx = []) :
    closeFence eid d = modTab (fun t => { t with ept := tput t.ept eid { x with lastD := none, fence := none } }) d := by
  unfold closeFence
  rw [hx]
  dsimp only
  rw [hl]
  dsimp only
  rw [if_pos hlate]
  exact retryTo_none (d := modTab _ d) eid htx

/-! ### The table window -/

/-- The fields of EPT_WIN_CTL. -/
def windowFlds : List Fld := [rwIf 0 3 0 (fun v => v < 5), wo 3 1, ro 4 1, ro 5 1, rw 8 24 0, rw 32 32 0]

theorem regOf_window : regOf 0x200000 = some { bytes := 8, flds := windowFlds } := rfl

theorem spare_window (v : Nat) (d : Dev) : spare 0x200000 v d = v := rfl

theorem writeReg_window {v : Nat} {d : Dev} (hr : d.boot.recovery = false) : writeReg 0x200000 v d = windowWrite v d := by
  unfold writeReg
  dsimp only
  rw [spare_window, if_neg (by simp [hr])]
  rfl

/-- A write that starts a read of the window. -/
theorem windowWrite_start {v : Nat} {d : Dev} (hidle : d.tab.winBusy = false) (hv : v.testBit 3 = true) :
    windowWrite v d = modTab (fun t => { t with winBusy := true, winMiss := false })
      (putReg 0x200000 (writeFlds (rg d 0x200000) v windowFlds) d) := by
  unfold windowWrite
  rw [hidle, if_neg Bool.false_ne_true, hv]
  rfl

/-- A field of EPT_WIN_CTL that every value may be written to takes the value written. -/
theorem windowFlds_new (old v lo w : Nat) (h : rw lo w 0 ∈ windowFlds) : bits (writeFlds old v windowFlds) lo w = bits v lo w := by
  have hnew := bits_writeFlds_of_mem old v (laidOut_of_regOf regOf_window) h
  rw [fldNew_rw rfl, rwNew_of_ok rfl] at hnew
  exact hnew

/-- The tables after a snapshot. -/
def windowTab (d : Dev) : Tables :=
  { d.tab with
    winBusy := false, winMiss := (windowWords d).isNone,
    winData := (List.range 18).foldl (fun t i => tput t i (((windowWords d).getD []).getD i 0)) [] }

theorem windowTab_winData {d : Dev} {i : Nat} (hi : i < 18) :
    tgetD (windowTab d).winData i 0 = ((windowWords d).getD []).getD i 0 := by
  generalize hw : (windowWords d).getD [] = w
  have hread := tgetD_foldl_tput (fun i => w.getD i 0) 0 18 [] hi
  unfold windowTab
  rw [hw]
  dsimp only
  exact hread

theorem windowDone_busy {d : Dev} (h : d.tab.winBusy = true) : windowDone d = modTab (fun _ => windowTab d) d := by
  unfold windowDone
  rw [h]
  rfl

theorem windowDone_tab {d : Dev} (h : d.tab.winBusy = true) : (windowDone d).tab = windowTab d := by
  rw [windowDone_busy h, modTab_tab]

end Sys2Proof.Machine
open Sys2Proof Sys2Proof.Machine

/-- Settles O27: lowerings and fences by what is left of their frames, the window by its one snapshot. -/
theorem tableEvents : Obligations.TableEvents := by
  intro s hl
  refine ⟨fun b => exec_settle (c := .allowanceRelease b) rfl rfl hl.1 rfl,
    fun i b r fs q e hkin hi hb hold => ⟨fun hgone => ?_, fun hleft => ?_⟩, fun eid x l hx hlast hlate htx => ?_,
    fun q e a m hr ho hm hplain himg hpeer hold hrefs hroom => ?_, fun id => exec_settle (c := .readReqReserve id) rfl rfl hl.1 rfl,
    fun v hr hidle => ?_, fun hbusy => ?_⟩
  · exact exec_calm (c := .budgetLowerComplete i) rfl rfl hl ((lowerDone_single hkin).trans (lowerOne_done hi hb hold hgone))
      ((calm_modTab _ s.dev).then (calm_complete_sq q e 0 0 0 _))
  · exact exec_calm (c := .budgetLowerComplete i) rfl rfl hl ((lowerDone_single hkin).trans (lowerOne_open hi hb hold hleft))
      (Calm.rfl' s.dev)
  · exact exec_calm (c := .epochFenceClose eid) rfl rfl hl (closeFence_late hx hlast hlate htx) (calm_modTab _ s.dev)
  · have hset := cmdEptSet_ok (q := q) hplain himg hold (fun _ h => nomatch h) hrefs (fun _ => hroom)
    unfold withEntrySet entryAfter peersAfter at hset
    rw [hpeer] at hset
    dsimp only at hset
    rw [eptImage_epoch himg] at hset
    exact exec_retry_done (c := .eptSetFenceApply q) rfl rfl hl hr (beq_iff_eq.2 ho)
      (by rw [ho, hm]; rfl) hset ((calm_modTab _ a).then (calm_count _ _ _ _ _))
  · have hbit : (setBits v.toNat 3 1 1).testBit 3 = true := by rw [testBit_setBits, if_pos (by omega)]; rfl
    have hfld : ∀ lo w, rw lo w 0 ∈ windowFlds → 4 ≤ lo →
        bits (writeFlds (rg s.dev 0x200000) (setBits v.toNat 3 1 1) windowFlds) lo w = bits v.toNat lo w := fun lo w hmem hlo => by
      rw [windowFlds_new _ _ lo w hmem, bits_setBits_apart (Or.inl hlo)]
    refine ⟨_, exec_calm (c := .eptWinRead v) rfl rfl hl ((writeReg_window hr).trans (windowWrite_start hidle hbit))
      ((calm_putReg _ _ s.dev).then (calm_modTab _ _)), rfl, rfl, ?_, ?_⟩
    · show bits (rg (putReg 0x200000 _ s.dev) 0x200000) 8 24 = _
      rw [rg_putReg_self]
      exact hfld 8 24 (by simp [windowFlds]) (by omega)
    · show bits (rg (putReg 0x200000 _ s.dev) 0x200000) 32 32 = _
      rw [rg_putReg_self]
      exact hfld 32 32 (by simp [windowFlds]) (by omega)
  · have hcalm : Calm s.dev (windowDone s.dev) := by rw [windowDone_busy hbusy]; exact calm_modTab _ s.dev
    have htab := windowDone_tab hbusy
    refine ⟨windowDone s.dev, exec_calm (c := .eptWinReadDone) rfl rfl hl rfl hcalm, ?_, ?_, ?_, fun i hi => ?_⟩
    · rw [htab, windowTab]
    · rw [htab, windowTab]
    · rw [htab, windowTab]
    · rw [htab]
      exact windowTab_winData hi

end

section
/-! SUPPORT. Tail and head doorbells, and tails read from memory (R380 to R382). -/

set_option Elab.async false

namespace Sys2Proof.Machine

open Sys2Proof

/-! ### Ring errors -/

theorem only_ringError (unit why : Nat) (b : Bool) (d : Dev) : Only [.regs, .evt, .tel, .ring] d (ringError unit why b d) :=
  (only_postEvent _ _ _).after ((only_count _ _ _ _ _).after (only_setEvt _ _ d).in)

theorem calm_ringError (unit why : Nat) (b : Bool) (d : Dev) : Calm d (ringError unit why b d) := (only_ringError _ _ _ d).calm

theorem calm_hostStores (img : List (Nat × Byte)) (d : Dev) : Calm d (hostStores img d) := calm_modRing _ d

/-! ### Tails -/

section
variable {q v : Nat} {d : Dev}

theorem takeTail_ok (h : v < sqDepth d q) : takeTail q v d = modSq q (fun x => { x with tail := v }) d := if_neg (by omega)

theorem takeTail_bad (h : sqDepth d q ≤ v) : takeTail q v d = ringError q 1 true d := if_pos h

theorem tailDoorbell_off (h : sqOn d q = false) : tailDoorbell q v d = ringError q 3 true d := if_pos (by rw [h]; rfl)

theorem tailDoorbell_unwatched (hon : sqOn d q = true) (hw : flag d (oSqCtl q) 12 = false) : tailDoorbell q v d = takeTail q v d := by
  unfold tailDoorbell
  rw [if_neg (by rw [hon]; decide), if_neg (by rw [hw]; decide)]

/-- A watched line read again gives the tail it holds. -/
theorem watchedRead_ok (hon : sqOn d q = true) (hw : flag d (oSqCtl q) 12 = true) (hv : watchedTail d q < sqDepth d q) :
    watchedRead q d = modSq q (fun x => { x with tail := watchedTail d q }) (modSq q (fun x => { x with held := true }) d) := by
  unfold watchedRead
  rw [hon, hw, if_pos (by decide)]
  exact takeTail_ok (d := modSq _ _ d) hv

/-- The device with a watched line stored and its copy no longer held. -/
def watchedStore (q v : Nat) (d : Dev) : Dev :=
  modSq q (fun s => { s with held := false }) (hostWrite (fld d (0x20010 + 0x20 * q) 6 58 * 64) (toLE 4 v) d)

/-- What the host stored is what the device reads. -/
theorem watchedTail_watchedStore (hv : v < 2 ^ 32) : watchedTail (watchedStore q v d) q = v := by
  have hread := memReadN_memWriteN d.ring.mem (fld d (0x20010 + 0x20 * q) 6 58 * 64) (toLE 4 v)
  rw [toLE_length] at hread
  show leNat (memReadN (memWriteN d.ring.mem (fld d (0x20010 + 0x20 * q) 6 58 * 64) (toLE 4 v)) (fld d (0x20010 + 0x20 * q) 6 58 * 64) 4) = v
  rw [hread, leNat_toLE]
  exact Nat.mod_eq_of_lt hv

theorem watchedSnoop_ok (hon : sqOn d q = true) (hw : flag d (oSqCtl q) 12 = true) (hv : v < sqDepth d q) (hv' : v < 2 ^ 32) :
    watchedSnoop q v d = modSq q (fun x => { x with tail := v }) (modSq q (fun x => { x with held := true }) (watchedStore q v d)) := by
  have hread := watchedRead_ok (d := watchedStore q v d) (q := q) hon hw (by rw [watchedTail_watchedStore hv']; exact hv)
  rw [watchedTail_watchedStore hv'] at hread
  exact hread

theorem only_watchedStore (q v : Nat) (d : Dev) : Only [.ring] d (watchedStore q v d) :=
  (only_modSq q _ _).after (only_hostWrite _ _ d).in

theorem watchedStore_cqs (q v : Nat) (d : Dev) : (watchedStore q v d).ring.cqs = d.ring.cqs := rfl

theorem sq_watchedStore : sq (watchedStore q v d) q = { sq d q with held := false } := by
  unfold watchedStore
  rw [sq_modSq_self]
  rfl

/-- What a watched line stored changes: the queue's tail and the copy held, in memory and in the rings. -/
theorem watchedSnoop_spec (hon : sqOn d q = true) (hw : flag d (oSqCtl q) 12 = true) (hv : v < sqDepth d q) (hv' : v < 2 ^ 32) :
    sq (watchedSnoop q v d) q = { sq d q with held := true, tail := v } ∧ (watchedSnoop q v d).regs = d.regs
      ∧ (watchedSnoop q v d).ring.cqs = d.ring.cqs ∧ Calm d (watchedSnoop q v d) := by
  rw [watchedSnoop_ok hon hw hv hv']
  have hstore := only_watchedStore q v d
  generalize hx : watchedStore q v d = x at hstore ⊢
  have hsq : sq x q = { sq d q with held := false } := by rw [← hx, sq_watchedStore]
  have hcqs : x.ring.cqs = d.ring.cqs := by rw [← hx, watchedStore_cqs]
  refine ⟨?_, hstore.regs, hcqs, (hstore.calm.then (calm_modSq q _ x)).then (calm_modSq q _ _)⟩
  rw [sq_modSq_self, sq_modSq_self, hsq]

end

/-! ### Heads -/

section
variable {c v n : Nat} {r : Ring} {d : Dev}

theorem cqHead_ok (hon : cqOn d c = true) (hret : headReturn (cqDepth d c) (cq d c) v = some n) :
    cqHead c v d = when (rearm (cq d c) (flag d (oCqCtl c) 13) n).2 (sendMsix (fld d (oCqCtl c) 5 7))
      (modCq c (fun _ => (rearm (cq d c) (flag d (oCqCtl c) 13) n).1) d) := by
  unfold cqHead
  rw [if_neg (by rw [hon]; decide), hret]

theorem eqHead_ok (hon : eqOn d = true) (hret : headReturn (eqDepth d) d.ring.eq v = some n) :
    eqHead v d = when (rearm d.ring.eq (flag d oEqCtl 13) n).2 (sendMsix (fld d oEqCtl 5 7))
      (modEq (fun _ => (rearm d.ring.eq (flag d oEqCtl 13) n).1) d) := by
  unfold eqHead
  rw [if_neg (by rw [hon]; decide), hret]

/-- With no interrupt enabled, or nothing left, no message goes out. -/
theorem rearm_quiet {irq : Bool} (h : irq = false ∨ r.wr ≤ r.rd + n) : rearm r irq n = ({ r with rd := r.rd + n, armed := irq }, false) := by
  have hagain : (irq && decide (r.rd + n < r.wr)) = false := by
    rcases h with rfl | h
    · rfl
    · rw [decide_eq_false (by omega), Bool.and_false]
  unfold rearm
  dsimp only
  rw [hagain, Bool.not_false, Bool.and_true]

theorem rearm_again (h : r.rd + n < r.wr) : rearm r true n = ({ r with rd := r.rd + n, armed := false }, true) := by
  unfold rearm
  dsimp only
  rw [decide_eq_true h]
  rfl

end

end Sys2Proof.Machine
open Sys2Proof Sys2Proof.Machine

/-- Settles O28: a tail by its depth, a watched tail by what the host stored, a head by what `rearm` leaves unread. -/
theorem doorbells : Obligations.Doorbells := by
  intro s q v hl hq
  have hwf : decide (q < 64) = true := decide_eq_true hq
  refine ⟨fun img => ⟨fun hon hw => ⟨fun hv => ?_, fun hv => ?_⟩, fun hoff => ?_, fun hon hw hv => ?_⟩, fun hon hw hv => ?_,
    fun hon n r hret hr => ⟨fun hleft => ?_, fun hirq hleft => ?_⟩, fun hon n r hret hr hleft => ?_⟩
  · exact exec_calm (c := .sqTailDoorbell q v img) rfl hwf hl
      ((tailDoorbell_unwatched (d := hostStores img s.dev) hon hw).trans (takeTail_ok (d := hostStores img s.dev) hv))
      ((calm_hostStores img s.dev).then (calm_modSq q _ _))
  · exact exec_calm (c := .sqTailDoorbell q v img) rfl hwf hl
      ((tailDoorbell_unwatched (d := hostStores img s.dev) hon hw).trans (takeTail_bad (d := hostStores img s.dev) hv))
      ((calm_hostStores img s.dev).then (calm_ringError _ _ _ _))
  · exact exec_calm (c := .sqTailDoorbell q v img) rfl hwf hl (tailDoorbell_off (d := hostStores img s.dev) hoff)
      ((calm_hostStores img s.dev).then (calm_ringError _ _ _ _))
  · obtain ⟨hsq, hregs, hcqs, hcalm⟩ := watchedSnoop_spec (d := hostStores img s.dev) hon hw hv v.isLt
    refine ⟨watchedSnoop q v.toNat (hostStores img s.dev), exec_calm (c := .watchedTailSnoop q v img) rfl hwf hl rfl
      ((calm_hostStores img s.dev).then hcalm), ?_, ?_, ?_, hregs, hcqs⟩
    · rw [hsq]
    · rw [hsq]
    · rw [hsq]
      rfl
  · exact exec_calm (c := .watchedTailPoll q) rfl hwf hl (watchedRead_ok hon hw hv) ((calm_modSq q _ s.dev).then (calm_modSq q _ _))
  · subst hr
    refine exec_calm (c := .cqHeadDoorbell q v) rfl hwf hl ?_ (calm_modCq q _ s.dev)
    rw [cqHead_ok hon hret, rearm_quiet hleft]
    rfl
  · subst hr
    refine exec_calm (c := .cqHeadDoorbell q v) rfl hwf hl ?_ ((calm_modCq q _ s.dev).then (only_sendMsix _ _).calm)
    rw [cqHead_ok hon hret, hirq, rearm_again hleft]
    rfl
  · subst hr
    refine exec_calm (c := .eqHeadDoorbell v) rfl rfl hl ?_ (calm_modEq _ s.dev)
    rw [eqHead_ok hon hret, rearm_quiet hleft]
    rfl

end

section
/-! SUPPORT. Enabling and disabling of rings (R397). -/

set_option Elab.async false

namespace Sys2Proof.Machine

open Sys2Proof

/-! ### One-bit fields of a write -/

theorem testBit_of_bits {v w i : Nat} (h : bits v i 1 = bits w i 1) : v.testBit i = w.testBit i := by
  have hv := testBit_bits v i 1 0
  have hw := testBit_bits w i 1 0
  rw [h, hw] at hv
  simpa using hv.symm

/-- A one-bit field takes the bit written. -/
theorem testBit_writeFlds (old v i : Nat) {fs : List Fld} (hfs : LaidOut fs) (h : rw i 1 0 ∈ fs) :
    (writeFlds old v fs).testBit i = v.testBit i := by
  have hnew := bits_writeFlds_of_mem old v hfs h
  rw [fldNew_rw rfl, rwNew_of_ok rfl] at hnew
  exact testBit_of_bits hnew

theorem testBit_setBits_self (v i b : Nat) : (setBits v i 1 b).testBit i = b.testBit 0 := by
  rw [testBit_setBits, if_pos (by omega), Nat.sub_self]

theorem testBit_setBits_off {i j : Nat} (h : i ≠ j) (v b : Nat) : (setBits v i 1 b).testBit j = v.testBit j := by
  rw [testBit_setBits, if_neg (by omega)]

/-! ### The control registers -/

def sqCtlFlds : List Fld := [rwIf 0 5 4 (within 4 16), rw 5 6 0, rw 11 1 0, rw 12 1 0, ro 13 1, ro 16 16, ro 32 16]
def cqCtlFlds : List Fld := [rwIf 0 5 4 (within 4 16), rw 5 7 0, rw 12 1 0, rw 13 1 0, ro 32 16, ro 48 16]

theorem regOf_sqCtl {q : Nat} (h : q < 64) : regOf (oSqCtl q) = some { bytes := 8, flds := sqCtlFlds } := by
  have hoff : 0x20018 + 0x20 * q - 0x20000 = 0x18 + 0x20 * q := by omega
  have hmod : (0x18 + 0x20 * q) % 0x20 = 0x18 := by omega
  unfold regOf oSqCtl
  rw [if_neg (by omega), if_neg (by omega), if_pos (by omega), hoff]
  unfold regRing
  rw [if_pos (by omega), hmod]
  rfl

theorem regOf_cqCtl {c : Nat} (h : c < 64) : regOf (oCqCtl c) = some { bytes := 8, flds := cqCtlFlds } := by
  have hoff : 0x20808 + 0x20 * c - 0x20000 = 0x808 + 0x20 * c := by omega
  have hmod : (0x808 + 0x20 * c) % 0x20 = 0x08 := by omega
  unfold regOf oCqCtl
  rw [if_neg (by omega), if_neg (by omega), if_pos (by omega), hoff]
  unfold regRing
  rw [if_neg (by omega), if_pos (by omega), hmod]
  rfl

theorem regOf_eqCtl : regOf oEqCtl = some { bytes := 8, flds := cqCtlFlds } := rfl

theorem laidOut_sqCtl : LaidOut sqCtlFlds := laidOut_of_regOf (regOf_sqCtl (q := 0) (by decide))
theorem laidOut_cqCtl : LaidOut cqCtlFlds := laidOut_of_regOf regOf_eqCtl

/-- The fields of an enabled SQ's control register that are not locked. -/
def sqFreeFlds : List Fld := [rw 5 6 0, rw 11 1 0, ro 13 1, ro 16 16, ro 32 16].filter (fun f => f.lo ≠ 5)

theorem laidOut_sqFree : LaidOut sqFreeFlds := by decide

theorem lockedWrite_sqOn (old v : Nat) : lockedWrite old v sqCtlFlds true [0, 5, 12] = writeFlds old v sqFreeFlds := rfl
theorem lockedWrite_off (old v : Nat) (fs : List Fld) (l : List Nat) : lockedWrite old v fs false l = writeFlds old v fs := rfl

/-- The value a write of an SQ's control register brings: the watch bit only where the link has CXL.cache. -/
def sqCtlValue (q v : Nat) (d : Dev) : Nat := if d.boot.cxlProto then v else setBits v 12 1 (bits (rg d (oSqCtl q)) 12 1)

theorem sqCtlValue_enable (q v : Nat) (d : Dev) : (sqCtlValue q v d).testBit 11 = v.testBit 11 := by
  unfold sqCtlValue
  split
  · rfl
  · exact testBit_setBits_off (by omega) _ _

theorem sqCtlValue_unwatched {q v : Nat} {d : Dev} (hv : v.testBit 12 = false) (hw : flag d (oSqCtl q) 12 = false) :
    (sqCtlValue q v d).testBit 12 = false := by
  unfold sqCtlValue
  split
  · exact hv
  · rw [testBit_setBits_self, testBit_bits]
    simpa [flag] using hw

/-! ### Enabling -/

section
variable {q v : Nat} {d : Dev}

theorem ringCtl_open {r : Nat} (h : d.boot.recovery = false) : ringCtl r v d = writeRingCtl r v d :=
  if_pos (by rw [ringOpen, h]; rfl)

/-- A submission queue as its enabling leaves it. -/
def sqFresh (s : Sq) : Sq := { s with head := 0, tail := 0, waiting := none, held := false }

theorem watchedRead_unwatched (h : flag d (oSqCtl q) 12 = false) : watchedRead q d = d := by
  unfold watchedRead
  rw [h, Bool.and_false]
  rfl

theorem writeSqCtl_on (hq : q < 64) (hoff : sqOn d q = false) (hen : v.testBit 11 = true) (hv : v.testBit 12 = false)
    (hw : flag d (oSqCtl q) 12 = false) :
    writeSqCtl q v d = modSq q sqFresh (putReg (oSqCtl q) (writeFlds (rg d (oSqCtl q)) (sqCtlValue q v d) sqCtlFlds) d) := by
  have hon : sqOn (putReg (oSqCtl q) (writeFlds (rg d (oSqCtl q)) (sqCtlValue q v d) sqCtlFlds) d) q = true := by
    rw [sqOn, flag, rg_putReg_self, testBit_writeFlds _ _ _ laidOut_sqCtl (by simp [sqCtlFlds]), sqCtlValue_enable, hen]
  have hun : flag (putReg (oSqCtl q) (writeFlds (rg d (oSqCtl q)) (sqCtlValue q v d) sqCtlFlds) d) (oSqCtl q) 12 = false := by
    rw [flag, rg_putReg_self, testBit_writeFlds _ _ _ laidOut_sqCtl (by simp [sqCtlFlds]), sqCtlValue_unwatched hv hw]
  unfold writeSqCtl
  rw [regOf_sqCtl hq]
  dsimp only
  rw [hoff, lockedWrite_off, ← sqCtlValue, hon, if_pos (by decide)]
  exact watchedRead_unwatched (d := modSq q sqFresh _) hun

theorem writeCqCtl_on (hq : q < 64) (hoff : cqOn d q = false) (hen : v.testBit 12 = true) :
    writeCqCtl q v d = modCq q (fun x => { x with wr := 0, rd := 0, armed := v.testBit 13 })
      (putReg (oCqCtl q) (writeFlds (rg d (oCqCtl q)) v cqCtlFlds) d) := by
  have hbit : ∀ i, rw i 1 0 ∈ cqCtlFlds → flag (putReg (oCqCtl q) (writeFlds (rg d (oCqCtl q)) v cqCtlFlds) d) (oCqCtl q) i = v.testBit i :=
    fun i hi => by rw [flag, rg_putReg_self, testBit_writeFlds _ _ _ laidOut_cqCtl hi]
  have hon : cqOn (putReg (oCqCtl q) (writeFlds (rg d (oCqCtl q)) v cqCtlFlds) d) q = true :=
    (hbit 12 (by simp [cqCtlFlds])).trans hen
  unfold writeCqCtl
  rw [regOf_cqCtl hq]
  dsimp only
  rw [hoff, lockedWrite_off, hon, if_pos (by decide), hbit 13 (by simp [cqCtlFlds])]

theorem writeEqCtl_on (hoff : eqOn d = false) (hseen : d.ring.eqSeen = true) (hen : v.testBit 12 = true) :
    writeEqCtl v d = modEq (fun x => { x with wr := 0, rd := 0, armed := v.testBit 13, lostSince := 0 })
      (putReg oEqCtl (writeFlds (rg d oEqCtl) v cqCtlFlds) d) := by
  have hbit : ∀ i, rw i 1 0 ∈ cqCtlFlds → flag (putReg oEqCtl (writeFlds (rg d oEqCtl) v cqCtlFlds) d) oEqCtl i = v.testBit i :=
    fun i hi => by rw [flag, rg_putReg_self, testBit_writeFlds _ _ _ laidOut_cqCtl hi]
  have hon : eqOn (putReg oEqCtl (writeFlds (rg d oEqCtl) v cqCtlFlds) d) = true := (hbit 12 (by simp [cqCtlFlds])).trans hen
  unfold writeEqCtl
  rw [regOf_eqCtl]
  dsimp only
  rw [hoff, lockedWrite_off, hon, if_pos (by decide), hbit 13 (by simp [cqCtlFlds])]
  exact if_pos hseen

/-! ### Disabling -/

theorem tx_filter_nil {s : Switch} (h : s.tx = []) (g : Nat × Tx → Bool) : { s with tx := s.tx.filter g } = s := by
  obtain ⟨⟩ := s
  cases h
  rfl

/-- Withdrawal of the entry at the head, with no frame of the switch's own. -/
theorem dropWaiting_none (h : d.sw.tx = []) : dropWaiting q d = modSq q (fun s => { s with waiting := none })
    (modRing (fun r => { r with reads := r.reads.filter (fun p => !(p.2.cmd.chan == .sq q && p.2.dl.isNone)) }) d) := by
  unfold dropWaiting
  dsimp only
  rw [h, List.filter_nil, each_nil, modSw_fixed (tx_filter_nil h _)]

theorem writeSqCtl_off (hq : q < 64) (hon : sqOn d q = true) (hen : v.testBit 11 = false) :
    writeSqCtl q v d = sqSettle q (dropWaiting q (modSq q (fun s => { s with held := false })
      (putReg (oSqCtl q) (writeFlds (rg d (oSqCtl q)) (sqCtlValue q v d) sqFreeFlds) d))) := by
  have hoff : sqOn (putReg (oSqCtl q) (writeFlds (rg d (oSqCtl q)) (sqCtlValue q v d) sqFreeFlds) d) q = false := by
    rw [sqOn, flag, rg_putReg_self, testBit_writeFlds _ _ _ laidOut_sqFree (by simp [sqFreeFlds, rw, ro]), sqCtlValue_enable, hen]
  unfold writeSqCtl
  rw [regOf_sqCtl hq]
  dsimp only
  rw [hon, lockedWrite_sqOn, ← sqCtlValue, hoff, if_neg (by decide), if_pos (by decide)]

theorem modSq_cqs (f : Sq → Sq) : (modSq q f d).ring.cqs = d.ring.cqs := rfl
theorem cq_modCq_self (f : Ring → Ring) : cq (modCq q f d) q = f (cq d q) := tgetD_tput_self _ _ _ _

theorem sqSettle_idle (hoff : sqOn d q = false) (hbusy : (sq d q).busy = []) :
    sqSettle q d = modSq q (fun s => { s with window := [] }) d :=
  if_pos (by rw [hoff, hbusy]; rfl)

/-- A queue that has stopped with nothing in progress, and no frame of the switch's own, forgets its window. -/
theorem sqStop_spec (hoff : sqOn d q = false) (hbusy : (sq d q).busy = []) (htx : d.sw.tx = []) :
    sq (sqSettle q (dropWaiting q (modSq q (fun s => { s with held := false }) d))) q
        = { sq d q with held := false, waiting := none, window := [] }
      ∧ sqOn (sqSettle q (dropWaiting q (modSq q (fun s => { s with held := false }) d))) q = false
      ∧ (sqSettle q (dropWaiting q (modSq q (fun s => { s with held := false }) d))).ring.cqs = d.ring.cqs
      ∧ Calm d (sqSettle q (dropWaiting q (modSq q (fun s => { s with held := false }) d))) := by
  rw [dropWaiting_none (d := modSq q _ d) htx]
  generalize hy : modRing _ (modSq q (fun s => { s with held := false }) d) = y
  have hsq : sq y q = { sq d q with held := false } := by rw [← hy]; exact sq_modSq_self q (fun s => { s with held := false }) d
  have hon : sqOn (modSq q (fun s => { s with waiting := none }) y) q = false := by rw [← hy]; exact hoff
  have hcalm : Calm d y := by rw [← hy]; exact (calm_modSq q _ d).then (calm_modRing _ _)
  have hcqs : y.ring.cqs = d.ring.cqs := by rw [← hy]; rfl
  rw [sqSettle_idle hon (by rw [sq_modSq_self, hsq]; exact hbusy)]
  refine ⟨?_, hon, hcqs, (hcalm.then (calm_modSq q _ y)).then (calm_modSq q _ _)⟩
  rw [sq_modSq_self, sq_modSq_self, hsq]

end

end Sys2Proof.Machine
open Sys2Proof Sys2Proof.Machine

/-- Settles O29: the value each control register takes, and the queue its change leaves. -/
theorem ringControl : Obligations.RingControl := by
  intro s q v hl hq hr
  refine ⟨fun hoff hv hw => ?_, fun hoff => ?_, fun hoff hseen => ?_, fun hon hbusy htx => ?_⟩
  · have hen : (setBits v.toNat 11 1 1).testBit 11 = true := testBit_setBits_self _ _ _
    have hset := writeSqCtl_on hq hoff hen (by rw [testBit_setBits_off (by omega), hv]) hw
    generalize hx : putReg (oSqCtl q) _ s.dev = x at hset
    have hbit : sqOn x q = true := by
      rw [← hx, sqOn, flag, rg_putReg_self, testBit_writeFlds _ _ _ laidOut_sqCtl (by simp [sqCtlFlds]), sqCtlValue_enable, hen]
    have hrg : ∀ off, off ≠ oSqCtl q → rg x off = rg s.dev off := fun off hne => by rw [← hx, rg_putReg_ne _ _ _ _ hne.symm]
    have honly : Only [.regs] s.dev x := by rw [← hx]; exact only_putReg _ _ s.dev
    have hwrite : ringCtl q (setBits v.toNat (if q < 64 then 11 else 12) 1 1) s.dev = modSq q sqFresh x := by
      rw [ringCtl_open hr, if_pos hq, writeRingCtl, if_pos hq, hset]
    have hsq : Machine.sq x q = Machine.sq s.dev q := by rw [Machine.sq, honly.ring]; rfl
    refine ⟨modSq q sqFresh x, exec_calm (c := .ringEnable q v) rfl (decide_eq_true (by omega : q < 129)) hl hwrite
      (honly.calm.then (calm_modSq q _ x)), hbit, ?_, ?_, ?_, ?_, ?_, hrg⟩
    · rw [sq_modSq_self, sqFresh]
    · rw [sq_modSq_self, sqFresh]
    · rw [sq_modSq_self, sqFresh]
    · rw [sq_modSq_self, sqFresh, hsq]
    · rw [modSq_cqs, honly.ring]
  · have hen : (setBits v.toNat 12 1 1).testBit 12 = true := testBit_setBits_self _ _ _
    have hset := writeCqCtl_on hq hoff hen
    rw [testBit_setBits_off (by omega : 12 ≠ 13)] at hset
    generalize hx : putReg (oCqCtl q) _ s.dev = x at hset
    have hbit : cqOn x q = true := by
      rw [← hx, cqOn, flag, rg_putReg_self, testBit_writeFlds _ _ _ laidOut_cqCtl (by simp [cqCtlFlds]), hen]
    have honly : Only [.regs] s.dev x := by rw [← hx]; exact only_putReg _ _ s.dev
    have hcq : cq x q = cq s.dev q := by rw [cq, honly.ring]; rfl
    have hwrite : ringCtl (64 + q) (setBits v.toNat (if 64 + q < 64 then 11 else 12) 1 1) s.dev
        = modCq q (fun r => { r with wr := 0, rd := 0, armed := v.toNat.testBit 13 }) x := by
      rw [ringCtl_open hr, if_neg (by omega), writeRingCtl, if_neg (by omega), if_pos (by omega), Nat.add_sub_cancel_left, hset]
    refine ⟨_, exec_calm (c := .ringEnable (64 + q) v) rfl (decide_eq_true (by omega : 64 + q < 129)) hl hwrite
      (honly.calm.then (calm_modCq q _ x)), hbit, ?_, ?_, ?_, ?_, ?_⟩
    · rw [cq_modCq_self]
    · rw [cq_modCq_self]
    · rw [cq_modCq_self, hcq]
    · rw [cq_modCq_self]
    · rw [modCq_sqs, honly.ring]
  · have hen : (setBits v.toNat 12 1 1).testBit 12 = true := testBit_setBits_self _ _ _
    have hset := writeEqCtl_on hoff hseen hen
    generalize hx : putReg oEqCtl _ s.dev = x at hset
    have hbit : eqOn x = true := by
      rw [← hx, eqOn, flag, rg_putReg_self, testBit_writeFlds _ _ _ laidOut_cqCtl (by simp [cqCtlFlds]), hen]
    have honly : Only [.regs] s.dev x := by rw [← hx]; exact only_putReg _ _ s.dev
    have hwrite : ringCtl 128 (setBits v.toNat (if 128 < 64 then 11 else 12) 1 1) s.dev = modEq _ x :=
      (ringCtl_open hr).trans hset
    exact ⟨_, exec_calm (c := .ringEnable 128 v) rfl rfl hl hwrite (honly.calm.then (calm_modEq _ x)), hbit, rfl, rfl,
      (congrArg Rings.sqs honly.ring : x.ring.sqs = _), (congrArg Rings.cqs honly.ring : x.ring.cqs = _)⟩
  · have hen : (setBits v.toNat 11 1 0).testBit 11 = false := testBit_setBits_self _ _ _
    have hset := writeSqCtl_off hq hon hen
    generalize hx : putReg (oSqCtl q) _ s.dev = x at hset
    have hbit : sqOn x q = false := by
      rw [← hx, sqOn, flag, rg_putReg_self, testBit_writeFlds _ _ _ laidOut_sqFree (by simp [sqFreeFlds, rw, ro]), sqCtlValue_enable, hen]
    have honly : Only [.regs] s.dev x := by rw [← hx]; exact only_putReg _ _ s.dev
    have hsq : Machine.sq x q = Machine.sq s.dev q := by rw [Machine.sq, honly.ring]; rfl
    obtain ⟨hsq', hoff', hcqs, hcalm⟩ := sqStop_spec (d := x) hbit (by rw [hsq, hbusy]) (by rw [honly.sw, htx])
    rw [hsq] at hsq'
    refine ⟨_, exec_calm (c := .sqDisable q v) rfl (decide_eq_true hq) hl
      ((ringCtl_open hr).trans ((if_pos hq).trans hset)) (honly.calm.then hcalm), hoff', ?_, ?_, ?_, ?_⟩
    · rw [hsq']
    · rw [hsq']
    · rw [hsq']
    · rw [hcqs, honly.ring]

end

section
/-! SUPPORT. Entries of a queue: accepted, passed over, answered, kept waiting (R375, R378, R383, R392). -/

set_option Elab.async false

namespace Sys2Proof.Machine

open Sys2Proof

/-! ### Entries that are ready -/

section
variable {q : Nat} {e : Bytes} {d x : Dev} {f : Cmd → Bytes → Dev → Res}

theorem entryReady_operands (h : d.entryReady q e) : (decide (q < 64) && decide (e.length = 64)) = true := by
  obtain ⟨hq, hlen, -⟩ := h
  simp [hq, hlen]

/-- A copy of a command in progress is passed over. -/
theorem readEntry_busy (h : (sq d q).busy.contains (tagOf e) = true) : readEntry q e d = skipEntry q d := if_pos h

/-- The copy of a completed one is answered with what it completed with. -/
theorem readEntry_copy {st de r : Nat} (hb : (sq d q).busy.contains (tagOf e) = false) (hcq : cqFree d (cqOf d q) = true)
    (hw : (sq d q).window.find? (fun w => w.1 == tagOf e) = some (tagOf e, st, de, r)) :
    readEntry q e d = writeCq (cqOf d q) (cqEntry (tagOf e) st de r q true false) (skipEntry q d) := by
  unfold readEntry
  dsimp only
  rw [hb, if_neg Bool.false_ne_true, hcq, if_neg (by decide), hw]

/-- An entry with a new tag begins its command. -/
theorem readEntry_ready (h : d.entryReady q e) : readEntry q e d = runCmd (sqCmd q e) e d := by
  obtain ⟨-, -, -, -, -, -, hb, hwin, hcq, -⟩ := h
  have hfind : (sq d q).window.find? (fun w => w.1 == tagOf e) = none := by
    rw [List.find?_eq_none]
    exact List.any_eq_false.1 hwin
  unfold readEntry
  dsimp only
  rw [hb, if_neg Bool.false_ne_true, hcq, if_neg (by decide), hfind]

theorem entryRow_ready {op mode : Nat} (h : d.entryReady q e) (ho : opOf e = op) (hm : modeOf e = mode) :
    entryRow op mode q e d = runCmd (sqCmd q e) e d := by
  have hread := readEntry_ready h
  obtain ⟨-, -, hon, hwait, hne, hhead, -⟩ := h
  unfold entryRow
  dsimp only
  rw [if_neg (by simp [ho, hm, hon, hwait]), if_neg hne, if_pos hhead, hread]

/-- A command that cannot begin yet is kept at the head of its queue. -/
theorem runCmd_wait (h : d.entryReady q e) (hf : cmdOf (opOf e) (modeOf e) = some f) (hd : f (sqCmd q e) e d = .wait x) :
    runCmd (sqCmd q e) e d = keepWaiting (sqCmd q e) e x := by
  obtain ⟨-, -, -, hwait, -, -, -, -, -, hrec⟩ := h
  have hslow := not_slow q e d hwait
  have hun : unslow (sqCmd q e) d = d := if_neg (by rw [hslow]; exact Bool.false_ne_true)
  unfold runCmd
  rw [hslow, if_neg (by simp)]
  dsimp only
  rw [hun, hrec, if_neg (by simp), hf]
  dsimp only
  rw [hd]

/-- An entry whose command waits with nothing done stays at the head. -/
theorem keepWaiting_ready (h : d.entryReady q e) (hx : (sq x q).busy = (sq d q).busy) (hx' : (sq x q).window = (sq d q).window)
    (htodo : x.todo = []) : keepWaiting (sqCmd q e) e x = modSq q (fun s => { s with waiting := some e }) x := by
  obtain ⟨-, -, -, -, -, -, hb, hwin, -⟩ := h
  unfold keepWaiting sqCmd
  dsimp only
  rw [hx, hx', hb, hwin]
  exact if_neg (by simp [refusing, htodo])

end

/-! ### The entry at the head -/

section
variable {q : Nat} {d : Dev}

theorem sqAccept_reads (hon : sqOn d q = true) (hwait : (sq d q).waiting = none) (hne : (sq d q).head ≠ (sq d q).tail) :
    sqAccept q d = readEntry q (headEntry d q) (modRing (fun r => { r with turn := q }) d) := by
  unfold sqAccept
  dsimp only
  have hon' : sqOn (modRing (fun r => { r with turn := q }) d) q = true := hon
  rw [hon', hwait, if_neg (by decide), if_neg (by decide), if_neg hne]
  rfl

theorem entryReady_turn {e : Bytes} (h : d.entryReady q e) : (modRing (fun r => { r with turn := q }) d).entryReady q e := h

theorem only_skipEntry (q : Nat) (d : Dev) : Only [.regs, .tel, .ring] d (skipEntry q d) :=
  (only_count _ _ _ _ _).after (only_modSq _ _ d).in

end

/-! ### The queue after acceptance -/

section
variable {q : Nat} {e : Bytes} {d : Dev}

theorem sq_accept_sq (q : Nat) (e : Bytes) (d : Dev) : sq (accept (sqCmd q e) d) q
    = { sq d q with head := ((sq d q).head + 1) % sqDepth d q, waiting := none, busy := tagOf e :: (sq d q).busy } := by
  unfold accept sqCmd
  dsimp only
  rw [sq, hostWrite_sqs, (only_count _ _ _ _ _).ring, modCq_sqs]
  exact sq_modSq_self q _ d

theorem busy_unslow_sq (q : Nat) (e : Bytes) (d : Dev) : (sq (unslow (sqCmd q e) d) q).busy = (sq d q).busy := by
  unfold unslow
  split
  · exact sq_modSq_fixes (v := Sq.busy) (f := fun s => { s with slow := false }) (fun _ => rfl) q q d
  · rfl

/-! ### NOP and FENCE -/

theorem cmdNop_ok {c : Cmd} (h : plainOk e [] = true) : cmdNop c e d = .done 0 0 0 d := if_pos h

theorem cmdFence_done (h : plainOk e [] = true) (hd : (sq d q).busy.all (· == tagOf e) = true) :
    cmdFence (sqCmd q e) e d = .done 0 0 0 d := by
  unfold cmdFence
  rw [if_neg (by simp [h])]
  exact if_pos hd

theorem cmdFence_wait (h : plainOk e [] = true) (hd : ∃ t ∈ (sq d q).busy, t ≠ tagOf e) : cmdFence (sqCmd q e) e d = .wait d := by
  have hall : (sq d q).busy.all (· == tagOf e) = false := by
    obtain ⟨t, ht, hne⟩ := hd
    exact List.all_eq_false.2 ⟨t, ht, by simpa using hne⟩
  unfold cmdFence
  rw [if_neg (by simp [h])]
  exact if_neg (fun h => Bool.false_ne_true (hall.symm.trans h))

end

end Sys2Proof.Machine
open Sys2Proof Sys2Proof.Machine

/-- Settles O30: what `readEntry` makes of the entry at the head, and FENCE by the tags in progress. -/
theorem entriesAndFences : Obligations.EntriesAndFences := by
  intro s q e hl hq
  have hwf : decide (q < 64) = true := decide_eq_true hq
  have hturn := calm_modRing (fun r => { r with turn := q }) s.dev
  refine ⟨fun hready => ?_, fun hon hwait hne he => ⟨fun hbusy => ?_, fun st de r hbusy hcq hwin => ?_⟩,
    fun a hb ho hm hplain => ?_, fun a hb ho hm hplain hbusy => ?_, fun hready ho hm hplain hearly => ?_,
    fun a hr ho hm hplain hbusy => ?_⟩
  · obtain ⟨-, -, hon, hwait, hne, hhead, -⟩ := id hready
    refine exec_settle (c := .sqEntryAccept q) rfl hwf hl.1 ?_
    rw [sqAccept_reads hon hwait hne, hhead, readEntry_ready (entryReady_turn hready)]
  · subst he
    refine exec_calm (c := .sqEntryAccept q) rfl hwf hl ?_ (hturn.then (only_skipEntry q _).calm)
    rw [sqAccept_reads hon hwait hne]
    exact readEntry_busy (d := modRing _ s.dev) hbusy
  · subst he
    refine exec_calm (c := .sqEntryAccept q) rfl hwf hl ?_ ((hturn.then (only_skipEntry q _).calm).then (calm_writeCq _ _ _))
    rw [sqAccept_reads hon hwait hne]
    exact readEntry_copy (d := modRing _ s.dev) hbusy hcq hwin
  · exact exec_row_done (c := .nop q e) rfl (rowOperands_ok hb) hl hb ho hm rfl (cmdNop_ok hplain) (Calm.rfl' a)
  · have hall : (Machine.sq a q).busy.all (· == tagOf e) = true := by
      rw [begins_eq hb, sq_accept_sq, hbusy]
      simp
    exact exec_row_done (c := .fence q e) rfl (rowOperands_ok hb) hl hb ho hm rfl (cmdFence_done hplain hall) (Calm.rfl' a)
  · refine exec_calm (c := .fence q e) rfl (entryReady_operands hready) hl ?_ (calm_modSq q _ s.dev)
    rw [entryRow_ready hready ho hm, runCmd_wait hready (f := cmdFence) (by rw [ho, hm]; rfl) (cmdFence_wait hplain hearly),
      keepWaiting_ready hready rfl rfl hl.2.1]
  · have hall : (Machine.sq a q).busy.all (· == tagOf e) = true := by
      obtain ⟨-, -, -, -, -, -, -, -, rfl, -⟩ := hr
      rw [Dev.accepted, sq_accept_sq, busy_unslow_sq, hbusy]
      simp
    exact exec_retry_done (c := .fenceComplete q) rfl rfl hl hr (beq_iff_eq.2 ho) (f := cmdFence) (by rw [ho, hm]; rfl)
      (cmdFence_done hplain hall) (Calm.rfl' a)

end

section
/-! SUPPORT. A SEND whose one cell spills to a GDDR7 device that is not in use (R145, R339): the fault the write meets ends a COPY
sequence, whose command completes in the same step (R407). -/

set_option Elab.async false

namespace Sys2Proof.Machine

open Sys2Proof

/-- A SEND of one cell to EID 9, without ack. -/
def spillEnt : Bytes := ent 1 0 [(8, 8, 1), (16, 8, 65536), (24, 4, 64), (28, 3, 9), (31, 1, 2), (32, 2, 5)]

/-- A COPY that has restarted eight times, of a slot whose master copy and state lie in GDDR7 device 0. -/
def worn : RecSeq :=
  { id := 1, kind := 6, arg := 0, step := 2, restarts := 8, cmd := { sqCmd 0 [] with tag := 77 }, since := 0, mode := none, slots := [],
    got := zeros 48 ++ toLE 8 (2 ^ 32) ++ toLE 8 (2 ^ 32) ++ zeros 96, sole := false, silence := 0, srcEid := 0, furrow := (0, 0) }

/-- P0 is lent, P1 begins in GDDR7 device 0, and that device is not in use. -/
def spillDev : Dev :=
  { modGddr 0 (fun g => { g with failed := true }) (putReg 0x1C0008 8 (dHost spillEnt)) with
    bpm := { (dHost spillEnt).bpm with mode := 1, use := [(ownInt 84 0, { p0 := p0Cells, p1 := 0 })] }
    hlt := { (dHost spillEnt).hlt with seqs := [worn] } }

/-- The frame of the SEND. -/
def spillFrame : Frame :=
  { op := byteAt spillEnt 34, src := 8, dst := leAt spillEnt 28 3, tc := byteAt spillEnt 31 % 8, label := leAt spillEnt 32 2,
    hdr := frameHdr (slice spillEnt 36 20), data := hostRead spillDev (leAt spillEnt 16 8) (leAt spillEnt 24 4), xport := 84 + 0 % 2,
    furrow := if (byteAt spillEnt 31).testBit 5 then some (leAt spillEnt 60 4) else none, direct := none, reply := 0,
    seq := if (byteAt spillEnt 31).testBit 4 && byteAt spillEnt 34 == 0 then some (leAt spillEnt 56 4) else none,
    org := .host (sqCmd 0 spillEnt) ((byteAt spillEnt 31).testBit 3) 1 false }

theorem spillDev_ready : (stOf spillDev).live ∧ spillDev.entryReady 0 spillEnt ∧ sqEid spillDev 0 = some 8
    ∧ sendOk spillDev spillEnt = true := by
  simp only [State.live, Dev.quiet, Dev.entryReady]
  decide +kernel

theorem spillDev_leavesWhole : spillDev.leavesWhole spillFrame (admOf spillDev spillFrame) 6 wBudget := by
  simp only [Dev.leavesWhole]
  decide +kernel

/-- The window of SQ 0 after a command. -/
def windowAfter : Host.Outcome State Fault Refusal → List (Nat × Nat × Nat × Nat)
  | .next s => (sq s.dev 0).window
  | _ => []

/-- The SEND has completed, and so has the RECOVER behind the COPY, with TEST_FAILED. -/
theorem spillDev_send : windowAfter (exec (.send 0 spillEnt) (stOf spillDev)) = [(77, 0x11, 0, 0), (1, 0, 0, 1)] := by decide +kernel

end Sys2Proof.Machine
open Sys2Proof Sys2Proof.Machine

/-- Refutes O31: the cell of a SEND that spills to a device not in use brings a fault, which ends a COPY that has restarted eight
times; its command's tag enters the window of the same queue in the same step. -/
theorem not_hostFrames : ¬ Obligations.HostFrames := by
  intro h
  obtain ⟨hlive, hready, hsrc, hok⟩ := spillDev_ready
  obtain ⟨hsend, -⟩ := h (stOf spillDev) 0 8 spillEnt spillFrame hlive hready (by decide) hsrc
  obtain ⟨d, hexec, -, -, -, hwindow, -⟩ := (hsend (by decide) hok rfl).2 _ _ _ spillDev_leavesWhole (by decide)
  have hafter := spillDev_send
  rw [hexec, windowAfter, hwindow] at hafter
  have hone := congrArg List.head? hafter
  exact absurd (congrArg (Option.map Prod.fst) hone) (by decide)

end

section
/-! SUPPORT. Frames that reach a host endpoint, and timeouts of what waits for one (R379, R387, R388, R394, R395). -/

set_option Elab.async false

namespace Sys2Proof.Machine

open Sys2Proof

/-! ### Acknowledgements -/

section
variable {f : RxFrame} {d : Dev}

theorem takeAck_none (h : (byteAt f.hdr 0).testBit 3 = false) (d : Dev) : takeAck f d = d := if_pos (by rw [h]; rfl)

theorem takeAck_covered (h : (byteAt f.hdr 0).testBit 3 = true) : takeAck f d
    = each (d.ring.acks.filter (fun p => p.2.src == f.dst && p.2.dst == f.src && decide (subMod 32 (beAt f.hdr 8 4) p.2.seq < 2 ^ 31)))
      (fun p d => complete p.2.cmd 0 0 p.2.seq (modRing (fun r => { r with acks := tdel r.acks p.1 }) d)) d :=
  if_neg (by rw [h]; decide)

/-! ### Sequences -/

theorem newPair_known {p : DstPair} (h : tget d.ring.dstPairs (pairKey f.src f.dst) = some p) : newPair f.src f.dst d = d := by
  unfold newPair modRing
  dsimp only
  rw [h]

/-- A copy is counted and acknowledged again. -/
theorem seqReject_dup {p : DstPair} (h : tget d.ring.dstPairs (pairKey f.src f.dst) = some p) :
    seqReject f .dup d = modRing (fun r => { r with dstPairs := tput r.dstPairs (pairKey f.src f.dst) { p with ackDue := true } })
      (setEvt oRingEvt 2 (tally 14 0 (takeRx f d))) := by
  have honly : Only [.sw, .rx, .regs, .evt] d (setEvt oRingEvt 2 (tally 14 0 (takeRx f d))) :=
    (only_setEvt _ _ _).after ((only_tally _ _ _).after (only_modSw _ d).in)
  have hring := honly.ring
  unfold seqReject
  dsimp only
  generalize setEvt oRingEvt 2 (tally 14 0 (takeRx f d)) = x at hring ⊢
  unfold modRing tmod
  dsimp only
  rw [hring, h]

section
variable (hf : firstRx d (fun f => sequenced (rxOp f) && !f.accepted
  && (f.code == 0xF8 || f.code == 0xFB || (f.code == 0xFC && rxOp f == 0))) = some f)
include hf

theorem sequencedAccept_new (ht : seqTest d f.src f.dst (rxSeq f) = .accept) : sequencedAccept d
    = modSw (fun s => { s with rx := s.rx.map (fun x => if x = f then { x with accepted := true } else x) })
        (takeAck f (newPair f.src f.dst d)) := by
  unfold sequencedAccept
  rw [hf]
  dsimp only
  rw [ht]
  rfl

theorem sequencedAccept_copy (ht : seqTest d f.src f.dst (rxSeq f) = .dup) :
    sequencedAccept d = seqReject f .dup (newPair f.src f.dst d) := by
  unfold sequencedAccept
  rw [hf]
  dsimp only
  rw [ht]
  rfl

end

/-! ### Notices -/

theorem noticeJoin_none (h : d.cru.joins = []) : noticeJoin f d = d := by
  unfold noticeJoin
  rw [h]
  exact ite_self d

end

end Sys2Proof.Machine
open Sys2Proof Sys2Proof.Machine

/-- Settles O32: each frame by the first that waits of its kind, a sequenced one by its place in the window. -/
theorem hostArrivals : Obligations.HostArrivals := by
  intro s f hp
  refine ⟨fun hf => ⟨fun ht => ?_, fun p ht hpair => ?_⟩, fun q c n a rest all hf hbufs ht hall => ?_, fun h l hf hack hh hl => ?_,
    fun hf hjoins hack => ?_, fun id p hf hack hread => ?_, fun id p hpend hlate => ?_, fun id p dl hpend hdl hlate => ?_⟩
  · exact exec_settle (c := .sequencedFrameAccept) rfl rfl hp (sequencedAccept_new hf ht)
  · refine exec_settle (c := .sequencedFrameAccept) rfl rfl hp ((sequencedAccept_copy hf ht).trans ?_)
    rw [newPair_known hpair, seqReject_dup hpair]
  · refine exec_settle (c := .hostqRecvDeliver q) rfl rfl hp ?_
    unfold hostDeliver
    rw [hf, hbufs]
    dsimp only
    rw [ht, hall]
  · refine exec_settle (c := .ackReceive) rfl rfl hp ?_
    unfold ackReceive
    rw [hf]
    dsimp only
    rw [takeAck_covered hack, hl, hh]
    rfl
  · refine exec_settle (c := .noticeReceive) rfl rfl hp ?_
    unfold noticeReceive
    rw [hf]
    dsimp only
    rw [takeAck_none hack, noticeJoin_none (d := takeRx f s.dev) hjoins, noticeEvent]
  · refine exec_settle (c := .readRspReceive) rfl rfl hp ?_
    unfold readRsp
    rw [hf]
    dsimp only
    rw [takeAck_none hack, show (takeRx f s.dev).ring = s.dev.ring from rfl, hread]
  · refine exec_settle (c := .ackTimeout id) rfl rfl hp ?_
    unfold ackTimeout
    rw [hpend]
    exact if_pos hlate
  · refine exec_settle (c := .readTimeout id) rfl rfl hp ?_
    unfold readTimeout
    rw [hpend]
    dsimp only
    rw [hdl]
    exact if_pos hlate

end

section
/-! SUPPORT. The sequence window (R394). -/

set_option Elab.async false

namespace Sys2Proof.Machine

open Sys2Proof

/-- What the advance of H from `h` over the window `w` comes to. -/
structure Advanced (h : Nat) (w : List Nat) (r : Nat × List Nat) : Prop where
  stops : (r.1 + 1) % 2 ^ 32 ∉ r.2
  window : ∀ x ∈ r.2, x ∈ w
  passed : ∀ x ∈ w, x ∈ r.2 ∨ ∃ k, 1 ≤ k ∧ k ≤ w.length ∧ x = (h + k) % 2 ^ 32
  moved : ∃ k, k ≤ w.length ∧ r.1 = (h + k) % 2 ^ 32 ∧ ∀ j, 1 ≤ j → j ≤ k → (h + j) % 2 ^ 32 ∈ w

theorem advanced_stop {h : Nat} {w : List Nat} (hh : h < 2 ^ 32) (hw : (h + 1) % 2 ^ 32 ∉ w) : Advanced h w (h, w) where
  stops := hw
  window := fun _ hx => hx
  passed := fun _ hx => .inl hx
  moved := ⟨0, Nat.zero_le _, (Nat.mod_eq_of_lt hh).symm, fun j h1 h0 => absurd (h1.trans h0) (by decide)⟩

theorem mod_shift (h k : Nat) : ((h + 1) % 2 ^ 32 + k) % 2 ^ 32 = (h + (k + 1)) % 2 ^ 32 := by
  rw [Nat.mod_add_mod, Nat.add_assoc, Nat.add_comm 1 k]

/-- One accepted sequence that follows H is passed, and the rest of the window decides what follows. -/
theorem advanced_step {h : Nat} {w : List Nat} {r : Nat × List Nat} (hx : (h + 1) % 2 ^ 32 ∈ w)
    (hr : Advanced ((h + 1) % 2 ^ 32) (w.filter (· ≠ (h + 1) % 2 ^ 32)) r) : Advanced h w r := by
  have hsub : ∀ y ∈ w.filter (· ≠ (h + 1) % 2 ^ 32), y ∈ w := fun y hy => List.mem_of_mem_filter hy
  have hlen : (w.filter (· ≠ (h + 1) % 2 ^ 32)).length < w.length :=
    List.length_filter_lt_length_iff_exists.2 ⟨_, hx, by simp⟩
  obtain ⟨hstop, hwin, hpass, k, hk, hmove, hall⟩ := hr
  refine ⟨hstop, fun y hy => hsub y (hwin y hy), fun y hy => ?_, k + 1, by omega, by rw [hmove, mod_shift], fun j h1 hj => ?_⟩
  · by_cases hyx : y = (h + 1) % 2 ^ 32
    · exact .inr ⟨1, le_refl 1, by omega, hyx⟩
    · rcases hpass y (List.mem_filter.2 ⟨hy, by simpa using hyx⟩) with hin | ⟨i, hi1, hi, hyi⟩
      · exact .inl hin
      · exact .inr ⟨i + 1, by omega, by omega, by rw [hyi, mod_shift]⟩
  · obtain rfl | hj1 := Nat.eq_or_lt_of_le h1
    · exact hx
    · obtain ⟨i, rfl⟩ : ∃ i, j = i + 1 := ⟨j - 1, by omega⟩
      have hin := hsub _ (hall i (by omega) (by omega))
      rwa [mod_shift] at hin

theorem advance_advanced (n h : Nat) (w : List Nat) (hh : h < 2 ^ 32) (hn : w.length ≤ n) : Advanced h w (advance n h w) := by
  induction n generalizing h w with
  | zero =>
    have hw : w = [] := List.length_eq_zero_iff.1 (Nat.le_zero.1 hn)
    exact advanced_stop hh (by simp [hw])
  | succ n ih =>
    unfold advance
    dsimp only
    split
    · next hx =>
      have hmem : (h + 1) % 2 ^ 32 ∈ w := by simpa using hx
      have hlen : (w.filter (· ≠ (h + 1) % 2 ^ 32)).length < w.length :=
        List.length_filter_lt_length_iff_exists.2 ⟨_, hmem, by simp⟩
      exact advanced_step hmem (ih _ _ (Nat.mod_lt _ (by decide)) (by omega))
    · next hx => exact advanced_stop hh (by simpa using hx)

end Sys2Proof.Machine
open Sys2Proof Sys2Proof.Machine

/-- Settles O33: by induction on the fuel, each step passing the one accepted sequence that follows H. -/
theorem sequenceWindow : Obligations.SequenceWindow := by
  intro h w hh _
  obtain ⟨hstop, hwin, hpass, hmove⟩ := advance_advanced w.length h w hh (le_refl _)
  exact ⟨hstop, hwin, hpass, hmove⟩

end

section
/-! SUPPORT. A node of a GATHER other than the root holds no group that can lie idle (R216). -/

set_option Elab.async false

namespace Sys2Proof.Machine

open Sys2Proof

/-- A group that an input occupies since Swath 0. -/
def idleGroup : CruGroup := { groupZero with occ := some 0 }

/-- Node 1 of a GATHER whose idle limit is 9 Swaths. -/
def gatherNode : CruNode := { wNode true true with idx := 1, record := recHdr 6 0 300, groups := [(0, idleGroup)] }

def gatherDev : Dev := { dCru [(1, gatherNode)] [] [] [] with clk := { clockZero with swc := 12 } }

theorem gatherDev_idle : (stOf gatherDev).live ∧ tget gatherDev.cru.nodes 1 = some gatherNode ∧ rIdle gatherNode.record ≠ 0
    ∧ (0, idleGroup) ∈ gatherNode.groups ∧ idleGroup.occ.isSome = true ∧ rIdle gatherNode.record < swathsSince gatherDev idleGroup.since := by
  simp only [State.live, Dev.quiet]
  decide +kernel

/-- Whether a node is left after a command. -/
def nodeLeft (id : Nat) : Host.Outcome State Fault Refusal → Bool
  | .next s => (tget s.dev.cru.nodes id).isSome
  | _ => false

theorem gatherDev_kept : nodeLeft 1 (exec (.collIdleTimeout 1) (stOf gatherDev)) = true := by decide +kernel

theorem gatherDev_aborted : nodeLeft 1 (.next { stOf gatherDev with dev := settle (nodeAbort 1 7 0 none (stOf gatherDev).dev) }) = false := by
  decide +kernel

end Sys2Proof.Machine
open Sys2Proof Sys2Proof.Machine

/-- Refutes O34: COLL_IDLE_TIMEOUT leaves a GATHER node other than the root alone (R216), whatever its groups hold; the statement has
every node with an idle group abort. -/
theorem not_collectiveCommands : ¬ Obligations.CollectiveCommands := by
  intro h
  obtain ⟨hlive, hnode, hlim, hgroup, hocc, hsince⟩ := gatherDev_idle
  obtain ⟨-, -, -, hidle⟩ := h (stOf gatherDev) 0 [] gatherDev hlive
  have hafter := gatherDev_kept
  rw [hidle 1 gatherNode 0 idleGroup hnode hlim hgroup hocc hsince, gatherDev_aborted] at hafter
  exact Bool.false_ne_true hafter

end

section
/-! SUPPORT. The control frames of a collective (R198 to R202, R218). -/

set_option Elab.async false

namespace Sys2Proof.Machine

open Sys2Proof

/-! ### A creation whose REPLYs are all in (R200) -/

section
variable {id : Nat} {cr : Create} {d : Dev} (hcr : tget d.cru.creates id = some cr) (hall : cr.replies.length = cr.nodes.length)
include hcr hall

theorem createDecide_commits (hok : cr.replies.all (fun p => p.2 == 0) = true) (hphase : cr.phase = 1) :
    createDecide id false d = sendPhase id { cr with phase := 2, replies := [], since := d.clk.swc.toNat } 2 (fun _ => [])
      (modCru (fun x => { x with creates := tput x.creates id { cr with phase := 2, replies := [], since := d.clk.swc.toNat } }) d) := by
  unfold createDecide
  rw [hcr]
  exact if_pos (by simp [hall, hok, hphase])

theorem createDecide_completes (hok : cr.replies.all (fun p => p.2 == 0) = true) (hphase : cr.phase = 2) :
    createDecide id false d = complete cr.cmd 0 0 0 (modCru (fun x => { x with creates := tdel x.creates id }) d) := by
  unfold createDecide
  rw [hcr]
  exact (if_neg (by simp [hphase])).trans (if_pos (by simp [hall, hok]))

theorem createDecide_fails (hok : ¬ cr.replies.all (fun p => p.2 == 0) = true) : createDecide id false d = complete cr.cmd
    (if cr.replies.any (fun p => p.2 == 0x10) then 0x10 else if cr.noticed || !cr.lost.isEmpty then 7 else 2) 0 0
    (sendPhase id cr 3 (fun _ => []) (modCru (fun x => { x with creates := tdel x.creates id }) d)) := by
  have hfail : createDecide id false d = createFail id cr d := by
    unfold createDecide
    rw [hcr]
    exact (if_neg (by simp [hok])).trans ((if_neg (by simp [hok])).trans (if_pos (by simp [hall])))
  have hmissing : decide (cr.replies.length < cr.nodes.length) = false := decide_eq_false (by omega)
  rw [hfail]
  unfold createFail
  dsimp only
  rw [hmissing, Bool.or_false]

end

/-! ### Frames at a node and at the coordinator -/

section
variable {f : RxFrame} {d : Dev} {id : Nat} {n : CruNode}

theorem reserveFrame_known (hf : firstCtl d 1 = some f) (hn : nodeAt (takeRx f d) (fCid f) f.dst = some (id, n)) : reserveFrame d
    = if n.gen ≠ fGen f then sendReply f 1 2 none (takeRx f d)
      else sendReply f 1 (if n.record = slice f.data 0 64 ∧ n.nbrs = chunks 16 (f.data.drop 64) then 0 else 0x10) (some id)
        (takeRx f d) := by
  unfold reserveFrame
  rw [hf]
  dsimp only
  rw [hn]
  dsimp only
  by_cases hsame : n.record = slice f.data 0 64 ∧ n.nbrs = chunks 16 (f.data.drop 64)
  · rw [if_pos hsame, if_pos hsame]
  · rw [if_neg hsame, if_neg hsame]

/-- The entry a RESERVE makes. -/
def preparedNode (f : RxFrame) (sp : Nat) (banks : List Nat) (d : Dev) : CruNode :=
  { cid := fCid f, gen := fGen f, idx := fTail f, eidBase := f.dst, s := sp, banks := banks, active := false, token := beAt f.hdr 22 4,
    record := slice f.data 0 64, nbrs := chunks 16 (f.data.drop 64), since := d.clk.swc.toNat, got := false, matched := [], bad := [],
    groups := [], fwd := [], fin := 0 }

theorem reserveFrame_new {sp : Nat} {banks : List Nat} {a : Dev} (ha : takeRx f d = a) (hf : firstCtl d 1 = some f)
    (hnode : nodeAt a (fCid f) f.dst = none) (htomb : tombAt a (fCid f) f.dst = none)
    (hsp : eSpread ((chunks 16 (f.data.drop 64)).getD 0 []) = sp) (hbanks : banksOf a f.dst sp = some banks)
    (hprot : fWord f % 2 = cruProtect a)
    (hfree : banks.any (fun j => partOut a 6 j || decide (bankFree a j < rW (slice f.data 0 64) / sp)) = false) :
    reserveFrame d = sendReply f 1 0 (some a.cru.nextId)
      (modCru (fun x => { x with nextId := x.nextId + 1, nodes := tput x.nodes x.nextId (preparedNode f sp banks a) }) a) := by
  unfold reserveFrame
  rw [hf]
  dsimp only
  rw [ha, hnode, htomb, hsp]
  dsimp only
  rw [hbanks]
  dsimp only
  rw [if_neg (not_not.2 hprot), hfree]
  rfl

theorem commitFrame_prepared {a : Dev} (ha : takeRx f d = a) (hf : firstCtl d 2 = some f) (htomb : tombFor a (fCid f) (fGen f) f.dst = false)
    (hn : nodeAt a (fCid f) f.dst = some (id, n)) (hgen : n.gen = fGen f) (hact : n.active = false) (htok : n.token = beAt f.hdr 22 4) :
    commitFrame d = sendReply f 2 0 (some id) (modCru (fun x => { x with nodes := tput x.nodes id { n with active := true } }) a) := by
  unfold commitFrame
  rw [hf]
  dsimp only
  rw [ha, htomb, hn, if_neg Bool.false_ne_true]
  dsimp only
  rw [if_neg (not_not.2 hgen), hact, if_neg Bool.false_ne_true]
  exact if_pos htok

theorem releaseFrame_frees {a : Dev} (ha : takeRx f d = a) (hf : firstCtl d 3 = some f)
    (hn : nodeAt a (fCid f) f.dst = some (id, n)) (hgen : n.gen = fGen f) (htok : n.token = beAt f.hdr 22 4)
    (hidle : n.active = false ∨ n.got = false) : releaseFrame d = modCru (fun x => { x with nodes := tdel x.nodes id }) a := by
  unfold releaseFrame
  rw [hf]
  dsimp only
  rw [ha, hn]
  exact if_pos ⟨hgen, htok, by rcases hidle with h | h <;> simp [h]⟩

theorem replyFrame_found {a : Dev} {cr : Create} (ha : takeRx f d = a) (hf : firstCtl d 4 = some f)
    (hcr : a.cru.creates.find? (fun p => p.2.cid == fCid f && p.2.gen == fGen f && p.2.token == beAt f.hdr 22 4
      && p.2.phase == fWord f / 65536 % 256 && p.2.coord == f.dst && decide (fTail f < p.2.nodes.length)) = some (id, cr)) :
    replyFrame d = createDecide id false (modCru (fun x => { x with creates := tmod x.creates id (fun c =>
      { c with replies := tput c.replies (fTail f) (beAt f.hdr 26 2) }) }) a) := by
  unfold replyFrame
  rw [hf]
  dsimp only
  rw [ha, hcr]

theorem abortFrame_node {a : Dev} (ha : takeRx f d = a) (hf : firstCtl d 5 = some f)
    (hn : nodeAt a (fCid f) f.dst = some (id, n)) (hgen : n.gen = fGen f) :
    abortFrame d = nodeAbort id (beAt f.hdr 26 2) (beAt f.hdr 28 2) (some f.src) a := by
  unfold abortFrame
  rw [hf]
  dsimp only
  rw [ha, hn]
  exact if_pos hgen

theorem modCru_creates_none {a : Dev} (h : a.cru.creates = []) (g : Create → Create) :
    modCru (fun x => { x with creates := tmap g x.creates }) a = a := by
  unfold modCru
  dsimp only
  rw [h, show tmap g [] = a.cru.creates from h.symm]

/-- A NOTICE of a lost frame ends the one node it concerns. -/
theorem crucibleNotice_node {a : Dev} {why : Nat} (ha : takeRx f d = a) (hf : firstRx d (fun g => g.code == 0xF9 && rxOp g == 0xA) = some f)
    (hcr : a.cru.creates = [])
    (hwhy : (if beAt f.hdr 26 2 = 4 ∨ beAt f.hdr 26 2 = 5 then some 7 else if beAt f.hdr 26 2 = 8 then some 8 else none) = some why)
    (hn : a.cru.nodes.filter (fun p => nodeServes p.2 f.dst && ((p.2.cid == fCid f && p.2.gen == fGen f)
      || allZero (slice f.hdr 12 10))) = [(id, n)]) : crucibleNotice d = nodeAbort id why 0 none a := by
  unfold crucibleNotice
  rw [hf]
  dsimp only
  rw [ha, modCru_creates_none hcr, hwhy]
  dsimp only
  rw [hn]
  rfl

end

end Sys2Proof.Machine
open Sys2Proof Sys2Proof.Machine

/-- Settles O35: a creation by what its REPLYs say, a frame at a node by the entry it finds. -/
theorem controlFrames : Obligations.ControlFrames := by
  refine ⟨fun id cr d hcr hall => ⟨fun hok hphase c2 hc2 => ?_, createDecide_completes hcr hall, createDecide_fails hcr hall⟩,
    fun s f a hp ha => ⟨fun hf hnode htomb sp banks n hsp hbanks hprot hfree hn => ?_, fun hf id n hn => ?_,
      fun hf htomb id n hn hgen hact htok => ?_, fun hf id n hn hgen htok hidle => ?_, fun hf id cr hcr => ?_,
      fun hf id n hn hgen => ?_, fun hf hcr why hwhy id n hn => ?_⟩⟩
  · subst hc2
    exact createDecide_commits hcr hall hok hphase
  · subst hn
    exact exec_settle (c := .reserveFrame) rfl rfl hp (reserveFrame_new ha.symm hf hnode htomb hsp.symm hbanks hprot hfree)
  · subst ha
    exact exec_settle (c := .reserveFrame) rfl rfl hp (reserveFrame_known hf hn)
  · exact exec_settle (c := .commitFrame) rfl rfl hp (commitFrame_prepared ha.symm hf htomb hn hgen hact htok)
  · exact exec_settle (c := .releaseFrame) rfl rfl hp (releaseFrame_frees ha.symm hf hn hgen htok hidle)
  · exact exec_settle (c := .replyFrame) rfl rfl hp (replyFrame_found ha.symm hf hcr)
  · exact exec_settle (c := .abortFrame) rfl rfl hp (abortFrame_node ha.symm hf hn hgen)
  · have hwhy' : (if beAt f.hdr 26 2 = 4 ∨ beAt f.hdr 26 2 = 5 then some 7 else if beAt f.hdr 26 2 = 8 then some 8 else none) = some why := by
      rcases hwhy with ⟨hst, rfl⟩ | ⟨hst, rfl⟩
      · exact if_pos hst
      · rw [if_neg (by omega), if_pos hst]
    exact exec_settle (c := .crucibleNoticeReceive) rfl rfl hp (crucibleNotice_node ha.symm hf hcr hwhy' hn)

end

section
/-! SUPPORT. COLL_RESULT_MEMBER_ARRIVE with memory errors that name no codeword of the sixteen devices. -/

set_option Elab.async false

namespace Sys2Proof.Machine

open Sys2Proof

/-- A join of four elements. -/
def shortJoin : Join := { wJoin with count := 4 }

/-- A result of member 0 of the join `shortJoin`, at its HOSTQ endpoint. -/
def resultFrame : RxFrame := { chF 5 0 0 1 0 (wData 16) with code := 0xF8, src := 20, dst := 8 }

def memberDev : Dev := { dCru [] [(2, shortJoin)] [] [] with sw := { switchZero with rx := [resultFrame] } }

/-- An error of GDDR7 device 16: there is none. -/
def noSuchErr : List MemErr := [{ dev := 16, cw := 0, edc := 0, symbols := 0 }]

/-- The device as the result's frame is taken, its bytes are written and its chunk is marked. -/
def memberTaken : Dev := takeRx resultFrame (meet noSuchErr (stOf memberDev).dev)
def memberWritten : Dev :=
  hostWrite (resultAddr shortJoin (fWord resultFrame % 2 ^ 24)) (slice resultFrame.data 0 (resultBytes shortJoin (fWord resultFrame % 2 ^ 24))) memberTaken
def memberMarked : Dev :=
  modCru (fun u => { u with joins := tput u.joins 2 { shortJoin with
    got := fWord resultFrame % 2 ^ 24 :: shortJoin.got, flags := shortJoin.flags ||| (fWord resultFrame / 2 ^ 28) } }) memberWritten

theorem memberDev_result : (stOf memberDev).dev.boot.power = .on
    ∧ firstRx (stOf memberDev).dev (fun g => (g.code == 0xF8 || g.code == 0xFB) && rxOp g == 5) = some resultFrame
    ∧ memberTaken.cru.joins.filter (fun p => p.2.eid == resultFrame.dst && p.2.cid == fCid resultFrame && p.2.gen == fGen resultFrame)
        = [(2, shortJoin)]
    ∧ fWord resultFrame / 2 ^ 26 % 4 = 0 ∧ shortJoin.rank = fTail resultFrame ∧ fWord resultFrame % 2 ^ 24 < joinTotal shortJoin
    ∧ shortJoin.got.contains (fWord resultFrame % 2 ^ 24) = false
    ∧ resultBytes shortJoin (fWord resultFrame % 2 ^ 24) ≤ resultFrame.data.length ∧ cruProtect memberTaken = 0 := by decide +kernel

/-- Frames waiting after a command. -/
def framesLeft : Host.Outcome State Fault Refusal → Nat
  | .next s => s.dev.sw.rx.length
  | _ => 0

theorem memberDev_idle : framesLeft (exec (.collResultMemberArrive noSuchErr) (stOf memberDev)) = 1 := by decide +kernel

theorem memberDev_claim : framesLeft (.next { stOf memberDev with dev := unmeet noSuchErr (settle
    (if shortJoin.got.length + 1 = joinTotal shortJoin then closeJoin 2 0 0 memberMarked else memberMarked)) }) = 0 := by decide +kernel

end Sys2Proof.Machine
open Sys2Proof Sys2Proof.Machine

/-- Refutes O36: the statement lets COLL_RESULT_MEMBER_ARRIVE meet any list of memory errors; a list that names a device there is not
makes no command of the model, and the frame stays. -/
theorem not_collectiveChunks : ¬ Obligations.CollectiveChunks := by
  intro h
  obtain ⟨hpower, hfirst, hjoin, hkind, hrank, hchunk, hnew, hlen, hprot⟩ := memberDev_result
  obtain ⟨-, -, -, hmember, -⟩ := h (stOf memberDev) resultFrame (takeRx resultFrame (stOf memberDev).dev) hpower rfl
  have hclaim := hmember noSuchErr hfirst 2 shortJoin _ memberTaken memberWritten rfl rfl hjoin hkind hrank hchunk hnew hlen (.inl hprot) rfl rfl
    (.inl ⟨rfl, rfl, rfl⟩) memberMarked rfl
  have hafter := memberDev_idle
  rw [hclaim, memberDev_claim] at hafter
  exact absurd hafter (by decide)

end

section
/-! SUPPORT. Select contexts: OPEN, CLOSE and their waits (R228 to R230, R242). -/

set_option Elab.async false

namespace Sys2Proof.Machine

open Sys2Proof

/-! ### Two changes of one queue -/

theorem tput_tput {α : Type} (t : Tab α) (k : Nat) (a b : α) : tput (tput t k a) k b = tput t k b := by
  induction t with
  | nil => simp [tput]
  | cons p t ih =>
    obtain ⟨j, x⟩ := p
    rcases lt_trichotomy k j with h | rfl | h
    · simp [tput, h]
    · simp [tput]
    · simp [tput, h.not_gt, h.ne', ih]

theorem modSq_modSq (q : Nat) (f g : Sq → Sq) (d : Dev) : modSq q f (modSq q g d) = modSq q (fun s => f (g s)) d := by
  unfold modSq modRing
  dsimp only
  rw [tput_tput, tgetD_tput_self]

/-! ### OPEN -/

section
variable {q x : Nat} {e r : Bytes} {d : Dev}

theorem calm_modSel (f : Tab SelCtx → Tab SelCtx) (d : Dev) : Calm d (modSel f d) := ⟨rfl, rfl, rfl, rfl⟩

/-- A context as OPEN makes it. -/
def newCtx (gen : Nat) (r : Bytes) : SelCtx :=
  { gen := gen, record := r, closing := false, closers := [], cur := xFirst r, done := [], steps := [], queue := [], last := none,
    block := [], blockAt := 0, base := none }

/-- An OPEN of a context there is none of, whose record passes its checks, by what its unit has left (R229). -/
structure Opens (q x : Nat) (e r : Bytes) (d : Dev) : Prop where
  operand : leAt e 16 2 = x
  inRange : x ≤ 1023
  plain : plainOk e [(16, 4), (24, 8)] = true
  image : selImage (sqCmd q e) (leAt e 24 8) d = some r
  free : tget d.sel x = none
  record : selRecordOk r = true
  index : leAt r 0 2 = x
  gen : leAt r 2 2 = leAt e 18 2
  unit : partOut d 7 (x % 8) = false
  output : (tget d.tab.ept (xOut r)).isSome = true

theorem cmdSelectOpen_opens (h : Opens q x e r d) : cmdSelectOpen (sqCmd q e) e d
    = if 48 * d.clk.nsNow < xAllot r ∨ 16384 < memUnits r then .done 1 0 0 d
      else if 48 * d.clk.nsNow < allotUsed d (x % 8) + xAllot r ∨ 16384 < memUsed d (x % 8) + memUnits r then
        .wait (waitSwath (sqCmd q e) d)
      else .done 0 0 0 (modSel (fun t => tput t x (newCtx (leAt e 18 2) r)) { d with selFlags := tdel d.selFlags x }) := by
  obtain ⟨hx, hle, hplain, himg, hnone, hrec, hidx, hgen, hunit, hout⟩ := h
  subst hx
  have hsome : (tget d.tab.ept (xOut r)).isNone = false := by rw [← Option.not_isSome, hout]; rfl
  unfold cmdSelectOpen
  dsimp only
  rw [if_neg (by simp [hplain, hle]), himg]
  dsimp only
  rw [hnone]
  dsimp only
  rw [if_neg (by simp [hrec, hidx, hgen]), hunit, if_neg Bool.false_ne_true, hsome, if_neg Bool.false_ne_true]
  rfl

theorem cmdSelectOpen_ok (h : Opens q x e r d) (htime : allotUsed d (x % 8) + xAllot r ≤ 48 * d.clk.nsNow)
    (hmem : memUsed d (x % 8) + memUnits r ≤ 16384) : cmdSelectOpen (sqCmd q e) e d
    = .done 0 0 0 (modSel (fun t => tput t x (newCtx (leAt e 18 2) r)) { d with selFlags := tdel d.selFlags x }) := by
  rw [cmdSelectOpen_opens h, if_neg (by omega), if_neg (by omega)]

theorem cmdSelectOpen_wait (h : Opens q x e r d) (hfit : xAllot r ≤ 48 * d.clk.nsNow) (hfit' : memUnits r ≤ 16384)
    (hfull : 48 * d.clk.nsNow < allotUsed d (x % 8) + xAllot r ∨ 16384 < memUsed d (x % 8) + memUnits r) :
    cmdSelectOpen (sqCmd q e) e d = .wait (modSq q (fun s => { s with slow := true }) d) := by
  rw [cmdSelectOpen_opens h, if_neg (by omega), if_pos hfull]
  rfl

/-! ### CLOSE -/

theorem cmdSelectClose_idle {c : SelCtx} (hx : leAt e 16 2 = x) (hle : x ≤ 1023) (hplain : plainOk e [(16, 4)] = true)
    (hc : tget d.sel x = some c) (hgen : c.gen = leAt e 18 2) (hsteps : c.steps.filter (fun p => p.2.phase ≠ .input) = [])
    (hclosers : c.closers = []) : cmdSelectClose (sqCmd q e) e d = .done 0 0 0 (modSel (fun t => tdel t x) d) := by
  subst hx
  unfold cmdSelectClose
  dsimp only
  rw [if_neg (by simp [hplain, hle]), hc]
  dsimp only
  rw [if_neg (not_not.2 hgen), hsteps, hclosers]
  rfl

theorem cmdSelectClose_none (hx : leAt e 16 2 = x) (hle : x ≤ 1023) (hplain : plainOk e [(16, 4)] = true)
    (hc : tget d.sel x = none) : cmdSelectClose (sqCmd q e) e d = .done 0 0 0 d := by
  subst hx
  unfold cmdSelectClose
  dsimp only
  rw [if_neg (by simp [hplain, hle]), hc]
  rfl

theorem combTimeout_late {c : SelCtx} {st : Nat} {stp : SelStep} (hc : tget d.sel x = some c)
    (hst : c.steps.find? (fun p => p.2.phase == .rows && p.2.left == 0
      && within (xWait c.record + 1) (2 ^ 47) (swathsSince d p.2.disp)) = some (st, stp)) :
    combTimeout x d = stepFail x st 5 (setEvt oSelEvt 4 d) := by
  unfold combTimeout
  rw [hc]
  dsimp only
  rw [hst]

end

end Sys2Proof.Machine
open Sys2Proof Sys2Proof.Machine

/-- Settles O37: an OPEN by what its unit has left, a CLOSE by the steps of its context. -/
theorem selectContexts : Obligations.SelectContexts := by
  intro s q e r a k x hl hx hle
  refine ⟨fun ctx ho hm hplain himg hnone hrec hidx hgen hunit hout htime hmem hctx hk => ?_,
    fun hready ho hm hplain himg hnone hrec hidx hgen hunit hout hfit hfit' hfull => ?_,
    fun hb ho hm hplain => ⟨fun c hc hgen hsteps hclosers => ?_, fun hc => ?_⟩, fun c st stp hc hst => ?_⟩
  · subst hctx hk
    have hopen := cmdSelectOpen_ok ⟨hx.symm, hle, hplain, himg, hnone, hrec, hidx, hgen, hunit, hout⟩ htime hmem
    have hcalm : Calm a (modSel (fun t => tput t x (newCtx (leAt e 18 2) r)) { a with selFlags := tdel a.selFlags x }) := ⟨rfl, rfl, rfl, rfl⟩
    refine ⟨fun hb => exec_row_done (c := .selectOpen q e) rfl (rowOperands_ok hb) hl hb ho hm rfl hopen hcalm, fun hr => ?_⟩
    exact exec_retry_done (c := .selectOpenRetry q) rfl rfl hl hr (by simp [isOpMode, ho, hm]) (f := cmdSelectOpen) (by rw [ho, hm]; rfl)
      hopen hcalm
  · have hwait := cmdSelectOpen_wait (q := q) ⟨hx.symm, hle, hplain, himg, hnone, hrec, hidx, hgen, hunit, hout⟩ hfit hfit' hfull
    refine exec_calm (c := .selectOpen q e) rfl (entryReady_operands hready) hl ?_ (calm_modSq q _ s.dev)
    have hkeep := keepWaiting_ready (x := modSq q (fun s => { s with slow := true }) s.dev) hready (by rw [sq_modSq_self])
      (by rw [sq_modSq_self]) hl.2.1
    rw [entryRow_ready hready ho hm, runCmd_wait hready (f := cmdSelectOpen) (by rw [ho, hm]; rfl) hwait, hkeep, modSq_modSq]
  · exact exec_row_done (c := .selectClose q e) rfl (rowOperands_ok hb) hl hb ho hm rfl
      (cmdSelectClose_idle hx.symm hle hplain hc hgen hsteps hclosers) (calm_modSel _ a)
  · exact exec_row_done (c := .selectClose q e) rfl (rowOperands_ok hb) hl hb ho hm rfl
      (cmdSelectClose_none hx.symm hle hplain hc) (Calm.rfl' a)
  · exact exec_settle (c := .combWaitTimeout x) rfl (decide_eq_true (by omega : x < 1024)) hl.1 (combTimeout_late hc hst)

end

section
/-! SUPPORT. SELECT_WORK_ITEM of a context number beyond the 1,024 of the machine (R228). -/

set_option Elab.async false

namespace Sys2Proof.Machine

open Sys2Proof

/-- A frame that names context 1033. -/
def farFrame : RxFrame := selF 6 7 1033 0 []

/-- The context with its work item taken off, and the step. -/
def farStep : SelStep := (tget (wWork 0).steps 7).getD stepZero

/-- A device whose tables hold a context 1033, its work item due. -/
def farDev : Dev := dSel [(1033, wWork 0)] false [] []

/-- The device as its work item is taken. -/
def farTaken : Dev :=
  count 10 1 (workCost (wWork 0).record farStep.els.length) {} (modCtx 1033 (fun c => { c with queue := [] }) (stOf farDev).dev)

/-- The output of the step. -/
def farOutput : Dev :=
  selOutput 1033 7 8 0 0
    (((sortBy (selLe (xFmt (wWork 0).record) false) (stepPairs (wWork 0).record farStep)).take (xK (wWork 0).record)).flatMap pairBytes) farTaken

theorem farDev_due : (stOf farDev).dev.boot.power = .on ∧ 1033 = selX farFrame ∧ tget (stOf farDev).dev.sel 1033 = some (wWork 0)
    ∧ (wWork 0).queue = 7 :: [] ∧ tget (wWork 0).steps 7 = some farStep ∧ farStep.phase = .work 0 ∧ swathCome (stOf farDev).dev 0 = true
    ∧ xAllot (wWork 0).record ≠ 0 ∧ xOp (wWork 0).record = 0 := by decide +kernel

/-- Work items of a context after a command. -/
def itemsLeft (x : Nat) : Host.Outcome State Fault Refusal → List Nat
  | .next s => ((tget s.dev.sel x).map (·.queue)).getD []
  | _ => []

theorem farDev_idle : itemsLeft 1033 (exec (.selectWorkItem 1033) (stOf farDev)) = [7] := by decide +kernel

theorem farDev_claim : itemsLeft 1033 (.next { stOf farDev with dev := settle farOutput }) = [] := by decide +kernel

end Sys2Proof.Machine
open Sys2Proof Sys2Proof.Machine

/-- Refutes O38: the statement takes a context's number from bytes 30 and 31 of a frame, so up to 65,535; a work item beyond the 1,024
contexts of the machine names no context, and changes nothing. -/
theorem not_selectFrames : ¬ Obligations.SelectFrames := by
  intro h
  obtain ⟨hpower, hx, hctx, hqueue, hstep, hphase, hcome, hallot, hop⟩ := farDev_due
  obtain ⟨-, -, hwork, -⟩ := h (stOf farDev) farFrame (takeRx farFrame (stOf farDev).dev) 1033 hpower rfl hx
  obtain ⟨htopk, -⟩ := hwork (wWork 0) 7 [] farStep 0 hctx hqueue hstep hphase hcome hallot farTaken rfl
  have hclaim : exec (.selectWorkItem 1033) (stOf farDev) = .next { stOf farDev with dev := settle farOutput } := htopk hop
  have hafter := farDev_idle
  rw [hclaim, farDev_claim] at hafter
  exact absurd hafter (by decide)

end

section
/-! SUPPORT. Forge queues: TASK, IMEM_LOAD and IMEM_SWAP (R257, R258, R303, R304). -/

set_option Elab.async false

namespace Sys2Proof.Machine

open Sys2Proof

theorem calm_modForge (f : Nat) (g : Forge → Forge) (d : Dev) : Calm d (modForge f g d) := ⟨rfl, rfl, rfl, rfl⟩
theorem calm_modForges (g : Forges → Forges) (d : Dev) : Calm d (modForges g d) := ⟨rfl, rfl, rfl, rfl⟩

theorem calm_enqueueCmd (f st : Nat) (b : Bytes) (org : CmdFrom) (mb : Option (Nat × Nat)) (close : Bool) (d : Dev) :
    Calm d (enqueueCmd f st b org mb close d) :=
  ⟨rfl, rfl, rfl, rfl⟩

/-! ### Bytes that are all zero -/

theorem byteAt_of_allZero {e : Bytes} {lo n i : Nat} (h : allZero (slice e lo n) = true) (hi : i < n) : byteAt e (lo + i) = 0 := by
  rw [slice_eq_map, allZero, List.all_map, List.all_eq_true] at h
  have hz := h i (List.mem_range.2 hi)
  rw [Function.comp_apply, beq_iff_eq] at hz
  rw [byteAt, hz]
  rfl

/-- A two-byte field of zero bytes. -/
theorem leAt_two_of_zero {e : Bytes} {lo : Nat} (h : byteAt e lo = 0) (h' : byteAt e (lo + 1) = 0) : leAt e lo 2 = 0 := by
  unfold leAt
  rw [slice_eq_map]
  show (0 * 256 + byteAt e (lo + 1)) * 256 + byteAt e lo = 0
  rw [h, h']

/-! ### TASK -/

section
variable {q f st : Nat} {e : Bytes} {a : Dev}

/-- A TASK of no micro-batch whose body passes its checks (R257). -/
structure PlainTask (f st : Nat) (e : Bytes) : Prop where
  forge : f = byteAt e 48 % 16
  stream : st = byteAt e 48 / 16
  body : bodyOk e [(16, 42)] = true
  flags : byteAt e 1 ≤ 1
  inRange : st ≤ 5
  zero : allZero (slice e 49 9) = true
  cmd : cmdOk st (slice e 16 32) = true

theorem cmdTask_plain (h : PlainTask f st e) (hf : forgeFenced a f = false) : cmdTask (sqCmd q e) e a
    = if queueFull a f st then taskFull ((byteAt e 1).testBit 0) a
      else .run (enqueueCmd f st (slice e 16 32) (.task (sqCmd q e)) none false a) := by
  obtain ⟨rfl, rfl, hbody, hflags, hst, hzero, hcmd⟩ := h
  have hphase : byteAt e 49 = 0 := byteAt_of_allZero hzero (i := 0) (by omega)
  have hslot : leAt e 50 2 = 0 :=
    leAt_two_of_zero (byteAt_of_allZero hzero (i := 1) (by omega)) (byteAt_of_allZero hzero (i := 2) (by omega))
  unfold cmdTask
  dsimp only
  rw [hphase, hslot, if_neg (by simp [hbody, hflags, hst, hzero, hcmd]), if_neg (by rw [hf]; exact Bool.false_ne_true)]
  exact if_pos rfl

theorem queueFull_false (h : (strm a f st).queue.length < 64) : queueFull a f st = false := decide_eq_false (by omega)
theorem queueFull_true (h : 64 ≤ (strm a f st).queue.length) : queueFull a f st = true := decide_eq_true h

theorem cmdTask_room (h : PlainTask f st e) (hf : forgeFenced a f = false) (hq : (strm a f st).queue.length < 64) :
    cmdTask (sqCmd q e) e a = .run (enqueueCmd f st (slice e 16 32) (.task (sqCmd q e)) none false a) := by
  rw [cmdTask_plain h hf, queueFull_false hq]
  exact if_neg Bool.false_ne_true

theorem cmdTask_waits (h : PlainTask f st e) (hf : forgeFenced a f = false) (hq : 64 ≤ (strm a f st).queue.length)
    (hwait : byteAt e 1 = 0) : cmdTask (sqCmd q e) e a = .wait a := by
  rw [cmdTask_plain h hf, queueFull_true hq, hwait]
  rfl

theorem cmdTask_refused (h : PlainTask f st e) (hf : forgeFenced a f = false) (hq : 64 ≤ (strm a f st).queue.length)
    (hnow : byteAt e 1 = 1) : cmdTask (sqCmd q e) e a = .done 3 0 0 a := by
  rw [cmdTask_plain h hf, queueFull_true hq, hnow]
  rfl

/-! ### IMEM_LOAD and IMEM_SWAP -/

/-- The load an IMEM_LOAD starts (R303). -/
def newLoad (q : Nat) (e : Bytes) (a : Dev) : ImemLoad :=
  { cmd := sqCmd q e, forge := byteAt e 28 % 16, bank := byteAt e 28 / 16, first := leAt e 24 2,
    words := (List.range (leAt e 26 2)).map (fun i => leAt (hostRead a (leAt e 16 8) (8 * leAt e 26 2)) (8 * i) 8) }

theorem cmdImemLoad_ok (hplain : plainOk e [(16, 13)] = true) (hwhere : byteAt e 28 ≤ 31) (hn : leAt e 26 2 ≠ 0)
    (hfit : leAt e 24 2 + leAt e 26 2 ≤ 4096) (halign : leAt e 16 8 % 64 = 0) (hf : forgeFenced a (byteAt e 28 % 16) = false)
    (hbank : (forge a (byteAt e 28 % 16)).bank ≠ byteAt e 28 / 16) (hswap : (forge a (byteAt e 28 % 16)).swap = none) :
    cmdImemLoad (sqCmd q e) e a
      = .run (modForges (fun x => { x with nextId := x.nextId + 1, loads := tput x.loads x.nextId (newLoad q e a) }) a) := by
  unfold cmdImemLoad
  dsimp only
  rw [if_neg (by simp [hplain, hwhere, hn, hfit]), image_sq q e _ a halign]
  dsimp only
  rw [if_neg (by rw [hf]; exact Bool.false_ne_true), if_neg (by simp [hbank, hswap])]
  rfl

theorem cmdImemSwap_ok (hplain : plainOk e [(16, 1)] = true) (hwhere : byteAt e 16 ≤ 15) (hf : forgeFenced a (byteAt e 16) = false)
    (hswap : (forge a (byteAt e 16)).swap = none) :
    cmdImemSwap (sqCmd q e) e a = .run (modForge (byteAt e 16) (fun x => { x with swap := some (sqCmd q e) }) a) := by
  unfold cmdImemSwap
  dsimp only
  rw [if_neg (by simp [hplain, hwhere]), if_neg (by rw [hf]; exact Bool.false_ne_true), hswap]
  rfl

theorem imemDone_of {id : Nat} {l : ImemLoad} (h : tget a.forge.loads id = some l) : imemDone id a
    = complete l.cmd 0 0 0 (modForge l.forge (fun x =>
        if l.bank = 0 then { x with imem0 := putWords x.imem0 l.first l.words } else { x with imem1 := putWords x.imem1 l.first l.words })
        (modForges (fun x => { x with loads := tdel x.loads id }) a)) := by
  unfold imemDone
  rw [h]

theorem imemSwapApply_none (h : (forge a f).swap = none) : imemSwapApply f a = a := by
  unfold imemSwapApply
  dsimp only
  rw [h]

/-- A swap takes place at a boundary with every stream at rest and no load of the inactive bank under way. -/
theorem imemSwapApply_due {c : Cmd} (h : (forge a f).swap = some c) (hnow : a.clk.now = a.clk.swStart)
    (hrest : ∀ st, st < 6 → (strm a f st).on = false ∧ (strm a f st).halted = false)
    (hload : ∀ p ∈ a.forge.loads, p.2.forge = f → p.2.bank = (forge a f).bank) :
    imemSwapApply f a = complete c 0 0 0 (modForge f (fun x => { x with bank := 1 - x.bank, swap := none }) a) := by
  have hidle : ((List.range 6).all fun st => !(strm a f st).on && !(strm a f st).halted) = true := by
    refine List.all_eq_true.2 fun st hst => ?_
    obtain ⟨hon, hhalt⟩ := hrest st (List.mem_range.1 hst)
    rw [hon, hhalt]
    rfl
  have hnone : (a.forge.loads.any fun p => p.2.forge == f && p.2.bank ≠ (forge a f).bank) = false := by
    refine List.any_eq_false.2 fun p hp => ?_
    simp only [ne_eq, Bool.and_eq_true, beq_iff_eq, decide_eq_true_eq, not_and, not_not]
    exact hload p hp
  unfold imemSwapApply
  dsimp only
  rw [h]
  exact if_pos ⟨hnow, hidle, hnone⟩

end

end Sys2Proof.Machine
open Sys2Proof Sys2Proof.Machine

/-- Settles O40: a TASK by what room its queue has, a load and a swap by the banks of their Forge. -/
theorem forgeQueues : Obligations.ForgeQueues := by
  intro s q e a hl
  refine ⟨fun f st hf hst ho hm hbody hflags hle hzero hcmd => ?_, fun f bank n hf hbank hn hb ho hm hplain hwhere hn0 hfit halign hfence hother hswap => ?_,
    fun id l h => exec_settle (c := .imemLoadDone id) rfl rfl hl.1 (imemDone_of h),
    fun hb ho hm hplain hwhere hfence hswap => ?_, fun f c hf hswap hnow hrest hload => ?_⟩
  · have htask : PlainTask f st e := ⟨hf, hst, hbody, hflags, hle, hzero, hcmd⟩
    refine ⟨fun hb hfence hroom => ?_, fun hr hfence hroom => ?_, fun hready hfence hfull hwait => ?_, fun hb hfence hfull hnow => ?_⟩
    · exact exec_row_run (c := .task q e) rfl (rowOperands_ok hb) hl hb ho hm rfl (cmdTask_room htask hfence hroom)
        (calm_enqueueCmd f st _ _ _ _ a)
    · exact exec_retry_run (c := .taskQueueRetry q) rfl rfl hl hr (by simp [isOp, ho]) (f := cmdTask) (by rw [ho, hm]; rfl)
        (cmdTask_room htask hfence hroom) (calm_enqueueCmd f st _ _ _ _ a)
    · refine exec_calm (c := .task q e) rfl (entryReady_operands hready) hl ?_ (calm_modSq q _ s.dev)
      rw [entryRow_ready hready ho hm, runCmd_wait hready (f := cmdTask) (by rw [ho, hm]; rfl) (cmdTask_waits htask hfence hfull hwait),
        keepWaiting_ready hready rfl rfl hl.2.1]
    · exact exec_row_done (c := .task q e) rfl (rowOperands_ok hb) hl hb ho hm rfl (cmdTask_refused htask hfence hfull hnow) (Calm.rfl' a)
  · subst hf hbank hn
    exact exec_row_run (c := .imemLoad q e) rfl (rowOperands_ok hb) hl hb ho hm rfl
      (cmdImemLoad_ok hplain hwhere hn0 hfit halign hfence hother hswap) (calm_modForges _ a)
  · exact exec_row_run (c := .imemSwap q e) rfl (rowOperands_ok hb) hl hb ho hm rfl (cmdImemSwap_ok hplain hwhere hfence hswap)
      (calm_modForge _ _ a)
  · exact exec_settle (c := .imemSwapApply f) rfl (decide_eq_true hf) hl.1 (imemSwapApply_due hswap hnow hrest hload)

end

section
/-! SUPPORT. Forges, their streams, and the commands of a stream (R260 to R263, R285, R304). -/

set_option Elab.async false

namespace Sys2Proof.Machine

open Sys2Proof

/-! ### A change of one Forge or of one stream -/

theorem forge_modForge_self (f : Nat) (g : Forge → Forge) (d : Dev) : forge (modForge f g d) f = g (forge d f) :=
  tgetD_tput_self _ _ _ _

theorem forge_modForge_ne {f k : Nat} (h : k ≠ f) (g : Forge → Forge) (d : Dev) : forge (modForge f g d) k = forge d k :=
  tgetD_tput_ne _ _ _ _ _ h.symm

/-- A change that keeps the streams of its Forge keeps every stream. -/
theorem strm_modForge_keep {f : Nat} {g : Forge → Forge} {d : Dev} (h : (g (forge d f)).streams = (forge d f).streams) (k st : Nat) :
    strm (modForge f g d) k st = strm d k st := by
  by_cases hk : k = f
  · subst hk
    rw [strm, forge_modForge_self, h, strm]
  · rw [strm, forge_modForge_ne hk, strm]

theorem strm_modStrm_self (f st : Nat) (g : Stream → Stream) (d : Dev) : strm (modStrm f st g d) f st = g (strm d f st) := by
  rw [strm, modStrm, forge_modForge_self]
  exact tgetD_tput_self _ _ _ _

theorem strm_of_forge {d d' : Dev} (h : d'.forge = d.forge) (f st : Nat) : strm d' f st = strm d f st := by
  unfold strm forge
  rw [h]

/-! ### Start -/

section
variable {f st t : Nat} {d : Dev} {c : FCmd} {rest : List FCmd}

/-- A swap leaves the streams alone. -/
theorem strm_imemSwapApply (f : Nat) (d : Dev) (k st : Nat) : strm (imemSwapApply f d) k st = strm d k st := by
  unfold imemSwapApply
  dsimp only
  split
  · rfl
  · split
    · rw [strm_of_forge (only_complete _ _ _ _ _).forge, strm_modForge_keep rfl]
    · rfl

/-- A command whose micro-batch has not failed and whose extent its budget covers starts, waits or is refused by its budget. -/
theorem commandStart_by_budget {z : Dev} (hz : z = imemSwapApply f (tick t d)) (hq : (strm z f st).queue = c :: rest)
    (hon : (strm z f st).on = false) (hhalt : (strm z f st).halted = false) (hmb : c.mb = none)
    (hhome : cHome c.b = 0 ∨ 4096 * cHome c.b ≤ homeLimit z f c.b) : commandStart f st t d
      = if cSwaths c.b then
          if z.clk.now = z.clk.swStart then startNow f st c (.swath ((z.clk.swc.toNat + cBudget c.b - 1) % 2 ^ 48)) z else z
        else if 6 * z.clk.nsNow < cBudget c.b then endCommand f st 1 z
        else if cBudget c.b ≤ cyclesLeft z f z.clk.now then startNow f st c (.cycle (nowEff z f + cBudget c.b)) z else z := by
  unfold commandStart
  dsimp only
  rw [← hz, hq]
  dsimp only
  rw [if_neg (by rw [hon, hhalt]; exact Bool.false_ne_true), hmb]
  dsimp only [Option.bind]
  rw [if_neg Bool.false_ne_true]
  exact if_neg (by omega)

/-! ### End and overrun -/

theorem drained_of (hmov : (strm d f st).movers = []) (hsend : st = 1 → (forge d f).sends = []) : drained d f st = true := by
  unfold drained
  rw [hmov]
  by_cases hst : st = 1
  · simp [hsend hst]
  · simp [hst]

theorem commandEnd_drained (hd : d = tick t s) (hon : (strm d f st).on = true) (hend : (strm d f st).ended = true)
    (hdr : drained d f st = true) (hnext : (strm d f st).next ≤ nowEff d f) :
    commandEnd f st t s = endCommand f st (if endsLate d (strm d f st) then 0x12 else 0) d := by
  unfold commandEnd
  dsimp only
  rw [← hd, hon, hend, hdr]
  exact if_neg (by simp [hnext])

theorem endsLate_cycle {x : Stream} {l : Nat} (h : x.limit = .cycle l) : endsLate d x = decide (l < x.next) := by
  unfold endsLate
  rw [h]

theorem spent_cycle {x : Stream} {l : Nat} (h : x.limit = .cycle l) (e : Nat) : spent d x e = decide (l ≤ e) := by
  unfold spent
  rw [h]

theorem spent_swath {x : Stream} {w : Nat} (h : x.limit = .swath w) (e : Nat) :
    spent d x e = within 1 (2 ^ 47) (subMod 48 d.clk.swc.toNat w) := by
  unfold spent
  rw [h]

theorem endsLate_swath {x : Stream} {w : Nat} (h : x.limit = .swath w) :
    endsLate d x = within 1 (2 ^ 47) (subMod 48 d.clk.swc.toNat w) := by
  unfold endsLate
  rw [h]
  exact spent_swath h 0

theorem commandOverrun_spent {s : Dev} (hd : d = tick t s) (hon : (strm d f st).on = true) (hend : (strm d f st).ended = false)
    (hspent : spent d (strm d f st) (nowEff d f) = true) : commandOverrun f st t s = endCommand f st 0x12 d := by
  unfold commandOverrun
  dsimp only
  rw [← hd, hon, hend, hspent]
  exact if_pos rfl

theorem subMod_self (w n : Nat) : subMod w n n = 0 := by
  unfold subMod
  rw [Nat.add_sub_cancel_left, Nat.mod_self]

end

end Sys2Proof.Machine
open Sys2Proof Sys2Proof.Machine

/-- Settles O41: a start by its budget, an end by its limit. -/
theorem forgeCommands : Obligations.ForgeCommands := by
  intro s f st t d z c rest hp hf hst hd hz hq
  have hw : (decide (f < 16) && decide (st < 6)) = true := by simp [hf, hst]
  refine ⟨fun hon hhalt hmb hhome => ?_, fun hon hend hmov hsend hnext => ?_, fun hon hend hlim => ?_⟩
  · have hq' : (strm z f st).queue = c :: rest := by rw [hz, strm_imemSwapApply, hq]
    have hstart := commandStart_by_budget (hz.trans (congrArg _ hd)) hq' hon hhalt hmb hhome
    refine ⟨fun hc hbig => ?_, fun hc hfit hleft => ?_, fun hc hnow => ?_⟩
    all_goals refine exec_settle (c := .forgeCommandStart f st t) rfl hw hp (hstart.trans ?_)
    · rw [hc]
      exact (if_neg Bool.false_ne_true).trans (if_pos hbig)
    · rw [hc]
      exact (if_neg Bool.false_ne_true).trans ((if_neg (by omega)).trans (if_pos hleft))
    · rw [hc]
      exact (if_pos rfl).trans (if_pos hnow)
  · have hended := commandEnd_drained hd hon hend (drained_of hmov hsend) hnext
    refine ⟨fun l hl => ?_, fun w hl hin => ?_⟩
    all_goals refine exec_settle (c := .forgeCommandEnd f st t) rfl hw hp (hended.trans ?_)
    · rw [endsLate_cycle hl]
      by_cases h : l < (strm d f st).next
      · simp [h, Nat.not_le.2 h]
      · simp [h, Nat.not_lt.1 h]
    · have hin' : within 1 (2 ^ 47) (subMod 48 d.clk.swc.toNat w) = false := by
        rcases hin with h | h
        · rw [within, decide_eq_false (show ¬ _ ≤ 2 ^ 47 by omega), Bool.and_false]
        · rw [h, subMod_self]
          rfl
      rw [endsLate_swath hl, hin']
      rfl
  · have hspent : spent d (strm d f st) (nowEff d f) = true := by
      rcases hlim with ⟨l, hl, h⟩ | ⟨w, hl, h1, h2⟩
      · rw [spent_cycle hl, decide_eq_true h]
      · rw [spent_swath hl, within, decide_eq_true h1, decide_eq_true h2]
        rfl
    exact exec_settle (c := .commandOverrun f st t) rfl hw hp (commandOverrun_spent hd hon hend hspent)

end

section
/-! SUPPORT. DISPATCH frames: rows taken, cells written, commands enqueued (R266, R267). -/

set_option Elab.async false

namespace Sys2Proof.Machine

open Sys2Proof

/-! ### Sorting -/

theorem mem_insertBy {α : Type} (le : α → α → Bool) (a x : α) (l : List α) : x ∈ insertBy le a l ↔ x = a ∨ x ∈ l := by
  induction l with
  | nil => simp [insertBy]
  | cons b t ih =>
    unfold insertBy
    split
    · simp
    · rw [List.mem_cons, ih, List.mem_cons]
      tauto

theorem mem_sortBy {α : Type} (le : α → α → Bool) (x : α) (l : List α) : x ∈ sortBy le l ↔ x ∈ l := by
  induction l with
  | nil => simp [sortBy]
  | cons a t ih => exact (mem_insertBy le a x (sortBy le t)).trans (by rw [ih, List.mem_cons])

/-! ### What a Forge's frames leave alone -/

theorem only_modForges (g : Forges → Forges) (d : Dev) : Only [.forge] d (modForges g d) := fun x hx => by
  cases x
  case forge => exact absurd (by decide) hx
  all_goals rfl

theorem only_modForge (f : Nat) (g : Forge → Forge) (d : Dev) : Only [.forge] d (modForge f g d) := only_modForges _ d

theorem only_takeAck (f : RxFrame) (d : Dev) : Only [.regs, .tel, .ring, .todo] d (takeAck f d) := by
  unfold takeAck
  split
  · exact .refl _ d
  · exact only_each (fun p d => (only_complete _ _ _ _ _).after (only_modRing _ d).in) _ d

theorem only_rowsWrite (k st n base rb top o : Nat) (b : Bytes) (d : Dev) : Only [.forge] d (rowsWrite k st n base rb top o b d) :=
  only_each (fun _ d => only_modForge k _ d) _ d

/-- Whether a Forge is fenced is told by the health record, the log and its home device. -/
theorem forgeFenced_congr {d d' : Dev} (hh : d'.hlt = d.hlt) (hn : d'.nv = d.nv) (hm : d'.mem = d.mem) (f : Nat) :
    forgeFenced d' f = forgeFenced d f := by
  unfold forgeFenced partOut retired gddr
  rw [hh, hn, hm]

theorem Only.fenced {l : List Part} {d d' : Dev} (h : Only l d d') (f : Nat) (hh : Part.hlt ∉ l := by decide)
    (hn : Part.nv ∉ l := by decide) (hm : Part.mem ∉ l := by decide) : forgeFenced d' f = forgeFenced d f :=
  forgeFenced_congr (h.hlt hh) (h.nv hn) (h.mem hm) f

/-- Writing rows leaves the holders' numbers as they were. -/
theorem nextHandle_rowsWrite (k st n base rb top o : Nat) (b : Bytes) (d : Dev) :
    (forge (rowsWrite k st n base rb top o b d) k).nextHandle = (forge d k).nextHandle := by
  unfold rowsWrite
  dsimp only
  generalize ((List.range n).filter _) = l
  induction l generalizing d with
  | nil => rfl
  | cons j l ih =>
    refine (ih _).trans ?_
    rw [forge_modForge_self]

/-! ### The matching of a frame -/

section
variable {d z : Dev} {k : Nat} {f : RxFrame} {c : Claim}

theorem unclaimed_idx (h : unclaimed d k = [f]) : f.idx = k := by
  have hf : f ∈ unclaimed d k := by rw [h]; exact List.mem_cons_self
  rw [unclaimed, mem_sortBy, List.mem_filter, Bool.and_eq_true, beq_iff_eq] at hf
  exact hf.2.1

/-- A frame that finds rows takes them. -/
theorem dispatchClaim_takes (hk : f.idx = k) (h : d.takesRows k f c z) :
    ∃ y, dispatchClaim f d = some (c, y) ∧ z = setClaim f c y := by
  obtain ⟨i, n, top, b, -, hfence, hbind, rfl, rfl, hfit, rfl, hfree, hc, hz⟩ := h
  refine ⟨_, ?_, hz⟩
  unfold dispatchClaim
  dsimp only
  rw [hk, if_neg (by rw [hfence]; exact Bool.false_ne_true), hbind]
  dsimp only
  rw [if_neg (by omega), if_neg (by omega), hc]
  rfl

/-- While too few rows are free it waits. -/
theorem dispatchClaim_full {i : Nat} (hk : f.idx = k) (hfence : forgeFenced d k = false) (hbind : bindFor d f = some i)
    (hfit : (512 * beAt f.hdr 2 2 - 32) / bindRow d k i ≤ bindMax d k i)
    (hfull : bindMax d k i < (tgetD (forge d k).inbox i { wr := 0, ring := [] }).ring.length + (512 * beAt f.hdr 2 2 - 32) / bindRow d k i) :
    dispatchClaim f d = none := by
  unfold dispatchClaim
  dsimp only
  rw [hk, if_neg (by rw [hfence]; exact Bool.false_ne_true), hbind]
  exact (if_neg (by omega)).trans (if_pos hfull)

theorem dispatchGo_takes (hu : unclaimed d k = [f]) (h : d.takesRows k f c z) :
    dispatchGo k d = each (z.sw.reasm.filter (fun r => r.code == 0xFB && r.idx == k)) (cellsIn k) z := by
  obtain ⟨y, hclaim, hz⟩ := dispatchClaim_takes (unclaimed_idx hu) h
  unfold dispatchGo
  rw [hu, List.foldl_cons, List.foldl_nil]
  dsimp only
  rw [if_pos rfl, hclaim]
  dsimp only
  rw [← hz]

theorem dispatchGo_full (hu : unclaimed d k = [f]) (h : dispatchClaim f d = none) :
    dispatchGo k d = each (d.sw.reasm.filter (fun r => r.code == 0xFB && r.idx == k)) (cellsIn k) d := by
  unfold dispatchGo
  rw [hu, List.foldl_cons, List.foldl_nil]
  dsimp only
  rw [if_pos rfl, h]

theorem dispatchGo_none (hu : unclaimed d k = []) :
    dispatchGo k d = each (d.sw.reasm.filter (fun r => r.code == 0xFB && r.idx == k)) (cellsIn k) d := by
  unfold dispatchGo
  rw [hu]
  rfl

theorem cellsIn_rows {r : Reasm} {b h st n base rb top w : Nat} (hr : r.claim = .rows b h st n base rb top w) : cellsIn k r d
    = modSw (fun x => { x with reasm := x.reasm.map (fun y =>
          if y.key == r.key then { y with claim := .rows b h st n base rb top r.cells.length } else y) })
        (each ((r.cells.drop w).map cellData) (fun c d => rowsWrite k st n base rb top c.1 c.2 d) d) := by
  unfold cellsIn
  rw [hr]

/-! ### A whole frame -/

/-- Nothing is being gathered at a Forge. -/
def noneGathered (d : Dev) : Prop := ∀ r ∈ d.sw.reasm, r.code ≠ 0xFB

theorem reasmFrame_none {r : Reasm} (h : r.code ≠ 0xFB) : reasmFrame r = none := by
  unfold reasmFrame
  split
  · exact if_neg fun h' => h h'.1
  · rfl

theorem noneGathered_frames (h : noneGathered d) : d.sw.reasm.filterMap reasmFrame = [] :=
  List.filterMap_eq_nil_iff.2 fun r hr => reasmFrame_none (h r hr)

theorem noneGathered_cells (h : noneGathered d) : d.sw.reasm.filter (fun r => r.code == 0xFB && r.idx == k) = [] :=
  List.filter_eq_nil_iff.2 fun r hr => by simp [h r hr]

/-- With nothing in reassembly, the DISPATCH frames that wait to be matched are among the whole ones. -/
theorem unclaimed_whole (h : noneGathered d) (hrx : d.sw.rx.filter (fun g => g.code == 0xFB && rxOp g == 8) = [f]) :
    unclaimed d k = if f.idx = k ∧ f.claim = .none then [f] else [] := by
  unfold unclaimed
  rw [hrx, noneGathered_frames h, List.append_nil]
  by_cases hc : f.idx = k ∧ f.claim = .none
  · rw [if_pos hc, List.filter_cons_of_pos (by simp [hc.1, hc.2])]
    rfl
  · rw [if_neg hc, List.filter_cons_of_neg (by simpa using hc)]
    rfl

theorem setClaim_reasm (h : noneGathered d) : (setClaim f c d).sw.reasm = d.sw.reasm :=
  (List.map_congr_left fun r hr => by rw [reasmFrame_none (h r hr)]; rfl).trans (List.map_id d.sw.reasm)

/-- What a DISPATCH frame is told by does not depend on what it has come to. -/
theorem setClaim_whole (hrx : d.sw.rx.filter (fun g => g.code == 0xFB && rxOp g == 8) = [f]) :
    (setClaim f c d).sw.rx.filter (fun g => g.code == 0xFB && rxOp g == 8) = [{ f with claim := c }] := by
  show (d.sw.rx.map fun x => if x = f then { x with claim := c } else x).filter _ = _
  have hsame : ((fun g : RxFrame => g.code == 0xFB && rxOp g == 8) ∘ fun x : RxFrame => if x = f then { x with claim := c } else x)
      = fun g => g.code == 0xFB && rxOp g == 8 := by
    funext x
    rw [Function.comp_apply]
    split <;> rfl
  rw [List.filter_map, hsame, hrx, List.map_cons, List.map_nil, if_pos rfl]

theorem firstRx_whole (hrx : d.sw.rx.filter (fun g => g.code == 0xFB && rxOp g == 8) = [f]) (hc : f.claim ≠ .none) :
    firstRx d (fun f => f.code == 0xFB && rxOp f == 8 && f.claim ≠ .none) = some f := by
  have hfind := List.find?_filter (xs := d.sw.rx) (p := fun g => g.code == 0xFB && rxOp g == 8) (q := fun g => decide (g.claim ≠ .none))
  rw [hrx, List.find?_cons_of_pos (by simp [hc])] at hfind
  rw [hfind, firstRx]
  congr 1
  funext g
  rw [Bool.decide_and, Bool.decide_eq_true, Bool.decide_eq_true]

theorem takesRows_keeps (h : d.takesRows k f c z) (hg : noneGathered d)
    (hrx : d.sw.rx.filter (fun g => g.code == 0xFB && rxOp g == 8) = [f]) :
    noneGathered z ∧ z.sw.rx.filter (fun g => g.code == 0xFB && rxOp g == 8) = [{ f with claim := c }] := by
  obtain ⟨i, n, top, b, -, -, -, -, -, -, -, -, -, rfl⟩ := h
  refine ⟨fun r hr => ?_, setClaim_whole hrx⟩
  rw [setClaim_reasm (by exact hg)] at hr
  exact hg r hr

end

/-- A whole DISPATCH frame that has been matched, or can be, is the one that ends. -/
theorem dispatchArrive_whole {d z : Dev} {k w : Nat} {f g : RxFrame} {i h st n base rb top : Nat} (hk : f.idx = k) (hn : noneGathered d)
    (hrx : d.sw.rx.filter (fun g => g.code == 0xFB && rxOp g == 8) = [f])
    (hg : (f.claim = .rows i h st n base rb top w ∧ g = f ∧ z = d)
      ∨ (w = 0 ∧ g = { f with claim := .rows i h st n base rb top 0 } ∧ d.takesRows k f g.claim z)) :
    dispatchArrive d = dispatchEnd g z ∧ g.idx = k ∧ g.data = f.data ∧ g.hdr = f.hdr ∧ g.src = f.src
      ∧ g.claim = .rows i h st n base rb top w := by
  have hone : ((d.sw.rx.filter (fun f => f.code == 0xFB && rxOp f == 8)).map (·.idx)).eraseDups = [k] := by
    rw [hrx, List.map_cons, List.map_nil, hk]
    rfl
  have hgo : dispatchArrive d = match firstRx (dispatchGo k d) (fun f => f.code == 0xFB && rxOp f == 8 && f.claim ≠ .none) with
      | none => dispatchGo k d
      | some f => dispatchEnd f (dispatchGo k d) := by
    unfold dispatchArrive
    rw [hone]
    rfl
  have hu := unclaimed_whole (k := k) hn hrx
  rcases hg with ⟨hc, rfl, rfl⟩ | ⟨rfl, rfl, ht⟩
  · have hrows : g.claim ≠ .none := by rw [hc]; exact nofun
    rw [if_neg (fun h => hrows h.2)] at hu
    have hid : dispatchGo k z = z := by
      rw [dispatchGo_none hu, noneGathered_cells hn]
      rfl
    rw [hid, firstRx_whole hrx hrows] at hgo
    exact ⟨hgo, hk, rfl, rfl, rfl, hc⟩
  · obtain ⟨hn', hrx'⟩ := takesRows_keeps ht hn hrx
    have hfree : f.claim = .none := by
      obtain ⟨-, -, -, -, hc, -⟩ := ht
      exact hc
    rw [if_pos ⟨hk, hfree⟩] at hu
    have hid : dispatchGo k d = z := by
      rw [dispatchGo_takes hu ht, noneGathered_cells hn']
      rfl
    rw [hid, firstRx_whole hrx' nofun] at hgo
    exact ⟨hgo, hk, rfl, rfl, rfl, rfl⟩

/-- What is left of a matched frame is written, and its spare rows are freed (R266). -/
def rowsFilled (g : RxFrame) (k i h st n base rb top w : Nat) (z : Dev) : Dev :=
  releaseRows k i h (min n (g.data.length / rb)) (some (forge z k).nextHandle)
    (rowsWrite k st n base rb top (if w = 0 then 0 else 512 * w - 32) (if w = 0 then g.data else g.data.drop (512 * w - 32))
      (takeAck g (takeRx g z)))

theorem only_rowsFilled (g : RxFrame) (k i h st n base rb top w : Nat) (z : Dev) :
    Only [.regs, .tel, .ring, .todo, .sw, .rx, .forge] z (rowsFilled g k i h st n base rb top w z) :=
  (only_modForge _ _ _).after ((only_rowsWrite _ _ _ _ _ _ _ _ _).after ((only_takeAck _ _).after (only_modSw _ z).in))

/-- The handle of a frame whose rows are written. -/
def newHandle (g : RxFrame) (i st n base rb top v : Nat) : Handle :=
  { num := v, bind := i, src := g.src, step := beAt g.hdr 12 4, gen := beAt g.hdr 16 2, expert := byteAt g.hdr 18,
    ctx := beAt g.hdr 30 2, cells := beAt g.hdr 22 4, rows := min n (g.data.length / rb), first := base + rb * (st % top),
    told := false, cmds := none }

theorem dispatchEnd_whole {z : Dev} {k w : Nat} {g : RxFrame} {i h st n base rb top : Nat} (hk : g.idx = k)
    (hc : g.claim = .rows i h st n base rb top w) (hf : forgeFenced z k = false) (hlen : g.data.length % rb = 0) :
    dispatchEnd g z = enqueueWaiting k (modForge k (fun x => { x with
        nextHandle := (forge z k).nextHandle + 1
        handles := tput x.handles (forge z k).nextHandle (newHandle g i st n base rb top ((Config.freeValue z.free).toNat % 2 ^ 32)) })
      (drawFree (rowsFilled g k i h st n base rb top w z)).2) := by
  have honly : Only [.regs, .tel, .ring, .todo, .sw, .rx] z (takeAck g (takeRx g z)) :=
    (only_takeAck _ _).after (only_modSw _ z).in
  have hnext : (forge (takeAck g (takeRx g z)) k).nextHandle = (forge z k).nextHandle := by
    unfold forge
    rw [honly.forge]
  have hfree := (only_rowsFilled g k i h st n base rb top w z).free
  unfold rowsFilled at hfree ⊢
  unfold dispatchEnd
  rw [hc, hk]
  dsimp only
  rw [nextHandle_rowsWrite, hnext, (only_rowsWrite _ _ _ _ _ _ _ _ _).fenced, honly.fenced, hf, if_neg Bool.false_ne_true,
    if_neg (not_not.2 hlen)]
  unfold drawFree
  dsimp only
  rw [hfree]
  rfl

/-! ### Handles whose commands wait -/

theorem handleEnqueue_room {d : Dev} {k h : Nat} {hd : Handle} {sts : List Nat} (hget : tget (forge d k).handles h = some hd)
    (hsts : sts = (List.range 6).filter (fun st => (bits (bindWord d k hd.bind 0) 18 6).testBit st))
    (hroom : ∀ st ∈ sts, (strm d k st).queue.length < 64) {u : Dev}
    (hu : u = each sts (fun st d => enqueueCmd k st (bindCmd d k hd.bind st hd.first hd.rows hd.step hd.num) (.binding h) none false d)
      (modForge k (fun x =>
        { x with handles := tput x.handles h { hd with cmds := some ((List.range sts.length).map (d.forge.ser + ·)) } }) d)) :
    handleEnqueue k h d = (true, if forgeFenced u k then forgeFence k u else u) := by
  have hany : sts.any (queueFull d k) = false :=
    List.any_eq_false.2 fun st hst => by rw [queueFull_false (hroom st hst)]; exact Bool.false_ne_true
  unfold handleEnqueue
  rw [hget]
  dsimp only
  rw [← hsts, if_neg (by rw [hany]; exact Bool.false_ne_true), ← hu]

theorem enqueueWaiting_one {d u : Dev} {k h : Nat} {hd : Handle} (hone : (forge d k).handles.filter (fun p => p.2.cmds.isNone) = [(h, hd)])
    (hput : handleEnqueue k h d = (true, u)) : enqueueWaiting k d = u := by
  unfold enqueueWaiting
  rw [hone, List.foldl_cons, List.foldl_nil]
  dsimp only
  rw [if_pos rfl, hput]

end Sys2Proof.Machine
open Sys2Proof Sys2Proof.Machine

/-- Settles O42: a frame is matched, waits, has its cells written, and ends in its template's commands. -/
theorem dispatchFrames : Obligations.DispatchFrames := by
  intro s k hp hk
  have hw : decide (k < 16) = true := decide_eq_true hk
  refine ⟨fun f hu => ⟨fun c z h => ?_, fun i n hfence hbind hn hfit hfull => ?_⟩, fun r b h st n base rb top w hu hone hr => ?_,
    fun f g z i h st n base rb top w m v hd t u hfk hn hrx hg hfence hlen hm ht hv hhd hu => ?_, fun h hd sts u hone hget hsts hroom hu => ?_⟩
  · exact exec_settle (c := .dispatchInboxReserve k) rfl hw hp (dispatchGo_takes hu h)
  · subst hn
    exact exec_settle (c := .dispatchInboxReserve k) rfl hw hp
      (dispatchGo_full hu (dispatchClaim_full (unclaimed_idx hu) hfence hbind hfit hfull))
  · refine exec_settle (c := .dispatchInboxReserve k) rfl hw hp ((dispatchGo_none hu).trans ?_)
    rw [hone]
    exact cellsIn_rows hr
  · obtain ⟨harrive, hgk, hdata, hhdr, hsrc, hclaim⟩ := dispatchArrive_whole hfk hn hrx hg
    refine exec_settle (c := .dispatchArrive) rfl rfl hp ?_
    rw [harrive, dispatchEnd_whole hgk hclaim hfence (by rw [hdata]; exact hlen), hu, hhd, ht, hm, hv, ← hdata, ← hhdr, ← hsrc]
    rfl
  · exact exec_settle (c := .dispatchEnqueueRetry k) rfl hw hp (enqueueWaiting_one hone (handleEnqueue_room hget hsts hroom hu))

end

section
/-! SUPPORT. FORGE_WRITE_FRAME with memory errors that name no codeword of the sixteen devices. -/

set_option Elab.async false

namespace Sys2Proof.Machine

open Sys2Proof

/-- A WRITE of 48 bytes to Forge 2's local memory, accepted in sequence. -/
def flmWrite : RxFrame := rxD 3 (toBE 8 0x500 ++ zeros 12) ((List.range 48).map (BitVec.ofNat 8)) true

def flmDev : Dev := dDisp [flmWrite] id

/-- The device once the frame is taken. -/
def flmTaken : Dev := seqAccept flmWrite.src flmWrite.dst (rxSeq flmWrite) (takeRx flmWrite (meet noSuchErr (stOf flmDev).dev))

theorem flmDev_write : (stOf flmDev).dev.boot.power = .on ∧ firstForge (stOf flmDev).dev 3 = some flmWrite
    ∧ seqTest (stOf flmDev).dev flmWrite.src flmWrite.dst (rxSeq flmWrite) = .accept ∧ forgeFenced flmTaken flmWrite.idx = false
    ∧ beAt flmWrite.hdr 12 8 + flmWrite.data.length ≤ flmSize := by decide +kernel

theorem flmDev_idle : framesLeft (exec (.forgeWriteFrame noSuchErr) (stOf flmDev)) = 1 := by decide +kernel

theorem flmDev_claim : framesLeft (.next { stOf flmDev with dev := unmeet noSuchErr (settle (postSem flmWrite.idx (hdrSem flmWrite.hdr)
    (modForge flmWrite.idx (fun x => { x with flm := memWriteN x.flm (beAt flmWrite.hdr 12 8) flmWrite.data }) flmTaken))) }) = 0 := by
  decide +kernel

end Sys2Proof.Machine
open Sys2Proof Sys2Proof.Machine

/-- Refutes O43: the statement lets FORGE_WRITE_FRAME meet any list of memory errors; a list that names a device there is not makes no
command of the model, and the frame stays. -/
theorem not_forgeFrames : ¬ Obligations.ForgeFrames := by
  intro h
  obtain ⟨hpower, hfirst, htest, hfence, hfit⟩ := flmDev_write
  obtain ⟨hwrite, -⟩ := h (stOf flmDev) flmWrite noSuchErr _ hpower rfl
  have hclaim := ((hwrite flmTaken _ hfirst rfl).2 htest rfl hfence).1 hfit
  have hafter := flmDev_idle
  rw [hclaim, flmDev_claim] at hafter
  exact absurd hafter (by decide)

end

section
/-! SUPPORT. Registers of a Forge; semaphores (R253 to R255, R280). -/

set_option Elab.async false

namespace Sys2Proof.Machine

open Sys2Proof

/-! ### A write of a register without flags to clear -/

/-- A register with no W1C bit takes the value as written. -/
theorem spare_of_plain {off : Nat} {r : Reg} (h : regOf off = some r) (hr : r.flds.all (fun f => f.acc ≠ .w1c) = true) (v : Nat) (d : Dev) :
    spare off v d = v := by
  unfold spare
  rw [h]
  dsimp only
  generalize r.flds = l at hr
  induction l with
  | nil => rfl
  | cons f l ih =>
    rw [List.all_cons, Bool.and_eq_true, decide_eq_true_eq] at hr
    rw [List.foldl_cons, if_neg (fun h => hr.1 h.1)]
    exact ih hr.2

/-! ### Registers of a Forge -/

section
variable {f o v : Nat} {d : Dev}

theorem regOf_forge (hf : f < 16) (ho : o < 0x10000) : regOf (oForge f + o) = regForge f o := by
  have hoff : 0x300000 + 0x10000 * f + o - 0x300000 = o + 0x10000 * f := by omega
  have hdiv : (o + 0x10000 * f) / 0x10000 = f := by omega
  have hmod : (o + 0x10000 * f) % 0x10000 = o := by omega
  unfold regOf oForge
  rw [if_neg (by omega), if_neg (by omega), if_neg (by omega), if_neg (by omega), if_neg (by omega), if_neg (by omega), if_neg (by omega),
    if_neg (by omega), if_neg (by omega), if_neg (by omega), if_neg (by omega), if_neg (by omega), if_pos (by omega), hoff, hdiv, hmod]

theorem writeReg_forge (hf : f < 16) (ho : o < 0x10000) (hr : d.boot.recovery = false) :
    writeReg (oForge f + o) v d = writeForge f o (spare (oForge f + o) v d) d := by
  have hlo : 0x300000 ≤ oForge f + o := by unfold oForge; omega
  have hhi : oForge f + o < 0x400000 := by unfold oForge; omega
  have hdiv : (oForge f + o - 0x300000) / 0x10000 = f := by unfold oForge; omega
  have hmod : (oForge f + o - 0x300000) % 0x10000 = o := by unfold oForge; omega
  unfold writeReg
  dsimp only
  generalize oForge f + o = off at hlo hhi hdiv hmod
  rw [if_neg (by simp [hr]), if_neg (by omega), if_neg (by omega), if_neg (by omega), if_neg (by omega), if_neg (by omega), if_neg (by omega),
    if_neg (by omega), if_neg (by omega), if_neg (by omega), if_neg (by omega), if_pos ⟨hlo, hhi⟩, hdiv, hmod]

/-- The registers of a Forge behind its first ones. -/
theorem regForge_high (h : 0x400 ≤ o) : regForge f o
    = if 0x400 ≤ o ∧ o < 0x480 ∧ o % 4 = 0 then r32 [rw 0 16 0]
      else if f = 0 ∧ 0x800 ≤ o ∧ o < 0x900 ∧ o % 4 = 0 then r32 [rw 0 16 0]
      else if 0x1000 ≤ o ∧ o < 0x3000 then
        match o % 32 with
        | 0 => r64 [rw 0 10 0, rw 10 8 0, rw 18 6 0, rw 24 1 0, rw 32 24 0]
        | 8 => r64 [rwIf 0 13 0 (within 1 4096), rwIf 16 16 0 (within 2 4097)]
        | 16 => r64 [rw 0 12 0, rw 16 16 0, rw 32 32 0]
        | 24 => r64 [rw 0 16 0, rw 16 16 0]
        | _ => none
      else none := by
  unfold regForge
  split
  case h_8 => rfl
  all_goals exact absurd h (by decide)

/-- A Q semaphore's register sets its count while its Forge is idle. -/
theorem writeReg_qsem {n : Nat} (hf : f < 16) (hn : n < 32) (hr : d.boot.recovery = false) :
    writeReg (oForge f + 0x400 + 4 * n) v d = writeQsem f n v d := by
  have hreg : regOf (oForge f + (0x400 + 4 * n)) = some { bytes := 4, flds := [rw 0 16 0] } := by
    rw [regOf_forge hf (by omega), regForge_high (by omega), if_pos (by omega)]
    rfl
  have hidx : (0x400 + 4 * n - 0x400) / 4 = n := by omega
  rw [Nat.add_assoc, writeReg_forge hf (by omega) hr, spare_of_plain hreg rfl]
  unfold writeForge
  rw [if_neg (by omega), if_neg (by omega), if_neg (by omega), if_pos (by omega), hidx]

/-- A G semaphore's register sets its count while every Forge is idle. -/
theorem writeReg_gsem {n : Nat} (hn : n < 64) (hr : d.boot.recovery = false) : writeReg (0x300800 + 4 * n) v d = writeGsem n v d := by
  have hreg : regOf (oForge 0 + (0x800 + 4 * n)) = some { bytes := 4, flds := [rw 0 16 0] } := by
    rw [regOf_forge (by omega) (by omega), regForge_high (by omega), if_neg (by omega), if_pos (by omega)]
    rfl
  have hidx : (0x800 + 4 * n - 0x800) / 4 = n := by omega
  have hoff : 0x300800 + 4 * n = oForge 0 + (0x800 + 4 * n) := by unfold oForge; omega
  rw [hoff, writeReg_forge (by omega) (by omega) hr, spare_of_plain hreg rfl]
  unfold writeForge
  rw [if_neg (by omega), if_neg (by omega), if_neg (by omega), if_neg (by omega), if_pos (by omega), hidx]

/-! ### Posts and waits -/

theorem forge_stamp (off i k : Nat) (d : Dev) : forge (stamp off i d) k = forge d k := rfl

/-- A post adds and saturates, with the overflow recorded. -/
theorem semAdd_own (f n v : Nat) (d : Dev) :
    tgetD (forge (semAdd f (some f) n v d) f).q n 0 = min 65535 (tgetD (forge d f).q n 0 + v)
    ∧ (forge (semAdd f (some f) n v d) f).semOvf = ((forge d f).semOvf || decide (65535 < tgetD (forge d f).q n 0 + v)) := by
  unfold semAdd
  dsimp only [Option.getD_some]
  by_cases h : 65535 < tgetD (forge d f).q n 0 + v
  · rw [if_pos h, decide_eq_true h, forge_stamp, forge_modForge_self, forge_modForge_self]
    exact ⟨tgetD_tput_self _ _ _ _, (Bool.or_true _).symm⟩
  · rw [if_neg h, decide_eq_false h, forge_modForge_self]
    exact ⟨tgetD_tput_self _ _ _ _, (Bool.or_false _).symm⟩

theorem waitSatisfied_served {s : Dev} {st t num n from_ : Nat} {g : Bool} (hd : d = tick t s)
    (hwait : (strm d f st).wait = some (g, num, n, from_)) (hon : (strm d f st).on = true) (hfree : (forge d f).freeze = none)
    (hspent : spent d (strm d f st) (nowEff d f) = false) (hn : n ≤ semCount d f g num) (hserved : servedBefore d f st g num = false) :
    waitSatisfied f st t s = modStrm f st (fun y => { y with wait := none, next := nowEff d f + 1 })
      (semTake f g num n (count 11 4 (nowEff d f - from_) { masters := [mForge f, mStream f st] } d)) := by
  unfold waitSatisfied
  dsimp only
  rw [← hd, hwait]
  dsimp only
  rw [hon, hfree, hspent, hserved, decide_eq_true hn]
  exact if_pos rfl

end

end Sys2Proof.Machine
open Sys2Proof Sys2Proof.Machine

/-- Settles O44: a post, a WAIT that is covered, and the writes of a count. -/
theorem semaphores : Obligations.Semaphores := by
  refine ⟨fun f n v d old hold => by rw [hold]; exact semAdd_own f n v d, fun s hp =>
    ⟨fun f st t d g num n from_ hf hst hd hwait hon hfree hspent hn hserved => ?_, fun f n v hq hr hf hn hidle => ?_,
      fun n v hq hr hn hidle => ?_⟩⟩
  · exact exec_settle (c := .semaphoreWaitSatisfied f st t) rfl (by simp [wellFormed, hf, hst]) hp
      (waitSatisfied_served hd hwait hon hfree hspent hn hserved)
  · refine exec_calm (c := .forgeQsemWrite f n v) rfl (by simp [wellFormed, hf, hn]) ⟨hp, hq⟩ ?_ (calm_modForge f _ s.dev)
    rw [writeReg_qsem hf hn hr]
    exact if_pos hidle
  · refine exec_calm (c := .forgeGsemWrite n v) rfl (by simp [wellFormed, hn]) ⟨hp, hq⟩ ?_ (calm_modForges _ s.dev)
    rw [writeReg_gsem hn hr]
    exact if_pos (List.all_eq_true.2 fun f hf => hidle f (List.mem_range.1 hf))

end

section
/-! SUPPORT. Issue of an instruction and landing of its writes (R276, R279, R286, R300). -/

set_option Elab.async false

namespace Sys2Proof.Machine

open Sys2Proof

/-! ### Issue -/

section
variable {op used f st t code : Nat} {sts : List Nat} {mk : Fetch → Dev → Ins} {x : Fetch} {d : Dev} {reads : List (Nat × Nat)} {y : Eff}

/-- What a stream issues is its own. -/
theorem fetchNow_where (h : fetchNow f st d = some x) : x.f = f ∧ x.st = st ∧ x.s = strm d f st ∧ x.e = nowEff d f := by
  obtain ⟨-, h⟩ := Option.ite_none_right_eq_some.1 h
  injection h with h
  subst h
  exact ⟨rfl, rfl, rfl, rfl⟩

/-- The word fetched is of opcode `op`, on a stream that has it, with no bit set outside the fields used. -/
structure Fetched (op used : Nat) (sts : List Nat) (mk : Fetch → Dev → Ins) (f st : Nat) (x : Fetch) (d : Dev) : Prop where
  fetch : fetchNow f st d = some x
  opcode : iOp x.w = op
  stream : sts.contains st = true
  fields : (mk x d).used = used
  spare : x.w &&& (2 ^ 56 - 1 - used) = 0

theorem issue_reserved (hx : fetchNow f st d = some x) (hop : iOp x.w = op) (hs : sts.contains st = true)
    (hused : (mk x d).used = used) (hbits : x.w &&& (2 ^ 56 - 1 - used) ≠ 0) : issue op sts mk f st d = faultStream f st fENC d := by
  unfold issue
  rw [hx]
  dsimp only
  rw [if_neg (not_not.2 hop), if_neg (by rw [hs]; decide), hused]
  exact if_pos hbits

theorem issue_register (h : Fetched op used sts mk f st x d) (hreg : (mk x d).regs.any (fun r => decide (r.2 ≤ r.1)) = true) :
    issue op sts mk f st d = faultStream f st fREG d := by
  obtain ⟨hx, hop, hs, hused, hbits⟩ := h
  unfold issue
  rw [hx]
  dsimp only
  rw [if_neg (not_not.2 hop), if_neg (by rw [hs]; decide), hused, if_neg (not_not.2 hbits)]
  exact if_pos hreg

/-- A word that passes its checks is audited, and performed. -/
theorem issue_checked (h : Fetched op used sts mk f st x d) (hregs : ∀ r ∈ (mk x d).regs, r.1 < r.2) : issue op sts mk f st d
    = match if flag d (oForge f + 0x20) 0 then (mk x d).reads.find? (pendingOn d x) else none with
      | some r => hazardHalt x r d
      | none => match (mk x d).run with
        | .error c => faultStream f st c d
        | .ok y => perform x y d := by
  obtain ⟨hx, hop, hs, hused, hbits⟩ := h
  have hany : (mk x d).regs.any (fun r => decide (r.2 ≤ r.1)) = false :=
    List.any_eq_false.2 fun r hr => by simpa using hregs r hr
  unfold issue
  rw [hx]
  dsimp only
  rw [if_neg (not_not.2 hop), if_neg (by rw [hs]; decide), hused, if_neg (not_not.2 hbits), hany]
  rfl

theorem audit_none (h : flag d (oForge f + 0x20) 0 = false ∨ ∀ r ∈ reads, pendingOn d x r = false) :
    (if flag d (oForge f + 0x20) 0 then reads.find? (pendingOn d x) else none) = none := by
  rcases h with h | h
  · rw [h]
    rfl
  · rw [List.find?_eq_none.2 fun r hr => by rw [h r hr]; exact Bool.false_ne_true]
    exact ite_self none

/-- What a stream issues, by what the instruction comes to. -/
theorem instr_run (h : d.issues f st t op used reads x) (hs : sts.contains st = true) (hused : (mk x (tick t d)).used = used)
    (hregs : ∀ r ∈ (mk x (tick t d)).regs, r.1 < r.2) (hreads : (mk x (tick t d)).reads = reads) :
    instr op sts mk f st t d = match (mk x (tick t d)).run with
      | .error c => faultStream f st c (tick t d)
      | .ok y => perform x y (tick t d) := by
  obtain ⟨-, -, hx, hop, hbits, haudit⟩ := h
  unfold instr
  rw [issue_checked ⟨hx, hop, hs, hused, hbits⟩ hregs, hreads, audit_none haudit]

theorem instr_ok (h : d.issues f st t op used reads x) (hs : sts.contains st = true) (hused : (mk x (tick t d)).used = used)
    (hregs : ∀ r ∈ (mk x (tick t d)).regs, r.1 < r.2) (hreads : (mk x (tick t d)).reads = reads)
    (hrun : (mk x (tick t d)).run = .ok y) : instr op sts mk f st t d = perform x y (tick t d) := by
  rw [instr_run h hs hused hregs hreads, hrun]

theorem instr_fault (h : d.issues f st t op used reads x) (hs : sts.contains st = true) (hused : (mk x (tick t d)).used = used)
    (hregs : ∀ r ∈ (mk x (tick t d)).regs, r.1 < r.2) (hreads : (mk x (tick t d)).reads = reads)
    (hrun : (mk x (tick t d)).run = .error code) : instr op sts mk f st t d = faultStream f st code (tick t d) := by
  rw [instr_run h hs hused hregs hreads, hrun]

theorem issues_where (h : d.issues f st t op used reads x) :
    f < 16 ∧ st < 6 ∧ x.f = f ∧ x.st = st ∧ x.s = strm (tick t d) f st ∧ x.e = nowEff (tick t d) f := by
  obtain ⟨hf, hst, hx, -⟩ := h
  exact ⟨hf, hst, fetchNow_where hx⟩

theorem allStreams_contains (h : st < 6) : allStreams.contains st = true := by
  interval_cases st <;> rfl

end

/-! ### What an issue changes -/

section
variable {x : Fetch} {y : Eff} {d : Dev}

/-- A write put in flight. -/
def pendOf (d : Dev) (f st ser : Nat) (o : Nat × What) : Pend :=
  { land := nowEff d f + o.1, st := st, ord := (forge d f).ord, ser := ser, what := o.2 }

theorem forge_addPend (f st lat ser : Nat) (w : What) (d : Dev) :
    forge (addPend f st lat ser w d) f = { forge d f with pend := (forge d f).pend ++ [pendOf d f st ser (lat, w)] } :=
  forge_modForge_self f _ d

/-- Writes put in flight, one behind another. -/
theorem forge_addPends (f st ser : Nat) (l : List (Nat × What)) (d : Dev) :
    forge (each l (fun p d => addPend f st p.1 ser p.2 d) d) f
      = { forge d f with pend := (forge d f).pend ++ l.map (pendOf d f st ser) } := by
  induction l generalizing d with
  | nil =>
    show forge d f = { forge d f with pend := (forge d f).pend ++ [] }
    rw [List.append_nil]
  | cons p l ih =>
    have hone := forge_addPend f st p.1 ser p.2 d
    have hpend : pendOf (addPend f st p.1 ser p.2 d) f st ser = pendOf d f st ser := by
      funext o
      unfold pendOf nowEff
      rw [hone]
      rfl
    refine (ih (addPend f st p.1 ser p.2 d)).trans ?_
    rw [hpend, hone, List.map_cons, List.append_assoc]
    rfl

theorem forge_addPends_ne {f k : Nat} (h : k ≠ f) (st ser : Nat) (l : List (Nat × What)) (d : Dev) :
    forge (each l (fun p d => addPend f st p.1 ser p.2 d) d) k = forge d k := by
  induction l generalizing d with
  | nil => rfl
  | cons p l ih => exact (ih _).trans (forge_modForge_ne h _ d)

/-- The device with the writes of an instruction in flight. -/
def inFlight (x : Fetch) (y : Eff) (d : Dev) : Dev :=
  each y.out (fun p d => addPend x.f x.st p.1 (serOf x.s) p.2 d)
    (modForge x.f (fun g => { g with ord := g.ord + 1 }) (count 11 1 1 { masters := [mForge x.f, mStream x.f x.st] } d))

theorem forge_count (b ev n : Nat) (a : Attr) (d : Dev) (k : Nat) : forge (count b ev n a d) k = forge d k := by
  unfold forge
  rw [(only_count b ev n a d).forge]

theorem nowEff_count (b ev n : Nat) (a : Attr) (d : Dev) (k : Nat) : nowEff (count b ev n a d) k = nowEff d k := by
  unfold nowEff
  rw [forge_count, (only_count b ev n a d).clk]

theorem forge_inFlight (x : Fetch) (y : Eff) (d : Dev) : forge (inFlight x y d) x.f
    = { forge d x.f with
        ord := (forge d x.f).ord + 1
        pend := (forge d x.f).pend ++ y.out.map (fun o =>
          { land := nowEff d x.f + o.1, st := x.st, ord := (forge d x.f).ord + 1, ser := serOf x.s, what := o.2 }) } := by
  unfold inFlight
  have hnow : nowEff (modForge x.f (fun g => { g with ord := g.ord + 1 }) (count 11 1 1 { masters := [mForge x.f, mStream x.f x.st] } d)) x.f
      = nowEff d x.f := by
    refine Eq.trans ?_ (nowEff_count 11 1 1 { masters := [mForge x.f, mStream x.f x.st] } d x.f)
    unfold nowEff
    rw [forge_modForge_self]
    rfl
  have hpend : pendOf (modForge x.f (fun g => { g with ord := g.ord + 1 }) (count 11 1 1 { masters := [mForge x.f, mStream x.f x.st] } d))
      x.f x.st (serOf x.s) = fun o =>
          { land := nowEff d x.f + o.1, st := x.st, ord := (forge d x.f).ord + 1, ser := serOf x.s, what := o.2 } := by
    funext o
    unfold pendOf
    rw [hnow, forge_modForge_self, forge_count]
  rw [forge_addPends, hpend, forge_modForge_self, forge_count]

theorem forge_inFlight_ne {k : Nat} (h : k ≠ x.f) : forge (inFlight x y d) k = forge d k := by
  unfold inFlight
  rw [forge_addPends_ne h, forge_modForge_ne h, forge_count]

theorem strm_inFlight (st : Nat) : strm (inFlight x y d) x.f st = strm d x.f st := by
  unfold strm
  rw [forge_inFlight]

/-- An instruction outside a repeat, of no further effect: its stream goes on, and the rest of it stays. -/
theorem perform_plain (hrep : x.s.rep = none) (hact : y.act = fun d => d)
    (hpc : y.pc.getD (x.s.pc + 1) ≤ 4095) : perform x y d
      = modStrm x.f x.st (fun s => { s with next := x.e + y.intv, pc := y.pc.getD (x.s.pc + 1) }) (inFlight x y d) := by
  have hadv : advanceStrm x y (inFlight x y d)
      = modStrm x.f x.st (fun s => { s with next := x.e + y.intv, pc := y.pc.getD (x.s.pc + 1) }) (inFlight x y d) := by
    unfold advanceStrm
    rw [hrep]
  unfold perform
  dsimp only
  rw [hact, ← inFlight, hadv, strm_modStrm_self]
  exact if_neg (by simp [Nat.not_lt.2 hpc])

theorem forge_modStrm_keep (f st : Nat) (g : Stream → Stream) (d : Dev) :
    (forge (modStrm f st g d) f).flm = (forge d f).flm ∧ (forge (modStrm f st g d) f).pend = (forge d f).pend := by
  unfold modStrm
  rw [forge_modForge_self]
  exact ⟨rfl, rfl⟩

theorem forge_modStrm_ne {f k : Nat} (h : k ≠ f) (st : Nat) (g : Stream → Stream) (d : Dev) : forge (modStrm f st g d) k = forge d k :=
  forge_modForge_ne h _ d

end

/-! ### Landing -/

section
variable {d : Dev} {f : Nat} {p : Pend}

theorem modForge_congr {g h : Forge → Forge} (hgh : g (forge d f) = h (forge d f)) : modForge f g d = modForge f h d :=
  congrArg (fun y => modForges (fun x => { x with f := tput x.f f y }) d) hgh

/-- A Forge whose one write lands now has none in flight. -/
theorem landAll_one (hp : (forge d f).pend = [p]) (hl : p.land ≤ nowEff d f) :
    landAll f d = landOne f p (modForge f (fun x => { x with pend := [] }) d) := by
  have hnone : modForge f (fun x => { x with pend := x.pend.filter (fun p => !decide (p.land ≤ nowEff d f)) }) d
      = modForge f (fun x => { x with pend := [] }) d := by
    refine modForge_congr ?_
    rw [hp, List.filter_cons_of_neg (by simp [hl])]
    rfl
  unfold landAll
  dsimp only
  rw [hnone, hp, List.filter_cons_of_pos (by simp [hl])]
  rfl

theorem landOne_s {r v : Nat} (hw : p.what = .s r v) : landOne f p d = modStrm f p.st (fun s => { s with s := tput s.s r (v % 2 ^ 32) }) d := by
  unfold landOne
  rw [hw]

theorem landOne_a {r v : Nat} (hw : p.what = .a r v) : landOne f p d = modStrm f p.st (fun s => { s with a := tput s.a r (v % 2 ^ 48) }) d := by
  unfold landOne
  rw [hw]

end

/-! ### The row of an undefined opcode -/

theorem nopRow_undefined {f st t : Nat} {x : Fetch} {d s : Dev} (hd : d = tick t s) (hx : fetchNow f st d = some x)
    (hop : opDefined (iOp x.w) = false) : nopRow f st t s = faultStream f st fENC d := by
  unfold nopRow
  dsimp only
  rw [← hd, hx]
  dsimp only
  rw [hop]
  exact if_neg Bool.false_ne_true

end Sys2Proof.Machine
open Sys2Proof Sys2Proof.Machine

/-- Settles O45: what an issue changes, what a landing changes, and what stops a stream instead. -/
theorem issueAndLand : Obligations.IssueAndLand := by
  refine ⟨fun d p x y hs hrep hact hpc hp => ?_, fun d e f st ord ser land r v hl he => ⟨fun hpend => ?_, fun hpend => ?_⟩,
    fun s f st t x d hp hf hst hd hx => ⟨fun hop => ?_, fun hop hbits => ?_, fun hop hbits hreg => ?_, fun hop hdst hbits haudit => ?_,
      fun hop hdst hsrc hbits haudit hpend => ?_⟩⟩
  · rw [hp, perform_plain hrep hact hpc]
    obtain ⟨hflm, hpend⟩ := forge_modStrm_keep x.f x.st (fun s => { s with next := x.e + y.intv, pc := y.pc.getD (x.s.pc + 1) })
      (inFlight x y d)
    rw [hflm, hpend, forge_inFlight, strm_modStrm_self, strm_inFlight, ← hs]
    exact ⟨rfl, rfl, rfl, rfl, rfl, rfl, rfl, rfl, rfl, rfl, fun f hf => by rw [forge_modStrm_ne hf, forge_inFlight_ne hf]⟩
  · obtain ⟨hflm, hpend'⟩ := forge_modStrm_keep f st (fun s => { s with s := tput s.s r (v % 2 ^ 32) })
      (modForge f (fun x => { x with pend := [] }) d)
    rw [he, landAll_one hpend hl, landOne_s rfl, strm_modStrm_self, strm_modForge_keep rfl, hflm, hpend', forge_modForge_self]
    exact ⟨tgetD_tput_self _ _ _ _, rfl, fun k hk => tgetD_tput_ne _ _ _ _ _ hk.symm, rfl, rfl, rfl⟩
  · rw [he, landAll_one hpend hl, landOne_a rfl, strm_modStrm_self, strm_modForge_keep rfl]
    exact ⟨tgetD_tput_self _ _ _ _, rfl⟩
  · exact exec_settle (c := .nopInstruction f st t) rfl (by simp [wellFormed, hf, hst]) hp (nopRow_undefined hd hx hop)
  · refine exec_settle (c := .add f st t) rfl (by simp [wellFormed, hf, hst]) hp ?_
    rw [instr, ← hd]
    exact issue_reserved hx hop (allStreams_contains hst) rfl hbits
  · refine exec_settle (c := .add f st t) rfl (by simp [wellFormed, hf, hst]) hp ?_
    rw [instr, ← hd]
    refine issue_register ⟨hx, hop, allStreams_contains hst, rfl, hbits⟩ ?_
    show ((iDst x.w, 32) :: (iSrc1 x.w, 32) :: regs2 x).any _ = true
    rcases hreg with h | h | ⟨hx, h⟩
    · simp [h]
    · simp [h]
    · simp [regs2, hx, h]
  · refine exec_settle (c := .movi f st t) rfl (by simp [wellFormed, hf, hst]) hp ?_
    rw [hd] at hx
    refine instr_ok (reads := []) ⟨hf, hst, hx, hop, hbits, .inr nofun⟩ (allStreams_contains hst) rfl ?_ rfl rfl
    simp [moviIns, hdst]
  · refine exec_settle (c := .aget f st t) rfl (by simp [wellFormed, hf, hst]) hp ?_
    rw [instr, ← hd, issue_checked ⟨hx, hop, allStreams_contains hst, rfl, hbits⟩ (by simp [agetIns, hdst, hsrc]), haudit, if_pos rfl]
    show (match [(1, iSrc1 x.w)].find? (pendingOn d x) with
      | some r => hazardHalt x r d
      | none => _) = _
    rw [List.find?_cons_of_pos hpend]

end

section
/-! SUPPORT. Scalar arithmetic (R278, Table 10.4). -/

set_option Elab.async false

namespace Sys2Proof.Machine

open Sys2Proof

/-! ### What the command of an instruction answers -/

section
variable {c : Instr} {s : State} {op used f st t code : Nat} {sts : List Nat} {mk : Fetch → Dev → Ins} {x : Fetch} {reads : List (Nat × Nat)}
  {y : Eff}

theorem exec_issued (hexec : exec c s = act c settle (instr op sts mk f st t) s) (hw : wellFormed c = (decide (f < 16) && decide (st < 6)))
    (hp : s.dev.boot.power = .on) (h : s.dev.issues f st t op used reads x) (hs : sts.contains st = true)
    (hused : (mk x (tick t s.dev)).used = used) (hregs : ∀ r ∈ (mk x (tick t s.dev)).regs, r.1 < r.2)
    (hreads : (mk x (tick t s.dev)).reads = reads) (hrun : (mk x (tick t s.dev)).run = .ok y) :
    exec c s = .next { s with dev := s.dev.issued t x y } := by
  obtain ⟨hf, hst, -⟩ := issues_where h
  exact exec_settle hexec (by rw [hw, decide_eq_true hf, decide_eq_true hst]; rfl) hp (instr_ok h hs hused hregs hreads hrun)

theorem exec_faulted {d : Dev} (hexec : exec c s = act c settle (instr op sts mk f st t) s)
    (hw : wellFormed c = (decide (f < 16) && decide (st < 6))) (hp : s.dev.boot.power = .on) (hd : d = tick t s.dev)
    (h : s.dev.issues f st t op used reads x) (hs : sts.contains st = true) (hused : (mk x (tick t s.dev)).used = used)
    (hregs : ∀ r ∈ (mk x (tick t s.dev)).regs, r.1 < r.2) (hreads : (mk x (tick t s.dev)).reads = reads)
    (hrun : (mk x (tick t s.dev)).run = .error code) : exec c s = .next { s with dev := settle (faultStream f st code d) } := by
  obtain ⟨hf, hst, -⟩ := issues_where h
  rw [hd]
  exact exec_settle hexec (by rw [hw, decide_eq_true hf, decide_eq_true hst]; rfl) hp (instr_fault h hs hused hregs hreads hrun)

theorem issues_all (h : s.dev.issues f st t op used reads x) : allStreams.contains st = true := by
  obtain ⟨-, hst, -⟩ := issues_where h
  exact allStreams_contains hst

/-- A register list is in range if each named register is. -/
theorem regs_cons {n k : Nat} {l : List (Nat × Nat)} (h : n < k) (hl : ∀ r ∈ l, r.1 < r.2) : ∀ r ∈ (n, k) :: l, r.1 < r.2 :=
  List.forall_mem_cons.2 ⟨h, hl⟩

theorem regs2_ok (h : iX x.w = false → iSrc2 x.w < 32) : ∀ r ∈ regs2 x, r.1 < r.2 := by
  unfold regs2
  cases hx : iX x.w
  · exact regs_cons (h hx) nofun
  · exact nofun

/-- A scalar operation of two operands writes what it computes from them. -/
theorem exec_scalar2 {extra v : Nat} {fl : Num.Flags} {g : Fetch → Nat → Nat → Nat × Num.Flags}
    (hexec : exec c s = act c settle (instr op allStreams (fun x _ => scalar2 extra g x) f st t) s)
    (hw : wellFormed c = (decide (f < 16) && decide (st < 6))) (hp : s.dev.boot.power = .on) (hd : iDst x.w < 32) (h1 : iSrc1 x.w < 32)
    (h2 : iX x.w = false → iSrc2 x.w < 32)
    (h : s.dev.issues f st t op (mDst ||| mSrc1 ||| used2 x ||| extra) ((0, iSrc1 x.w) :: reads2 x) x)
    (hg : g x (rS x (iSrc1 x.w)) (op2 x) = (v, fl)) :
    exec c s = .next { s with dev := s.dev.issued t x { out := (1, .s (iDst x.w) v) :: flagOut 1 fl } } := by
  refine exec_issued hexec hw hp h (issues_all h) rfl (regs_cons hd (regs_cons h1 (regs2_ok h2))) rfl ?_
  unfold scalar2
  dsimp only
  rw [hg]

end

/-! ### Two's complement -/

theorem toInt_int32 (v : Nat) : Num.toInt .int32 v = signed 32 v := by
  unfold Num.toInt signed
  dsimp only
  rw [if_neg (by decide)]
  rw [show Num.Fmt.int32.bits = 32 from rfl]
  by_cases h : v % 2 ^ 32 < 2 ^ (32 - 1)
  · rw [if_pos h, if_neg (Nat.not_le.2 h)]
  · rw [if_neg h, if_pos (Nat.not_lt.1 h)]

/-- A signed reading differs from its value by a multiple of 2^32. -/
theorem signed_emod (v : Nat) : signed 32 v % 4294967296 = (v : Int) % 4294967296 := by
  unfold signed
  norm_num
  split <;> omega

theorem addI_wraps (a b : Nat) : Num.addI .int32 false a b = ((a + b) % 2 ^ 32, 0) := by
  unfold Num.addI Num.sat
  rw [if_neg Bool.false_ne_true, toInt_int32, toInt_int32]
  have ha := signed_emod a
  have hb := signed_emod b
  show (((signed 32 a + signed 32 b) % 4294967296).toNat, _) = _
  norm_num
  omega

theorem subI_wraps (a b : Nat) : Num.subI .int32 false a b = (subMod 32 a b, 0) := by
  unfold Num.subI Num.sat subMod
  rw [if_neg Bool.false_ne_true, toInt_int32, toInt_int32]
  have ha := signed_emod a
  have hb := signed_emod b
  show (((signed 32 a - signed 32 b) % 4294967296).toNat, _) = _
  norm_num
  omega

theorem addI_saturates (a b : Nat) : Num.addI .int32 true a b = Num.sat .int32 true (signed 32 a + signed 32 b) := by
  unfold Num.addI
  rw [toInt_int32, toInt_int32]

theorem subI_saturates (a b : Nat) : Num.subI .int32 true a b = Num.sat .int32 true (signed 32 a - signed 32 b) := by
  unfold Num.subI
  rw [toInt_int32, toInt_int32]

/-! ### Conditions -/

/-- The value SETC writes for a condition that is not reserved (R275). -/
theorem boolNat_condS {c a b v : Nat}
    (h : (c = 0 ∧ v = if a = b then 1 else 0) ∨ (c = 1 ∧ v = if a = b then 0 else 1)
      ∨ (c = 2 ∧ v = if signed 32 a < signed 32 b then 1 else 0) ∨ (c = 3 ∧ v = if signed 32 a < signed 32 b then 0 else 1)
      ∨ (c = 4 ∧ v = if a < b then 1 else 0) ∨ (c = 5 ∧ v = if a < b then 0 else 1)) :
    c < 6 ∧ boolNat (condS c a b) = v := by
  have hval : ∀ p : Prop, ∀ [Decidable p], boolNat (decide p) = if p then 1 else 0 := fun p _ => by
    by_cases hp : p <;> simp [boolNat, hp]
  have hnot : ∀ p : Prop, ∀ [Decidable p], boolNat (!decide p) = if p then 0 else 1 := fun p _ => by
    by_cases hp : p <;> simp [boolNat, hp]
  rcases h with ⟨rfl, rfl⟩ | ⟨rfl, rfl⟩ | ⟨rfl, rfl⟩ | ⟨rfl, rfl⟩ | ⟨rfl, rfl⟩ | ⟨rfl, rfl⟩
  · exact ⟨by omega, hval (a = b)⟩
  · exact ⟨by omega, hnot (a = b)⟩
  · exact ⟨by omega, hval _⟩
  · refine ⟨by omega, Eq.trans ?_ (hnot (signed 32 a < signed 32 b))⟩
    show boolNat (decide (signed 32 b ≤ signed 32 a)) = _
    rw [← decide_not]
    simp only [not_lt]
  · exact ⟨by omega, hval _⟩
  · refine ⟨by omega, Eq.trans ?_ (hnot (a < b))⟩
    show boolNat (decide (b ≤ a)) = _
    rw [← decide_not]
    simp only [not_lt]

end Sys2Proof.Machine
open Sys2Proof Sys2Proof.Machine

/-- Settles O46, operation by operation. -/
theorem scalarArithmetic : Obligations.ScalarArithmetic := by
  intro s f st t x a b hp hd h1 h2 ha hb ok out
  have hop2 : op2 x = b := hb.symm
  refine ⟨fun h hsat => ?_, fun h hsat r hr => ?_, fun h hsat => ?_, fun h hsat r hr => ?_, fun h => ?_, fun h => ?_, fun h => ?_, fun h => ?_,
    fun h => ?_, fun h => ?_, fun h v hv => ?_⟩
  · exact exec_scalar2 (c := .add f st t) rfl rfl hp hd h1 h2 h (by rw [hsat, ← ha, hop2]; exact addI_wraps a b)
  · exact exec_scalar2 (c := .add f st t) rfl rfl hp hd h1 h2 h (by rw [hsat, ← ha, hop2, addI_saturates, ← hr])
  · exact exec_scalar2 (c := .sub f st t) rfl rfl hp hd h1 h2 h (by rw [hsat, ← ha, hop2]; exact subI_wraps a b)
  · exact exec_scalar2 (c := .sub f st t) rfl rfl hp hd h1 h2 h (by rw [hsat, ← ha, hop2, subI_saturates, ← hr])
  · exact exec_scalar2 (c := .andS f st t) rfl rfl hp hd h1 h2 h (by rw [← ha, hop2])
  · exact exec_scalar2 (c := .orS f st t) rfl rfl hp hd h1 h2 h (by rw [← ha, hop2])
  · exact exec_scalar2 (c := .xorS f st t) rfl rfl hp hd h1 h2 h (by rw [← ha, hop2])
  · exact exec_scalar2 (c := .shl f st t) rfl rfl hp hd h1 h2 h (by rw [← ha, hop2])
  · exact exec_scalar2 (c := .shr f st t) rfl rfl hp hd h1 h2 h (by rw [← ha, hop2])
  · exact exec_scalar2 (c := .sra f st t) rfl rfl hp hd h1 h2 h (by rw [← ha, hop2])
  · obtain ⟨hc, hval⟩ := boolNat_condS hv
    have hset : setcIns x (tick t s.dev) = scalar2 (mBits 32 3) (fun x a b => (boolNat (condS (iCond x.w) a b), 0)) x :=
      if_neg (Nat.not_le.2 hc)
    refine exec_issued (c := .setc f st t) rfl rfl hp h (issues_all h) (by rw [hset]; rfl)
      (by rw [hset]; exact regs_cons hd (regs_cons h1 (regs2_ok h2))) (by rw [hset]; rfl) ?_
    rw [hset]
    unfold scalar2
    dsimp only
    rw [← ha, hop2, hval]

end

section
/-! SUPPORT. Control, address and local-memory instructions (R278, R282, R285, R286, Table 10.4). -/

set_option Elab.async false

namespace Sys2Proof.Machine

open Sys2Proof

section
variable {f st t used : Nat} {s d : Dev} {x : Fetch}

/-- NOP issues as any instruction does. -/
theorem nopRow_nop (h : s.issues f st t 0 0 [] x) : nopRow f st t s = perform x {} (tick t s) := by
  have hok : instr 0 (List.range 6) nopIns f st t s = perform x {} (tick t s) := instr_ok h (issues_all (s := ⟨s, []⟩) h) rfl nofun rfl rfl
  obtain ⟨-, -, hx, hop, -⟩ := h
  unfold nopRow
  dsimp only
  rw [hx]
  dsimp only
  rw [hop]
  exact (if_pos rfl).trans hok

theorem strm_addPend (f st lat ser : Nat) (w : What) (d : Dev) (k i : Nat) : strm (addPend f st lat ser w d) k i = strm d k i :=
  strm_modForge_keep rfl k i

theorem strm_each {α : Type} {g : α → Dev → Dev} {k i : Nat} (hg : ∀ a d, strm (g a d) k i = strm d k i) (l : List α) (d : Dev) :
    strm (each l g d) k i = strm d k i := by
  induction l generalizing d with
  | nil => rfl
  | cons a l ih => exact (ih (g a d)).trans (hg a d)

/-- The loads of a run leave the streams as they are. -/
theorem strm_runLoads (f st lat : Nat) (c : FCmd) (run : Nat) (d : Dev) (k i : Nat) : strm (runLoads f st lat c run d) k i = strm d k i := by
  unfold runLoads
  dsimp only
  split
  · rw [strm_addPend, strm_each fun _ _ => strm_addPend _ _ _ _ _ _ _ _]
  · simp only [strm_addPend]
    exact strm_each (fun _ _ => strm_addPend _ _ _ _ _ _ _ _) _ _

/-- Going on does not end or begin a run. -/
theorem run_advanceStrm (x : Fetch) (y : Eff) (d : Dev) : (strm (advanceStrm x y d) x.f x.st).run = (strm d x.f x.st).run := by
  unfold advanceStrm
  dsimp only
  rw [strm_modStrm_self]
  split
  · rw [strm_each fun _ _ => strm_addPend _ _ _ _ _ _ _ _]
    split <;> rfl
  · rfl

/-- Only what the rest of an effect does to the device it meets counts. -/
theorem perform_act {x : Fetch} {g h : Dev → Dev} {d : Dev}
    (hgh : g (advanceStrm x {} (inFlight x {} d)) = h (advanceStrm x {} (inFlight x {} d))) :
    perform x { act := g } d = perform x { act := h } d := by
  have hg : ∀ g : Dev → Dev, perform x { act := g } d =
      (fun d => if (strm d x.f x.st).on && !(strm d x.f x.st).ended && decide (4095 < (strm d x.f x.st).pc) then faultStream x.f x.st fPC d
        else d) (g (advanceStrm x {} (inFlight x {} d))) := fun _ => rfl
  rw [hg g, hg h, hgh]

/-- What END does to the device it meets (R285, Table 10.3). -/
def endAct (x : Fetch) (c : FCmd) (d : Dev) : Dev :=
  if x.s.run + 1 < cRepeat c.b then
    modStrm x.f x.st (fun s => { s with pc := cPc c.b, run := s.run + 1 }) (runLoads x.f x.st 1 c (x.s.run + 1) d)
  else modStrm x.f x.st (fun s => { s with ended := true, pc := x.s.pc }) d

theorem endIns_run {c : FCmd} {rest : List FCmd} (hq : x.s.queue = c :: rest) : (endIns x d).run = .ok { act := endAct x c } := by
  unfold endIns endAct
  dsimp only
  rw [hq]

theorem modStrm_congr {f st : Nat} {g h : Stream → Stream} {d : Dev} (hgh : g (strm d f st) = h (strm d f st)) :
    modStrm f st g d = modStrm f st h d :=
  congrArg (fun y => modForge f (fun x => { x with streams := tput x.streams st y }) d) hgh

/-- With runs to come, the next one starts in the cycle after. -/
theorem perform_end_again {c : FCmd} (hs : x.s = strm d x.f x.st) (hrun : x.s.run + 1 < cRepeat c.b) :
    perform x { act := endAct x c } d = perform x {
      act := fun d => modStrm x.f x.st (fun y => { y with pc := cPc c.b, run := x.s.run + 1 }) (runLoads x.f x.st 1 c (x.s.run + 1) d) } d := by
  refine perform_act ?_
  rw [endAct, if_pos hrun]
  refine modStrm_congr ?_
  rw [strm_runLoads, run_advanceStrm, strm_inFlight, ← hs]

theorem perform_end_last {c : FCmd} (hrun : cRepeat c.b ≤ x.s.run + 1) :
    perform x { act := endAct x c } d = perform x { act := modStrm x.f x.st (fun y => { y with ended := true, pc := x.s.pc }) } d :=
  perform_act (if_neg (Nat.not_lt.2 hrun))

theorem localAt_ok {a n al : Nat} {m : Bool} {o : Nat} (h : a % al = 0) (hm : localMem a n = some (m, o)) : localAt a n al = .ok (m, o) := by
  unfold localAt
  rw [if_neg (not_not.2 h), hm]

theorem localAt_misaligned {a n al : Nat} (h : a % al ≠ 0) : localAt a n al = .error fALIGN := if_pos h

end

end Sys2Proof.Machine
open Sys2Proof Sys2Proof.Machine

/-- Settles O47, instruction by instruction. -/
theorem controlAndAddress : Obligations.ControlAndAddress := by
  intro s f st t x d hp hd
  refine ⟨fun h => ?_, fun h c rest hq => ⟨fun hrun => ?_, fun hrun => ?_⟩, fun h n nextOp hn hnext => ⟨fun h0 h1 h2 h3 => ?_, fun h0 => ?_⟩,
    fun h h1 h2 hc => ?_, fun h hdst => ?_, fun h hdst h1 h2 => ?_, fun h hdst h1 h2 => ?_, fun h hdst h1 => ?_, fun h hdst h1 => ?_,
    fun h hdst h1 hal m o hm => ?_, fun h hdst h1 hal => ?_, fun h h1 h2 hal m o hm => ?_, fun h hdst v hv => ?_, fun h hdst => ?_⟩
  all_goals obtain ⟨hf, hst, hxf, hxst, hxs, hxe⟩ := issues_where h
  · exact exec_settle (c := .nopInstruction f st t) rfl (by simp [wellFormed, hf, hst]) hp (nopRow_nop h)
  · refine exec_settle (c := .endInstr f st t) rfl (by simp [wellFormed, hf, hst]) hp
      ((instr_ok (mk := endIns) h (issues_all h) rfl nofun rfl (endIns_run hq)).trans ?_)
    rw [perform_end_again (by rw [hxf, hxst, hxs]) hrun, hxf, hxst]
  · refine exec_settle (c := .endInstr f st t) rfl (by simp [wellFormed, hf, hst]) hp
      ((instr_ok (mk := endIns) h (issues_all h) rfl nofun rfl (endIns_run hq)).trans ?_)
    rw [perform_end_last hrun, hxf, hxst]
  · refine exec_issued (c := .rep f st t) rfl rfl hp h (issues_all h) rfl nofun rfl ?_
    unfold repIns
    dsimp only
    rw [hxf, ← hd, ← hn, ← hnext, if_neg (by omega), hxst]
  · refine exec_faulted (c := .rep f st t) rfl rfl hp hd h (issues_all h) rfl nofun rfl ?_
    unfold repIns
    dsimp only
    rw [← hn, if_pos (Or.inl h0)]
  · refine exec_issued (c := .br f st t) rfl rfl hp h (issues_all h) rfl (regs_cons h1 (regs_cons h2 nofun)) rfl ?_
    unfold brIns
    dsimp only
    rw [if_neg hc]
    simp only [Bool.or_eq_true, beq_iff_eq]
  · exact exec_issued (c := .movi f st t) rfl rfl hp h (issues_all h) rfl (regs_cons hdst nofun) rfl rfl
  · exact exec_issued (c := .aset f st t) rfl rfl hp h (issues_all h) rfl (regs_cons hdst (regs_cons h1 (regs_cons h2 nofun))) rfl rfl
  · exact exec_issued (c := .aadd f st t) rfl rfl hp h (issues_all h) rfl (regs_cons hdst (regs_cons h1 (regs2_ok h2))) rfl rfl
  · refine exec_issued (c := .astr f st t) rfl rfl hp h (issues_all h) rfl (regs_cons hdst ?_) rfl rfl
    cases hx : iX x.w
    · exact regs_cons (h1 hx) nofun
    · exact nofun
  · exact exec_issued (c := .aget f st t) rfl rfl hp h (issues_all h) rfl (regs_cons hdst (regs_cons h1 nofun)) rfl rfl
  · refine exec_issued (c := .lds f st t) rfl rfl hp h (issues_all h) rfl (regs_cons hdst (regs_cons h1 nofun)) rfl ?_
    unfold ldsIns readLocal
    dsimp only
    rw [localAt_ok hal hm, hxf, ← hd]
  · refine exec_faulted (c := .lds f st t) rfl rfl hp hd h (issues_all h) rfl (regs_cons hdst (regs_cons h1 nofun)) rfl ?_
    unfold ldsIns
    dsimp only
    rw [localAt_misaligned hal]
  · refine exec_issued (c := .sts f st t) rfl rfl hp h (issues_all h) rfl (regs_cons h1 (regs_cons h2 nofun)) rfl ?_
    unfold stsIns
    dsimp only
    rw [localAt_ok hal hm]
  · refine exec_issued (c := .id f st t) rfl rfl hp h (issues_all h) rfl (regs_cons hdst nofun) rfl ?_
    unfold idIns
    dsimp only
    rcases hv with ⟨hb, rfl⟩ | ⟨hb, rfl⟩ | ⟨hb, rfl⟩
    · rw [hb, hxst]
      rfl
    · rw [hb, hxf]
      rfl
    · rw [hb, hd]
      rfl
  · refine exec_issued (c := .flg f st t) rfl rfl hp h (issues_all h) rfl (regs_cons hdst nofun) rfl ?_
    unfold flgIns
    dsimp only
    rw [hxf, hxst, ← hd]

end

section
/-! SUPPORT. Semaphore and queue instructions, movers and the frame sender (R254, R257 to R259, R280, R284, R290 to R294). -/

set_option Elab.async false

namespace Sys2Proof.Machine

open Sys2Proof

section
variable {f st t op st' : Nat} {s d : Dev} {x : Fetch} {y : Eff}

/-! ### Ranges of a Forge's memory -/

theorem localMem_flm {a n : Nat} (h : a + n ≤ flmSize) : localMem a n = some (false, a) := if_pos h

theorem flmAt_ok {a n al : Nat} (hal : a % al = 0) (h : a + n ≤ flmSize) : flmAt a n al = .ok a := by
  unfold flmAt
  rw [localAt_ok hal (localMem_flm h)]

/-! ### POST and WAIT -/

/-- A POST of a count to a semaphore there is (R286). -/
theorem semNamed {n num : Nat} {g : Bool} (hn : n ≠ 0) (hg : g = true ∨ num ≤ 31) : ¬ (n = 0 ∨ (!g && decide (31 < num)) = true) := by
  rcases hg with rfl | hg
  · simp [hn]
  · simp [hn, hg]

/-- A WAIT for a count of a semaphore of its own or a global one (R286). -/
theorem semNamed_own {n num k : Nat} {g : Bool} (hn : n ≠ 0) (hg : g = true ∨ (num ≤ 31 ∧ k = 0)) :
    ¬ (n = 0 ∨ (!g && decide (31 < num)) = true ∨ (!g && k != 0) = true) := by
  rcases hg with rfl | ⟨hg, rfl⟩
  · simp [hn]
  · simp [hn, hg]

/-! ### ENQ -/

theorem enqIns_run (hf : x.f = f) (hst : x.st = st) (hto : bits x.w 4 3 ≤ 5) (hal : rA x (iSrc1 x.w) % 32 = 0)
    (hfit : rA x (iSrc1 x.w) + 32 ≤ flmSize) {k to_ : Nat} {b : Bytes} (hk : k = bits x.w 0 4) (ht : to_ = bits x.w 4 3)
    (hb : b = memReadN (forge d f).flm (rA x (iSrc1 x.w)) 32) : (enqIns x d).run
      = if !cmdOk to_ b then .ok { out := [(3, .s (iDst x.w) 0x10)] }
        else if queueFull d k to_ then .ok { out := [(3, .s (iDst x.w) 3)] }
        else .ok { out := [(3, .s (iDst x.w) 0)], act := enqFrom f st k to_ b } := by
  have hread : readLocal d f false (rA x (iSrc1 x.w)) 32 = b := hb.symm
  unfold enqIns
  dsimp only
  rw [if_neg (by omega), flmAt_ok hal hfit, ← hk, ← ht, hf, hst]
  dsimp only
  rw [hread]

/-! ### Movers -/

/-- The operation a mover instruction adds to its stream's queue (R284). -/
def moverAct (f st : Nat) (x : Fetch) (op : MoveOp) (sem : Nat × Nat) : Dev → Dev :=
  modStrm f st (fun y => { y with movers := y.movers ++ [{ op := op, ser := serOf x.s, sem := sem }] })

theorem enterMover_eq (hf : x.f = f) (hst : x.st = st) (op : MoveOp) (sem : Nat × Nat) :
    enterMover x op sem = { act := moverAct f st x op sem } := by
  unfold enterMover moverAct
  rw [hf, hst]

theorem moverIssue_room {mk : Fetch → Dev → Ins} (hroom : (strm d f st).movers.length < 16) :
    moverIssue op st' mk f st d = issue op [st'] mk f st d := if_neg (Nat.not_le.2 hroom)

theorem one_contains (h : st = st') : [st'].contains st = true := by simp [h]

/-- MOV is opcode 0x40 on LOAD and 0x50 on STORE. -/
theorem movRow_load {used : Nat} {reads : List (Nat × Nat)} (h : s.issues f st t 0x40 used reads x) :
    movRow f st t s = moverIssue 0x40 0 movIns f st (tick t s) := by
  obtain ⟨-, -, hx, hop, -⟩ := h
  unfold movRow
  dsimp only
  rw [hx]
  dsimp only
  exact if_neg (by rw [hop]; decide)

theorem movRow_store {used : Nat} {reads : List (Nat × Nat)} (h : s.issues f st t 0x50 used reads x) :
    movRow f st t s = moverIssue 0x50 1 movIns f st (tick t s) := by
  obtain ⟨-, -, hx, hop, -⟩ := h
  unfold movRow
  dsimp only
  rw [hx]
  dsimp only
  exact if_pos hop

theorem movIns_run (hst : x.st = st) {n : Nat} (hn : n = rS x (iSrc2 x.w)) (hmul : n % 64 = 0) (hlo : 64 ≤ n)
    (hhi : n ≤ 2 ^ 24) (hsrc : rA x (iSrc1 x.w) % 64 = 0) (hdst : rA x (iDst x.w) % 64 = 0) {u v : Place}
    (hu : placeOf (rA x (iSrc1 x.w)) n = some u) (hv : placeOf (rA x (iDst x.w)) n = some v) (hopen : movOpen st u v = true)
    {sem : Nat × Nat} (hsem : sem = semField x.w 0) (hok : semBad sem = false) :
    (movIns x d).run = .ok (enterMover x (.mov (rA x (iDst x.w)) (rA x (iSrc1 x.w)) n) sem) := by
  unfold movIns
  dsimp only
  rw [← hn, ← hsem, if_neg (by omega), if_neg (by omega), hok, if_neg Bool.false_ne_true, hu, hv]
  dsimp only
  rw [hst, hopen]
  rfl

theorem wldIns_run {a pitch sc : Nat} {sem : Nat × Nat} {wide : Bool} {rows : List (Option Place)}
    (hwide : wldFmt (bits x.w 5 3) = some wide) (heven : wide = true → bits x.w 0 4 % 2 = 0) (ha : a = rA x (iSrc1 x.w))
    (hpitch : pitch = rS x (iDst x.w)) (hsc : sc = rA x (iSrc2 x.w)) (hpal : pitch % 64 = 0) (haal : a % 64 = 0)
    (hsal : bit x.w 8 = true → sc % 64 = 0)
    (hrows : rows = (List.range 64).map (fun r => placeOf (rowAddr a pitch r) (64 * (Num.Fmt.ofCode (bits x.w 5 3)).bytes)))
    (hopen : rowsBad (if bit x.w 8 then rows ++ [placeOf sc 64] else rows) notSide = none) (hsem : sem = semField x.w 10)
    (hok : semBad sem = false) : (wldIns x d).run
      = .ok (enterMover x (.wld a pitch (bits x.w 0 4) (bits x.w 4 1) (bits x.w 5 3) (if bit x.w 8 then some sc else none) (bit x.w 9)) sem) := by
  unfold wldIns
  dsimp only
  rw [hwide, ← ha, ← hpitch, ← hsc, ← hsem, ← hrows]
  dsimp only
  rw [if_neg (fun h => by have := heven h.1; omega), if_neg (by omega),
    if_neg (by rintro (h | ⟨hb, h⟩); exacts [h haal, h (hsal hb)]), hok, if_neg Bool.false_ne_true, hopen]

/-- Rows that all lie in the Forge's local memory. -/
theorem rowsBad_flm {g : Nat → Option Place} (h : ∀ i, i < 64 → ∃ o, g i = some (.flm o)) :
    rowsBad ((List.range 64).map g) (fun p => match p with
      | .flm _ => true
      | _ => false) = none := by
  unfold rowsBad
  rw [if_neg, if_neg]
  · rw [Bool.not_eq_true, List.any_eq_false]
    intro p hp
    obtain ⟨i, hi, rfl⟩ := List.mem_map.1 hp
    obtain ⟨o, ho⟩ := h i (List.mem_range.1 hi)
    rw [ho]
    exact Bool.false_ne_true
  · rw [Bool.not_eq_true, List.any_eq_false]
    intro p hp
    obtain ⟨i, hi, rfl⟩ := List.mem_map.1 hp
    obtain ⟨o, ho⟩ := h i (List.mem_range.1 hi)
    rw [ho]
    exact Bool.false_ne_true

theorem rdrIns_run (hf : x.f = f) {a pitch : Nat} {sem : Nat × Nat} {r : List Bytes × Num.Flags} (hfmt : bits x.w 4 3 ≤ 2)
    (hrnd : iRnd x.w ≤ 1) (horm : iOrm x.w ≤ 1) (ha : a = rA x (iSrc1 x.w)) (hpitch : pitch = rS x (iSrc2 x.w)) (hpal : pitch % 64 = 0)
    (haal : a % 64 = 0)
    (hrows : ∀ i, i < 64 → ∃ o, placeOf (rowAddr a pitch i) (64 * (Num.Fmt.ofCode (bits x.w 4 3)).bytes) = some (.flm o))
    (hsem : sem = semField x.w 8) (hok : semBad sem = false)
    (hr : r = drainRows (resSlot d f (bits x.w 3 1) (bits x.w 0 3)) (Num.Fmt.ofCode (bits x.w 4 3)) (rndOf x.w) (iOrm x.w) (bit x.w 7)) :
    (rdrIns x d).run = .ok { enterMover x (.rdr a pitch r.1) sem with out := flagOut 1 r.2 } := by
  have hnone := rowsBad_flm hrows
  unfold rdrIns
  dsimp only
  rw [← ha, ← hpitch, ← hsem, if_neg (by omega), if_neg (by omega), if_neg (by omega), if_neg (by omega), hok, if_neg Bool.false_ne_true,
    hf, ← hr]
  split
  · next c hc => exact nomatch hc.symm.trans hnone
  · rfl

/-! ### The frame sender -/

theorem bits_top_zero {v : Nat} (h : v < 2 ^ 28) : bits v 28 4 = 0 := by
  unfold bits
  rw [Nat.div_eq_of_lt h]
  rfl

theorem bits_op {v : Nat} (h : v < 2 ^ 28) : bits v 24 4 = v / 2 ^ 24 :=
  Nat.mod_eq_of_lt (Nat.div_lt_of_lt_mul (by omega))

theorem sendPlain_ok (hf : x.f = f) {v cells : Nat} (hv : v = rS x (iSrc2 x.w)) (hlt : v < 2 ^ 28)
    (hop : v / 2 ^ 24 = 0 ∨ v / 2 ^ 24 = 3 ∨ v / 2 ^ 24 = 6) (hroom : (forge d f).sends.length < 16) (hcells : cells = bits x.w 0 8 + 1)
    (hal : rA x (iSrc1 x.w) % 64 = 0) (hfit : rA x (iSrc1 x.w) + 512 * cells ≤ flmSize) : sendPlain x d
      = .ok (pushSend x { sendZero x with len := 512 * cells - 32, op := v / 2 ^ 24, dst := v % 2 ^ 24, label := bits x.w 16 16 }) := by
  have hregion : sendRegion x d (512 * cells) = none := by
    unfold sendRegion
    rw [hf, if_neg (by omega), flmAt_ok hal hfit]
  have hzero : (sendZero x).cells = cells := hcells.symm
  unfold sendPlain
  dsimp only
  rw [← hv, bits_top_zero hlt, bits_op hlt, hzero, hregion, if_neg]
  · dsimp only
    rw [if_neg (by omega)]
    rfl
  · rcases hop with h | h | h <;> rw [h] <;> decide

/-- The checks every SEND meets first. -/
theorem sendIns_run (hsem : semBad (semField x.w 8) = false) : (sendIns x d).run
    = if bits x.w 32 2 = 0 then sendPlain x d else if bits x.w 32 2 = 1 then sendReplyKind x d
      else if bits x.w 32 2 = 2 then sendChunk x d else .error fARG := by
  unfold sendIns
  dsimp only
  rw [hsem]
  rfl

/-- A SEND of kind 0 that is no READ_REQ names no second register. -/
theorem sendIns_plain (hk : bits x.w 32 2 = 0) (hop : bits (rS x (iSrc2 x.w)) 24 4 ≠ 1) :
    (sendIns x d).used = (mSrc1 ||| mSrc2 ||| mBits 32 5 ||| mBits 0 16 ||| mBits 16 16)
    ∧ (sendIns x d).regs = [(iSrc1 x.w, 16), (iSrc2 x.w, 32)] ∧ (sendIns x d).reads = [(1, iSrc1 x.w), (0, iSrc2 x.w)] := by
  have hread : (bits (rS x (iSrc2 x.w)) 24 4 == 1) = false := beq_false_of_ne hop
  unfold sendIns
  dsimp only
  rw [hread, if_pos (Or.inl hk), if_neg (by simp [hk]), if_neg (by simp), if_neg (by simp [hk]), if_neg (by simp), if_neg (by simp [hk]),
    Nat.or_zero, List.append_nil, List.append_nil]
  exact ⟨rfl, rfl, rfl⟩

/-- A SEND of kinds 1 and 2 names a scalar register. -/
theorem sendIns_named (hk : bits x.w 32 2 = 1 ∨ bits x.w 32 2 = 2) :
    (sendIns x d).used = (mSrc1 ||| mSrc2 ||| mBits 32 5 ||| mBits 0 16 ||| mDst)
    ∧ (sendIns x d).regs = [(iSrc1 x.w, 16), (iSrc2 x.w, 32), (iDst x.w, 32)]
    ∧ (sendIns x d).reads = [(1, iSrc1 x.w), (0, iSrc2 x.w), (0, iDst x.w)] := by
  unfold sendIns
  dsimp only
  have hdst : (bits x.w 32 2 == 1 || bits x.w 32 2 == 2) = true := by rcases hk with hk | hk <;> simp [hk]
  have hnot : (bits x.w 32 2 == 0) = false := beq_false_of_ne (by omega)
  rw [hnot, hdst, if_neg (by omega), if_pos (by simp), if_neg (by simp), if_pos rfl, if_neg (by simp), if_pos rfl, Nat.or_zero]
  exact ⟨rfl, rfl, rfl⟩

end

/-- A mover instruction issues while its stream's queue has room. -/
theorem exec_moved {c : Instr} {s : State} {row : Dev → Dev} {op used f st st' t : Nat} {mk : Fetch → Dev → Ins} {x : Fetch}
    {reads : List (Nat × Nat)} {y : Eff} {d : Dev} (hexec : exec c s = act c settle row s)
    (hw : wellFormed c = (decide (f < 16) && decide (st < 6))) (hp : s.dev.boot.power = .on) (hd : d = tick t s.dev)
    (hrow : row s.dev = moverIssue op st' mk f st (tick t s.dev)) (hroom : (strm d f st).movers.length < 16)
    (h : s.dev.issues f st t op used reads x) (hs : st = st')
    (hused : (mk x d).used = used) (hregs : ∀ r ∈ (mk x d).regs, r.1 < r.2) (hreads : (mk x d).reads = reads)
    (hrun : (mk x d).run = .ok y) : exec c s = .next { s with dev := s.dev.issued t x y } := by
  obtain ⟨hf, hst, -⟩ := issues_where h
  rw [hd] at hroom hused hregs hreads hrun
  refine exec_settle hexec (by rw [hw, decide_eq_true hf, decide_eq_true hst]; rfl) hp (hrow.trans ((moverIssue_room hroom).trans ?_))
  exact instr_ok h (one_contains hs) hused hregs hreads hrun

end Sys2Proof.Machine
open Sys2Proof Sys2Proof.Machine

/-- Settles O48, instruction by instruction. -/
theorem syncAndMovers : Obligations.SyncAndMovers := by
  intro s f st t x d hp hd
  refine ⟨fun h hn hg => ?_, fun h hn hg => ?_, fun h hdst h1 hto hal hfit k to_ b hk ht hb => ⟨fun hc => ?_, fun hc hq => ?_, fun hc hq => ?_⟩,
    fun h hdst hto hk => ?_, fun h hdst hto hk n hn => ?_,
    fun n sem h hst1 hroom hdst h1 h2 hn hmul hlo hhi hsal hdal u v hu hv hopen hsem hok => ?_,
    fun a pitch sem sc wide rows h hst0 hroom hdst h1 h2 hwide heven ha hpitch hsc hpal haal hsal hrows hopen hsem hok => ?_,
    fun a pitch sem r h hst1 hroom h1 h2 hfmt hrnd horm ha hpitch hpal haal hrows hsem hok hr => ?_,
    fun v cells h hst1 h1 h2 hsem hk hv hlt hop hroom hcells hal hfit => ?_,
    fun y h hst1 h1 h2 hdst hsem hk => ?_⟩
  all_goals obtain ⟨hf, hst, hxf, hxst, -, -⟩ := issues_where h
  · refine exec_issued (c := .post f st t) rfl rfl hp h (issues_all h) rfl nofun rfl ?_
    unfold postIns
    dsimp only
    rw [if_neg (semNamed hn hg), hxf]
  · refine exec_issued (c := .wait f st t) rfl rfl hp h (issues_all h) rfl nofun rfl ?_
    unfold waitIns
    dsimp only
    rw [if_neg (semNamed_own hn hg), hxf, hxst]
  · refine exec_issued (c := .enq f st t) rfl rfl hp h (issues_all h) rfl (regs_cons hdst (regs_cons h1 nofun)) rfl ?_
    rw [← hd, enqIns_run hxf hxst hto hal hfit hk ht hb, hc]
    rfl
  · refine exec_issued (c := .enq f st t) rfl rfl hp h (issues_all h) rfl (regs_cons hdst (regs_cons h1 nofun)) rfl ?_
    rw [← hd, enqIns_run hxf hxst hto hal hfit hk ht hb, hc, queueFull_true hq]
    rfl
  · refine exec_issued (c := .enq f st t) rfl rfl hp h (issues_all h) rfl (regs_cons hdst (regs_cons h1 nofun)) rfl ?_
    rw [← hd, enqIns_run hxf hxst hto hal hfit hk ht hb, hc, queueFull_false hq]
    rfl
  · refine exec_issued (c := .qd f st t) rfl rfl hp h (issues_all h) rfl (regs_cons hdst nofun) rfl ?_
    unfold qdIns
    dsimp only
    rw [if_neg (by omega), hxf, if_pos hk, ← hd, hk]
  · refine exec_issued (c := .qd f st t) rfl rfl hp h (issues_all h) rfl (regs_cons hdst nofun) rfl ?_
    unfold qdIns
    dsimp only
    rw [if_neg (by omega), hxf, if_neg hk, ← hd, ← hn, hxst]
  · have hregs : ∀ r ∈ (movIns x d).regs, r.1 < r.2 := regs_cons hdst (regs_cons h1 (regs_cons h2 nofun))
    have hrun : (movIns x d).run = .ok { act := moverAct f st x (.mov (rA x (iDst x.w)) (rA x (iSrc1 x.w)) n) sem } :=
      (movIns_run hxst hn hmul hlo hhi hsal hdal hu hv hopen hsem hok).trans (congrArg _ (enterMover_eq hxf hxst _ _))
    by_cases hst0 : st = 0
    · rw [if_pos hst0] at h
      exact exec_moved (c := .mov f st t) rfl rfl hp hd (movRow_load h) hroom h hst0 rfl hregs rfl hrun
    · rw [if_neg hst0] at h
      exact exec_moved (c := .mov f st t) rfl rfl hp hd (movRow_store h) hroom h (by omega) rfl hregs rfl hrun
  · refine exec_moved (c := .wld f st t) rfl rfl hp hd rfl hroom h hst0 rfl (regs_cons hdst (regs_cons h1 ?_)) rfl
      ((wldIns_run hwide heven ha hpitch hsc hpal haal hsal hrows hopen hsem hok).trans ?_)
    · cases hb : bit x.w 8
      · exact nofun
      · exact regs_cons (h2 hb) nofun
    · rw [enterMover_eq hxf hxst]
      rfl
  · refine exec_moved (c := .rdr f st t) rfl rfl hp hd rfl hroom h hst1 rfl (regs_cons h1 (regs_cons h2 nofun)) rfl
      ((rdrIns_run hxf hfmt hrnd horm ha hpitch hpal haal hrows hsem hok hr).trans ?_)
    rw [enterMover_eq hxf hxst]
    rfl
  · have hop' : bits (rS x (iSrc2 x.w)) 24 4 ≠ 1 := by rw [← hv, bits_op hlt]; omega
    obtain ⟨hused, hregs, hreads⟩ := sendIns_plain (d := tick t s.dev) hk hop'
    refine exec_issued (c := .sendInstruction f st t) rfl rfl hp h (one_contains hst1) hused
      (by rw [hregs]; exact regs_cons h1 (regs_cons h2 nofun)) hreads ?_
    rw [sendIns_run hsem, if_pos hk, ← hd, sendPlain_ok hxf hv hlt hop hroom hcells hal hfit, pushSend, hxf]
  · obtain ⟨hused, hregs, hreads⟩ := sendIns_named (x := x) (d := tick t s.dev) (hk.imp And.left And.left)
    refine exec_issued (c := .sendInstruction f st t) rfl rfl hp h (one_contains hst1) hused
      (by rw [hregs]; exact regs_cons h1 (regs_cons h2 (regs_cons hdst nofun))) hreads ?_
    rw [sendIns_run hsem, ← hd]
    rcases hk with ⟨hk, hy⟩ | ⟨hk, hy⟩
    · rw [if_neg (by omega), if_pos hk, hy]
    · rw [if_neg (by omega), if_neg (by omega), if_pos hk, hy]

end

section
/-! SUPPORT. TINKER's vector instructions (R287 to R289, Table 10.5). -/

set_option Elab.async false

namespace Sys2Proof.Machine

open Sys2Proof

/-! ### Lanes -/

/-- The lanes of three registers, combined by what the first two come to. -/
theorem map_zip_two {α β γ δ : Type} (g : α → β → δ) (a : List α) (b : List β) (c : List γ) (h : b.length ≤ c.length) :
    (a.zip (b.zip c)).map (fun p => g p.1 p.2.1) = (a.zip b).map (fun p => g p.1 p.2) := by
  have hfst : b = (b.zip c).map Prod.fst := (List.map_fst_zip h).symm
  conv_rhs => rw [hfst, List.zip_map_right, List.map_map]
  rfl

theorem lanes_length (w v : Nat) : (lanes w v).length = 512 / w := by
  rw [lanes, List.length_map, List.length_range]

section
variable {c : Instr} {s : State} {op f t : Nat} {x : Fetch} {third : Bool}

/-- The lane results of three registers' lanes. -/
def laneOut (w : Nat) (x : Fetch) (g : Nat → Nat → Nat → Nat × Num.Flags) : Nat × Num.Flags :=
  gatherLanes w (((lanes w (rV x (iSrc1 x.w))).zip ((lanes w (rV x (iSrc2 x.w))).zip (lanes w (rV x (iDst x.w))))).map
    (fun p => g p.1 p.2.1 p.2.2))

/-- A floating-point lane operation in format 0 or 1. -/
theorem exec_vFloat {g : Num.Fmt → Num.Rnd → Nat → Nat → Nat → Nat → Nat × Num.Flags}
    (hexec : exec c s = act c settle (instr op [2] (fun x _ => vFloat third g x) f 2 t) s)
    (hw : wellFormed c = (decide (f < 16) && decide (2 < 6))) (hp : s.dev.boot.power = .on) (hd : iDst x.w < 32) (h1 : iSrc1 x.w < 32)
    (h2 : iSrc2 x.w < 32) (hfmt : bits x.w 0 3 ≤ 1) (hrnd : iRnd x.w ≤ 1) (horm : iOrm x.w ≤ 1)
    (h : s.dev.issues f 2 t op (mDst ||| mSrc1 ||| mSrc2 ||| (mBits 0 3 ||| mBits 32 4))
      ([(2, iSrc1 x.w), (2, iSrc2 x.w)] ++ if third then [(2, iDst x.w)] else []) x) :
    let r := laneOut (Num.Fmt.ofCode (bits x.w 0 3)).bits x (g (Num.Fmt.ofCode (bits x.w 0 3)) (rndOf x.w) (iOrm x.w))
    exec c s = .next { s with dev := s.dev.issued t x {
      out := vOut (if bits x.w 0 3 = 0 then 5 else 4) (iDst x.w) r.1 ++ flagOut (if bits x.w 0 3 = 0 then 5 else 4) r.2 } } := by
  intro r
  refine exec_issued hexec hw hp h rfl (Nat.lor_assoc _ _ _) (regs_cons hd (regs_cons h1 (regs_cons h2 nofun))) rfl ?_
  have hfmt' : iFmt x.w = bits x.w 0 3 := rfl
  unfold vFloat
  dsimp only
  rw [hfmt', if_neg (by omega), if_neg (by omega)]
  rfl

/-- An integer lane operation in formats 3 to 6. -/
theorem exec_vInt {extra : Nat} {bad : Fetch → Bool} {g : Fetch → Num.Fmt → Nat → Nat → Nat × Num.Flags}
    (hexec : exec c s = act c settle (instr op [2] (fun x _ => vInt extra (bad x) (g x) x) f 2 t) s)
    (hw : wellFormed c = (decide (f < 16) && decide (2 < 6))) (hp : s.dev.boot.power = .on) (hd : iDst x.w < 32) (h1 : iSrc1 x.w < 32)
    (h2 : iSrc2 x.w < 32) (hlo : 3 ≤ bits x.w 0 3) (hhi : bits x.w 0 3 ≤ 6) (hbad : bad x = false) {used : Nat}
    (hused : mDst ||| mSrc1 ||| mSrc2 ||| mBits 0 3 ||| extra = mDst ||| mSrc1 ||| mSrc2 ||| used)
    (h : s.dev.issues f 2 t op (mDst ||| mSrc1 ||| mSrc2 ||| used) [(2, iSrc1 x.w), (2, iSrc2 x.w)] x) :
    let r := laneOut (Num.Fmt.ofCode (bits x.w 0 3)).bits x (fun a b _ => g x (Num.Fmt.ofCode (bits x.w 0 3)) a b)
    exec c s = .next { s with dev := s.dev.issued t x { out := vOut 2 (iDst x.w) r.1 ++ flagOut 2 r.2 } } := by
  intro r
  refine exec_issued hexec hw hp h rfl hused (regs_cons hd (regs_cons h1 (regs_cons h2 nofun))) rfl ?_
  have hfmt : iFmt x.w = bits x.w 0 3 := rfl
  have hin : within 3 6 (bits x.w 0 3) = true := by rw [within, decide_eq_true hlo, decide_eq_true hhi]; rfl
  have hr : r = gatherLanes (Num.Fmt.ofCode (bits x.w 0 3)).bits
      (((lanes (Num.Fmt.ofCode (bits x.w 0 3)).bits (rV x (iSrc1 x.w))).zip (lanes (Num.Fmt.ofCode (bits x.w 0 3)).bits (rV x (iSrc2 x.w)))).map
        (fun p => g x (Num.Fmt.ofCode (bits x.w 0 3)) p.1 p.2)) :=
    congrArg (gatherLanes _) (map_zip_two _ _ _ _ (by rw [lanes_length, lanes_length]))
  unfold vInt
  dsimp only
  rw [hfmt, hin, hbad, ← hr]
  rfl

/-- A bitwise operation over 512 bits. -/
theorem exec_vBits {g : Nat → Nat → Nat → Nat}
    (hexec : exec c s = act c settle (instr op [2] (fun x _ => vBits third g x) f 2 t) s)
    (hw : wellFormed c = (decide (f < 16) && decide (2 < 6))) (hp : s.dev.boot.power = .on) (hd : iDst x.w < 32) (h1 : iSrc1 x.w < 32)
    (h2 : iSrc2 x.w < 32)
    (h : s.dev.issues f 2 t op (mDst ||| mSrc1 ||| mSrc2 ||| 0)
      ([(2, iSrc1 x.w), (2, iSrc2 x.w)] ++ if third then [(2, iDst x.w)] else []) x) :
    exec c s = .next { s with dev := s.dev.issued t x {
      out := vOut 2 (iDst x.w) (g (rV x (iSrc1 x.w)) (rV x (iSrc2 x.w)) (rV x (iDst x.w))) } } :=
  exec_issued hexec hw hp h rfl (Nat.or_zero _).symm (regs_cons hd (regs_cons h1 (regs_cons h2 nofun))) rfl rfl

end

/-! ### VCVT -/

theorem minmax_int {f : Num.Fmt} (h : f.isFloat = false) (m : Bool) (a b : Nat) : Num.minmax f m a b
    = if m then (if Num.toInt f a < Num.toInt f b then b else a) else (if Num.toInt f b < Num.toInt f a then b else a) := by
  unfold Num.minmax
  rw [h]
  exact if_neg Bool.false_ne_true

theorem ofCode_int {n : Nat} (hlo : 3 ≤ n) (hhi : n ≤ 6) : (Num.Fmt.ofCode n).isFloat = false := by
  interval_cases n <;> rfl

theorem ofCode_ne_e8s {n : Nat} (h : n < 7) : Num.Fmt.ofCode n ≠ .e8s := by
  interval_cases n <;> exact nofun

theorem bits_lt (v lo w : Nat) : bits v lo w < 2 ^ w := Nat.mod_lt _ (Nat.two_pow_pos w)

theorem vcvtIns_run {x : Fetch} {d : Dev} {sf df : Num.Fmt} {p ws wd n lane0 : Nat}
    (hsr : iRnd x.w = 2 → iSrc2 x.w < 31 ∧ iSrc2 x.w % 2 = 0 ∧ df.isInt = false) (hrnd : iRnd x.w ≤ 2) (horm : iOrm x.w ≤ 1)
    (hsf : sf = Num.Fmt.ofCode (bits x.w 0 3)) (hdf : df = Num.Fmt.ofCode (bits x.w 3 3)) (hs7 : bits x.w 0 3 ≠ 7) (hd7 : bits x.w 3 3 ≠ 7)
    (hp : p = bits x.w 6 2) (hws : ws = sf.bits) (hwd : wd = df.bits) (hpart : p < max ws wd / min ws wd) (hn : n = 512 / max ws wd)
    (hlane : lane0 = if wd < ws then p * n else 0) {r : Nat × Num.Flags}
    (hr : r = gatherLanes wd ((List.range n).map (fun i =>
      (Num.convert sf df (cvtRnd x (lane0 + i)) (iOrm x.w) (iSat x.w)
        ((if ws < wd then ((lanes ws (rV x (iSrc1 x.w))).drop (p * n)).take n else lanes ws (rV x (iSrc1 x.w))).getD i 0)).getD (0, 0)))) :
    (vcvtIns x d).run = .ok {
      out := (3, .v (iDst x.w) (if wd < ws then mBits (lane0 * wd) (n * wd) else allOnes512) (r.1 * 2 ^ (lane0 * wd))) :: flagOut 3 r.2 } := by
  have hs : sf ≠ .e8s := by rw [hsf]; exact ofCode_ne_e8s (by have := bits_lt x.w 0 3; omega)
  have hd : df ≠ .e8s := by rw [hdf]; exact ofCode_ne_e8s (by have := bits_lt x.w 3 3; omega)
  have hlane' : (if decide (wd < ws) = true then p * n else 0) = lane0 := by rw [hlane]; simp only [decide_eq_true_eq]
  have heven : ¬ ((iRnd x.w == 2) = true ∧ iSrc2 x.w % 2 = 1) := by
    rw [beq_iff_eq]
    exact fun h => by have := (hsr h.1).2.1; omega
  have hctrl : ¬ (iRnd x.w = 3 ∨ 1 < iOrm x.w ∨ (iRnd x.w == 2 && df.isInt) = true) := by
    rw [Bool.and_eq_true, beq_iff_eq]
    rintro (h | h | ⟨h, hi⟩)
    · omega
    · omega
    · rw [(hsr h).2.2] at hi
      exact Bool.false_ne_true hi
  unfold vcvtIns
  dsimp only
  rw [← hsf, ← hdf, ← hp, ← hws, ← hwd, ← hn, hlane', ← hr, if_neg heven, if_neg (by simp [hs, hd, hpart]), if_neg hctrl]
  simp only [decide_eq_true_eq]

theorem vcvtIns_form {x : Fetch} {d : Dev} (hd : iDst x.w < 32) (h1 : iSrc1 x.w < 32) (hsr : iRnd x.w = 2 → iSrc2 x.w < 31) :
    (vcvtIns x d).used = (mDst ||| mSrc1 ||| mImm ||| mBits 32 5 ||| if iRnd x.w = 2 then mSrc2 else 0)
    ∧ (∀ r ∈ (vcvtIns x d).regs, r.1 < r.2)
    ∧ (vcvtIns x d).reads = (2, iSrc1 x.w) :: if iRnd x.w = 2 then [(0, iSrc2 x.w), (0, iSrc2 x.w + 1)] else [] := by
  unfold vcvtIns
  dsimp only
  by_cases h : iRnd x.w = 2
  · have hb : (iRnd x.w == 2) = true := beq_iff_eq.2 h
    simp only [hb, if_true, if_pos h]
    exact ⟨trivial, regs_cons hd (regs_cons h1 (regs_cons (hsr h) nofun)), trivial⟩
  · have hb : (iRnd x.w == 2) = false := beq_false_of_ne h
    simp only [hb, Bool.false_eq_true, if_false, if_neg h]
    exact ⟨trivial, regs_cons hd (regs_cons h1 nofun), trivial⟩

end Sys2Proof.Machine
open Sys2Proof Sys2Proof.Machine

/-- Settles O49, instruction by instruction. -/
theorem vectorInstructions : Obligations.VectorInstructions := by
  intro s f t x d hp hd hdst
  refine ⟨fun h h1 hal m o hm => ?_, fun h h1 h2 hal m o hm => ?_, fun h h1 hfmt w hw => ?_,
    fun h1 h2 => ?_,
    fun sf df p ws wd n lane0 h h1 hsr hrnd horm hsf hdf hs7 hd7 hp' hws hwd hpart hn hlane r hr => ?_⟩
  · refine exec_issued (c := .vld f 2 t) rfl rfl hp h rfl rfl (regs_cons hdst (regs_cons h1 nofun)) rfl ?_
    obtain ⟨-, -, hxf, -⟩ := issues_where h
    unfold vldIns readLocal
    dsimp only
    rw [localAt_ok hal hm, hxf, ← hd]
  · refine exec_issued (c := .vst f 2 t) rfl rfl hp h rfl rfl (regs_cons h1 (regs_cons h2 nofun)) rfl ?_
    unfold vstIns
    dsimp only
    rw [localAt_ok hal hm]
  · refine exec_issued (c := .vbc f 2 t) rfl rfl hp h rfl rfl (regs_cons hdst (regs_cons h1 nofun)) rfl ?_
    unfold vbcIns
    dsimp only
    rw [show iFmt x.w = bits x.w 0 3 from rfl, if_neg hfmt, ← hw]
  · intro fm rn o lf ok each3 out raw float
    refine ⟨fun hfmt hrnd horm => ⟨fun h => ?_, fun h => ?_, fun h => ?_, fun h => ?_⟩,
      fun hlo hhi => ⟨fun h => ?_, fun h => ?_, fun h => ?_, fun h => ?_, fun h hc4 hc5 => ?_⟩, fun h => ?_, fun h => ?_, fun h => ?_, fun h => ?_⟩
    · have hexec := exec_vFloat (c := .vadd f 2 t) (third := false) rfl rfl hp hdst h1 h2 hfmt hrnd horm h
      exact hexec
    · have hexec := exec_vFloat (c := .vsub f 2 t) (third := false) rfl rfl hp hdst h1 h2 hfmt hrnd horm h
      exact hexec
    · have hexec := exec_vFloat (c := .vmul f 2 t) (third := false) rfl rfl hp hdst h1 h2 hfmt hrnd horm h
      exact hexec
    · have hexec := exec_vFloat (c := .vfma f 2 t) (third := true) rfl rfl hp hdst h1 h2 hfmt hrnd horm h
      exact hexec
    · have hexec := exec_vInt (c := .viadd f 2 t) (bad := fun _ => false) rfl rfl hp hdst h1 h2 hlo hhi rfl (Nat.lor_assoc _ _ _) h
      exact hexec
    · have hexec := exec_vInt (c := .visub f 2 t) (bad := fun _ => false) rfl rfl hp hdst h1 h2 hlo hhi rfl (Nat.lor_assoc _ _ _) h
      exact hexec
    · have hexec := exec_vInt (c := .vimin f 2 t) (extra := 0) (used := mBits 0 3) (bad := fun _ => false) rfl rfl hp hdst h1 h2 hlo hhi rfl
        (Nat.or_zero _) h
      simp only [minmax_int (ofCode_int hlo hhi)] at hexec
      exact hexec
    · have hexec := exec_vInt (c := .vimax f 2 t) (extra := 0) (used := mBits 0 3) (bad := fun _ => false) rfl rfl hp hdst h1 h2 hlo hhi rfl
        (Nat.or_zero _) h
      simp only [minmax_int (ofCode_int hlo hhi)] at hexec
      exact hexec
    · have hexec := exec_vInt (c := .vicmp f 2 t) (bad := fun x => iCond x.w == 4 || iCond x.w == 5) (extra := mBits 32 3)
        (g := fun x f a b => (if condV (iCond x.w) f a b then 2 ^ f.bits - 1 else 0, 0)) rfl rfl hp hdst h1 h2 hlo hhi
        (by simp [hc4, hc5]) (Nat.lor_assoc _ _ _) h
      exact hexec
    · have hexec := exec_vBits (c := .vand f 2 t) (third := false) (g := fun a b _ => a &&& b) rfl rfl hp hdst h1 h2 h
      exact hexec
    · have hexec := exec_vBits (c := .vor f 2 t) (third := false) (g := fun a b _ => a ||| b) rfl rfl hp hdst h1 h2 h
      exact hexec
    · have hexec := exec_vBits (c := .vxor f 2 t) (third := false) (g := fun a b _ => a ^^^ b) rfl rfl hp hdst h1 h2 h
      exact hexec
    · have hexec := exec_vBits (c := .vsel f 2 t) (third := true) (g := fun m a b => (m &&& a) ||| ((allOnes512 - m) &&& b)) rfl rfl hp hdst h1 h2 h
      exact hexec
  · obtain ⟨hused, hregs, hreads⟩ := vcvtIns_form (d := tick t s.dev) hdst h1 (fun h => (hsr h).1)
    exact exec_issued (c := .vcvt f 2 t) rfl rfl hp h rfl hused hregs hreads
      (vcvtIns_run hsr hrnd horm hsf hdf hs7 hd7 hp' hws hwd hpart hn hlane hr)

end

section
/-! SUPPORT. A TNORMB whose length stands in S31. -/

set_option Elab.async false

namespace Sys2Proof.Machine

open Sys2Proof

/-- Forge 2's Temper with a TNORMB of FP16 rows whose length register is S31. -/
def normWord : Nat := ins 0x72 4 2 31 0 294911

def normState : State := stOf (dIns 5 normWord (fun y => { y with s := [(31, 16)], a := [(2, 0x1001), (3, 0x3003), (4, 0x5005)] }) id)

/-- What the Temper fetches. -/
def normFetch : Fetch := { f := 2, st := 5, e := 9, w := normWord, s := strm normState.dev 2 5, j := 0 }

/-- The row the statement has TNORMB write. -/
def normRow : Bytes × Num.Flags :=
  outRow (Num.Fmt.ofCode (bits normFetch.w 18 3)) (iOrm normFetch.w) (tnormbRow (iOrm normFetch.w) (rS normFetch (iSrc2 normFetch.w))
    (bit normFetch.w 21) (statVals normFetch (tick 9 normState.dev)).1 (statVals normFetch (tick 9 normState.dev)).2
    (tempRow (Num.Fmt.ofCode (bits normFetch.w 15 3)) (rS normFetch (iSrc2 normFetch.w)) (memReadN (forge (tick 9 normState.dev) 2).flm
      (rA normFetch (iSrc1 normFetch.w)) (rS normFetch (iSrc2 normFetch.w) * (Num.Fmt.ofCode (bits normFetch.w 15 3)).bytes)))
    (tempRow (Num.Fmt.ofCode (bits normFetch.w 15 3)) (rS normFetch (iSrc2 normFetch.w)) (memReadN (forge (tick 9 normState.dev) 2).flm
      (rA normFetch (iSrc1 normFetch.w + 1)) (rS normFetch (iSrc2 normFetch.w) * (Num.Fmt.ofCode (bits normFetch.w 15 3)).bytes))))

theorem normState_rows : normState.dev.boot.power = .on ∧ bits normFetch.w 15 3 ≤ 2 ∧ bits normFetch.w 18 3 ≤ 2 ∧ iRnd normFetch.w ≤ 2
    ∧ iOrm normFetch.w ≤ 1 ∧ rS normFetch (iSrc2 normFetch.w) % 16 = 0 ∧ 16 ≤ rS normFetch (iSrc2 normFetch.w)
    ∧ rS normFetch (iSrc2 normFetch.w) ≤ 16384
    ∧ rA normFetch (iSrc1 normFetch.w) + rS normFetch (iSrc2 normFetch.w) * (Num.Fmt.ofCode (bits normFetch.w 15 3)).bytes ≤ flmSize
    ∧ rA normFetch (iDst normFetch.w) + rS normFetch (iSrc2 normFetch.w) * (Num.Fmt.ofCode (bits normFetch.w 18 3)).bytes ≤ flmSize
    ∧ iDst normFetch.w < 16
    ∧ rA normFetch (iSrc1 normFetch.w + 1) + rS normFetch (iSrc2 normFetch.w) * (Num.Fmt.ofCode (bits normFetch.w 15 3)).bytes ≤ flmSize
    ∧ iSrc1 normFetch.w < 15 ∧ iSrc2 normFetch.w < 32 := by
  decide +kernel

theorem normState_issues : normState.dev.issues 2 5 9 0x72 (mDst ||| mSrc1 ||| mSrc2 ||| mBits 32 4 ||| mBits 0 22)
    [(1, iDst normFetch.w), (1, iSrc1 normFetch.w), (0, iSrc2 normFetch.w), (1, iSrc1 normFetch.w + 1)] normFetch := by
  simp only [Dev.issues]
  decide +kernel

/-- Whether Forge 2's Temper still runs its command. -/
def temperRuns : Host.Outcome State Fault Refusal → Bool
  | .next s => (strm s.dev 2 5).on
  | _ => false

theorem normState_faults : temperRuns (exec (.tnormb 2 5 9) normState) = false := by decide +kernel

theorem normState_claim : temperRuns (.next { normState with dev := normState.dev.issued 9 normFetch {
    out := (12 + rS normFetch (iSrc2 normFetch.w) / 16, .mem false (rA normFetch (iDst normFetch.w)) normRow.1)
      :: flagOut (12 + rS normFetch (iSrc2 normFetch.w) / 16) normRow.2,
    intv := rS normFetch (iSrc2 normFetch.w) / 16, act := count 13 2 1 { masters := [mForge 2] } } }) = true := by
  decide +kernel

end Sys2Proof.Machine
open Sys2Proof Sys2Proof.Machine

/-- Refutes O50: TNORMB reads S[src2 + 1] as TNORM does, so with src2 = 31, which the statement allows, it names a register there is
not, and its command ends with a fault. -/
theorem not_engineInstructions : ¬ Obligations.EngineInstructions := by
  intro h
  obtain ⟨hpower, hfi, hfo, hrnd, horm, hmul, hlo, hhi, ha, ho, hdst, hg, h1, h2⟩ := normState_rows
  obtain ⟨-, -, htemper⟩ := h normState 2 5 9 normFetch _ hpower rfl
  obtain ⟨-, -, hnormb, -⟩ := htemper _ _ _ _ _ _ _ rfl rfl rfl hfi hfo hrnd horm hmul hlo hhi rfl rfl rfl ha ho rfl rfl hdst
  have hclaim := hnormb normRow hg normState_issues h1 h2 rfl
  have hafter := normState_faults
  rw [hclaim, normState_claim] at hafter
  exact absurd hafter (by decide)

end

section
/-! SUPPORT. A register write that runs past the end of BAR4. -/

set_option Elab.async false

namespace Sys2Proof.Machine

open Sys2Proof

/-- 16,386 bytes from the last byte of BAR0 reach past the pages of BAR4. -/
theorem longWrite_idle {b : Bytes} (hb : b.length = 16386) (s : State) : exec (.registerWrite (2 ^ 24 - 1) b 1) s = .next s := by
  refine act_illFormed (c := .registerWrite (2 ^ 24 - 1) b 1) ?_ settle _ s
  show decide (2 ^ 24 - 1 + b.length ≤ 2 ^ 24 + 2 ^ 14) = false
  rw [hb]
  decide

theorem stOf_dUp_live : (stOf dUp).live ∧ (stOf dUp).dev.boot.recovery = false := by
  simp only [State.live, Dev.quiet]
  decide +kernel

/-- The arithmetic cycle after a command. -/
def cycleOf : Host.Outcome State Fault Refusal → Nat
  | .next s => s.dev.clk.now
  | _ => 0

theorem longWrite_now : cycleOf (.next (stOf dUp)) = 0 := by decide +kernel

theorem longWrite_claim : cycleOf (.next { stOf dUp with dev := settle (tick 1 (stOf dUp).dev) }) = 1 := by decide +kernel

end Sys2Proof.Machine
open Sys2Proof Sys2Proof.Machine

/-- Refutes O52: a write of any width that is not aligned to it is said to let its cycle come; one that runs past the end of BAR4 is no
command of the model, and the cycle stays. -/
theorem not_registerWrites : ¬ Obligations.RegisterWrites := by
  intro h
  obtain ⟨hlive, hrec⟩ := stOf_dUp_live
  obtain ⟨-, -, -, -, -, hidle, -⟩ := h (stOf dUp) hlive hrec
  have hlen : (zeros 16386).length = 16386 := List.length_replicate
  generalize zeros 16386 = b at hlen
  have hclaim := hidle (2 ^ 24 - 1) 1 b (by decide) (.inr (by rw [hlen]; decide))
  have hafter := longWrite_now
  rw [← longWrite_idle hlen (stOf dUp), hclaim, longWrite_claim] at hafter
  exact absurd hafter (by decide)

end

section
/-! SUPPORT. Adapters: slots, micro-batches and updates (R309 to R313, R315, R316, R319 to R322). -/

set_option Elab.async false

namespace Sys2Proof.Machine

open Sys2Proof

/-! ### Commands whose accesses meet memory errors -/

section
variable {c : Instr} {s : State} {errs : List MemErr} {f : Dev → Dev} {x : Dev}

/-- On a module that is ON a command whose accesses meet memory errors answers its effect, with the errors past. -/
theorem exec_memSettle (hexec : exec c s = actMem c errs settle f s) (hw : wellFormed c = true) (hp : s.dev.boot.power = .on)
    (hf : f (meet errs s.dev) = x) : exec c s = .next { s with dev := unmeet errs (settle x) } := by
  rw [hexec, actMem]
  unfold act
  rw [hw]
  simp [hp, hf]

/-- What no memory reads is as before when the errors of an access are met. -/
theorem meet_same {α : Type} (g : Dev → α) (h : ∀ d m, g { d with mem := m } = g d) (errs : List MemErr) (d : Dev) : g (meet errs d) = g d := by
  unfold meet
  split
  · rfl
  · exact h d _

end

/-! ### DEFINE, STEP and CLEAR -/

section
variable {q : Nat} {e r m b : Bytes} {a d d1 d2 : Dev} {fl : Num.Flags} {sl : Slot}

/-- A slot as DEFINE makes it (Table 11.4). -/
def newSlot (r : Bytes) (fl : Num.Flags) : Slot :=
  { record := r, version := 0, t := 0, p1 := 0x3F800000, p2 := 0x3F800000, flags := fl.toNat, upd := none }

theorem defineSlot_ok (hread : gAddrRead 2 (sMaster r) (masterBytes r) a = (.ok m, d1))
    (hwrite : gAddrWrite 2 (sState r) (zeros (stateBytes r)) d1 = (0, d2)) (hbank : bankOf r 0 (fp32s m) = (b, fl)) : defineSlot r a
      = (0, setSlot (sSlot r) (newSlot r fl) (putBank r 1 (zeros (bankBytes r)) (putBank r 0 b d2))) := by
  unfold defineSlot
  rw [hread]
  dsimp only
  rw [hwrite, hbank]
  rfl

theorem cmdAdapterDefine_new (hplain : plainOk e [(32, 8)] = true) (hal : leAt e 32 8 % 64 = 0) (hr : r = hostRead a (leAt e 32 8) 64)
    (hfree : tget a.adp.slots (sSlot r) = none) (hok : adpRecOk a r = true) (hdef : defineSlot r a = (0, d)) :
    cmdAdapterDefine (sqCmd q e) e a = .done 0 0 0 d := by
  unfold cmdAdapterDefine
  rw [hplain, image_sq q e 64 a hal, ← hr]
  dsimp only
  rw [if_neg (by decide), hfree]
  dsimp only
  rw [hok, hdef]
  rfl

theorem cmdAdapterClear_free (hplain : plainOk e [(16, 2)] = true) (hk : leAt e 16 2 ≤ 4095) (hs : tget a.adp.slots (leAt e 16 2) = some sl)
    (h0 : bankRefs a (leAt e 16 2) 0 = 0) (h1 : bankRefs a (leAt e 16 2) 1 = 0) (hu : sl.upd = none) :
    cmdAdapterClear (sqCmd q e) e a = .done 0 0 sl.version (modAdp (fun x => { x with slots := tdel x.slots (leAt e 16 2) }) a) := by
  unfold cmdAdapterClear
  dsimp only
  rw [if_neg (by simp [hplain, hk]), hs]
  exact if_pos ⟨h0, h1, by rw [hu]; rfl⟩

/-- The update as a STEP asks for it (R319). -/
def newUpdate (q : Nat) (e : Bytes) : Update :=
  { cmd := sqCmd q e, grad := leAt e 32 8, gs := byteAt e 18, lr := leAt e 20 4, applying := false, began := 0 }

/-- A STEP of a slot there is, whose gradient lies in GDDR7 (R319). -/
theorem cmdAdapterStep_slot (hplain : plainOk e [(16, 3), (20, 8), (32, 8)] = true) (hk : leAt e 16 2 ≤ 4095) (hg : leAt e 32 8 < 2 ^ 48)
    (hs : tget a.adp.slots (leAt e 16 2) = some sl) (hin : (gddrRange (leAt e 32 8) (masterBytes sl.record)).isSome = true)
    (hv : newestOf sl = leAt e 24 4) : cmdAdapterStep (sqCmd q e) e a
      = if sl.upd.isSome then .wait a
        else .run (setSlot (leAt e 16 2) { sl with upd := some (newUpdate q e) } a) := by
  have haddr : forgeAddrOk (leAt e 32 8) = true := decide_eq_true hg
  have hin' : inGddr (leAt e 32 8) (masterBytes sl.record) = true := hin
  unfold cmdAdapterStep
  dsimp only
  rw [if_neg (by simp [hplain, hk, haddr]), hs]
  dsimp only
  rw [hin', if_neg (by decide), if_pos hv]
  rfl

theorem newestOf_idle (h : sl.upd = none) : newestOf sl = sl.version % 2 ^ 32 := by
  unfold newestOf
  rw [h]
  rfl

theorem newestOf_busy (h : sl.upd.isSome = true) : newestOf sl = (sl.version + 1) % 2 ^ 32 := by
  unfold newestOf
  rw [h]
  rfl

end

/-! ### A micro-batch is opened -/

section
variable {q f st slot id units : Nat} {e : Bytes} {a : Dev} {sl : Slot} {ext : Option Extent}

/-- A micro-batch as its first TASK opens it (R313, R316). -/
def newMb (f slot id units : Nat) (sl : Slot) (ext : Option Extent) : MicroBatch :=
  { slot := slot, id := id, forge := f, version := sl.version, units := units, ext := ext, old := [], backward := false,
    recompute := false, again := false, failed := false, dropped := false, live := [], closed := [], past := [] }

theorem mbOpen_fits (hs : tget a.adp.slots slot = some sl) (hroom : a.adp.mbs.length < 4096)
    (hext : (units = 0 ∧ ext = none) ∨ (units ≠ 0 ∧ ∃ y, placeExtent a f units = some y ∧ ext = some y)) :
    mbOpen a f slot id units = some (modAdp (fun y => { y with mbs := y.mbs ++ [newMb f slot id units sl ext] }) a) := by
  unfold mbOpen
  rw [hs]
  rcases hext with ⟨hu, rfl⟩ | ⟨hu, y, hy, rfl⟩
  · rw [if_pos hu]
    exact if_neg (Nat.not_le.2 hroom)
  · rw [if_neg hu, hy]
    exact if_neg (Nat.not_le.2 hroom)

/-- A FWD TASK of a key that holds nothing. -/
structure OpensMb (f st slot id units : Nat) (e : Bytes) (sl : Slot) (a : Dev) : Prop where
  forge : f = byteAt e 48 % 16
  stream : st = byteAt e 48 / 16
  slotAt : slot = leAt e 50 2
  idAt : id = leAt e 52 4
  unitsAt : units = leAt e 56 2
  body : bodyOk e [(16, 42)] = true
  flags : byteAt e 1 ≤ 1
  inRange : st ≤ 5
  byte49 : byteAt e 49 ≤ 7
  phase : byteAt e 49 % 4 = 1
  slotIn : slot ≤ 4095
  cmd : cmdOk st (slice e 16 32) = true
  unfenced : forgeFenced a f = false
  slotThere : tget a.adp.slots slot = some sl
  hosted : byteAt sl.record 2 % 16 = f
  fresh : findMb a slot id = none
  mayFit : neverFits a f units = false
  room : (strm a f st).queue.length < 64

/-- The device after a micro-batch has been opened and the TASK's command has entered its queue. -/
def mbOpened (q f st slot id units : Nat) (e : Bytes) (sl : Slot) (ext : Option Extent) (a : Dev) : Dev :=
  enqueueCmd f st (slice e 16 32) (.task (sqCmd q e)) (some (slot, id)) ((byteAt e 49).testBit 2)
    (modMb slot id (fun m => { m with live := m.live ++ [a.forge.ser] })
      (modAdp (fun y => { y with mbs := y.mbs ++ [newMb f slot id units sl ext] }) a))

theorem cmdTask_opens (h : OpensMb f st slot id units e sl a) (hroom : a.adp.mbs.length < 4096)
    (hext : (units = 0 ∧ ext = none) ∨ (units ≠ 0 ∧ ∃ y, placeExtent a f units = some y ∧ ext = some y)) :
    cmdTask (sqCmd q e) e a = .run (mbOpened q f st slot id units e sl ext a) := by
  obtain ⟨rfl, rfl, rfl, rfl, rfl, hbody, hflags, hst, h49, hphase, hslot, hcmd, hfence, hsl, hhost, hfresh, hfit, hqueue⟩ := h
  have hopen := mbOpen_fits (id := leAt e 52 4) hsl hroom hext
  unfold cmdTask
  dsimp only
  rw [hphase, if_neg (by simp [hbody, hflags, hst, h49, hslot, hcmd]), hfence, if_neg Bool.false_ne_true, if_neg (by decide), hsl, hfresh]
  dsimp only
  rw [if_neg (by simp [hhost]), if_neg (by decide), hfit, if_neg Bool.false_ne_true, queueFull_false hqueue, if_neg Bool.false_ne_true, hopen]
  rfl

theorem calm_mbOpened (q f st slot id units : Nat) (e : Bytes) (sl : Slot) (ext : Option Extent) (a : Dev) :
    Calm a (mbOpened q f st slot id units e sl ext a) := ⟨rfl, rfl, rfl, rfl⟩

end

/-! ### Updates -/

section
variable {k : Nat} {d : Dev} {sl : Slot} {u : Update}

theorem updateStart_at (hs : tget d.adp.slots k = some sl) (hu : sl.upd = some u) (hnow : d.clk.now = d.clk.swStart)
    (happ : u.applying = false) : updateStart k d
      = if bankRefs d k ((sl.version + 1) % 2) ≠ 0 then
          countOnce 20 k 14 2 { masters := [mForge (sForge sl.record)] } (setEvt oAdpEvt 2 d)
        else updateApply k sl u d := by
  unfold updateStart
  rw [hs]
  dsimp only
  rw [hu]
  exact if_neg (by simp [happ, hnow])

theorem updateDone_at (hs : tget d.adp.slots k = some sl) (hu : sl.upd = some u) (hnow : d.clk.now = d.clk.swStart)
    (happ : u.applying = true) (hbegan : u.began ≠ d.clk.swc.toNat) : updateDone k d
      = commitGo (complete u.cmd 0 0 ((sl.version + 1) % 2 ^ 32)
          (setSlot k { sl with version := (sl.version + 1) % 2 ^ 32, t := (sl.t + 1) % 2 ^ 32, upd := none } d)) := by
  unfold updateDone
  rw [hs]
  dsimp only
  rw [hu]
  exact if_neg (by simp [happ, hnow, hbegan])

theorem meet_adp (errs : List MemErr) (d : Dev) : (meet errs d).adp = d.adp := meet_same Dev.adp (fun _ _ => rfl) errs d

theorem meet_clk (errs : List MemErr) (d : Dev) : (meet errs d).clk = d.clk := meet_same Dev.clk (fun _ _ => rfl) errs d

theorem meet_bankRefs (errs : List MemErr) (d : Dev) (k b : Nat) : bankRefs (meet errs d) k b = bankRefs d k b :=
  meet_same (fun x => bankRefs x k b) (fun _ _ => rfl) errs d

theorem updateStart_meet {errs : List MemErr} (hs : tget d.adp.slots k = some sl) (hu : sl.upd = some u) (hnow : d.clk.now = d.clk.swStart)
    (happ : u.applying = false) : updateStart k (meet errs d)
      = if bankRefs d k ((sl.version + 1) % 2) ≠ 0 then
          countOnce 20 k 14 2 { masters := [mForge (sForge sl.record)] } (setEvt oAdpEvt 2 (meet errs d))
        else updateApply k sl u (meet errs d) := by
  rw [updateStart_at (d := meet errs d) (by rw [meet_adp]; exact hs) hu (by rw [meet_clk]; exact hnow) happ, meet_bankRefs]

end

end Sys2Proof.Machine
open Sys2Proof Sys2Proof.Machine

/-- Settles O53: DEFINE, STEP and CLEAR of a slot, the TASK that opens a micro-batch, the two ends of an update. -/
theorem adapters : Obligations.Adapters := by
  intro s q e a hl
  refine ⟨fun errs herrs hb ho r m d1 d2 b fl hm hplain hal hr hfree hok hread hwrite hbank => ?_,
    fun hb ho sl hm hplain hk hs h0 h1 hu => ?_,
    fun sl ho hm hplain hk hg => ⟨fun hs hin hu hv x hx => ⟨fun hb => ?_, fun hr => ?_⟩, fun hs hin hu hv hready => ?_⟩,
    fun f st slot id units sl ext x hf hst hslot hid hunits ho hm hbody hflags hle h49 hphase hslot' hcmd hfence hsl hhost hfresh hfit hqueue
      hroom hext hx => ?_,
    fun k sl u errs hk herrs hs hu hnow => ⟨fun happ hrefs => ?_, fun happ hrefs => ?_, fun happ hbegan => ?_⟩⟩
  · have hq : q < 64 := hb.1.1
    have hlen : e.length = 64 := hb.1.2.1
    refine exec_memSettle (c := .adapterDefine q e errs) rfl (by simp [wellFormed, hq, hlen, herrs]) hl.1 ?_
    exact entryRow_done 0x28 0 q e _ a _ 0 0 0 cmdAdapterDefine hb ho hm rfl
      (cmdAdapterDefine_new hplain hal hr hfree hok (defineSlot_ok hread hwrite hbank))
  · exact exec_row_done (c := .adapterClear q e) rfl (rowOperands_ok hb) hl hb ho hm rfl (cmdAdapterClear_free hplain hk hs h0 h1 hu)
      ⟨rfl, rfl, rfl, rfl⟩
  · subst hx
    refine exec_row_run (c := .adapterStep q e) rfl (rowOperands_ok hb) hl hb ho hm rfl ?_ ⟨rfl, rfl, rfl, rfl⟩
    exact (cmdAdapterStep_slot hplain hk hg hs hin ((newestOf_idle hu).trans hv.symm)).trans (if_neg (by simp [hu]))
  · subst hx
    refine exec_retry_run (c := .stepAcceptRetry q) rfl rfl hl hr (by simp [isOpMode, ho, hm]) (f := cmdAdapterStep) (by rw [ho, hm]; rfl)
      ?_ ⟨rfl, rfl, rfl, rfl⟩
    exact (cmdAdapterStep_slot hplain hk hg hs hin ((newestOf_idle hu).trans hv.symm)).trans (if_neg (by simp [hu]))
  · have hwait : cmdAdapterStep (sqCmd q e) e s.dev = .wait s.dev :=
      (cmdAdapterStep_slot hplain hk hg hs hin ((newestOf_busy hu).trans hv.symm)).trans (if_pos hu)
    refine exec_calm (c := .adapterStep q e) rfl (entryReady_operands hready) hl ?_ (calm_modSq q _ s.dev)
    rw [entryRow_ready hready ho hm, runCmd_wait hready (f := cmdAdapterStep) (by rw [ho, hm]; rfl) hwait,
      keepWaiting_ready hready rfl rfl hl.2.1]
  · have hopen : OpensMb f st slot id units e sl a :=
      ⟨hf, hst, hslot, hid, hunits, hbody, hflags, hle, h49, hphase, hslot', hcmd, hfence, hsl, hhost, hfresh, hfit, hqueue⟩
    have hx' : x = mbOpened q f st slot id units e sl ext a := hx
    rw [hx']
    refine ⟨fun hb => ?_, fun hr => ?_⟩
    · exact exec_row_run (c := .task q e) rfl (rowOperands_ok hb) hl hb ho hm rfl (cmdTask_opens hopen hroom hext) (calm_mbOpened _ _ _ _ _ _ _ _ _ a)
    · exact exec_retry_run (c := .microBatchOpenRetry q) rfl rfl hl hr (by simp [isOp, ho]) (f := cmdTask) (by rw [ho, hm]; rfl)
        (cmdTask_opens hopen hroom hext) (calm_mbOpened _ _ _ _ _ _ _ _ _ a)
  · refine exec_memSettle (c := .updateApplyStart k errs) rfl (by simp [wellFormed, Nat.lt_succ_of_le hk, herrs]) hl.1 ?_
    exact (updateStart_meet hs hu hnow happ).trans (if_pos hrefs)
  · refine exec_memSettle (c := .updateApplyStart k errs) rfl (by simp [wellFormed, Nat.lt_succ_of_le hk, herrs]) hl.1 ?_
    exact (updateStart_meet hs hu hnow happ).trans (if_neg (not_not.2 hrefs))
  · exact exec_settle (c := .updateApplyDone k) rfl (by simp [wellFormed, Nat.lt_succ_of_le hk]) hl.1 (updateDone_at hs hu hnow happ hbegan)

end

section
/-! SUPPORT. A device that still holds an error to be met, while the copy of a remapped row ends. -/

set_option Elab.async false

namespace Sys2Proof.Machine

open Sys2Proof

/-- Entry 0 of GDDR7 device 0 remaps its row 0, whose copy is under way. -/
def copyEntry : Remap := { row := 0, valid := false, spareFailed := false }

/-- Two symbols of codeword 0 of device 0, which row 0 holds, are still to be met when its copy ends. -/
def copyDev : Dev :=
  modMem (fun m => { m with errs := [{ dev := 0, cw := 0, edc := 0, symbols := 2 }] })
    (modGddr 0 (fun g => { g with remap := [(0, copyEntry)] }) dUp)

theorem copyDev_live : (stOf copyDev).live := by
  simp only [State.live, Dev.quiet]
  decide +kernel

/-- Codewords of device 0 that are uncorrectable after a command. -/
def badAfter : Host.Outcome State Fault Refusal → List Nat
  | .next s => (gddr s.dev 0).bad
  | _ => []

/-- The copy meets the error: its codeword is uncorrectable from now on (R332). -/
theorem copyDev_copied : badAfter (exec (.remapCopyDone 0 0 []) (stOf copyDev)) = [0] := by decide +kernel

theorem copyDev_claim : badAfter (.next { stOf copyDev with
    dev := modGddr 0 (fun g => { g with remap := tput g.remap 0 { copyEntry with valid := true } }) (stOf copyDev).dev }) = [] := by
  decide +kernel

/-- Entry 1 is free. -/
theorem copyDev_spare : ∀ y, tget (gddr (modGddr 0 (fun g => { g with remap := tput g.remap 0 { copyEntry with valid := true } })
    (stOf copyDev).dev) 0).remap 1 = some y → y.valid = false := by
  have hnone : tget (gddr (modGddr 0 (fun g => { g with remap := tput g.remap 0 { copyEntry with valid := true } })
      (stOf copyDev).dev) 0).remap 1 = none := by decide +kernel
  intro y hy
  rw [hnone] at hy
  cases hy

end Sys2Proof.Machine
open Sys2Proof Sys2Proof.Machine

/-- Refutes O54: the end of a remap's copy with no error of its own is said to make the entry valid and nothing else, in every state; in
one that still holds an error to be met in the row, the copy meets it and its codeword becomes uncorrectable. -/
theorem not_memoryRows : ¬ Obligations.MemoryRows := by
  intro h
  obtain ⟨-, -, -, -, -, hcopy, -⟩ := h.1 (stOf copyDev) copyDev_live
  have hclaim := (hcopy 0 0 copyEntry _ (by decide) (by decide) (by decide +kernel) rfl (by decide +kernel) rfl).1
    ⟨1, by decide, copyDev_spare⟩
  have hafter := copyDev_copied
  rw [hclaim, copyDev_claim] at hafter
  exact absurd hafter (by decide)

end

section
/-! SUPPORT. Image commands of the Fallow store (R358 to R362, R365). -/

set_option Elab.async false

namespace Sys2Proof.Machine

open Sys2Proof

theorem falGate_ready {d : Dev} (h : d.fal.mode = .ready) (go : Res) : falGate d go = go := by
  unfold falGate
  rw [h]

/-! ### IMG_READ -/

section
variable {q : Nat} {e b : Bytes} {a a0 a1 d : Dev} {m : Manifest}

/-- A read as IMG_READ begins it (R360). -/
def newRead (q : Nat) (e : Bytes) (a : Dev) (m : Manifest) : ImgRead :=
  { cmd := sqCmd q e, man := m, forge := (byteAt e 48).testBit 2, dst := leAt e 40 8, len := leAt e 32 8, prio := byteAt e 48 % 4,
    since := a.clk.swc.toNat, left := (partsOf m (leAt e 24 8) (leAt e 32 8)).length, status := 0 }

/-- The device with a read begun and its parts queued on their LUNs. -/
def readBegun (q : Nat) (e : Bytes) (a : Dev) (m : Manifest) : Dev :=
  each (partsOf m (leAt e 24 8) (leAt e 32 8)) (fun p =>
    pushOp 7 (.read a.fal.nextId (placeData m.w m.ppb m.stripes p.1).1 (placeData m.w m.ppb m.stripes p.1).2 p.2.1 p.2.2.1
      (leAt e 40 8 + p.2.2.2)))
    (modFal (fun f => { f with nextId := a.fal.nextId + 1, reads := tput f.reads a.fal.nextId (newRead q e a m) }) a)

theorem cmdImgRead_begins {i : Nat} (hmode : a.fal.mode = .ready) (hid : imgIdOk (leAt e 16 4) = true)
    (hplain : plainOk e [(16, 33)] = true) (hfl : byteAt e 48 ≤ 7)
    (haddr : falAddrOk (sqCmd q e) ((byteAt e 48).testBit 2) (leAt e 40 8) (leAt e 32 8) = true)
    (hcat : tget a.fal.cat.ids (leAt e 16 4) = some (m, i)) (hver : leAt e 20 4 = 0 ∨ m.ver = leAt e 20 4)
    (hlen : leAt e 24 8 + leAt e 32 8 ≤ m.len) : cmdImgRead (sqCmd q e) e a = .run (readBegun q e a m) := by
  unfold cmdImgRead
  dsimp only
  rw [if_neg (by simp [hplain, hfl, haddr, hid]), falGate_ready hmode, hcat]
  refine if_neg ?_
  rintro (⟨hne, hother⟩ | hlong)
  · exact hver.elim hne hother
  · exact Nat.not_lt.2 hlen hlong

theorem imgReadDone_at {id : Nat} {r : ImgRead} (hr : tget d.fal.reads id = some r) (hleft : r.left = 0) : imgReadDone id d
      = complete r.cmd r.status 0 0 (freeGarbage (modFal (fun f => { f with reads := tdel f.reads id })
          (if r.status = 0x0C then cause 20 d else d))) := by
  have hwhen : when (r.status == 0x0C) (cause 20) d = if r.status = 0x0C then cause 20 d else d := by
    unfold Machine.when
    simp only [beq_iff_eq]
  unfold imgReadDone
  rw [hr, ← hwhen]
  exact if_neg (not_not.2 hleft)

theorem imgReadAgeing_at {id : Nat} {r : ImgRead} (hr : tget d.fal.reads id = some r) (hprio : r.prio ≠ 0)
    (hdue : r.since + 64 * fld d 0x480000 0 8 ≤ d.clk.swc.toNat) : imgReadAgeing id d
      = modFal (fun f => { f with reads := tput f.reads id { r with prio := r.prio - 1, since := d.clk.swc.toNat } }) d := by
  unfold imgReadAgeing
  rw [hr]
  exact if_pos ⟨hprio, hdue⟩

/-! ### IMG_WRITE -/

/-- The device with the bytes `b` added to open version `o`, its full pages placed (R358). -/
def extended (c : Cmd) (o : OpenVer) (b : Bytes) (k : Nat) (st : List (List Nat)) (a1 d : Dev) : Dev :=
  modFal (fun f => { f with
      opens := f.opens.map (fun y => if y.id = o.id then
        { o with written := o.written + b.length, held := (o.held ++ b).drop ((o.held ++ b).length / (fgeom a1).page * (fgeom a1).page),
                 pages := k, stripes := st, all := o.all ++ b } else y),
      nextId := max f.nextId (a1.fal.nextId + 1),
      writes := tput f.writes a1.fal.nextId
        { cmd := c, id := o.id, ver := o.ver, left := (o.held ++ b).length / (fgeom a1).page } }) d

theorem extendOpen_placed {c : Cmd} {o : OpenVer} {k : Nat} {st : List (List Nat)} (hplace : placePages 5 o.id o.ver (.write a1.fal.nextId)
      ((List.range ((o.held ++ b).length / (fgeom a1).page)).map (fun i => slice (o.held ++ b) (i * (fgeom a1).page) (fgeom a1).page))
      o.pages o.stripes a1 = (k, st, true, d)) : extendOpen c o b a1 = .run (extended c o b k st a1 d) := by
  unfold extendOpen
  dsimp only
  rw [hplace]
  exact if_pos rfl

/-- The open version a write goes on with, or the one it opens (Table 13.5). -/
def WritesTo (id ver off len : Nat) (a : Dev) (o : OpenVer) (a0 : Dev) : Prop :=
  (openOf a id = some o ∧ o.ver = ver ∧ off ≤ o.written ∧ o.written < off + len ∧ a0 = a)
    ∨ (openOf a id = none ∧ off = 0 ∧ a.fal.opens.length < 64
      ∧ o = { id := id, ver := ver, written := 0, held := [], pages := 0, stripes := [], all := [] }
      ∧ a0 = modFal (fun f => { f with opens := f.opens ++ [o] }) a)

/-- An open version of an image with nothing written. -/
def newOpen (id ver : Nat) : OpenVer := { id := id, ver := ver, written := 0, held := [], pages := 0, stripes := [], all := [] }

section
variable (c : Cmd) (id ver off len : Nat) (get : Nat → Nat → Dev → Except Nat Bytes × Dev) (o : OpenVer) (d : Dev)

/-- The bytes an open version lacks are read and added to it. -/
def putInto : Res :=
  match get (o.written - off) (off + len - o.written) d with
  | (.error s, d) => .done s 0 (o.written / 4096) d
  | (.ok b, d) => extendOpen c o b d

/-- Table 13.5 for a version newer than the catalogue's. -/
def putNewer : Res :=
  match openOf d id with
  | none =>
    if off ≠ 0 then bad d
    else if 64 ≤ d.fal.opens.length then .wait d
    else putInto c off len get (newOpen id ver) (modFal (fun f => { f with opens := f.opens ++ [newOpen id ver] }) d)
  | some o =>
    if o.ver ≠ ver then .done 2 0 (o.written / 4096) d
    else if off + len ≤ o.written then .done 0 0 (o.written / 4096) d
    else if off ≤ o.written then putInto c off len get o d
    else .done 0x10 0 (o.written / 4096) d

end

section
variable {c : Cmd} {id ver off len : Nat} {get : Nat → Nat → Dev → Except Nat Bytes × Dev} {o : OpenVer}

theorem imgPut_newer (hnew : ∀ m i, tget d.fal.cat.ids id = some (m, i) → m.ver < ver) :
    imgPut c id ver off len get d = putNewer c id ver off len get d := by
  unfold imgPut
  cases hcat : tget d.fal.cat.ids id with
  | none => rfl
  | some p =>
    have hlt : p.1.ver < ver := hnew p.1 p.2 hcat
    exact (if_neg (fun hx => Nat.ne_of_lt hlt hx.1)).trans (if_neg (Nat.not_le.2 hlt))

theorem putNewer_extends (hto : WritesTo id ver off len a o a0)
    (hget : get (o.written - off) (off + len - o.written) a0 = (.ok b, a1)) :
    putNewer c id ver off len get a = extendOpen c o b a1 := by
  have hinto : putInto c off len get o a0 = extendOpen c o b a1 := by
    unfold putInto
    rw [hget]
  unfold putNewer
  rcases hto with ⟨hopen, hv, hlo, hhi, rfl⟩ | ⟨hopen, hoff, hroom, rfl, rfl⟩
  · rw [hopen]
    dsimp only
    rw [if_neg (not_not.2 hv), if_neg (Nat.not_le.2 hhi), if_pos hlo, hinto]
  · rw [hopen]
    dsimp only
    rw [if_neg (not_not.2 hoff), if_neg (Nat.not_le.2 hroom)]
    exact hinto

end

theorem cmdImgWrite_ready (hmode : a.fal.mode = .ready) (hid : imgIdOk (leAt e 16 4) = true) (hplain : plainOk e [(16, 33)] = true)
    (hfl : byteAt e 48 = 0 ∨ byteAt e 48 = 4) (hver : leAt e 20 4 ≠ 0) (hoff : leAt e 24 8 % 4096 = 0) (hal : leAt e 32 8 % 4096 = 0)
    (hlen : leAt e 32 8 ≠ 0) (hmax : leAt e 24 8 + leAt e 32 8 ≤ imgMax)
    (haddr : falAddrOk (sqCmd q e) (byteAt e 48 == 4) (leAt e 40 8) (leAt e 32 8) = true) : cmdImgWrite (sqCmd q e) e a
      = imgPut (sqCmd q e) (leAt e 16 4) (leAt e 20 4) (leAt e 24 8) (leAt e 32 8) (fun o n d =>
          if byteAt e 48 == 4 then gAddrRead 1 (leAt e 40 8 + o) n d else (.ok (hostRead d (leAt e 40 8 + o) n), d)) a := by
  unfold cmdImgWrite
  dsimp only
  rw [if_neg (by simpa [hplain, hid, hver, hoff, hal, hlen, hmax, haddr] using hfl.resolve_left), falGate_ready hmode]

theorem imgWriteDone_at {n : Nat} {w : ImgWrite} (hw : tget d.fal.writes n = some w) (hleft : w.left = 0) : imgWriteDone n d
      = complete w.cmd 0 0 (writtenNow d w.id w.ver) (modFal (fun f => { f with writes := tdel f.writes n }) d) := by
  unfold imgWriteDone
  rw [hw]
  exact if_neg (not_not.2 hleft)

/-! ### IMG_COMMIT, IMG_DELETE and CHECKPOINT -/

theorem cmdImgCommit_ready (hmode : a.fal.mode = .ready) (hid : imgIdOk (leAt e 16 4) = true) (hplain : plainOk e [(16, 16)] = true)
    (hver : leAt e 20 4 ≠ 0) (hmax : leAt e 24 8 ≤ imgMax) :
    cmdImgCommit (sqCmd q e) e a = imgCommitTo (sqCmd q e) (leAt e 16 4) (leAt e 20 4) (leAt e 24 8) a := by
  unfold cmdImgCommit
  dsimp only
  rw [if_neg (by simp [hplain, hid, hver, hmax]), falGate_ready hmode]

/-- The version of an image in the catalogue is `ver`. -/
theorem current_iff (id ver : Nat) (a : Dev) : (match tget a.fal.cat.ids id with
      | some (m, _) => m.ver == ver
      | none => false) = true ↔ ∃ m i, tget a.fal.cat.ids id = some (m, i) ∧ m.ver = ver := by
  cases tget a.fal.cat.ids id with
  | none => simp
  | some p =>
    obtain ⟨m, i⟩ := p
    simp

theorem imgCommitTo_current {c : Cmd} {id ver len : Nat} {i : Nat} (hcat : tget a.fal.cat.ids id = some (m, i)) (hv : m.ver = ver) :
    imgCommitTo c id ver len a = .done 0 0 (seqLow a) a := by
  unfold imgCommitTo
  rw [hcat]
  exact if_pos (beq_iff_eq.2 hv)

theorem imgCommitTo_open {c : Cmd} {id ver len : Nat} {o : OpenVer} (hnew : ∀ m i, tget a.fal.cat.ids id = some (m, i) → m.ver ≠ ver)
    (ho : openOf a id = some o) (hv : o.ver = ver) (hlo : len ≤ o.written) (hhi : o.written < len + 4096) :
    imgCommitTo c id ver len a = .run (addCommit c .write id ver len a) := by
  unfold imgCommitTo
  rw [if_neg, ho]
  · exact if_pos ⟨hv, hhi, hlo⟩
  · intro hcur
    obtain ⟨m, i, hcat, hm⟩ := (current_iff id ver a).1 hcur
    exact hnew m i hcat hm

theorem cmdImgDelete_closed {i : Nat} (hmode : a.fal.mode = .ready) (hid : imgIdOk (leAt e 16 4) = true)
    (hplain : plainOk e [(16, 8)] = true) (hver : leAt e 20 4 ≠ 0) (hopen : openOf a (leAt e 16 4) = none)
    (hcat : tget a.fal.cat.ids (leAt e 16 4) = some (m, i)) : cmdImgDelete (sqCmd q e) e a
      = if m.ver = leAt e 20 4 then .run (addCommit (sqCmd q e) .delete (leAt e 16 4) (leAt e 20 4) 0 a)
        else if leAt e 20 4 < m.ver then .done 0 0 (seqLow a) a
        else .done 0x10 0 (seqLow a) a := by
  unfold cmdImgDelete
  dsimp only
  rw [if_neg (by simp [hplain, hid, hver]), falGate_ready hmode, hopen]
  dsimp only
  rw [hcat]

/-- Bytes of a slot's image in a checkpoint (R365). -/
def slotBytes (a : Dev) (k : Nat) : Nat :=
  match tget a.adp.slots k with
  | some x => slotImageBytes x.record
  | none => 0

theorem cmdCheckpoint_new {l : List Nat} (hmode : a.fal.mode = .ready) (hid : imgIdOk (leAt e 16 4) = true)
    (hplain : plainOk e [(16, 19), (36, 12)] = true) (hver : leAt e 20 4 ≠ 0) (hlo : 1 ≤ leAt e 32 2) (hhi : leAt e 32 2 ≤ 4096)
    (hk : byteAt e 34 = 0) (hzero : allZero (slice e 36 12) = true)
    (himage : image (sqCmd q e) (leAt e 24 8) (2 * leAt e 32 2) a = some b) (hl : l = (List.range (leAt e 32 2)).map (fun i => leAt b (2 * i) 2))
    (hnew : ∀ m i, tget a.fal.cat.ids (leAt e 16 4) = some (m, i) → m.ver ≠ leAt e 20 4)
    (hslots : ∀ k ∈ l, (tget a.adp.slots k).isSome = true) (hsum : (l.map (slotBytes a)).sum ≤ imgMax) :
    cmdCheckpoint (sqCmd q e) e a = .run (addCommit (sqCmd q e) (.ckpt l [] []) (leAt e 16 4) (leAt e 20 4) 0 a) := by
  have hnone : ¬ ((l.map (fun k => tget a.adp.slots k)).any (·.isNone)) = true := by
    simpa [Option.isSome_iff_ne_none, Option.isNone_iff_eq_none] using hslots
  have hbytes : (((l.map (fun k => tget a.adp.slots k)).map (fun r => match r with
      | some s => slotImageBytes s.record
      | none => 0)).sum) = (l.map (slotBytes a)).sum := by
    rw [List.map_map]
    rfl
  unfold cmdCheckpoint
  dsimp only
  rw [hk, if_neg (by simp [hplain, hid, hver, within, hlo, hhi, hzero]), himage]
  dsimp only
  rw [falGate_ready hmode, ← hl, if_neg, if_neg hnone]
  · exact if_neg (fun hx => Nat.not_lt.2 hsum (hbytes ▸ hx))
  · intro hcur
    obtain ⟨m, i, hcat, hm⟩ := (current_iff _ _ a).1 hcur
    exact hnew m i hcat hm

end

end Sys2Proof.Machine
open Sys2Proof Sys2Proof.Machine

/-- Settles O55: IMG_READ, IMG_WRITE, IMG_COMMIT, IMG_DELETE and CHECKPOINT on operands that pass, and the ends of reads and writes. -/
theorem imageCommands : Obligations.ImageCommands := by
  intro s hp
  refine ⟨fun q e a hmode hid => ⟨fun m i r hb ho hm hplain hfl haddr hcat hver hlen hr => ?_,
      fun o a0 b a1 k st d n x ho hm hplain hfl hver hoff hal hlen hmax haddr hnew hto hn hget hplace hx => ?_,
      fun hb ho hm hplain hver hmax => ⟨fun m i hcat hv => ?_, fun o hnew hopen hv hlo hhi => ?_⟩,
      fun m i hb ho hm hplain hver hopen hcat => ⟨fun hv => ?_, fun hlt => ?_⟩,
      fun b l errs herrs hb ho hm hplain hver hlo hhi hk hzero himage hl hnew hslots hsum => ?_⟩,
    fun id r hr => ⟨fun hleft => ?_, fun hprio hdue => ?_⟩, fun n w hw hleft => ?_⟩
  · subst hr
    refine exec_settle (c := .imgRead q e) rfl (rowOperands_ok hb) hp (entryRow_run 0x40 0 q e s.dev a _ cmdImgRead hb ho hm rfl ?_)
    exact cmdImgRead_begins hmode hid hplain hfl haddr hcat hver hlen
  · have hcmd : cmdImgWrite (sqCmd q e) e a = .run x := by
      rw [cmdImgWrite_ready hmode hid hplain hfl hver hoff hal hlen hmax haddr, imgPut_newer hnew, putNewer_extends hto ?_, extendOpen_placed hplace, hx]
      · rfl
      · rw [← hn]
        rcases hget with ⟨h4, hread⟩ | ⟨h0, hb, ha1⟩
        · rw [h4]
          exact hread
        · rw [h0, hb, ha1]
          rfl
    refine ⟨fun errs herrs hb => ?_, fun hr => ?_⟩
    · refine exec_memSettle (c := .imgWrite q e errs) rfl (by simp [wellFormed, hb.1.1, hb.1.2.1, herrs]) hp ?_
      exact entryRow_run 0x41 0 q e _ a x cmdImgWrite hb ho hm rfl hcmd
    · refine exec_settle (c := .imgWriteOpenRetry q) rfl rfl hp ?_
      rw [retryEntry_runs hr (by simp [isOp, ho]) (f := cmdImgWrite) (by rw [ho, hm]; rfl), hcmd]
  · refine exec_settle (c := .imgCommit q e) rfl (rowOperands_ok hb) hp (entryRow_done 0x42 0 q e s.dev a a 0 0 _ cmdImgCommit hb ho hm rfl ?_)
    rw [cmdImgCommit_ready hmode hid hplain hver hmax, imgCommitTo_current hcat hv]
  · refine exec_settle (c := .imgCommit q e) rfl (rowOperands_ok hb) hp (entryRow_run 0x42 0 q e s.dev a _ cmdImgCommit hb ho hm rfl ?_)
    rw [cmdImgCommit_ready hmode hid hplain hver hmax, imgCommitTo_open hnew hopen hv hlo hhi]
  · refine exec_settle (c := .imgDelete q e) rfl (rowOperands_ok hb) hp (entryRow_run 0x43 0 q e s.dev a _ cmdImgDelete hb ho hm rfl ?_)
    exact (cmdImgDelete_closed hmode hid hplain hver hopen hcat).trans (if_pos hv)
  · refine exec_settle (c := .imgDelete q e) rfl (rowOperands_ok hb) hp (entryRow_done 0x43 0 q e s.dev a a 0 0 _ cmdImgDelete hb ho hm rfl ?_)
    exact (cmdImgDelete_closed hmode hid hplain hver hopen hcat).trans ((if_neg (Nat.ne_of_gt hlt)).trans (if_pos hlt))
  · refine exec_memSettle (c := .checkpoint q e errs) rfl (by simp [wellFormed, hb.1.1, hb.1.2.1, herrs]) hp ?_
    exact entryRow_run 0x44 0 q e _ a _ cmdCheckpoint hb ho hm rfl
      (cmdCheckpoint_new hmode hid hplain hver hlo hhi hk hzero himage hl hnew hslots hsum)
  · exact exec_settle (c := .imgReadDone id) rfl rfl hp (imgReadDone_at hr hleft)
  · exact exec_settle (c := .imgReadAgeing id) rfl rfl hp (imgReadAgeing_at hr hprio hdue)
  · exact exec_settle (c := .imgWriteDone n) rfl rfl hp (imgWriteDone_at hw hleft)

end

section
/-! SUPPORT. Frames, answers and the timeout of a replication (R366). -/

set_option Elab.async false

namespace Sys2Proof.Machine

open Sys2Proof

section
variable {f : RxFrame} {d d1 : Dev} {x : Bytes}

theorem takeSequenced_accept (h : seqTest d f.src f.dst (rxSeq f) = .accept) :
    takeSequenced f d = some (seqAccept f.src f.dst (rxSeq f) (takeRx f d)) := by
  unfold takeSequenced
  rw [h]

/-- A frame of a replica whose bytes extend the open version, and which is not the last one (R366). -/
theorem replicaFrame_extends (hfirst : firstRx d (fun f => f.code == 0xFC && rxOp f == 0 && f.accepted && beAt f.hdr 22 4 ≠ 0) = some f)
    (hfurrow : fromFurrow d f = true) (hstatus : (replInOf d f).status = 0) (hx : x = fit f.data (4096 * ceilDiv f.data.length 4096))
    (hcrc : crc32c f.data = beAt f.hdr 26 4) (hmode : d.fal.mode = .ready) (hid : imgIdOk (replInOf d f).id = true)
    (hlast : (beAt f.hdr 30 2).testBit 0 = false)
    (hput : imgPut ownCmd (replInOf d f).id (replInOf d f).ver (32768 * beAt f.hdr 18 4) x.length (fun o n d => (.ok (slice x o n), d)) d
      = .run d1)
    (hseq : seqTest d1 f.src f.dst (rxSeq f) = .accept) : replicaFrame d
      = setReplIn (replInOf d f) (replInOf d f) (seqAccept f.src f.dst (rxSeq f) (takeRx f d1)) := by
  have hsame : ({ replInOf d f with status := 0 } : ReplIn) = replInOf d f := by rw [← hstatus]
  unfold replicaFrame
  rw [hfirst]
  dsimp only
  rw [hfurrow, if_neg (by decide), if_neg (not_not.2 hcrc), if_neg (by simp [hmode, hid]), ← hx, hput]
  dsimp only
  rw [takeSequenced_accept hseq, hlast, if_pos hstatus, hsame]
  rfl

theorem answerReceive_replica {p : Nat × Repl} (hfirst : firstRx d (fun f => f.code == 0xFC && rxOp f == 0xC && fCode f == 0) = some f)
    (hver : beAt f.hdr 22 4 ≠ 0)
    (hfind : d.fal.repls.find? (fun p => p.2.id == fCid f && p.2.ver == beAt f.hdr 22 4 && p.2.src == f.dst
      && p.2.reps.any (fun q => q.2.1 == f.src && q.2.2.isNone)) = some p) : answerReceive d
      = replStatus p.1 (fun q => q.2.1 == f.src) (beAt f.hdr 26 2 % 256) (takeRx f d) := by
  unfold answerReceive
  rw [hfirst]
  dsimp only
  rw [if_neg hver]
  unfold replicaAnswerReceive
  rw [hfirst]
  dsimp only
  rw [show (takeRx f d).fal = d.fal from rfl, hfind]

theorem replicaTimeout_due {n : Nat} {r : Repl} (hr : tget d.fal.repls n = some r)
    (hdue : r.since + 1024 * fld d 0x480000 16 8 ≤ d.clk.swc.toNat) : replicaTimeout n d = replStatus n (fun _ => true) 7 d := by
  unfold replicaTimeout
  rw [hr]
  exact if_pos hdue

end

end Sys2Proof.Machine
open Sys2Proof Sys2Proof.Machine

/-- Settles O57: a frame that extends the open version, an answer, and the timeout. -/
theorem replicas : Obligations.Replicas := by
  intro s hp
  refine ⟨fun f r x d hfirst hfurrow hr hstatus hx hcrc hmode hid hlast hput hseq => ?_, fun f p hfirst hver hfind => ?_, fun n r hr hdue => ?_⟩
  · subst hr
    exact exec_settle (c := .replicaFrameReceive) rfl rfl hp
      (replicaFrame_extends hfirst hfurrow hstatus hx hcrc hmode hid hlast hput hseq)
  · exact exec_settle (c := .replicaAnswerReceive) rfl rfl hp (answerReceive_replica hfirst hver hfind)
  · exact exec_settle (c := .replicaTimeout n) rfl rfl hp (replicaTimeout_due hr hdue)

end

section
/-! SUPPORT. Membership, self-tests and the hourly decay (R396, R399 to R404, R417, R420). -/

set_option Elab.async false

namespace Sys2Proof.Machine

open Sys2Proof

section
variable {q kind idx : Nat} {e : Bytes} {a d : Dev} {t : SelfTest}

/-! ### MEMBER_SET -/

theorem cmdMemberFence_new (hplain : plainOk e [(16, 3)] = true) (hres : reservedEid (leAt e 16 3) = false)
    (hnew : a.hlt.eids.contains (leAt e 16 3) = false) (hroom : a.hlt.eids.length < 4096) :
    cmdMemberFence e a = .done 0 0 0 (fenceNodes (leAt e 16 3) (modHlt (fun h => { h with eids := leAt e 16 3 :: h.eids }) a)) := by
  unfold cmdMemberFence memberOk memberEid
  dsimp only
  rw [if_neg (by simp [hplain, hres]), hnew, if_neg Bool.false_ne_true, if_neg (Nat.not_le.2 hroom)]
  rfl

theorem cmdMemberUnfence_ok (hplain : plainOk e [(16, 3)] = true) (hres : reservedEid (leAt e 16 3) = false) :
    cmdMemberUnfence e a = .done 0 0 0 (modHlt (fun h => { h with eids := h.eids.filter (fun x => x ≠ leAt e 16 3) }) a) := by
  unfold cmdMemberUnfence memberOk memberEid
  exact if_neg (by simp [hplain, hres])

theorem cmdMemberForget_ok (hplain : plainOk e [(16, 3)] = true) (hres : reservedEid (leAt e 16 3) = false) :
    cmdMemberForget e a = .done 0 0 0 (forgetPairs (leAt e 16 3) a) := by
  unfold cmdMemberForget memberOk memberEid
  exact if_neg (by simp [hplain, hres])

theorem cmdMemberReady_ok (hplain : plainOk e [(16, 3)] = true) (hzero : leAt e 16 3 = 0) :
    cmdMemberReady e a = .done 0 0 0 (modHlt (fun h => { h with ready := true }) a) := by
  unfold cmdMemberReady memberOk memberEid
  exact if_neg (by simp [hplain, hzero])

/-! ### Self-tests -/

theorem cmdSelftest_part (hplain : plainOk e [(16, 1), (20, 4)] = true) (hpart : partIdxOk (byteAt e 16) (leAt e 20 4) = true) :
    cmdSelftest (sqCmd q e) e a = if partRetired a (byteAt e 16) (leAt e 20 4) then .done 0 0 2 a
      else .run (orderTest (byteAt e 16) (leAt e 20 4) 0 [sqCmd q e] a) := by
  unfold cmdSelftest
  exact if_neg (by simp [hplain, hpart])

/-- The self-tests of a part run from now on. -/
def testsRun (kind idx : Nat) (d : Dev) : Dev :=
  modHlt (fun h => { h with tests := h.tests.map (fun t => if t.kind = kind ∧ t.idx = idx then { t with running := true } else t) })
    (count 19 2 1 {} d)

theorem testsRun_now (kind idx : Nat) (d : Dev) : (testsRun kind idx d).clk.now = d.clk.now :=
  congrArg Clock.now (only_count 19 2 1 {} d).clk

theorem selftestRun_pending (ht : t ∈ d.hlt.tests) (hk : t.kind = kind) (hi : t.idx = idx) (hidle : t.running = false)
    (hwin : testWindow d kind idx = true) : selftestRun kind idx d = (match sliceForge kind idx with
      | some f => freezeForge f d.clk.now (testsRun kind idx d)
      | none => testsRun kind idx d) := by
  have hany : d.hlt.tests.any (fun t => t.kind == kind && t.idx == idx && !t.running) = true :=
    List.any_eq_true.2 ⟨t, ht, by simp [hk, hi, hidle]⟩
  rw [← testsRun_now kind idx d]
  unfold selftestRun
  rw [hany, hwin]
  exact if_pos rfl

/-- A test that passes is reported, its waiters are answered, and it is over (R402, R404). -/
theorem selftestDone_pass (l : List Nat) (hfind : d.hlt.tests.find? (fun t => t.kind == kind && t.idx == idx && t.running) = some t) :
    selftestDone kind idx true l d = defer (.tested kind idx true) (each t.waiters (fun c => complete c 0 0 0)
      (postEvent 0x101 (toLE 1 kind ++ toLE 4 idx ++ toLE 1 0 ++ toLE 1 t.cause)
        (sliceEnd kind idx (modHlt (fun h => { h with tests := h.tests.filter (fun x => !(x.kind == kind && x.idx == idx)) }) d)))) := by
  unfold selftestDone
  rw [hfind]
  rfl

/-! ### The hourly decay -/

theorem scoreDecay_hour (h : d.hlt.hour < d.clk.now / hourCycles) :
    (scoreDecay d).hlt.hour = d.hlt.hour + 1 ∧ (scoreDecay d).hlt.tests = d.hlt.tests := by
  unfold scoreDecay
  rw [if_neg (Nat.not_le.2 h)]
  exact ⟨rfl, rfl⟩

/-- A whole hour halves every score (R399). -/
theorem scoreOf_scoreDecay (h : d.hlt.hour < d.clk.now / hourCycles) (kind idx : Nat) :
    scoreOf (scoreDecay d) kind idx = scoreOf d kind idx / 2 := by
  unfold scoreOf scoreDecay
  rw [if_neg (Nat.not_le.2 h)]
  unfold tgetD modHlt
  dsimp only
  rw [tget_tmap]
  cases tget d.hlt.scores (partKey kind idx) <;> rfl

theorem suspectTest_suspect (hscore : fld d 0x500008 16 16 ≤ scoreOf d kind idx) (hin : partRetired d kind idx = false) :
    suspectTest kind idx d = orderTest kind idx 2 [] d := if_pos ⟨hscore, hin⟩

end

end Sys2Proof.Machine
open Sys2Proof Sys2Proof.Machine

/-- Settles O58: the four forms of MEMBER_SET, a self-test ordered, run and passed, the hourly decay and the test of a suspect. -/
theorem healthCommands : Obligations.HealthCommands := by
  intro s hp
  refine ⟨fun q e a hb ho hplain => ⟨fun hm hres hnew hroom => ?_, fun hm hres => ?_, fun hm hres => ?_, fun hm hzero => ?_⟩,
    fun q e a hb ho hm hplain hpart => ⟨fun hret => ?_, fun hret => ?_⟩,
    fun kind idx t y ht hk hi hidle hkind hwin hy => ?_, fun kind idx t l hfind hkind => ?_, fun h hh hlt => ?_,
    fun kind idx hkind hscore hin => ?_⟩
  · exact exec_settle (c := .memberSetFence q e) rfl (rowOperands_ok hb) hp
      (entryRow_done 0x60 0 q e s.dev a _ 0 0 0 (fun _ => cmdMemberFence) hb ho hm rfl (cmdMemberFence_new hplain hres hnew hroom))
  · exact exec_settle (c := .memberSetUnfence q e) rfl (rowOperands_ok hb) hp
      (entryRow_done 0x60 1 q e s.dev a _ 0 0 0 (fun _ => cmdMemberUnfence) hb ho hm rfl (cmdMemberUnfence_ok hplain hres))
  · exact exec_settle (c := .memberSetForget q e) rfl (rowOperands_ok hb) hp
      (entryRow_done 0x60 2 q e s.dev a _ 0 0 0 (fun _ => cmdMemberForget) hb ho hm rfl (cmdMemberForget_ok hplain hres))
  · exact exec_settle (c := .memberSetReady q e) rfl (rowOperands_ok hb) hp
      (entryRow_done 0x60 3 q e s.dev a _ 0 0 0 (fun _ => cmdMemberReady) hb ho hm rfl (cmdMemberReady_ok hplain hzero))
  · exact exec_settle (c := .selftest q e) rfl (rowOperands_ok hb) hp
      (entryRow_done 0x70 0 q e s.dev a a 0 0 2 cmdSelftest hb ho hm rfl ((cmdSelftest_part hplain hpart).trans (if_pos hret)))
  · exact exec_settle (c := .selftest q e) rfl (rowOperands_ok hb) hp
      (entryRow_run 0x70 0 q e s.dev a _ cmdSelftest hb ho hm rfl
        ((cmdSelftest_part hplain hpart).trans (if_neg (by rw [hret]; exact Bool.false_ne_true))))
  · subst hy
    exact exec_settle (c := .selftestRun kind idx) rfl (decide_eq_true hkind) hp (selftestRun_pending ht hk hi hidle hwin)
  · exact exec_settle (c := .selftestDone kind idx true l) rfl (decide_eq_true hkind) hp (selftestDone_pass l hfind)
  · subst hh
    have hdue : s.dev.hlt.hour < s.dev.clk.now / hourCycles := by
      unfold hourCycles
      exact hlt
    obtain ⟨hhour, htests⟩ := scoreDecay_hour hdue
    exact ⟨scoreDecay s.dev, exec_settle (c := .hourlyScoreDecay) rfl rfl hp rfl, hhour, htests, scoreOf_scoreDecay hdue⟩
  · exact exec_settle (c := .suspectHourlyTest kind idx) rfl (decide_eq_true hkind) hp (suspectTest_suspect hscore hin)

end

section
/-! SUPPORT. Recovery sequences: RECOVER, the end of a PORT sequence's wait, and COPY (R406 to R412, R418). -/

set_option Elab.async false

namespace Sys2Proof.Machine

open Sys2Proof

/-! ### RECOVER -/

section
variable {c : Cmd} {q id kind arg : Nat} {e : Bytes} {a d y z : Dev} {x : RecSeq}

/-- A sequence as RECOVER names it. -/
theorem newSeq_fields (h : newSeq c id kind arg d = some x) : x.id = id ∧ x.kind = kind ∧ x.arg = arg ∧ 1 ≤ kind ∧ kind ≤ 7 := by
  unfold newSeq at h
  dsimp only at h
  split at h
  case h_6 =>
    split at h
    · exact nomatch h
    · obtain ⟨-, h⟩ := Option.ite_none_left_eq_some.1 h
      split at h
      · exact nomatch h
      · obtain ⟨-, h⟩ := Option.ite_none_left_eq_some.1 h
        cases h
        exact ⟨rfl, rfl, rfl, by decide, by decide⟩
  case h_5 =>
    cases h
    exact ⟨rfl, rfl, rfl, by decide, by decide⟩
  case h_8 => exact nomatch h
  all_goals
    obtain ⟨-, h⟩ := Option.ite_none_right_eq_some.1 h
    cases h
    exact ⟨rfl, rfl, rfl, by decide, by decide⟩

/-- Where a sequence of each kind that meets no fault has come to when its first run is over (R406). -/
def SeqRuns (kind : Nat) (x : RecSeq) (z y : Dev) : Prop :=
  kind = 1 ∧ y = portSeq x.id x.arg z ∨ kind = 2 ∧ y = forgeSeq x.id x.arg z ∨ kind = 3 ∧ y = bankSeq x.id x.arg z
    ∨ kind = 4 ∧ y = unitSeq x.id x.arg z
    ∨ kind = 5 ∧ (∃ st r w, restoreRun x.id x.arg (seqAt x.id 1 z) = .over_ st r w ∧ st ≠ 0xFF ∧ y = finishSeq x.id st r w)
    ∨ kind = 6 ∧ (∃ st r w, copySeq x.id x z = .over_ st r w ∧ y = if st = 0xFF then w else finishSeq x.id st r w)
    ∨ kind = 7 ∧ y = rejoinSeq x.id x z

theorem seqStart_runs (n : Nat) (hfind : findSeq z x.id = some x) (hfree : seqHeld z x = false) (h : SeqRuns x.kind x z y) :
    seqStart (n + 1) x.id z = y := by
  unfold seqStart
  rw [hfind]
  dsimp only
  rw [hfree, if_neg Bool.false_ne_true]
  rcases h with ⟨hk, rfl⟩ | ⟨hk, rfl⟩ | ⟨hk, rfl⟩ | ⟨hk, rfl⟩ | ⟨hk, st, r, w, hrun, hst, rfl⟩ | ⟨hk, st, r, w, hrun, rfl⟩ | ⟨hk, rfl⟩
  · rw [hk]
    rfl
  · rw [hk]
    rfl
  · rw [hk]
    rfl
  · rw [hk]
    rfl
  · rw [hk]
    show (match restoreRun x.id x.arg (seqAt x.id 1 z) with
      | .over_ st res d => if st = 0xFF then d else finishSeq x.id st res d
      | .fault k d => _) = _
    rw [hrun]
    exact if_neg hst
  · rw [hk]
    show (match copySeq x.id x z with
      | .over_ st res d => if st = 0xFF then d else finishSeq x.id st res d
      | .fault k d => _) = _
    rw [hrun]
  · rw [hk]
    rfl

/-- The device with a new sequence in the list. -/
def withSeq (x : RecSeq) (a : Dev) : Dev := modHlt (fun h => { h with seqs := h.seqs ++ [x] }) a

theorem findSeq_withSeq (h : findSeq a x.id = none) : findSeq (withSeq x a) x.id = some x := by
  have hprefix : a.hlt.seqs.find? (fun s => s.id == x.id) = none := h
  show (a.hlt.seqs ++ [x]).find? (fun s => s.id == x.id) = some x
  rw [List.find?_append, hprefix]
  simp

theorem cmdRecover_starts (hplain : plainOk e [(16, 5), (24, 8)] = true) (hid : leAt e 16 4 < 0xFFFF0000)
    (hnew : a.hlt.outcomes.find? (fun o => o.1 == leAt e 16 4) = none) (hfree : findSeq a (leAt e 16 4) = none)
    (hseq : newSeq (sqCmd q e) (leAt e 16 4) (byteAt e 20) (leAt e 24 8) a = some x) (hroom : a.hlt.seqs.length < 16)
    (hheld : seqHeld (withSeq x a) x = false) (hrun : SeqRuns (byteAt e 20) x (withSeq x a) y) : cmdRecover (sqCmd q e) e a = .run y := by
  obtain ⟨hxid, hkind, -, hlo, hhi⟩ := newSeq_fields hseq
  have hstart : seqStart 9 (leAt e 16 4) (withSeq x a) = y := by
    rw [← hxid]
    exact seqStart_runs 8 (findSeq_withSeq (by rw [hxid]; exact hfree)) hheld (by rw [hkind]; exact hrun)
  unfold cmdRecover
  dsimp only
  rw [if_neg (by simp [hplain, hid, within, hlo, hhi]), hnew, hfree]
  dsimp only
  rw [hseq]
  dsimp only
  rw [if_neg (Nat.not_le.2 hroom), ← hstart]
  rfl

theorem recoverRow_run (hb : d.begins q e a) (ho : opOf e = 0x71) (hm : modeOf e = 0) (hk : byteAt e 20 = kind)
    (hd : cmdRecover (sqCmd q e) e a = .run y) : recoverRow kind q e d = y :=
  (if_pos hk).trans (entryRow_run 0x71 0 q e d a y cmdRecover hb ho hm rfl hd)

/-! ### Waits, and COPY -/

theorem findSeq_id (h : findSeq d id = some x) : x.id = id := by simpa using List.find?_some h

theorem seqWait_port (h : findSeq d id = some x) (hstep : x.step ≠ 0) (hk : x.kind = 1)
    (hup : ∀ lp ∈ subsOf d x.arg, (sub d lp).state = .service) : seqWait id d = finishSeq id 0 0 d := by
  have hall : (subsOf d x.arg).all (fun lp => (sub d lp).state == .service) = true :=
    List.all_eq_true.2 fun lp hlp => by rw [hup lp hlp]; rfl
  unfold seqWait
  rw [h]
  dsimp only
  rw [if_neg hstep, hk]
  exact if_pos hall

variable {f : RxFrame} {w : Furrow} {b : Bytes} {d1 : Dev}

theorem copyReqReceive_served (hfirst : firstRx d (fun f => f.code == 0xFC && rxOp f == 0xC && fCode f == 0x10) = some f)
    (hfurrow : furrowFrom d (fCid f) f.dst = some w) (hgen : w.gen = fGen f) (hdst : w.dst = f.src) (hmgmt : mgmtEid d = some f.dst)
    (hsome : slotsIn f.data ≠ []) (hslots : ∀ k ∈ slotsIn f.data, (tget d.adp.slots k).isSome = true)
    (hread : readSlots (slotsIn f.data) (copyHeader (newestHolding d (slotsIn f.data))) d = (.ok ([], b), d1)) :
    copyReqReceive d = sendImage (fCid f) f.dst f.src (beAt f.hdr 22 4) 0 b (2 ^ 40) (takeRx f d1) := by
  have hthere : (slotsIn f.data).any (fun k => (tget d.adp.slots k).isNone) = false := by
    refine List.any_eq_false.2 fun k hk => ?_
    simpa [Option.isNone_iff_eq_none, Option.isSome_iff_ne_none] using hslots k hk
  unfold copyReqReceive
  rw [hfirst]
  dsimp only
  rw [hfurrow, if_neg (by simp [hgen, hdst, hmgmt, hsome, hthere]), hread]

theorem copyFrameReceive_written (hfirst : firstRx d (fun f => f.code == 0xFC && rxOp f == 0 && f.accepted && beAt f.hdr 22 4 == 0) = some f)
    (hfind : d.hlt.seqs.find? (fun x => x.kind == 6 && x.id == fCid f && x.step == 3 && x.srcEid == f.src) = some x)
    (hfurrow : fromFurrow d f = true) (hseq : seqTest d f.src f.dst (rxSeq f) = .accept) (hcrc : crc32c f.data = beAt f.hdr 26 4)
    (hpos : 32768 * beAt f.hdr 18 4 = x.got.length) (hb : b = x.got ++ f.data.take (f.data.length - beAt f.hdr 16 2))
    (hwrite : copyWrite b x.got.length (modSeq x.id (fun y => { y with got := b }) (modSeq x.id (fun y => { y with since := d.clk.swc.toNat })
      (seqAccept f.src f.dst (rxSeq f) (takeRx f d)))) = (0, d1)) :
    copyFrameReceive d = if (beAt f.hdr 30 2).testBit 0 then copyLast x b d1 else d1 := by
  have hclk : (seqAccept f.src f.dst (rxSeq f) (takeRx f d)).clk = d.clk := rfl
  unfold copyFrameReceive
  rw [hfirst]
  dsimp only
  rw [hfind]
  dsimp only
  rw [hfurrow, if_neg (by decide), takeSequenced_accept hseq]
  dsimp only
  rw [if_neg (not_not.2 hcrc), if_neg (not_not.2 hpos), ← hb, hclk, hwrite]
  rfl

/-- A COPY whose source is lost, where it is not the only one (R412). -/
theorem copyLost_others (h : x.sole = false) : copyLost x d = finishSeq x.id 7 0 d := by
  unfold copyLost
  rw [h]
  rfl

theorem copySilence_due (h : findSeq d id = some x) (hk : x.kind = 6) (hstep : x.step = 3) (hsole : x.sole = false)
    (hdue : x.silence < swathsSince d x.since) : copySilence id d = finishSeq id 7 0 d := by
  unfold copySilence
  rw [h]
  refine (if_pos ⟨hk, hstep, hdue⟩).trans ?_
  rw [copyLost_others hsole, findSeq_id h]

theorem mgmtNotice_lost (hfirst : firstRx d (fun f => f.code == 0xFC && rxOp f == 0xA) = some f)
    (hst : beAt f.hdr 26 2 % 256 = 4 ∨ beAt f.hdr 26 2 % 256 = 7)
    (hseqs : d.hlt.seqs.filter (fun x => x.kind == 6 && x.step == 3
      && (x.srcEid == f.src || (x.furrow.1 == fCid f && x.id == beAt f.hdr 22 4))) = [x]) (hsole : x.sole = false) :
    mgmtNotice d = finishSeq x.id 7 0 (takeRx f d) := by
  have hhlt : (takeRx f d).hlt = d.hlt := rfl
  unfold mgmtNotice
  rw [hfirst]
  dsimp only
  rw [if_neg (fun hx => hst.elim hx.1 hx.2), hhlt, hseqs]
  exact copyLost_others hsole

end

end Sys2Proof.Machine
open Sys2Proof Sys2Proof.Machine

/-- Settles O59: RECOVER of each kind begun or tried again, the end of a PORT wait, and what a COPY meets at either end. -/
theorem recoverySequences : Obligations.RecoverySequences := by
  intro s hp
  refine ⟨fun q e a x z y ho hm hplain hid hnew hfree hseq hroom hz hheld hrun => ?_, fun id x hfind hstep hk hup => ?_,
    fun f w b d hfirst hfurrow hgen hdst hmgmt hsome hslots hread => ?_, fun f x b d hfirst hfind hfurrow hseq hcrc hpos hb hwrite => ?_,
    fun id x hfind hk hstep hsole hdue => ?_, fun f x hfirst hst hseqs hsole => ?_⟩
  · subst hz
    have hcmd : cmdRecover (sqCmd q e) e a = .run y := cmdRecover_starts hplain hid hnew hfree hseq hroom hheld hrun
    refine ⟨fun hb => ⟨fun hk => ?_, fun hk => ?_, fun hk => ?_, fun hk => ?_, fun hk => ?_, fun hk => ?_, fun hk => ?_⟩, fun hr => ?_⟩
    · exact exec_settle (c := .recoverPort q e) rfl (rowOperands_ok hb) hp (recoverRow_run hb ho hm hk hcmd)
    · exact exec_settle (c := .recoverForge q e) rfl (rowOperands_ok hb) hp (recoverRow_run hb ho hm hk hcmd)
    · exact exec_settle (c := .recoverBank q e) rfl (rowOperands_ok hb) hp (recoverRow_run hb ho hm hk hcmd)
    · exact exec_settle (c := .recoverUnit q e) rfl (rowOperands_ok hb) hp (recoverRow_run hb ho hm hk hcmd)
    · exact exec_settle (c := .recoverRestore q e) rfl (rowOperands_ok hb) hp (recoverRow_run hb ho hm hk hcmd)
    · exact exec_settle (c := .recoverCopy q e) rfl (rowOperands_ok hb) hp (recoverRow_run hb ho hm hk hcmd)
    · exact exec_settle (c := .recoverRejoin q e) rfl (rowOperands_ok hb) hp (recoverRow_run hb ho hm hk hcmd)
    · refine exec_settle (c := .recoverStartRetry q) rfl rfl hp ?_
      rw [retryEntry_runs hr (by simp [isOp, ho]) (f := cmdRecover) (by rw [ho, hm]; rfl), hcmd]
  · exact exec_settle (c := .recoveryWaitSatisfied id) rfl rfl hp (seqWait_port hfind hstep hk hup)
  · exact exec_settle (c := .copyReqReceive) rfl rfl hp (copyReqReceive_served hfirst hfurrow hgen hdst hmgmt hsome hslots hread)
  · exact exec_settle (c := .copyFrameReceive) rfl rfl hp (copyFrameReceive_written hfirst hfind hfurrow hseq hcrc hpos hb hwrite)
  · exact exec_settle (c := .copySilenceTimeout id) rfl rfl hp (copySilence_due hfind hk hstep hsole hdue)
  · exact exec_settle (c := .mgmtNoticeReceive) rfl rfl hp (mgmtNotice_lost hfirst hst hseqs hsole)

end

section
/-! SUPPORT. Counters, windows, samples and in-band requests (R166, R456 to R458, R460, R461, R463 to R466). -/

set_option Elab.async false

namespace Sys2Proof.Machine

open Sys2Proof

section
variable {d : Dev}

/-! ### A counter's wrap -/

/-- The wrap of a counter whose message is off sets its bit and nothing more (R456). -/
theorem counterWrap_silent {b n : Nat} {w : Nat × Nat × Option (Nat × Nat × Nat)} (hn : n < 8)
    (hfind : d.tel.wraps.find? (fun w => w.1 == b && w.2.1 == n) = some w) (hoff : flag d (oPmon b + 0x80 + 8 * n) 13 = false) :
    counterWrap b n d = setEvt (oPmon b + 0x10) n (modTel (fun t => { t with wraps := t.wraps.erase w }) d) := by
  have hstay : flag (setEvt (oPmon b + 0x10) n (modTel (fun t => { t with wraps := t.wraps.erase w }) d)) (oPmon b + 0x80 + 8 * n) 13
      = false := (flag_putFld_ne (by omega) _ _ _ _ _).trans hoff
  unfold counterWrap
  rw [hfind]
  dsimp only
  rw [hstay, Bool.false_and, Bool.not_false, if_pos rfl, hstay, Bool.not_false, Bool.or_true, Bool.true_or, if_pos rfl]

/-! ### The end of a window -/

theorem nodup_allSubs (d : Dev) : (allSubs d).Nodup := by
  unfold allSubs subsOf
  refine List.nodup_flatMap.2 ⟨fun p _ => List.Nodup.map (fun i j h => Nat.add_left_cancel h) List.nodup_range, ?_⟩
  refine List.nodup_range.imp_of_mem fun {p p'} _ _ hne lp hp hp' => hne ?_
  have hlen : ∀ q, 2 ^ min (breakout d (4 * q)) 2 ≤ 4 := fun q => Nat.pow_le_pow_right Nat.two_pos (Nat.min_le_right _ 2)
  obtain ⟨i, hi, rfl⟩ := List.mem_map.1 hp
  obtain ⟨j, hj, heq⟩ := List.mem_map.1 hp'
  have hi' := (List.mem_range.1 hi).trans_le (hlen p)
  have hj' := (List.mem_range.1 hj).trans_le (hlen p')
  omega

theorem sub_each_modSub_mem {f : SubPort → SubPort} {l : List Nat} (hl : l.Nodup) {lp : Nat} (h : lp ∈ l) (d : Dev) :
    sub (each l (fun a d => modSub a f d) d) lp = f (sub d lp) := by
  induction l generalizing d with
  | nil => exact nomatch h
  | cons a t ih =>
    obtain ⟨hnew, ht⟩ := List.nodup_cons.1 hl
    show sub (each t (fun a d => modSub a f d) (modSub a f d)) lp = f (sub d lp)
    rcases List.mem_cons.1 h with rfl | hmem
    · rw [sub_each_modSub_not_mem hnew, sub_modSub_self]
    · have hne : a ≠ lp := fun heq => hnew (heq ▸ hmem)
      rw [ih ht hmem, sub_modSub_ne _ _ _ _ hne]

/-- A window's bytes of a sub-port, published with its index (R458). -/
def publishedAt (i : Nat) (p : SubPort) : SubPort := { p with published := (p.bytes.1 % 2 ^ 40, p.bytes.2 % 2 ^ 40, i), bytes := (0, 0) }

theorem sub_windowPublish {lp : Nat} (hdue : windowDue d = true) (h : lp ∈ allSubs d) :
    sub (windowPublish d) lp = publishedAt ((d.clk.swc.toNat / d.clk.bwWin - 1) % 2 ^ 24) (sub d lp) := by
  unfold windowPublish
  rw [hdue]
  exact sub_each_modSub_mem (f := publishedAt _) (nodup_allSubs _) h (modTel (fun t => { t with once := (30, 0) :: t.once }) d)

/-! ### Samples -/

/-- Counting writes no register but the block's counters. -/
theorem rg_count_ne {b off : Nat} (h : ∀ i < 8, oPmon b + 0x40 + 8 * i ≠ off) (ev n : Nat) (a : Attr) (d : Dev) :
    rg (count b ev n a d) off = rg d off := by
  refine each_fixes (v := fun d => rg d off) _ (fun i hi d => ?_) d
  have hput : ∀ v, rg (putReg (oPmon b + 0x40 + 8 * i) v d) off = rg d off := fun v =>
    rg_putReg_ne _ _ _ _ (h i (List.mem_range.1 hi))
  dsimp only
  split
  · split
    · exact hput _
    · exact hput _
  · rfl

/-- A record kept changes no register of the sampler. -/
theorem rg_keepRecord {off : Nat} (h : 0x580000 ≤ off) (r : Bytes) (lp : Nat) (d : Dev) : rg (keepRecord r lp d) off = rg d off := by
  unfold keepRecord
  split
  · exact rg_count_ne (b := 20) (fun i hi => by unfold oPmon; omega) 3 1 _ d
  · rfl

/-- The oldest sample whose cell is still there becomes a record, mirrored where its port says so (R166, R460, R461). -/
theorem samplerRead_record {x : Sample} {rest : List Sample} {b : Buf} (hs : d.sw.samples = x :: rest) (hb : buf d x.buf = some b) :
    samplerRead d = dropRef x.buf (if flag d (0x580000 + 4 * x.lp) 16
      then mirrorRecord (smpRecord x b) x.lp (keepRecord (smpRecord x b) x.lp (modSw (fun w => { w with samples := rest }) d))
      else keepRecord (smpRecord x b) x.lp (modSw (fun w => { w with samples := rest }) d)) := by
  have hbuf : buf (modSw (fun w => { w with samples := rest }) d) x.buf = some b := hb
  have hflag : flag (keepRecord (smpRecord x b) x.lp (modSw (fun w => { w with samples := rest }) d)) (0x580000 + 4 * x.lp) 16
      = flag d (0x580000 + 4 * x.lp) 16 :=
    congrArg (fun v => v.testBit 16) (rg_keepRecord (Nat.le_add_right _ _) _ _ _)
  unfold samplerRead
  rw [hs]
  dsimp only
  rw [hbuf]
  dsimp only
  rw [hflag]
  rfl

/-! ### In-band requests -/

/-- The first request of a code, its return path well formed, is taken and served (R463). -/
theorem serve_first {code : Nat} {f : RxFrame} {go : RxFrame → Dev → Dev} (hfirst : firstMgmt d code = some f) (hpath : pathOk f = true) :
    serve code go d = go f (takeRx f d) := by
  unfold serve
  rw [hfirst]
  exact if_pos hpath

section
variable {f : RxFrame} {b : Bytes} {d1 : Dev} {w : Nat}

/-- Bit 0 of a request's argument. -/
theorem mgmtArg_bit (f : RxFrame) : (mgmtArg f).testBit 0 = (beAt f.hdr 18 4).testBit 0 := by
  unfold mgmtArg
  rw [Nat.testBit_mod_two_pow]
  rfl

theorem mgmtArg_count (f : RxFrame) : mgmtArg f % 64 = beAt f.hdr 18 4 % 64 :=
  Nat.mod_mod_of_dvd _ (by decide)

theorem mgmtRead_bytes (h : readBytes (beAt f.hdr 12 4) (if (beAt f.hdr 18 4).testBit 0 then 8 else 4) d = (b, d1)) :
    mgmtRead f d = answer f.src (mgmtNo f) (mgmtRet f) 0x20 0 (fit b 8) d1 := by
  unfold mgmtRead
  rw [mgmtArg_bit, show mgmtOff f = beAt f.hdr 12 4 from rfl, h]

theorem mgmtWrite_open (hw : w = if (beAt f.hdr 18 4).testBit 0 then 8 else 4)
    (hopen : hosted d = false ∨ (0x540000 ≤ beAt f.hdr 12 4 ∧ beAt f.hdr 12 4 < 0x5C0000)) :
    mgmtWrite f d = answer f.src (mgmtNo f) (mgmtRet f) 0x21 0 [] (writeBytes true (beAt f.hdr 12 4) (slice f.data 20 w) d) := by
  unfold mgmtWrite
  rw [mgmtArg_bit, ← hw]
  refine if_neg ?_
  rcases hopen with h | ⟨hlo, hhi⟩
  · simp [h]
  · simp [mgmtOff, hlo, hhi]

theorem mgmtWrite_busy (hhost : hosted d = true) (hout : beAt f.hdr 12 4 < 0x540000 ∨ 0x5C0000 ≤ beAt f.hdr 12 4) :
    mgmtWrite f d = answer f.src (mgmtNo f) (mgmtRet f) 0x21 2 [] d := by
  unfold mgmtWrite
  refine if_pos ?_
  rcases hout with h | h
  · simp [mgmtOff, hhost, Nat.not_le.2 h]
  · simp [mgmtOff, hhost, Nat.not_lt.2 h]

/-- A CMD joins the queue of its source (R465). -/
theorem mgmtCmd_joins (hroom : (tgetD d.tel.queues f.src []).length < 16) : mgmtCmd f d
      = modTel (fun t => { t with queues := tput t.queues f.src (tgetD d.tel.queues f.src [] ++ [{
          cmd := { chan := .inband f.src, tag := tagOf (slice f.data 20 64), reqNo := mgmtNo f, ret := mgmtRet f, att := f.data.drop 84 },
          desc := slice f.data 20 64, slow := false }]) }) d := if_neg (Nat.not_le.2 hroom)

theorem mgmtSamples_some {l : List Bytes} (hn : beAt f.hdr 18 4 % 64 ≠ 0)
    (hl : l = (d.tel.ring.drop d.tel.read).take (beAt f.hdr 18 4 % 64)) : mgmtSamples f d
      = answer f.src (mgmtNo f) (mgmtRet f) 0x23 0 l.flatten (modTel (fun t => { t with read := t.read + l.length }) d) := by
  unfold mgmtSamples
  rw [mgmtArg_count, hl]
  exact if_neg hn

end

/-! ### The debug window -/

section
variable {a k : Nat}

/-- FLM within its size, the window open to it (R466). -/
theorem dbgMem_flm (hspace : fld d 0x5C0000 0 3 = 1) (hk : k = fld d 0x5C0000 3 4) : dbgMem d = some ((forge d k).flm, flmSize) := by
  unfold dbgMem
  rw [hspace, hk]
  rfl

theorem dbgGranted_flm (hscope : d.boot.scope.toNat.testBit 1 = true) (hspace : fld d 0x5C0000 0 3 = 1) : dbgGranted d = true := by
  unfold dbgGranted
  rw [hspace]
  exact hscope

/-- The address that follows an access within FLM. -/
theorem flm_next (hin : a + 8 ≤ flmSize) : (a + 8) % 2 ^ 32 = a + 8 :=
  Nat.mod_eq_of_lt (hin.trans_lt (by decide))

theorem dbgAccess_read (hscope : d.boot.scope.toNat.testBit 1 = true) (hspace : fld d 0x5C0000 0 3 = 1) (hk : k = fld d 0x5C0000 3 4)
    (ha : a = fld d 0x5C0000 8 32) (hin : a + 8 ≤ flmSize) : dbgAccess none d
      = markDevice 0x5C0000 (putFld 0x5C0000 8 32 (a + 8) (putReg 0x5C0008 (leNat (memReadN (forge d k).flm a 8)) d)) := by
  unfold dbgAccess
  dsimp only
  rw [dbgGranted_flm hscope hspace, ← ha, if_neg (by decide), dbgMem_flm hspace hk, flm_next hin]
  dsimp only
  rw [if_pos (decide_eq_true hin)]

/-- The memory of the window's target with new bytes. -/
def dbgStored (y : Memory) (d : Dev) : Dev :=
  match fld d 0x5C0000 0 3 with
  | 0 => modTel (fun t => { t with mgmt := y }) d
  | 1 => modForge (fld d 0x5C0000 3 4) (fun g => { g with flm := y }) d
  | _ => modForge (fld d 0x5C0000 3 4) (fun g => { g with side := y }) d

theorem dbgStored_flm (hspace : fld d 0x5C0000 0 3 = 1) (hk : k = fld d 0x5C0000 3 4) (y : Memory) :
    dbgStored y d = modForge k (fun g => { g with flm := y }) d := by
  unfold dbgStored
  rw [hspace, hk]
  rfl

theorem dbgAccess_stores {m : Memory} {n : Nat} (v : Nat) (hgrant : dbgGranted d = true) (hmem : dbgMem d = some (m, n))
    (hin : fld d 0x5C0000 8 32 + 8 ≤ n) : dbgAccess (some v) d
      = markDevice 0x5C0000 (putFld 0x5C0000 8 32 ((fld d 0x5C0000 8 32 + 8) % 2 ^ 32) (putReg 0x5C0008 v
          (dbgStored (memWriteN m (fld d 0x5C0000 8 32) (toLE 8 v)) d))) := by
  unfold dbgAccess
  dsimp only
  rw [hgrant, if_neg (by decide), hmem]
  dsimp only
  rw [if_pos (decide_eq_true hin)]
  rfl

theorem dbgAccess_write (v : Nat) (hscope : d.boot.scope.toNat.testBit 1 = true) (hspace : fld d 0x5C0000 0 3 = 1)
    (hk : k = fld d 0x5C0000 3 4) (ha : a = fld d 0x5C0000 8 32) (hin : a + 8 ≤ flmSize) : dbgAccess (some v) d
      = markDevice 0x5C0000 (putFld 0x5C0000 8 32 (a + 8) (putReg 0x5C0008 v
          (modForge k (fun g => { g with flm := memWriteN g.flm a (toLE 8 v) }) d))) := by
  subst ha
  rw [dbgAccess_stores v (dbgGranted_flm hscope hspace) (dbgMem_flm hspace hk) hin, dbgStored_flm hspace hk, flm_next hin]
  refine congrArg (fun x => markDevice 0x5C0000 (putFld 0x5C0000 8 32 (fld d 0x5C0000 8 32 + 8) (putReg 0x5C0008 v x))) ?_
  exact modForge_congr rfl

end

end

end Sys2Proof.Machine
open Sys2Proof Sys2Proof.Machine

/-- Settles O60: a counter's wrap, the end of a window, a sample, the four in-band requests and the debug window. -/
theorem telemetry : Obligations.Telemetry := by
  intro s hp
  refine ⟨fun b n w hlo hhi hn hfind hoff => ?_, fun hdue => ?_, fun x rest b hs hb => ?_, fun f b d hfirst hpath hread => ?_,
    fun f w hfirst hpath hw => ⟨fun hopen => ?_, fun hhost hout => ?_⟩, fun f l hfirst hpath hl hroom => ?_,
    fun f l hfirst hpath hn hl => ?_, fun a k hrec hscope hspace hk ha hin => ⟨?_, fun v => ?_⟩⟩
  · exact exec_settle (c := .counterWrap b n) rfl (by simp [wellFormed, hlo, hhi, hn]) hp (counterWrap_silent hn hfind hoff)
  · refine ⟨windowPublish s.dev, exec_settle (c := .bwWindowEnd) rfl rfl hp rfl, fun lp hlp => ?_⟩
    rw [sub_windowPublish hdue hlp]
    exact ⟨rfl, rfl⟩
  · exact exec_settle (c := .samplerRead) rfl rfl hp (samplerRead_record hs hb)
  · exact exec_settle (c := .regRead) rfl rfl hp ((serve_first hfirst hpath).trans (mgmtRead_bytes hread))
  · exact exec_settle (c := .regWrite) rfl rfl hp ((serve_first hfirst hpath).trans (mgmtWrite_open hw hopen))
  · exact exec_settle (c := .regWrite) rfl rfl hp ((serve_first hfirst hpath).trans (mgmtWrite_busy hhost hout))
  · subst hl
    exact exec_settle (c := .cmd) rfl rfl hp ((serve_first hfirst hpath).trans (mgmtCmd_joins (d := takeRx f s.dev) hroom))
  · exact exec_settle (c := .sampleRead) rfl rfl hp ((serve_first hfirst hpath).trans (mgmtSamples_some (d := takeRx f s.dev) hn hl))
  · exact exec_settle (c := .dbgWinAccess none) rfl rfl hp
      ((if_neg (by rw [hrec]; decide)).trans (dbgAccess_read hscope hspace hk ha hin))
  · exact exec_settle (c := .dbgWinAccess (some v)) rfl rfl hp
      ((if_neg (by rw [hrec]; decide)).trans (dbgAccess_write v.toNat hscope hspace hk ha hin))

end
